-- ==== Sys2Proof/Word.lean ====
section
/-! DEFINITION. The word types of the FBA-2048 model: the widths the manual gives to registers, bytes, addresses and vector words. -/

namespace Sys2Proof

/-- One byte of memory. -/
abbrev Byte := BitVec 8

/-- A half word: status codes (R11) and 16-bit fields. -/
abbrev Half := BitVec 16

/-- A 32-bit word: a 4-byte register, an FP32 pattern, a short time (R39). -/
abbrev Word := BitVec 32

/-- A 64-bit word: an 8-byte register or a device time in nanoseconds (R34). -/
abbrev Dword := BitVec 64

/-- A 64-byte word of the fabric: scratchpad word, flit, accumulator row, vector register (R111, R135). -/
abbrev Line := BitVec 512

/-- A status code: class in the high byte, reason in the low byte (R11). -/
abbrev Status := BitVec 16

end Sys2Proof
end

