-- ==== Sys2Proof/Machine/Objects.lean ====
section
/-! DEFINITION. The objects that commands carry and tables hold: wheel entries, handoff descriptors, stripes, access entries, handles, images, frames, boot objects. Each structure's docstring names the rule whose field table it follows. -/

namespace Sys2Proof

/-- The kind of an access (R341: rights R, W and X). -/
inductive AccessKind where
  | read | write | fetch
deriving DecidableEq, Repr, Inhabited

/-- A wheel entry, fields of the table of R52. -/
structure WheelEntry where
  offset : Nat := 0
  action : Nat := 0
  unit   : Nat := 0
  index  : Nat := 0
  arg    : Nat := 0
  arg2   : Nat := 0
  safety : Bool := false
deriving DecidableEq, Repr, Inhabited

/-- A handoff descriptor, fields of the table of R58. -/
structure HoDesc where
  srcBase   : Nat := 0
  producer  : Nat := 0
  slotBytes : Nat := 0
  dstKind   : Nat := 0
  dstUnit   : Nat := 0
  dstIndex  : Nat := 0
  linkMask  : Nat := 0
  lanes     : Nat := 0
  consumer  : Nat := 0
deriving DecidableEq, Repr, Inhabited

/-- A stripe of a landing list (R58, R365). -/
structure Stripe where
  tile   : Nat := 0
  offset : Nat := 0
  length : Nat := 0
deriving DecidableEq, Repr, Inhabited

/-- An access table entry, fields of the table of R341. -/
structure AccEntry where
  master : Nat := 0
  mask   : Nat := 0
  r      : Bool := false
  w      : Bool := false
  x      : Bool := false
  valid  : Bool := false
  base   : Nat := 0
  limit  : Nat := 0
deriving DecidableEq, Repr, Inhabited

/-- A scratchpad handle, fields of the table of R114 (`rows` and `cols` as stored, minus 1). -/
structure Handle where
  base      : Nat := 0
  rows      : Nat := 0
  cols      : Nat := 0
  stride    : Nat := 0
  cls       : Nat := 0
  partition : Nat := 0
  owner     : Nat := 0
deriving DecidableEq, Repr, Inhabited

/-- A loop-table entry: maximum count and body length in cycles (R81, R82). -/
structure LoopEntry where
  max  : Nat := 0
  body : Nat := 0
deriving DecidableEq, Repr, Inhabited

/-- One dimension of an address-generator walk: a count of 1 to 65,535 and a signed stride in words (R76). -/
structure AgDim where
  count  : Nat := 1
  stride : Int := 0
deriving DecidableEq, Repr, Inhabited

/-- What an address-generator context names beside its walk: the operand formats of R164 and the first element of an activation
row within the words at its address, the E8M0 scale bytes of R157 (handle, first byte, bytes from row to row; handle and first
byte of a column's weight scale), the convolution of R196 with its group, weight block, first output channel and first output
position, the mark of a pass's first word (R175), and the outlier lane of R181: its list, its group, the handles of values and
weights, and whether the block is the group's last. -/
structure AgExtra where
  aFmt      : Nat := 5
  wFmt      : Nat := 5
  elem      : Nat := 0
  aScaleH   : Nat := 0
  aScaleOff : Nat := 0
  aScaleBy  : Nat := 0
  wScaleH   : Nat := 0
  wScaleOff : Nat := 0
  conv      : Option Nat := none
  group     : Nat := 0
  block     : Nat := 0
  outCh     : Nat := 0
  position  : Nat := 0
  first     : Bool := false
  outlier   : Bool := false
  last      : Bool := false
  oListH    : Nat := 0
  oGroup    : Nat := 0
  oValH     : Nat := 0
  oWgtH     : Nat := 0
deriving DecidableEq, Repr, Inhabited

/-- An address-generator context (R76): a handle, a start word in it, up to 4 dimensions, innermost first, and the number of
addresses already produced. -/
structure AgCtx where
  handle : Nat := 0
  start  : Nat := 0
  dims   : List AgDim := []
  extra  : AgExtra := {}
  step   : Nat := 0
deriving DecidableEq, Repr, Inhabited

/-- How a tile instruction is issued: the tile, the job cycle on which it issues (R105), the index of its word in the
instruction-buffer half, the check flags of R453 that the tile's checkers raise while it runs, and the bit errors in the first
scratchpad word it reads (R134); the last two are zero on working hardware. -/
structure TCtl where
  tile : Nat := 0
  cyc  : Nat := 0
  word : Nat := 0
  chk  : BitVec 5 := 0#5
  errs : Nat := 0
deriving DecidableEq, Repr, Inhabited

/-- Where an operation takes or leaves its 64-byte words (R74: accumulator rows are sources too). -/
inductive Place where
  | pad (handle : Nat) (offset : Nat)
  | acc (row : Nat)
deriving DecidableEq, Repr, Inhabited

/-- The two forms of a scratchpad access (R112): one word between the context's address and a vector register, or one row or
column of a panel. -/
inductive SpadForm where
  | word (vreg : Nat)
  | row (panel : Nat) (index : Nat)
  | column (panel : Nat) (index : Nat)
deriving DecidableEq, Repr, Inhabited

/-- The classes of event inside a tile (R78). -/
inductive EventClass where
  | weights | dma | vector | flits
deriving DecidableEq, Repr, Inhabited

/-- The event a `WAIT` names (R78, R331): a count of an internal event, a semaphore, or a link credit. -/
inductive WaitEvent where
  | internal (cls : EventClass) (count : Nat)
  | semaphore (index : Nat)
  | credit (index : Nat)
deriving DecidableEq, Repr, Inhabited

/-- A handle recorded in an image: the entry and the relative tile it belongs to (R114, R320). -/
structure ImageHandle where
  tile   : Nat := 0
  index  : Nat := 0
  handle : Handle := {}
deriving DecidableEq, Repr, Inhabited

/-- A Sniette image as the table under "Images and job descriptors" (R319) and the load checks of R368 see it. `formatOk` says
that its structure and checksum are valid; the manual gives no byte layout of an image. -/
structure Image where
  formatOk   : Bool := true
  tileCount  : Nat := 0
  rsCode     : Nat := 0
  width      : Nat := 1
  height     : Nat := 1
  xcut       : Nat := 0
  ycut       : Nat := 0
  energy     : Nat := 0
  wsp        : Nat := 0
  quiesce    : Nat := 0
  footLo     : Nat := 0
  footHi     : Nat := 0
  cycles     : List Nat := []
  handles    : List ImageHandle := []
  loops      : List LoopEntry := []
  formats    : List Nat := []
  pairs      : List (Nat × Nat × Bool) := []
  qdescs     : List (BitVec 64) := []
  convs      : List (BitVec 256) := []
  atts       : List (BitVec 128) := []
  outliers   : List (List (BitVec 16)) := []
  semaphores : List Nat := []
  credits    : List Nat := []
  reportMask : BitVec 7 := 0#7
  hash       : BitVec 64 := 0#64
  address    : Nat := 0
  bytes      : Nat := 0
  digest     : BitVec 384 := 0#384
deriving DecidableEq, Repr, Inhabited

/-- An Ethernet frame as the switch reads it (R386, R387, R390, R391, R397): its addresses, VLAN and identified stream, the check
of its FCS, its bytes without the FCS, whether it is a PTP message, the offset of a Sync's PTP header and of its UDP checksum
(true when a zero one stays zero), the receive stamp of a relayed frame in units of 2^-16 ns, the descriptor to hand back
when it has left, and its traffic class where the unit that queues it gives one. -/
structure EthFrame where
  dmac   : Nat := 0
  vlan   : Nat := 0
  stream : Option Nat := none
  ptp    : Bool := false
  fcsOk  : Bool := true
  bytes  : List Byte := []
  sync   : Option Nat := none
  udp    : Option (Nat × Bool) := none
  rx     : Option Nat := none
  back   : Option Nat := none
  cls    : Option Nat := none
deriving DecidableEq, Repr, Inhabited

/-- A mailbox request frame (R399) with the outcome of its AES-256-GCM check. -/
structure MbFrame where
  binding : Nat := 0
  bound   : Bool := true
  tagOk   : Bool := true
  mailbox : Nat := 0
  seq     : Word := 0#32
  startId : Word := 0#32
  buffer  : List Byte := []
deriving DecidableEq, Repr, Inhabited

/-- A CAN frame on the bus (R402, R407). -/
structure CanFrame where
  id   : Nat := 0
  xl   : Bool := false
  fd   : Bool := false
  data : List Byte := []
deriving DecidableEq, Repr, Inhabited

/-- A hello of one device (discovery, R425, R426). -/
structure Hello where
  fp       : Nat := 0
  port     : Nat := 0
  req      : Nat := 255
  timeCap  : Bool := false
  nbrs     : List (Nat × Nat) := []
deriving DecidableEq, Repr, Inhabited

/-- One routing-table entry of a discovery result (R428, R440). -/
structure Route where
  table   : Nat := 0
  node    : Nat := 0
  primary : Nat := 0
  alt     : Nat := 7
  hops    : Nat := 0
  loc     : Bool := false
deriving DecidableEq, Repr, Inhabited

/-- A discovery result as the root sends it to one device (R429): its number, whether it is root and time root, the port it takes time
from, whether no device is time-capable, the members, and its routing tables. -/
structure DiscResult where
  node     : Nat := 0
  root     : Bool := false
  timeRoot : Bool := false
  timePort : Nat := 7
  noRoot   : Bool := false
  members  : List Nat := []
  routes   : List Route := []
deriving DecidableEq, Repr, Inhabited

/-- A Bamset packet (R421, R430, R432): its sender's epoch, destination and source node, whether it was resent (R424), how many of its
codewords were corrected, and the access it carries: its number at the sender, a read or a write, address, bytes; or the completion of
access `id` with its status and data; `poison` is the poison of the data. -/
structure BamPacket where
  epoch   : Nat := 0
  dest    : Nat := 0
  source  : Nat := 0
  retried : Bool := false
  id      : Nat := 0
  comp    : Option Status := none
  write   : Bool := false
  addr    : Nat := 0
  data    : List Byte := []
  len     : Nat := 0
  fec     : Nat := 0
  poison  : Bool := false
deriving DecidableEq, Repr, Inhabited

/-- A twin partner's commit record (R439). -/
structure PartnerRec where
  stream   : Nat := 0
  frameSeq : Word := 0#32
  crc      : Word := 0#32
  flags    : BitVec 5 := 0#5
  hash     : Word := 0#32
  short    : Word := 0#32
deriving DecidableEq, Repr, Inhabited

/-- A flash object of one slot as R533 and R540 see it: its type, whether its header, digest and signatures hold (R533), whether its `BIND`
names this device, its header fields, and for a host payload its body and load address. -/
structure BootObj where
  typ     : Nat := 0
  sigOk   : Bool := true
  bound   : Bool := false
  version : Nat := 0
  build   : Nat := 0
  token   : Nat := 0
  svn     : Nat := 0
  compat  : List (Nat × Nat) := []
  bodyHash : BitVec 384 := 0#384
  load    : Nat := 0
  body    : List Byte := []
deriving DecidableEq, Repr, Inhabited

/-- The fields of an owner manifest body (R543). -/
structure Manifest where
  ownerHash   : BitVec 384 := 0#384
  cosign      : Bool := false
  payloadReq  : Bool := false
  rpmbInit    : Bool := false
  bound       : Bool := true
  bindNamed   : Bool := false
  members     : List Nat := []
  mb0Owner    : Nat := 0
  mb0Mask     : Nat := 0
  keepBase    : Nat := 0
  keepSize    : Nat := 0
  attBase     : Nat := 0
  attSize     : Nat := 0
  lockstep    : Nat := 0
  ssc         : Nat := 0
  confirmMs   : Nat := 0
deriving DecidableEq, Repr, Inhabited

/-- The body of a part record (R542). -/
structure PartRecord where
  grade     : Nat := 0
  stepping  : Nat := 0
  unitMask  : Nat := 0
  camMask   : Nat := 0
  bamMask   : Nat := 0
  ethMask   : Nat := 0
  oosMask   : Nat := 0
  revoked   : Nat := 0
  vendorRoot : Nat := 0
deriving DecidableEq, Repr, Inhabited

/-- One slot of the flash (R531, R534): whether its directory reads well, and its objects. -/
structure FlashSlot where
  readable : Bool := true
  dirOk    : Bool := true
  objs     : List BootObj := []
  part     : PartRecord := {}
  manifest : Manifest := {}
deriving DecidableEq, Repr, Inhabited

/-- Everything a start finds outside the device and in its silicon (R531 to R545, R472, R93): the preferred slot of the boot control
blocks, the PUF, the fingerprint and SHA-384 of the identity keys, both slots, the stepping and the boot ROM with their tokens, the SVN and
key slots of a good owner key blob, the Ethernet straps, and the outcome of start-time self-test: failed tiles as die, row and physical column,
failed crossing links as die, southward or eastward, and index, failed checkers of the other classes as class and instance, and the
largest crossing delay of each die. -/
structure BootEnv where
  preferB     : Bool := false
  pufOk       : Bool := true
  fingerprint : Nat := 0
  keysHash    : BitVec 384 := 0#384
  slotA       : FlashSlot := {}
  slotB       : FlashSlot := {}
  silicon     : Nat := 0
  romVersion  : Nat := 0
  romBuild    : Nat := 0
  romToken    : Nat := 0
  siliconToken : Nat := 0
  keyBlob     : Option (Nat × List Nat) := none
  ethStrap    : Nat := 0
  failTiles   : List (Nat × Nat × Nat) := []
  failXlinks  : List (Nat × Bool × Nat) := []
  tileClasses : BitVec 8 := 0#8
  failCheckers : List (Nat × Nat) := []
  maxDelay    : List (Nat × Nat) := []
deriving DecidableEq, Repr, Inhabited

/-- The rollback block an eMMC answers with (R544, R545). -/
structure RpmbBlock where
  authentic  : Bool := true
  programmed : Bool := true
  counters   : List Nat := []
  rootMask   : Nat := 0
deriving DecidableEq, Repr, Inhabited

/-- A single-event upset found by a TMR sweep (R148): the word, and what differs in each of its three copies. -/
structure Upset where
  reg : Nat := 0
  d0  : Dword := 0#64
  d1  : Dword := 0#64
  d2  : Dword := 0#64
deriving DecidableEq, Repr, Inhabited

end Sys2Proof
end

