-- ==== Sys2Proof/Syntax.lean ====
section
/-! DEFINITION. The commands the block takes: one constructor per row of the manual's table of operations and events. The table gives no operand fields, so the operands are what the row's rule says the command carries (log entry 1). -/

namespace Sys2Proof

/-- A command or event. -/
inductive Instr where
  /-- `ACCESS` (R22): A master's read or write to the device address space is decoded against the windows and the target's access table. -/
  | access (m : Nat) (kind : AccessKind) (addr len : Nat) (data : List Byte) (poison : Bool) (errs : Nat)
  /-- `REGISTER_WRITE` (R27): A write to a register that has no behaviour of its own stores the value under the register's type and lock rules. -/
  | registerWrite (m addr : Nat) (v : Dword)
  /-- `TW_TIME_LO_READ` (R37): A read of TW_TIME_LO latches the upper word and fraction for the reading master. -/
  | twTimeLoRead (m : Nat)
  /-- `TW_STEP_GO` (R35): Writing 1 steps device time to TW_STEP_HI:LO, refused while any wheel is enabled. -/
  | twStepGo (m : Nat) (v : Dword)
  /-- `TW_RATE_WRITE` (R36): A write of the rate adjustment is clipped to ±100 ppm, with a record when clipped. -/
  | twRateWrite (m : Nat) (v : Dword)
  /-- `SYNC_RECEIVED` (R36): A time-source sync lets the time servo measure the offset and slew device time, never stepping. -/
  | syncReceived (offset : Int)
  /-- `HOLDOVER_ENTRY` (R41): After 3 sync intervals without valid time the time unit enters holdover. -/
  | holdoverEntry
  /-- `HOLDOVER_EXIT` (R41): When the source returns, holdover clears and slewing resumes. -/
  | holdoverExit
  /-- `WHEEL_PERIOD_BOUNDARY` (R47): An enabled wheel reaches a period boundary at S_k. -/
  | wheelPeriodBoundary (w : Nat)
  /-- `TW_WN_BASE_WRITE` (R49): A write of a wheel's base is stored while disabled and refused with ST_WHEEL_BASE_LOCKED while enabled. -/
  | twWnBaseWrite (m w : Nat) (v : Dword)
  /-- `WHEEL_NOP` (R52): A NOP wheel entry takes effect and does nothing. -/
  | wheelNop (w e edge : Nat)
  /-- `LAUNCH` (R322): A LAUNCH entry takes effect on its launch edge and starts a job instance unless refused. -/
  | launch (w e edge : Nat)
  /-- `TWIN_LAUNCH` (R323): A TWIN_LAUNCH entry launches copy A in its partition, each copy checked separately. -/
  | twinLaunch (w e edge : Nat)
  /-- `COPY_B_LAUNCH` (R44): Copy B of a twin launch starts exactly 2,048 FCLK cycles after copy A. -/
  | copyBLaunch (p : Nat)
  /-- `SLICE` (R327): A SLICE entry makes its slice current, pre-empting overlapping jobs and restoring its own. -/
  | slice (w e edge : Nat)
  /-- `QUIESCE_END` (R328): After Q cycles of quiesce each tile begins saving its slice-private state. -/
  | quiesceEnd (p j : Nat)
  /-- `SAVE_COMMIT` (R330): A tile's save commits and the restoring job's restore begins on that tile. -/
  | saveCommit (t : Nat)
  /-- `RESTORE_END` (R330): The last restore ends and the job resumes on the next launch edge with its frozen counters. -/
  | restoreEnd (p j : Nat)
  /-- `HANDOFF` (R60): A HANDOFF entry at H selects a slot under the fence rule and opens the window. -/
  | handoff (w e edge : Nat)
  /-- `HANDOFF_WINDOW_CLOSE` (R64): The window closes and the status word is written as its last act. -/
  | handoffWindowClose (d : Nat)
  /-- `TW_HO_PUBLISH` (R59): A producer's publish of a slot is accepted or refused on arrival and the slot states move. -/
  | twHoPublish (m d slot : Nat)
  /-- `FSYNC` (R383): An FSYNC entry drives the named output pins active for ARG ns. -/
  | fsync (w e edge : Nat)
  /-- `FSYNC_PULSE_END` (R383): An FSYNC pulse ends after its width. -/
  | fsyncPulseEnd (f : Nat)
  /-- `CTL_SAMPLE` (R291): A CTL_SAMPLE entry makes a sample pending for each channel of its mask. -/
  | ctlSample (w e edge : Nat)
  /-- `SOL_START` (R281): A SOL_START entry queues a solve for a slot with its deadline. -/
  | solStart (w e edge : Nat)
  /-- `PIX_START` (R217): A PIX_START entry starts a pixel-engine program on its lanes. -/
  | pixStart (w e edge : Nat)
  /-- `TEST_SLOT` (R475): A TEST_SLOT entry opens a self-test slot for a block and starts its next chunk. -/
  | testSlot (w e edge : Nat)
  /-- `CHUNK_DONE` (R474): A self-test chunk completes, the next may start, and a fault marks the block suspect. -/
  | chunkDone (b : Nat) (fault : Option Nat)
  /-- `TEST_SLOT_END` (R476): Device time reaches the slot end and any running chunk is aborted. -/
  | testSlotEnd (b : Nat)
  /-- `COVERAGE_LIMIT` (R479): A pass running longer than SNAP_ST_LIMIT raises Amber cause 6. -/
  | coverageLimit (b : Nat)
  /-- `GOLDEN_SLOT` (R481): A GOLDEN_SLOT entry launches the known-answer job or defers it. -/
  | goldenSlot (w e edge : Nat)
  /-- `GOLDEN_SLOT_END` (R484): An unfinished golden job is aborted at the slot end. -/
  | goldenSlotEnd (p : Nat)
  /-- `DEADLINE` (R468): A DEADLINE entry arms a stream with deadline D. -/
  | deadline (w e edge : Nat)
  /-- `DEADLINE_EXPIRY` (R470): Device time reaches D with no commit started and Crimson cause 2 applies. -/
  | deadlineExpiry (st : Nat)
  /-- `FREEZE` (R582): A FREEZE entry requests a freeze at its due time. -/
  | freeze (w e edge : Nat)
  /-- `NOTIFY` (R52): A NOTIFY entry raises a host interrupt line. -/
  | notify (w e edge : Nat)
  /-- `LOOP` (R77): LOOP opens a counted loop. -/
  | loop (c : TCtl) (count : Nat)
  /-- `LOOPD` (R81): LOOPD reads its count from the scratchpad and checks it against the loop table. -/
  | loopd (c : TCtl) (idx h off : Nat)
  /-- `ENDLOOP` (R80): ENDLOOP takes the back-edge or leaves the loop. -/
  | endloop (c : TCtl)
  /-- `WAIT` (R331): WAIT waits for an event, a semaphore unit or a link credit. -/
  | wait (c : TCtl) (ev : WaitEvent)
  /-- `RELEASE` (R331): RELEASE returns a semaphore unit or frees a link credit. -/
  | release (c : TCtl) (ev : WaitEvent)
  /-- `HALF` (R83): HALF continues at word 0 of the other instruction-buffer half. -/
  | half (c : TCtl)
  /-- `END` (R108): A tile retires END after its last write commits. -/
  | endOp (c : TCtl)
  /-- `WLOAD` (R72): WLOAD fills the weight shadow in 16 cycles. -/
  | wload (c : TCtl) (h off fmt : Nat)
  /-- `MSTREAM` (R73): MSTREAM streams activation rows through the array into the accumulator. -/
  | mstream (c : TCtl) (n ctx row : Nat)
  /-- `ACLR` (R77): ACLR clears accumulator rows. -/
  | aclr (c : TCtl) (row n : Nat)
  /-- `AGSET` (R76): AGSET programs an address-generator context. -/
  | agset (c : TCtl) (ctx : Nat) (v : AgCtx)
  /-- `SLD` (R112): SLD loads words or a line from the scratchpad. -/
  | sld (c : TCtl) (ctx : Nat) (form : SpadForm)
  /-- `SST` (R112): SST stores words or a line to the scratchpad. -/
  | sst (c : TCtl) (ctx : Nat) (form : SpadForm)
  /-- `DRD` (R106): DRD starts a DMA read from the tile's DRAM channel. -/
  | drd (c : TCtl) (h off dram n : Nat)
  /-- `DMA_READ_DELIVERY` (R106): A DMA read word is delivered after decode at its fixed cycle. -/
  | dmaReadDelivery (c : TCtl) (symErrs : Nat)
  /-- `DWR` (R107): DWR starts a DMA write to the tile's DRAM channel. -/
  | dwr (c : TCtl) (src : Place) (dram n e0 e1 : Nat)
  /-- `DMA_WRITE_COMMIT` (R107): The DMA write commits to DRAM 36 cycles after its last word. -/
  | dmaWriteCommit (c : TCtl)
  /-- `IFETCH` (R106): IFETCH refills the idle instruction-buffer half. -/
  | ifetch (c : TCtl) (dram n : Nat)
  /-- `DRDX` (R237): DRDX reads DRAM at an offset taken from a scratchpad word. -/
  | drdx (c : TCtl) (h off ih ioff n : Nat)
  /-- `DWRX` (R237): DWRX writes DRAM at an offset taken from a scratchpad word. -/
  | dwrx (c : TCtl) (src : Place) (ih ioff n e0 e1 : Nat)
  /-- `SEND` (R86): SEND sends flits over a mesh route. -/
  | send (c : TCtl) (dx dy : Int) (yFirst : Bool) (src : Place) (n : Nat)
  /-- `SENDM` (R85): SENDM delivers flits to every tile on a straight route. -/
  | sendm (c : TCtl) (dx dy : Int) (src : Place) (n : Nat)
  /-- `RECV` (R86): RECV posts a receive for arriving flits. -/
  | recv (c : TCtl) (dst : Place) (n : Nat)
  /-- `ADDRECV` (R86): ADDRECV posts a receive that adds arriving flits to local words. -/
  | addrecv (c : TCtl) (dst : Place) (n : Nat) (int : Bool)
  /-- `FLIT_ARRIVAL` (R86): A flit arrives at its destination tile and is written or added. -/
  | flitArrival (c : TCtl)
  /-- `VADD` (R169): VADD adds two vector registers. -/
  | vadd (c : TCtl) (vd va vb : Nat) (pred : Bool)
  /-- `VSUB` (R169): VSUB subtracts two vector registers. -/
  | vsub (c : TCtl) (vd va vb : Nat) (pred : Bool)
  /-- `VMUL` (R169): VMUL multiplies two vector registers. -/
  | vmul (c : TCtl) (vd va vb : Nat) (pred : Bool)
  /-- `VFMA` (R169): VFMA computes a × b + c with one rounding. -/
  | vfma (c : TCtl) (vd va vb vc : Nat) (pred : Bool)
  /-- `VMAX` (R169): VMAX takes the lane maximum. -/
  | vmax (c : TCtl) (vd va vb : Nat) (pred : Bool)
  /-- `VMIN` (R169): VMIN takes the lane minimum. -/
  | vmin (c : TCtl) (vd va vb : Nat) (pred : Bool)
  /-- `VABS` (R173): VABS takes the absolute value. -/
  | vabs (c : TCtl) (vd va : Nat) (pred : Bool)
  /-- `VNEG` (R173): VNEG negates. -/
  | vneg (c : TCtl) (vd va : Nat) (pred : Bool)
  /-- `VCMP` (R173): VCMP sets the lane predicate. -/
  | vcmp (c : TCtl) (rel va vb : Nat)
  /-- `VSEL` (R173): VSEL selects by predicate. -/
  | vsel (c : TCtl) (vd va vb : Nat)
  /-- `VMOV` (R173): VMOV copies a register. -/
  | vmov (c : TCtl) (vd va : Nat) (pred : Bool)
  /-- `AMOV` (R173): AMOV copies an accumulator row to a register. -/
  | amov (c : TCtl) (vd row : Nat) (pred : Bool)
  /-- `VSCL2` (R173): VSCL2 scales by a power of two. -/
  | vscl2 (c : TCtl) (vd va vb : Nat) (pred : Bool)
  /-- `VCVT_S` (R159): VCVT.S converts with saturating overflow. -/
  | vcvtS (c : TCtl) (vd va fmt part : Nat) (widen pred : Bool)
  /-- `VCVT_N` (R160): VCVT.N converts with special-value overflow. -/
  | vcvtN (c : TCtl) (vd va fmt part : Nat) (widen pred : Bool)
  /-- `VDQ` (R168): VDQ dequantises an accumulator value. -/
  | vdq (c : TCtl) (vd va vb vc fmt part : Nat) (zero : Int) (pred : Bool)
  /-- `QSTAT` (R175): QSTAT updates max-abs statistics. -/
  | qstat (c : TCtl) (d va ctx row col : Nat)
  /-- `QSCALE` (R177): QSCALE derives scales from statistics. -/
  | qscale (c : TCtl) (d k : Nat)
  /-- `QCONV` (R178): QCONV converts elements with their scales. -/
  | qconv (c : TCtl) (d va row col : Nat)
  /-- `VRSUM` (R170): VRSUM sums 16 lanes in a tree. -/
  | vrsum (c : TCtl) (vd va : Nat) (pred : Bool)
  /-- `VRMAX` (R170): VRMAX takes the maximum of 16 lanes. -/
  | vrmax (c : TCtl) (vd va : Nat) (pred : Bool)
  /-- `VRMAXABS` (R170): VRMAXABS takes the maximum absolute value of 16 lanes. -/
  | vrmaxabs (c : TCtl) (vd va : Nat) (pred : Bool)
  /-- `VEXP` (R171): VEXP computes the exponential by the fixed procedure. -/
  | vexp (c : TCtl) (vd va : Nat) (pred : Bool)
  /-- `VRCP` (R172): VRCP computes the correctly rounded reciprocal. -/
  | vrcp (c : TCtl) (vd va : Nat) (pred : Bool)
  /-- `VRSQRT` (R172): VRSQRT computes the correctly rounded reciprocal square root. -/
  | vrsqrt (c : TCtl) (vd va : Nat) (pred : Bool)
  /-- `JOB_HANG` (R503): A tile's cycle counter reaches expected end + 1,024 without END. -/
  | jobHang (t : Nat)
  /-- `REFRESH_BEAT` (R124): A channel blocks 48 cycles to refresh the next group. -/
  | refreshBeat (t symErrs : Nat)
  /-- `ZEROING_PASS_DONE` (R119): A tile's 9,216-cycle zeroing pass finishes and the tile can be admitted. -/
  | zeroingPassDone (t : Nat)
  /-- `DRAM_ZEROING_DONE` (R146): The DRAM zero writer finishes the channels of its blocks. -/
  | dramZeroingDone (p : Nat)
  /-- `TMR_SWEEP` (R149): The supervisor reads every TMR word at least every 10 ms. -/
  | tmrSweep (upsets : List Upset)
  /-- `CDN_CET_CLR` (R140): A write to CDn_CET_CLR clears one or all CET entries. -/
  | cdnCetClr (m n : Nat) (v : Dword)
  /-- `PIX_FRAME_DONE` (R219): A camera frame is processed, sealed and published by the pixel engine. -/
  | pixFrameDone (prog cam : Nat)
  /-- `PIX_FRAME_TIMEOUT` (R220): A frame not complete at TIMEOUT is abandoned. -/
  | pixFrameTimeout (prog cam : Nat)
  /-- `KV_PLAN_PUBLISH` (R256): KVD completes resolution and publishes the plan. -/
  | kvPlanPublish (pool : Nat)
  /-- `SOLVE_DEQUEUE` (R282): A solve leaves the queue and begins. -/
  | solveDequeue
  /-- `REFACTORISATION_DONE` (R271): A numeric factorisation completes or fails. -/
  | refactorisationDone
  /-- `ITERATION_DONE` (R268): An ADMM iteration ends and the best iterate is updated. -/
  | iterationDone
  /-- `SOL_DEADLINE` (R283): A solve's deadline takes effect and the result is cut short. -/
  | solDeadline
  /-- `SOLVE_PUBLISH` (R286): The result record is written and published. -/
  | solvePublish
  /-- `CTL_EVALUATION` (R296): The engine evaluates a pending sample of the lowest channel. -/
  | ctlEvaluation
  /-- `TEST_GENERATOR_END` (R307): After LEN evaluations the generator clears ACTIVE. -/
  | testGeneratorEnd
  /-- `CTL_TG_START` (R307): Setting START begins the test generator or is refused. -/
  | ctlTgStart (m : Nat) (v : Dword)
  /-- `CHANNEL_ENABLE` (R299): Setting ENABLE arms a channel. -/
  | channelEnable (m ch : Nat) (v : Dword)
  /-- `CHANNEL_DISABLE` (R299): Clearing ENABLE stops a channel. -/
  | channelDisable (m ch : Nat) (v : Dword)
  /-- `PARTITION_SHED` (R338): Temperature at PMU_TSHED for 1 ms, or 10 ms more, sheds the next partition. -/
  | partitionShed
  /-- `PARTITION_UNSHED` (R340): Temperature below threshold for 100 ms restores a shed partition. -/
  | partitionUnshed
  /-- `PMU_FABRIC_LIMIT_WRITE` (R336): A write of the fabric limit is stored or refused. -/
  | pmuFabricLimitWrite (m : Nat) (v : Dword)
  /-- `SERVICE_ROUND` (R357): A 4 µs round visits each mailbox's slot. -/
  | serviceRound
  /-- `SUP_MBN_REQ_SEQ` (R353): A write of REQ_SEQ issues a request or is refused. -/
  | supMbnReqSeq (m n : Nat) (v : Dword)
  /-- `NOP` (R364): Mailbox NOP completes with no effect. -/
  | nop (n : Nat)
  /-- `CAP_GET` (R370): Returns the capability descriptor. -/
  | capGet (n : Nat)
  /-- `VER_GET` (R372): Returns the version report. -/
  | verGet (n : Nat)
  /-- `MB_ASSIGN` (R366): Assigns a mailbox's owner, rights and scope. -/
  | mbAssign (n : Nat)
  /-- `REG_READ` (R364): Reads registers of a unit. -/
  | regRead (n : Nat)
  /-- `REG_WRITE` (R367): Writes a register as the supervisor unless protected. -/
  | regWrite (n : Nat)
  /-- `ERR_READ` (R501): Returns logged error records from a cursor. -/
  | errRead (n : Nat)
  /-- `WHEEL_LOAD` (R46): Loads the inactive bank of a wheel. -/
  | wheelLoad (n : Nat)
  /-- `WHEEL_ENABLE` (R49): Enables a wheel at a checked base. -/
  | wheelEnable (n : Nat)
  /-- `WHEEL_DISABLE` (R51): Requests a wheel disable at its next boundary. -/
  | wheelDisable (n : Nat)
  /-- `WHEEL_SWAP` (R50): Requests a bank swap at the first boundary 10 µs later. -/
  | wheelSwap (n : Nat)
  /-- `TIME_STEP` (R35): Steps device time while no wheel is enabled. -/
  | timeStep (n : Nat)
  /-- `HO_LANDING` (R615): Writes a landing list. -/
  | hoLanding (n : Nat)
  /-- `HO_CREATE` (R58): Creates or replaces a handoff descriptor. -/
  | hoCreate (n : Nat)
  /-- `HO_DESTROY` (R617): Destroys a handoff descriptor. -/
  | hoDestroy (n : Nat)
  /-- `PART_CREATE` (R314): Creates a partition. -/
  | partCreate (n : Nat)
  /-- `PART_DESTROY` (R318): Destroys a partition. -/
  | partDestroy (n : Nat)
  /-- `IMG_LOAD` (R368): Loads a Sniette image into a slot. -/
  | imgLoad (n : Nat) (img : Image)
  /-- `IMG_UNLOAD` (R368): Unloads an image slot. -/
  | imgUnload (n : Nat)
  /-- `JOB_ADMIT` (R319): Admits a job descriptor with placement and power checks. -/
  | jobAdmit (n : Nat)
  /-- `JOB_RETIRE` (R321): Retires a job descriptor, aborting its instance. -/
  | jobRetire (n : Nat)
  /-- `SLICE_TABLE_LOAD` (R326): Writes the inactive slice-table bank and requests a swap. -/
  | sliceTableLoad (n : Nat)
  /-- `PART_CREDIT_CONFIG` (R331): Sets semaphore and credit colours. -/
  | partCreditConfig (n : Nat)
  /-- `ACC_WRITE` (R344): Writes an access-table entry. -/
  | accWrite (n : Nat)
  /-- `ACC_READ` (R344): Reads access-table entries. -/
  | accRead (n : Nat)
  /-- `MEM_CET_CLEAR` (R140): Clears CET entries. -/
  | memCetClear (n : Nat)
  /-- `MEM_RETIRE_PAGE` (R141): Retires a page. -/
  | memRetirePage (n : Nat)
  /-- `MEM_RETIRE_BANK` (R141): Retires a bank. -/
  | memRetireBank (n : Nat)
  /-- `MEM_RETIRE_LIST` (R141): Retires a list of pages and banks. -/
  | memRetireList (n : Nat)
  /-- `KV_POOL_CREATE` (R241): Creates a KV pool. -/
  | kvPoolCreate (n : Nat)
  /-- `KV_POOL_DESTROY` (R364): Destroys a KV pool. -/
  | kvPoolDestroy (n : Nat)
  /-- `KV_CTX_OPEN` (R246): Opens a context in a pool. -/
  | kvCtxOpen (n : Nat)
  /-- `KV_STEP_OPEN` (R247): Opens a step and resolves its request. -/
  | kvStepOpen (n : Nat)
  /-- `KV_QUERY` (R263): Returns a page-table entry, frame entry and length. -/
  | kvQuery (n : Nat)
  /-- `KV_POOL_RESYNC` (R264): Resynchronises a diverged twin pool. -/
  | kvPoolResync (n : Nat)
  /-- `SOL_LOAD` (R272): Loads a solver slot. -/
  | solLoad (n : Nat)
  /-- `SOL_CONFIG` (R288): Writes a slot configuration. -/
  | solConfig (n : Nat)
  /-- `SOL_UNLOAD` (R364): Unloads a solver slot. -/
  | solUnload (n : Nat)
  /-- `CTL_WRITE_BANK` (R301): Writes a channel's inactive coefficient bank. -/
  | ctlWriteBank (n : Nat)
  /-- `CTL_BANK_SWAP` (R302): Requests a coefficient bank swap. -/
  | ctlBankSwap (n : Nat)
  /-- `CTL_CAPTURE_READ` (R309): Reads capture memory entries. -/
  | ctlCaptureRead (n : Nat)
  /-- `PIX_LOAD_PROGRAM` (R213): Loads a pixel-engine program. -/
  | pixLoadProgram (n : Nat)
  /-- `SNAP_TRIGGER` (R582): Requests a freeze at a device time. -/
  | snapTrigger (n : Nat)
  /-- `REC_START` (R604): Starts recording. -/
  | recStart (n : Nat)
  /-- `REC_STOP` (R604): Stops recording. -/
  | recStop (n : Nat)
  /-- `REC_STATUS` (R604): Returns records written. -/
  | recStatus (n : Nat)
  /-- `REC_MARKER` (R604): Writes a marker record. -/
  | recMarker (n : Nat)
  /-- `REPLAY_LOAD` (R604): Loads a recording for replay. -/
  | replayLoad (n : Nat) (begun : Bool)
  /-- `REPLAY_START` (R595): Starts a replay when the bench matches the origin. -/
  | replayStart (n : Nat)
  /-- `REPLAY_STOP` (R604): Stops a replay. -/
  | replayStop (n : Nat)
  /-- `REPLAY_STATUS` (R604): Returns the replay position. -/
  | replayStatus (n : Nat)
  /-- `REPLAY_RESUME` (R586): Resumes a halted device on the next launch edge. -/
  | replayResume (n : Nat)
  /-- `RESET_REQ_CONTEXT` (R614): Requests a context abort of a named context. -/
  | resetReqContext (n : Nat)
  /-- `RESET_REQ_ENGINE` (R614): Requests a block or engine reset. -/
  | resetReqEngine (n : Nat)
  /-- `RESET_REQ_PARTITION` (R614): Requests a partition or domain reset. -/
  | resetReqPartition (n : Nat)
  /-- `RESET_REQ_CHIP` (R518): Requests a chip reset. -/
  | resetReqChip (n : Nat)
  /-- `RESET_REQ_POWER_CYCLE` (R519): Requests a power cycle. -/
  | resetReqPowerCycle (n : Nat)
  /-- `CAM_PORT_ENABLE` (R377): Enabling a camera port is checked against the 160 Gbit/s aggregate. -/
  | camPortEnable (m p : Nat) (v : Dword)
  /-- `FRAME_START_PACKET` (R379): A CSI-2 frame start opens a frame in the next slot. -/
  | frameStartPacket (port vc : Nat) (hdrOk : Bool)
  /-- `LINE_PACKET` (R379): A long packet is checked and written as an image line. -/
  | linePacket (port vc dt : Nat) (data : List Byte) (hdrOk crcOk : Bool)
  /-- `FRAME_END_PACKET` (R381): A frame end closes the frame and CAM writes the seal. -/
  | frameEndPacket (port vc : Nat) (hdrOk : Bool)
  /-- `ETH_FRAME_RECEIVE` (R387): An Ethernet frame is received, stamped and forwarded. -/
  | ethFrameReceive (port : Nat) (frame : EthFrame)
  /-- `FRAME_TRANSMIT` (R390): A frame leaves the MAC and is stamped. -/
  | frameTransmit (port ring : Nat)
  /-- `EXPRESS_TRANSMIT` (R395): An express frame begins transmission after any fragment in flight. -/
  | expressTransmit (port : Nat)
  /-- `ETH_LINK_DOWN` (R396): A link goes down and its express frames are discarded. -/
  | ethLinkDown (port : Nat)
  /-- `GATE_BANK_SWAP` (R389): A gate-control bank swap takes effect at a cycle boundary. -/
  | gateBankSwap (port req : Nat)
  /-- `ETH_TBL_READ` (R418): An indirect table read fills ETH_TBL_DATA. -/
  | ethTblRead (m : Nat) (v : Dword)
  /-- `ETH_TBL_WRITE` (R418): An indirect table write stores ETH_TBL_DATA. -/
  | ethTblWrite (m : Nat) (v : Dword)
  /-- `MAILBOX_FRAME` (R400): A mailbox request frame is authenticated and taken. -/
  | mailboxFrame (frame : MbFrame)
  /-- `MAILBOX_RESPONSE_FRAME` (R400): A response frame is queued after RSP_SEQ is written. -/
  | mailboxResponseFrame (b : Nat)
  /-- `CANN_TX_REQ` (R403): Setting a TX_REQ bit makes a buffer pending. -/
  | cannTxReq (m n : Nat) (v : Dword)
  /-- `CAN_FRAME_TRANSMITTED` (R403): A frame is sent and the next frame chosen. -/
  | canFrameTransmitted (n : Nat)
  /-- `CAN_ARBITRATION_LOST` (R404): A lost arbitration counts an attempt of the buffer. -/
  | canArbitrationLost (n : Nat)
  /-- `CAN_BUS_ERROR` (R406): A bus error moves the error counters. -/
  | canBusError (n : Nat) (tx : Bool)
  /-- `CAN_RECOVERED` (R406): After 128 recessive sequences the node recovers. -/
  | canRecovered (n : Nat)
  /-- `CAN_INIT_CLEAR` (R406): Clearing INIT leaves bus-off. -/
  | canInitClear (m n : Nat) (v : Dword)
  /-- `CAN_FRAME_RECEIVE` (R407): A received frame is filtered and stored or discarded. -/
  | canFrameReceive (n : Nat) (frame : CanFrame)
  /-- `CAN_SLEEP` (R408): Setting SLEEP idles the controller. -/
  | canSleep (m n : Nat) (v : Dword)
  /-- `CAN_WAKE` (R408): The wake detector sees a wake pattern or frame. -/
  | canWake (n : Nat)
  /-- `SENT_MESSAGE` (R410): A valid SENT fast-channel message is delivered as an arrival. -/
  | sentMessage (j status : Nat) (nibbles : List Nat) (valid : Bool)
  /-- `SENT_SILENT` (R410): No valid message for SILENT_T writes a record. -/
  | sentSilent (j : Nat)
  /-- `SPI_INPUT_DUE` (R411): An SPI input transfer falls due at PHASE mod PERIOD. -/
  | spiInputDue (j : Nat)
  /-- `SPI_TRANSFER_DONE` (R413): Chip-select deassertion completes a transfer. -/
  | spiTransferDone (j : Nat) (data : List Byte)
  /-- `RAW_EXCURSION` (R414): A raw excursion shorter than T_GF is rejected. -/
  | rawExcursion (pin : Nat)
  /-- `FILTERED_CHANGE` (R414): A level held for T_GF becomes the filtered state. -/
  | filteredChange (pin : Nat) (level : Bool)
  /-- `CHATTER_CLEAR` (R415): The inactive level held for T_CC ends chatter. -/
  | chatterClear (pin : Nat)
  /-- `STUCK_LATCH` (R416): Assertion held for T_STUCK latches the pin stuck. -/
  | stuckLatch (pin : Nat)
  /-- `STUCK_CLEAR` (R416): Inactive for T_SCLR clears the stuck latch. -/
  | stuckClear (pin : Nat)
  /-- `SAFE_DISCREPANCY` (R417): SAFE_IN channels differing for SAFE_DISC write a record. -/
  | safeDiscrepancy
  /-- `LOCKSTEP_MISMATCH` (R32): A lockstep pair's outputs differ and the pair is reset. -/
  | lockstepMismatch (pair : Nat)
  /-- `BAM_PORT_ENABLE` (R422): Setting a port's EN starts training. -/
  | bamPortEnable (m p : Nat) (v : Dword)
  /-- `TRAINING_DONE` (R422): Training ends with the latency exchange or fails. -/
  | trainingDone (p lat : Nat) (good : Bool)
  /-- `LANE_LOSS` (R423): A link losing a lane goes down and may retrain narrow. -/
  | laneLoss (p : Nat)
  /-- `HELLO` (R425): Each up link sends a hello every 10 µs. -/
  | hello (p : Nat)
  /-- `HELLO_RECEIVE` (R425): A hello is checked for membership and flooded. -/
  | helloReceive (p : Nat) (direct : Bool) (h : Hello)
  /-- `DISCOVER` (R426): Writing BAM_CTRL.DISCOVER starts a discovery run. -/
  | discover (m : Nat) (v : Dword)
  /-- `DISCOVERY_RUN` (R426): Discovery starts 100 ms after the BAM domain leaves reset. -/
  | discoveryRun
  /-- `DISCOVERY_QUIET` (R426): After 1 ms without new information the root assigns node numbers and routes. -/
  | discoveryQuiet
  /-- `DISCOVERY_RESULT_RECEIVE` (R429): A device receives the root's result and acknowledges it. -/
  | discoveryResultReceive (r : DiscResult)
  /-- `DISCOVERY_COMMIT` (R429): On commit a device loads routes and increments its epoch. -/
  | discoveryCommit
  /-- `ACK_TIMEOUT` (R429): A missing acknowledgement after 10 ms fails the run. -/
  | ackTimeout
  /-- `BAM_PACKET_RECEIVE` (R430): A packet is routed or dropped for a stale epoch. -/
  | bamPacketReceive (p : Nat) (pkt : BamPacket)
  /-- `REMOTE_ACCESS_TIMEOUT` (R432): A remote access without completion in 50 µs fails. -/
  | remoteAccessTimeout (id : Nat)
  /-- `TIME_MESSAGE_SEND` (R433): The time root sends its time every 125 µs. -/
  | timeMessageSend
  /-- `TIME_MESSAGE_RECEIVE` (R434): A device slews to the carried time and forwards it. -/
  | timeMessageReceive (p t residence : Nat) (retried : Bool)
  /-- `MIRROR_ENABLE` (R435): Enabling a mirror channel is checked. -/
  | mirrorEnable (m c : Nat) (v : Dword) (producer : Nat)
  /-- `MIRROR_COPY_DONE` (R436): A mirror copy completes and publishes remotely, or fails. -/
  | mirrorCopyDone (c : Nat) (good : Bool)
  /-- `TWIN_BINDING_ENABLE` (R438): Enabling a cross-device twin binding is checked. -/
  | twinBindingEnable (m k : Nat) (v : Dword) (tiles : Nat) (hash : Dword)
  /-- `PARTNER_RECORD` (R439): A partner's commit record arrives. -/
  | partnerRecord (k : Nat) (rec : PartnerRec)
  /-- `TWIN_WAIT_EXPIRY` (R439): No partner record by BAM_TWINk_WAIT classes it missing. -/
  | twinWaitExpiry (k : Nat)
  /-- `HEALTH_TOGGLE` (R449): HEALTH changes level every 50,000 ns outside Grey and Crimson. -/
  | healthToggle
  /-- `CFG_SAFE_KICK` (R446): A write restarts the supervisor watchdog. -/
  | cfgSafeKick (m : Nat)
  /-- `SUPERVISOR_WATCHDOG` (R446): 1 ms without a kick latches Crimson cause 5. -/
  | supervisorWatchdog
  /-- `AMBER_HOLD_END` (R445): CFG_AMBER_HOLD after the latest event ends an Amber cause. -/
  | amberHoldEnd (cause : Nat)
  /-- `HOLDOVER_AMBER` (R445): Holdover longer than CFG_HOLDOVER_AMBER raises Amber cause 4. -/
  | holdoverAmber
  /-- `SAFE_REQUEST_RELEASE` (R446): The safe request inactive for CFG_SAFE_REL ends latched Crimson. -/
  | safeRequestRelease
  /-- `THERMAL_CRIMSON_EXIT` (R446): Temperature below threshold for 100 ms ends thermal Crimson. -/
  | thermalCrimsonExit
  /-- `STREAM_ENABLE` (R458): Setting an output stream's EN is checked. -/
  | streamEnable (m st : Nat) (v : Dword)
  /-- `PAIR_WAIT_EXPIRY` (R460): PAIR_WAIT after the first completion starts commit. -/
  | pairWaitExpiry (st : Nat)
  /-- `COMMIT_DECISION` (R462): At K the copies are classed and one delivered or none. -/
  | commitDecision (st : Nat)
  /-- `REREAD_DONE` (R464): Copy B's re-read into the slot completes and it is published. -/
  | rereadDone (st : Nat)
  /-- `ERROR_RECORD_ARRIVAL` (R490): A record reaches the collector and is stored. -/
  | errorRecordArrival (u : Nat)
  /-- `ERROR_HANDLER_STEP` (R494): The handler takes one step in the supervisor window. -/
  | errorHandlerStep
  /-- `SUSPECT_REPLAY_END` (R526): A suspect's replay retires or hangs, giving a verdict. -/
  | suspectReplayEnd (hung : Bool)
  /-- `ENGINE_TIMEOUT` (R505): A hub engine activity exceeds its timeout. -/
  | engineTimeout (u sub : Nat)
  /-- `HART_WATCHDOG` (R506): A hart's watchdog expires. -/
  | hartWatchdog (h guest : Nat)
  /-- `HST_WDOGH_KICK` (R506): A write restarts a hart's watchdog. -/
  | hstWdoghKick (m h : Nat)
  /-- `DUMP_DONE` (R508): A dump finishes writing. -/
  | dumpDone
  /-- `SNAPSHOT_ACCESS_TIMEOUT` (R509): A snapshot access timing out marks its section unreadable. -/
  | snapshotAccessTimeout (u sub : Nat)
  /-- `DUMP_CAP` (R509): A dump still running at its cap is cut. -/
  | dumpCap
  /-- `ESCALATION` (R513): A rung not complete at its bound starts the next rung. -/
  | escalation (k : Nat)
  /-- `RESET_DONE` (R513): A rung completes and writes ST_ERR_RESET_DONE. -/
  | resetDone (k : Nat)
  /-- `S4_HOLD_EXPIRY` (R492): ERR_S4_HOLD after an S4 record starts chip reset. -/
  | s4HoldExpiry
  /-- `CHIP_RESET_APPLY` (R518): Chip reset is applied 2 µs after the Grey notification. -/
  | chipResetApply
  /-- `RESET_N` (R518): The external reset pin starts a chip reset. -/
  | resetN
  /-- `BOOT_STATUS_TIMEOUT` (R513): No BOOT_STATUS within 20 ms starts a power cycle. -/
  | bootStatusTimeout
  /-- `POWER_UP` (R563): VDD_AON in range starts the power-up sequence. -/
  | powerUp
  /-- `RAIL_ORDER_ENABLE` (R563): The next rail order is enabled after 50 µs in range. -/
  | railOrderEnable (good : Bool)
  /-- `SEQUENCE_RETRY` (R564): The sequence restarts at step 3 after 1 s. -/
  | sequenceRetry
  /-- `BOOT_START` (R540): Reset release starts the boot ROM and its sequence. -/
  | bootStart (env : BootEnv)
  /-- `EMMC_READY` (R544): The eMMC answers and the rollback store is read. -/
  | emmcReady (blk : RpmbBlock)
  /-- `BOOT_ATTEMPT` (R536): After the backoff the next boot attempt begins. -/
  | bootAttempt
  /-- `BOOT_CONFIRMED` (R537): Outside Grey for CFG_BOOT_CONFIRM confirms the boot. -/
  | bootConfirmed
  /-- `ATTESTATION_REQUEST` (R549): Writing GO requests an attestation report. -/
  | attestationRequest (m : Nat) (v : Dword)
  /-- `ATTESTATION_REPORT_DONE` (R550): The signed report is written and BUSY clears. -/
  | attestationReportDone
  /-- `TRNG_HEALTH_FAIL` (R552): A TRNG health test fails and output is withheld. -/
  | trngHealthFail
  /-- `TRNG_RESUME` (R552): After 1,024 passing samples the TRNG resumes. -/
  | trngResume
  /-- `SENSOR_SAMPLE` (R557): Junction sensors are sampled every 100 µs. -/
  | sensorSample (readings : List Int)
  /-- `HARD_SHUTDOWN_RESTART` (R559): 10 s after hard shutdown power-up restarts. -/
  | hardShutdownRestart
  /-- `RAIL_FAULT` (R562): A rail fault writes an S4 record. -/
  | railFault (k : Nat)
  /-- `AVS_STEP` (R561): The PMU moves an AVS rail by up to 5 mV. -/
  | avsStep (k mv : Nat)
  /-- `STANDBY_ENTRY` (R566): Writing GO enters standby or is refused. -/
  | standbyEntry (m : Nat) (v : Dword)
  /-- `WAKE_EVENT` (R567): A wake in standby starts power-up. -/
  | wakeEvent
  /-- `DOMAIN_SWITCH` (R570): A write of a domain's ON switches it or is refused. -/
  | domainSwitch (m d : Nat) (v : Dword)
  /-- `DOMAIN_IN_SERVICE` (R571): A switched-on domain comes into service. -/
  | domainInService (d : Nat)
  /-- `REF_LOSS` (R575): The 25 MHz reference absent for 1 µs writes an S4 record. -/
  | refLoss
  /-- `SDSREF_LOSS` (R575): The 100 MHz reference absent for 1 µs takes links down. -/
  | sdsrefLoss
  /-- `FREEZE_IN` (R582): An asserting FREEZE_IN edge held 200 ns requests a freeze. -/
  | freezeIn
  /-- `FABRIC_FREEZE_MESSAGE` (R585): A freeze message from another node is taken as a request. -/
  | fabricFreezeMessage (node f : Nat)
  /-- `FREEZE_EDGE` (R584): A pending freeze takes effect and every unit latches its snapshot. -/
  | freezeEdge
  /-- `FREEZE_OUT_END` (R584): The FREEZE_OUT pulse ends after 1 µs. -/
  | freezeOutEnd
  /-- `SNAPSHOT_READOUT_DONE` (R588): The snapshot readout finishes and SNAP re-arms if set. -/
  | snapshotReadoutDone
  /-- `SNAP_ARM` (R588): Writing ARM re-arms the freeze. -/
  | snapArm (m : Nat) (v : Dword)
  /-- `REPLAY_INJECT` (R596): A recorded arrival is injected and stamped at its TIME. -/
  | replayInject (inTime : Bool)
  /-- `DEBUG_CHALLENGE` (R601): A challenge is read or requested over UART. -/
  | debugChallenge
  /-- `DEBUG_ANSWER` (R601): An unlock answer is verified and rights granted or refused. -/
  | debugAnswer (rights : BitVec 4) (good : Bool)
  /-- `UNLOCK_RETRY_END` (R601): 1 s after a failed answer challenges are issued again. -/
  | unlockRetryEnd
  /-- `DEBUG_LOCK` (R603): A write of SNAP_DBG_LOCK removes the debug rights. -/
  | debugLock (m : Nat) (v : Dword)
  /-- `ALWAYS_ON_SUPPLY_LOSS` (R519): VDD_AON falls, releasing PWRCYC_REQ_N and clearing every always-on register, the retention store and the boot attempt count. -/
  | alwaysOnSupplyLoss
  /-- `ETH_LINK_UP` (R396): An external Ethernet port's link comes up, so express frames are sent again and the next loss writes a new ST_ETH_EXPRESS_DROP. -/
  | ethLinkUp (port : Nat)
  /-- `SDSREF_RESTORED` (R575): The 100 MHz SerDes reference returns and the Ethernet and Bamset links retrain. -/
  | sdsrefRestored
  /-- `DISCOVERY_ACKNOWLEDGEMENT` (R429): The root receives a device's acknowledgement of the discovery result and sends the commit once every device has acknowledged. -/
  | discoveryAcknowledgement (fp : Nat)
  /-- `EMMC_TIMEOUT` (R544): An eMMC that has not answered within 1 s makes the rollback store unusable and fails the boot attempt with ST_BOOT_RPMB. -/
  | emmcTimeout
  /-- `BOOT_TRNG_TIMEOUT` (R552): A TRNG still failing 100 ms after boot step 2 fails the attempt with ST_SEC_TRNG. -/
  | bootTrngTimeout
  /-- `POWER_DOWN_COMPLETE` (R565): The last rail order has fallen, standby or hard shutdown is reached, and a wake latched during entry starts power-up. -/
  | powerDownComplete
  /-- `CONSOLE_FRAME` (R602): An HDLC-framed unit received on UART_RX under the console right writes mailbox 15's request as master 0x3FF. -/
  | consoleFrame (seq : Word) (buffer : List Byte)
  /-- `TAP_FREEZE_REQUEST` (R602): A freeze request made through the JTAG TAP under the observe right sets or replaces the pending freeze time. -/
  | tapFreezeRequest (f : Nat)
  /-- `HOST_CACHE_ERROR` (R529): A host L2, L3 or register-file error is corrected or delivered poisoned to the hart, writing ST_HST_CORRECTED, ST_HST_L2_UE or ST_HST_L3_UE. -/
  | hostCacheError (core kind : Nat)
deriving DecidableEq, Repr

end Sys2Proof
end

