-- ==== Sys2Proof/Decode.lean ====
section
/-! DEFINITION. Commands spelled by words. The manual's table of operations and events gives no row any bits, so no word spells a command. -/

namespace Sys2Proof

/-- The command a word spells by the table's bits: none, because the table gives bits to no row. -/
def decodeTableWord (_nbits _w : Nat) : Option Instr := none

end Sys2Proof
end

