-- ==== Sys2Proof/Config.lean ====
section
/-! DEFINITION. What the manual leaves open: free values, constants without a body, so that no proof can see what they are (the log entry of each is named with it). -/

namespace Sys2Proof

/-- The TRNG's output (R349, R549, R552): the n-th word drawn. Log entry 5. -/
opaque Config.trng : Nat → Word

/-- A value the manual does not state, the n-th drawn (State.fresh). Log entry 4. -/
opaque Config.freeNat : Nat → Nat

/-- What the 16-byte header of a CAN message RAM element says (R402 gives no layout): the identifier. Log entry 6. -/
opaque Config.canId : List Byte → Nat

/-- The frame format in a CAN element header: 0 CC, 1 FD, 2 XL. Log entry 6. -/
opaque Config.canFormat : List Byte → Nat

/-- The data length in a CAN element header. Log entry 6. -/
opaque Config.canLength : List Byte → Nat

/-- The element header of a received CAN frame: from its identifier, its format, its length and its stamp. Log entry 6. -/
opaque Config.canHeader : Nat → Nat → Nat → Nat → List Byte

/-- What a 16-byte filter element does with an identifier of a format (R402): 0 rejects, 1 and 2 send to FIFO 0 and 1, 3 sends to
the control engine, 4 does not match. Log entry 6. -/
opaque Config.canFilter : List Byte → Nat → Nat → Nat

/-- The UDP checksum of a frame whose checksum field stands at an offset (R393 names the option, not the standard's
pseudo-header). Log entry 7. -/
opaque Config.udpChecksum : List Byte → Nat → Half

/-- Whether a forwarding-database entry is the one of a VLAN and destination MAC (R387 gives no entry layout). Log entry 9. -/
opaque Config.fdbMatch : BitVec 1024 → Nat → Nat → Bool

/-- The switch ports a forwarding-database entry names, one bit each. Log entry 9. -/
opaque Config.fdbPorts : BitVec 1024 → Nat

/-- The member ports in a VLAN entry (R387). Log entry 9. -/
opaque Config.vlanPorts : BitVec 1024 → Nat

/-- The `FLOOD` bit of a VLAN entry (R387). Log entry 9. -/
opaque Config.vlanFlood : BitVec 1024 → Bool

/-- The handoff descriptor to which a stream-filter entry binds its stream (R397). Log entry 9. -/
opaque Config.filterHandoff : BitVec 1024 → Option Nat

/-- The control-engine stream, 0 to 15, to which a stream-filter entry binds its stream (R413). Log entry 9. -/
opaque Config.filterControl : BitVec 1024 → Option Nat

/-- The interval of a gate-control entry in ns (R389). Log entry 9. -/
opaque Config.gateInterval : BitVec 1024 → Nat

/-- The traffic class a switch gives a frame (R388, R392: the manual fixes only class 7 for PTP event messages). Log entry 9. -/
opaque Config.trafficClass : List Byte → Nat

/-- Whether a gate list with the traffic class's shaper lets a class send at a device time (R388, R389). Log entry 9. -/
opaque Config.classOpen : List (Nat × BitVec 1024) → Nat → Nat → Bool

/-- How the switch reads a frame the host hands it (R387, R391): destination MAC, VLAN, whether it is a PTP event message, the offset of
a Sync's PTP header, and of its UDP checksum (true when a zero one stays zero). Log entry 9. -/
opaque Config.frameHead : List Byte → Nat × Nat × Bool × Option Nat × Option (Nat × Bool)

/-- The base address of a host descriptor ring: receive or transmit, number 0 to 15 (R398 names no register). Log entry 9. -/
opaque Config.ringBase : Bool → Nat → Nat

/-- The receive ring a frame for port 4 goes to. Log entry 9. -/
opaque Config.ringOf : List Byte → Nat

/-- The number of descriptors of a ring. Log entry 9. -/
opaque Config.ringSize : Bool → Nat → Nat

/-- SHA-384 of bytes (R550, R590: a function the manual names and does not define). Log entry 5. -/
opaque Config.sha384 : List Byte → BitVec 384

/-- SHA-256 of bytes (R274). Log entry 5. -/
opaque Config.sha256 : List Byte → BitVec 256

/-- The numeric factor of a quasi-definite matrix (R269: L D Lᵀ in FP32; the manual does not say in which order its sums are
formed): from the entries of its lower triangle as row, column, value and the pattern of L, the values of L in that pattern's
order and of D. Log entry 41. -/
opaque Config.factor : List (Nat × Nat × Word) → List (Nat × Nat) → List Word × List Word

/-- The AES-256-GCM tag over additional data without ciphertext (R399): key slot, IV, additional data. Log entry 5. -/
opaque Config.gcmTag : Nat → List Byte → List Byte → List Byte

/-- The signatures of an attestation report with the identity keys, RSA-PSS and SLH-DSA (R550): of a signed region, byte by byte. Log
entry 5. -/
opaque Config.attSign : List Byte → Nat → Byte

/-- The place in the blob area, in bytes from its start, at which the bytes with a SHA-384 digest stand (R597 names the area and the match;
its layout is not stated). -/
opaque Config.blobPlace : BitVec 384 → Nat

end Sys2Proof
end

