-- ==== Sys2Proof/Machine/State.lean ====
section
/-! DEFINITION. The state of the FBA-2048 as a block: every register, table, queue, buffer, counter, mode and pin the manual gives it, as plain data, and the queue of waiting commands. `regs` is the one home of everything a register shows; the typed fields hold what no register shows whole. -/

namespace Sys2Proof.Machine

/-- A sparse table: keys strictly rising, and no entry equal to what an unlisted key reads as (Ops.lean, `SMap.get`). -/
abbrev SMap (β : Type) := List (Nat × β)

/-- The reasons the block can stop with a fault. No rule of the manual stops the block, so no meaning raises one: the one
constructor stands for a register bank that is not canonical, which no operation builds. Safe. -/
inductive Fault where
  /-- Raised by nothing: kept so that the type is inhabited. Safe. -/
  | unreached
deriving DecidableEq, Repr, Inhabited

/-- The reasons the block refuses a command. -/
inductive Refusal where
  /-- A command whose arm has no meaning yet (Dispatch.lean). Safe: the block stops where the device goes on. -/
  | notModelled (mnemonic : String)
deriving DecidableEq, Repr, Inhabited

/-- What a recovery acts on (R512, R614): a job, a partition, a context, port or hart of an engine, a mailbox command. -/
inductive Target where
  | job (p j : Nat)
  | partition (p : Nat)
  | engine (unit sub : Nat)
  | mailbox (n : Nat)
deriving DecidableEq, Repr, Inhabited

/-- An error record, fields of the table of R489; then where its handling stands (R494, R495, R500): whether it is in progress, its
phase (0 pending, 1 dump running, 2 dump done, 3 rung running, 4 ready to close, 5 contained in a running reset), the target of that
reset, and the suspects of a hang (R524, R527). -/
structure ErrRecord where
  time       : Nat := 0
  source     : Nat := 0
  sev        : Nat := 0
  retained   : Bool := false
  superseded : Bool := false
  status     : Status := 0#16
  subsource  : Nat := 0
  partition  : Nat := 0
  partValid  : Bool := false
  gen        : Nat := 0
  context    : Nat := 0
  rep        : Nat := 0
  address    : Nat := 0
  syndrome   : Nat := 0
  seq        : Nat := 0
  lastShort  : Nat := 0
  acting     : Bool := false
  phase      : Nat := 0
  heldBy     : Option Target := none
  suspects   : List (Nat × Nat) := []
deriving DecidableEq, Repr, Inhabited

/-- The response to the latest access of a master: status, error flag, read data, poison (R22, R135, R343, R611). -/
structure Reply where
  master : Nat := 0
  error  : Bool := false
  status : Status := 0#16
  data   : List Byte := []
  poison : Bool := false
deriving DecidableEq, Repr, Inhabited

/-- One master's holding registers (R37): the latched upper word and fraction, and whether each still waits to be read. -/
structure TimeHold where
  hi       : Word := 0#32
  frac     : Word := 0#32
  hiHeld   : Bool := false
  fracHeld : Bool := false
deriving DecidableEq, Repr, Inhabited

/-- The time servo: the latest measured offset in ns, how many intervals in a row it stayed below 100 ns, and since when
holdover lasts (R36, R41, R69). -/
structure Servo where
  offset : Int := 0
  close  : Nat := 0
  since  : Option Nat := none
deriving DecidableEq, Repr, Inhabited

/-- An entry that is due and not yet taken (R55, R48): wheel, bank, index, due time, whether it has been counted late, and the entry. -/
structure Due where
  wheel : Nat := 0
  bank  : Nat := 0
  index : Nat := 0
  due   : Nat := 0
  late  : Bool := false
  entry : WheelEntry := {}
deriving DecidableEq, Repr, Inhabited

/-- A time wheel beyond its registers (R46 to R51): the entries of both banks, the pending swap and disable, S_0, the exact
sum of periods since S_0 with 16 fraction bits, the start of the running period and whether one is running, the indexes
already taken in it, and entries of earlier periods still to be taken. -/
structure Wheel where
  entriesA  : List WheelEntry := []
  entriesB  : List WheelEntry := []
  swapAt    : Option Nat := none
  disableAt : Option Nat := none
  origin    : Nat := 0
  sum       : Nat := 0
  start     : Nat := 0
  inPeriod  : Bool := false
  taken     : List Nat := []
  carry     : List Due := []
deriving DecidableEq, Repr, Inhabited

/-- An open handoff window (R60): the descriptor as it stood at H, H, the close, the slot copied (none when stale), its
sequence number and publish time, and whether the descriptor was destroyed meanwhile (R617). -/
structure Window where
  desc   : HoDesc := {}
  due    : Nat := 0
  close  : Nat := 0
  slot   : Option Nat := none
  seq    : Nat := 0
  pub    : Nat := 0
  hadAny : Bool := false
  hadSeq : Nat := 0
  hadPub : Nat := 0
  run    : Nat := 0
  data   : Option (List Byte) := none
  orphan : Bool := false
deriving DecidableEq, Repr, Inhabited

/-- A handoff descriptor in being (R58, R59, R617): its fields, the publish stamp and sequence number of each slot, the
publish time of the buffer its destinations hold, and whether one was ever delivered. -/
structure Handoff where
  desc      : HoDesc := {}
  pubAt     : SMap Nat := []
  pubSeq    : SMap Nat := []
  heldPub   : Nat := 0
  delivered : Bool := false
deriving DecidableEq, Repr, Inhabited

/-- A handoff status word (R65). -/
structure StatusWord where
  seq      : Nat := 0
  stale    : Bool := false
  empty    : Bool := false
  staleRun : Nat := 0
  pubShort : Nat := 0
  hoShort  : Nat := 0
deriving DecidableEq, Repr, Inhabited

/-- A landing list (R615). -/
structure Landing where
  partition : Nat := 0
  stripes   : List Stripe := []
deriving DecidableEq, Repr, Inhabited

/-- A unit input port, destination of kind-2 handoffs (R58, R293, R609): two buffers with their status words, close times and
poisoned words. -/
structure Port where
  cur     : Bool := false
  bytesA  : List Byte := []
  bytesB  : List Byte := []
  statusA : StatusWord := { empty := true }
  statusB : StatusWord := { empty := true }
  closedA : Option Nat := none
  closedB : Option Nat := none
  poisonA : List Nat := []
  poisonB : List Nat := []
deriving DecidableEq, Repr, Inhabited

/-- A 64-byte word with its poison bit (R135). -/
structure VReg where
  data   : Line := 0#512
  poison : Bool := false
deriving DecidableEq, Repr, Inhabited

/-- A weight block: its words in the order of R192, its poison, and the cycle from which it is complete (R72). -/
structure WBlock where
  words  : List Line := []
  poison : Bool := false
  ready  : Nat := 0
deriving DecidableEq, Repr, Inhabited

/-- One level of loop nesting (R80): the passes still to run, whether the body is being skipped, and the word index of the
body's first word. -/
structure LoopFrame where
  left  : Nat := 0
  skip  : Bool := false
  start : Nat := 0
deriving DecidableEq, Repr, Inhabited

/-- A posted receive (R86): plain or adding, with integer or FP32 addition, its destination, and the flits received and awaited. -/
structure Recv where
  add  : Bool := false
  int  : Bool := false
  dest : Place := .acc 0
  done : Nat := 0
  left : Nat := 0
deriving DecidableEq, Repr, Inhabited

/-- What the decode of a code page gave (R129): good data, an uncorrectable page, or a miscorrected one. -/
inductive Decoded where
  | good | failed | wrong
deriving DecidableEq, Repr, Inhabited

/-- A DMA transfer in flight (R106, R107): issue cycle, DRAM byte offset, words, words done, destination or source, the words
taken at issue for a write, the generation it carries (R522), whether it fills the instruction buffer, and what the
decode of the page being read gave, or of the first and the last page of a write (R131). -/
structure Dma where
  cyc    : Nat := 0
  dram   : Nat := 0
  count  : Nat := 0
  done   : Nat := 0
  place  : Place := .acc 0
  ifetch : Bool := false
  data   : List VReg := []
  gen    : Nat := 0
  bad    : Decoded := .good
  badHi  : Decoded := .good
deriving DecidableEq, Repr, Inhabited

/-- The flits of one transfer on their way to a tile (R86): the job that owns them, the cycle on which the next arrives, the words still to arrive, and
the links of the route with the cycle on which the first flit is on each (R88). -/
structure Flits where
  owner  : Nat × Nat := (0, 0)
  arrive : Nat := 0
  words  : List VReg := []
  done   : Nat := 0
  hops   : List (Nat × Nat × Nat) := []
deriving DecidableEq, Repr, Inhabited

/-- A tile's slice-private state in the save area (R118, R328). -/
structure TileSave where
  words    : SMap VReg := []
  undef    : List Nat := []
  acc      : SMap VReg := []
  ctxs     : SMap AgCtx := []
  loops    : SMap LoopEntry := []
  stack    : List LoopFrame := []
  events   : Nat × Nat := (0, 0)
  status   : Dword := 0#64
  cycle    : Dword := 0#64
  expEnd   : Dword := 0#64
  flags    : Dword := 0#64
  checks   : Dword := 0#64
  beat     : Dword := 0#64
deriving DecidableEq, Repr, Inhabited

/-- A logical tile beyond its registers and scratchpad bytes ("Inside a tile", R71 to R88, R114 to R117, R174, R196, R226); its router's last
flit as source, destination and cycle (R587). -/
structure Tile where
  vregs    : SMap VReg := []
  pred     : BitVec 16 := 0#16
  predPois : Bool := false
  acc      : SMap VReg := []
  active   : WBlock := {}
  shadow   : WBlock := {}
  ctxs     : SMap AgCtx := []
  loops    : SMap LoopEntry := []
  stack    : List LoopFrame := []
  handles  : SMap Handle := []
  qdescs   : SMap (BitVec 64) := []
  qrecips  : SMap Word := []
  convs    : SMap (BitVec 256) := []
  atts     : SMap (BitVec 128) := []
  undef    : SMap Bool := []
  ibuf     : SMap VReg := []
  lineBuf  : List VReg := []
  waiting  : Option WaitEvent := none
  events   : Nat × Nat := (0, 0)
  ifBusy   : Bool := false
  recvs    : List Recv := []
  flits    : List Flits := []
  dmaR     : List Dma := []
  dmaW     : List Dma := []
  rect     : Nat × Nat × Nat × Nat := (0, 0, 0, 0)
  job      : Option (Nat × Nat) := none
  ended    : Bool := false
  hung     : Bool := false
  busySave : Bool := false
  busyRest : Bool := false
  lastCommit : Nat := 0
  corrected : Nat := 0
  scrubDone : Bool := false
  banks    : List (Nat × Nat) := []
  save     : SMap TileSave := []
  lastFlit : Option (Nat × Nat × Nat) := none
deriving DecidableEq, Repr, Inhabited

/-- Where a job instance stands (R319, R328, R330). -/
inductive JobPhase where
  | idle | running | quiescing | saving | preempted | restoring | aborting
deriving DecidableEq, Repr, Inhabited

/-- A job descriptor beyond `ACC_Pp_JOBj` (R319): its placement, its phase, when the phase ends in device time (0 unknown), the
instance's first check flag, and whether it frees at the end of zeroing (R321). -/
structure Job where
  blocks    : List Nat := []
  image     : Image := {}
  phase     : JobPhase := .idle
  checked   : Bool := false
  retire    : Bool := false
  launched  : Nat := 0
  golden    : Bool := false
  kvPools   : List Nat := []
  sems      : List Nat := []
  credits   : List Nat := []
  stream    : Option (Nat × Bool) := none
deriving DecidableEq, Repr, Inhabited

/-- A semaphore: colour and count (R331). -/
structure Semaphore where
  colour : Nat := 0
  count  : Nat := 0
deriving DecidableEq, Repr, Inhabited

/-- A link credit: colour, the edge's two blocks, and the job that holds it (R331). -/
structure Credit where
  colour : Nat := 0
  first  : Nat := 0
  second : Nat := 0
  valid  : Bool := false
  holder : Option Nat := none
deriving DecidableEq, Repr, Inhabited

/-- A partition beyond its registers (R314 to R332): the two slice-table banks as (valid, colour), the loaded images, the job
descriptors, semaphores, credits, a shed that waits for the next boundary, and the creation or destruction in progress. -/
structure Part where
  bankA     : List (Bool × Nat) := []
  bankB     : List (Bool × Nat) := []
  images    : SMap Image := []
  jobs      : SMap Job := []
  sems      : SMap Semaphore := []
  credits   : SMap Credit := []
  shedWait  : Bool := false
  dramBusy  : Bool := false
  genDrop   : Bool := false
deriving DecidableEq, Repr, Inhabited

/-- A copy of a frame at output commit (R460, R461). -/
inductive CopyState where
  | none | done (at_ : Nat) (flags : Nat) (cycles : Nat) | missing (at_ : Nat)
deriving DecidableEq, Repr, Inhabited

/-- A commit in progress (R460 to R464): S, K, the two copies of its frame, and whether a golden frame withheld one. -/
structure Commit where
  start  : Nat := 0
  k      : Nat := 0
  a      : CopyState := .none
  b      : CopyState := .none
  golden : Bool := false
deriving DecidableEq, Repr, Inhabited

/-- A publication that waits for copy B to be read again (R464): when it ends, the seal flags, and the two cycle counts. -/
structure Reread where
  ends  : Nat := 0
  k     : Nat := 0
  flags : Nat := 0
  cycA  : Nat := 0
  cycB  : Nat := 0
deriving DecidableEq, Repr, Inhabited

/-- An output stream beyond its registers (R458 to R471): the two copies of the frame in hand, the first completion, the commit
in progress, copies of an earlier frame still to report, a pending re-read of copy B, a missed deadline, a run of invalid
headers, the partner's record, whether a golden frame withheld a copy, whether the trigger delivered, and whether any copy was
ever delivered. -/
structure Stream where
  copyA    : CopyState := .none
  copyB    : CopyState := .none
  start    : Option Nat := none
  commit   : Option Commit := none
  owedA    : Bool := false
  owedB    : Bool := false
  reread   : Option Reread := none
  late     : Bool := false
  invRun   : Bool := false
  partner  : Option PartnerRec := none
  golden   : Bool := false
  trigger  : Bool := false
  everDone : Bool := false
deriving DecidableEq, Repr, Inhabited

/-- A golden slot in force for a partition (R480 to R484). -/
structure Golden where
  stream : Nat := 0
  isB    : Bool := false
  ends   : Nat := 0
  ran    : Bool := false
deriving DecidableEq, Repr, Inhabited

/-- A block's periodic self-test beyond its registers (R474 to R479). -/
structure SelfTest where
  slotEnd   : Option Nat := none
  chunk     : Bool := false
  passStart : Option Nat := none
  skipRun   : Bool := false
deriving DecidableEq, Repr, Inhabited

/-- The numeric factor of a solver slot (R269): the strictly lower columns of L as (row, column, value) and D. -/
structure Factor where
  low  : List (Nat × Nat × Word) := []
  diag : List Word := []
deriving DecidableEq, Repr, Inhabited

/-- The matrix values of a solver slot: P, A and ρ and σ (R272). -/
structure SolMats where
  p     : List Word := []
  a     : List Word := []
  rho   : List Word := []
  sigma : Word := 0#32
deriving DecidableEq, Repr, Inhabited

/-- A solver result: the vectors of a result record (R286). -/
structure SolVec where
  x : List Word := []
  z : List Word := []
  y : List Word := []
deriving DecidableEq, Repr, Inhabited

/-- A problem slot of the solver engine (R272 to R280, R286). -/
structure SolSlot where
  n       : Nat := 0
  m       : Nat := 0
  pPtr    : List Nat := []
  pIdx    : List Nat := []
  aPtr    : List Nat := []
  aIdx    : List Nat := []
  perm    : List Nat := []
  mats    : SolMats := {}
  staged  : SolMats := {}
  pend    : Bool := false
  q       : List Word := []
  l       : List Word := []
  u       : List Word := []
  alpha   : Word := 0#32
  vtags   : List Word := []
  ctags   : List Word := []
  factor  : Option Factor := none
  last    : Option SolVec := none
  lastV   : List Word := []
  lastC   : List Word := []
  lastHash : Dword := 0#64
  seq     : Nat := 0
deriving DecidableEq, Repr, Inhabited

/-- A queued start (R281): slot, due time, deadline. -/
structure SolStart where
  slot     : Nat := 0
  due      : Nat := 0
  deadline : Nat := 0
deriving DecidableEq, Repr, Inhabited

/-- Where a running solve stands (R268, R283). -/
inductive SolPhase where
  | warm | refactor | iterate | finished
deriving DecidableEq, Repr, Inhabited

/-- The running solve (R268, R279 to R285): its start, its phase, the iterate, the warm start, the best iterate with its
residuals, the iterations done, the flags of R286, the count carried, the device time at which it left the queue and the PCLK
cycles from there to the end of the phase at hand (R282). -/
structure SolRun where
  start  : SolStart := {}
  phase  : SolPhase := .warm
  cur    : SolVec := {}
  warm   : SolVec := {}
  best   : SolVec := {}
  bestK  : Nat := 0
  bestC  : Word := 0#32
  rp     : Word := 0#32
  rd     : Word := 0#32
  k      : Nat := 0
  flags  : Nat := 0
  carry  : Nat := 0
  refact : Nat := 0
  t0     : Nat := 0
  cyc    : Nat := 0
deriving DecidableEq, Repr, Inhabited

/-- An input source of the control engine: its two newest values with their arrival stamps (R292), 512 data bits each. -/
structure CtlInput where
  new : Option (BitVec 512 × Nat) := none
  old : Option (BitVec 512 × Nat) := none
deriving DecidableEq, Repr, Inhabited

/-- A loop channel beyond its registers (R296 to R304, R616): both banks, the accepted swap, the state variables of the chain,
the last target and value used, the instant of the last accepted sample, and the pending sample. -/
structure Channel where
  bankA    : BitVec 1024 := 0#1024
  bankB    : BitVec 1024 := 0#1024
  swapAt   : Option Nat := none
  mPrev    : Word := 0#32
  rPrev    : Word := 0#32
  i        : Word := 0#32
  d        : Word := 0#32
  yPrev    : Word := 0#32
  z11      : Word := 0#32
  z12      : Word := 0#32
  z21      : Word := 0#32
  z22      : Word := 0#32
  soft     : Bool := false
  target   : Option Word := none
  lastX    : Option Word := none
  instant  : Option Nat := none
  pendAt   : Option Nat := none
  poisRun  : Bool := false
deriving DecidableEq, Repr, Inhabited

/-- The test generator beyond its registers (R307, R308): evaluations done, register, phase and increment; and the capture memory's
next entry (R309). -/
structure TestGen where
  n     : Nat := 0
  reg   : Nat := 0
  phase : Nat := 0
  delta : Nat := 0
  next  : Nat := 0
deriving DecidableEq, Repr, Inhabited

/-- A frame open on a camera stream (R379, R380). -/
structure CamFrame where
  capture : Nat := 0
  slot    : Nat := 0
  lines   : Nat := 0
  bytes   : Nat := 0
  flags   : Nat := 0
  counter : Option Nat := none
deriving DecidableEq, Repr, Inhabited

/-- A camera stream beyond its registers. -/
structure CamStream where
  frame   : Option CamFrame := none
  prev    : Option Nat := none
  invRun  : Bool := false
  skip    : Bool := false
  ready   : Option Nat := none
  count   : Nat := 0
deriving DecidableEq, Repr, Inhabited

/-- A frame waiting in an express queue (R394): its template, its payload, and whether it is a safety notification. -/
structure Express where
  template : Nat := 0
  payload  : List Byte := []
  notify   : Bool := false
deriving DecidableEq, Repr, Inhabited

/-- An Ethernet port beyond its registers (R389, R390, R394, R396): its express queue, other frames waiting, the gate banks' active
bank, a discard run after link loss, the frame that left it last with its transmit stamp in units of 2^-16 ns. Port 4 is the
host's: its queue holds nothing. -/
structure EthPort where
  express  : List Express := []
  queue    : List EthFrame := []
  activeB  : Bool := false
  dropRun  : Bool := false
  wasUp    : Bool := false
  sent     : List Byte := []
  sentAt   : Nat := 0
deriving DecidableEq, Repr, Inhabited

/-- A CAN transmit buffer beyond the message RAM (R404, R405): the attempts, and a payload that waits for a frame in transmission. -/
structure CanTx where
  attempts : Nat := 0
  next     : Option (List Byte) := none
deriving DecidableEq, Repr, Inhabited

/-- A CAN controller beyond its registers (R402 to R408): transmit buffers, the buffer being sent, the elements in each receive
FIFO, a discard run, and the message RAM's bytes. -/
structure CanCtl where
  tx      : SMap CanTx := []
  sending : Option Nat := none
  fifo0   : Nat := 0
  fifo1   : Nat := 0
  overrun : Bool := false
  ram     : SMap Byte := []
deriving DecidableEq, Repr, Inhabited

/-- A hardened input beyond its registers (R414 to R416): the raw level and since when, the rejections seen, the last accepted
change, and since when the filtered state holds. -/
structure Pin where
  raw      : Bool := false
  since    : Nat := 0
  rejects  : List Nat := []
  changeAt : Option Nat := none
  heldAt   : Nat := 0
deriving DecidableEq, Repr, Inhabited

/-- A SENT input beyond its registers (R410). -/
structure Sent where
  validAt : Nat := 0
  errRun  : Bool := false
  silent  : Bool := false
deriving DecidableEq, Repr, Inhabited

/-- An SPI controller beyond its registers (R411, R412): the transfer in progress (true for input), output payloads waiting, an
input transfer that waits since its due time, and the last due time. -/
structure Spi where
  busy    : Option Bool := none
  outs    : List (List Byte) := []
  waiting : Option Nat := none
  lastDue : Option Nat := none
  cs      : Nat := 0
deriving DecidableEq, Repr, Inhabited

/-- A camera of a start on the pixel engine (R217): its port, its rank, the stream whose frame it takes, the slot its lane holds
and whether that frame is sealed. A mode-2 start has one, with no stream. -/
structure PixCam where
  port   : Nat := 0
  rank   : Nat := 0
  stream : Option Nat := none
  slot   : Option Nat := none
  closed : Bool := false
deriving DecidableEq, Repr, Inhabited

/-- A start accepted by the pixel engine (R217, R220): program, time, and the cameras still to finish. -/
structure PixRun where
  prog   : Nat := 0
  at_    : Nat := 0
  cams   : List PixCam := []
deriving DecidableEq, Repr, Inhabited

/-- A frame-table entry (R245); its `FREE` bit is its place on a free list of the pool. -/
structure KvFrame where
  count   : Nat := 0
  gen     : Nat := 0
  pending : Bool := false
deriving DecidableEq, Repr, Inhabited

/-- A KV context entry with its page table (R244, R245). -/
structure KvCtx where
  state  : Nat := 0
  pool   : Nat := 0
  len    : Nat := 0
  ptBase : Nat := 0
  ptCap  : Nat := 0
  step   : Nat := 0
  pt     : List (Nat × Nat) := []
deriving DecidableEq, Repr, Inhabited

/-- A copy planned by a step (R251): source frame, destination frame, tokens. -/
structure KvCopy where
  src    : Nat := 0
  dst    : Nat := 0
  tokens : Nat := 0
deriving DecidableEq, Repr, Inhabited

/-- One entry of a step as resolved: context, op, N, old and new length, first query row (R257, R258). -/
structure KvItem where
  ctx    : Nat := 0
  op     : Nat := 0
  n      : Nat := 0
  row    : Nat := 0
  oldLen : Nat := 0
  newLen : Nat := 0
deriving DecidableEq, Repr, Inhabited

/-- An open step (R247 to R262): its number, handoff descriptor, resolved items and copies, the tables as they stood at open,
the frames whose count reached 0, in order, the plan's bytes, the sequence number it was published under, and how far the
step has come. -/
structure KvStep where
  number    : Nat := 0
  ho        : Nat := 0
  items     : List KvItem := []
  copies    : List KvCopy := []
  oldCtxs   : SMap KvCtx := []
  oldFrames : SMap KvFrame := []
  oldFree   : SMap (List Nat) := []
  zeroed    : List Nat := []
  plan      : List Byte := []
  published : Option Nat := none
  bound     : Bool := false
  job       : Option (Nat × Nat) := none
  doneA     : Nat := 0
  doneB     : Nat := 0
  mailbox   : Nat := 0
deriving DecidableEq, Repr, Inhabited

/-- A KV pool beyond its registers (R241 to R243, R264): while it is diverged, whether copy B was the aborted one, and whether the
aborted partition has been reset since. -/
structure KvPool where
  partition : Nat := 0
  twin      : Option Nat := none
  long      : Bool := false
  latent    : Nat := 0
  layers    : Nat := 0
  fmt       : Nat := 0
  g         : Nat := 0
  h         : Nat := 0
  base      : Nat := 0
  s         : Nat := 0
  lmax      : Nat := 0
  frames    : SMap KvFrame := []
  free      : SMap (List Nat) := []
  step      : Option KvStep := none
  lostB     : Bool := false
  wasReset  : Bool := false
deriving DecidableEq, Repr, Inhabited

/-- A mailbox beyond its registers (R353, R358): when its request landed and whether it has been accepted. -/
structure Mailbox where
  landed   : Nat := 0
  accepted : Option Nat := none
  waiting  : Bool := false
deriving DecidableEq, Repr, Inhabited

/-- An object a command locks (R360): its kind and number, and the mailbox that holds it. -/
structure ObjLock where
  kind    : Nat := 0
  id      : Nat := 0
  mailbox : Nat := 0
deriving DecidableEq, Repr, Inhabited

/-- A Bamset port beyond its registers (R422, R425): how many lanes train, the neighbour's hello and whether it was refused, hellos
to be flooded, the hellos sent last and when, the device time in the last time message sent, and the last packet sent. -/
structure BamPort where
  lanes : Nat := 4
  hello : Option Hello := none
  notMember : Bool := false
  out   : List Hello := []
  sent  : List Hello := []
  sentAt : Option Nat := none
  timeSent : Option Nat := none
  timeAt : Option Nat := none
  last  : Option BamPacket := none
deriving DecidableEq, Repr, Inhabited

/-- A discovery run (R426 to R429): hellos collected, the time of the last new one, the numbers assigned by the root, the result
for this device, the results sent to the others, the acknowledgements, and whether the commit has been sent. -/
structure Discovery where
  hellos   : List Hello := []
  lastNew  : Nat := 0
  assigned : List (Nat × Nat) := []
  result   : Option DiscResult := none
  sentTo   : List (Nat × DiscResult) := []
  acks     : List Nat := []
  sentAt   : Option Nat := none
  commit   : Bool := false
deriving DecidableEq, Repr, Inhabited

/-- A remote access waiting for its completion (R432). -/
structure Remote where
  master : Nat := 0
  write  : Bool := false
  addr   : Nat := 0
  len    : Nat := 0
  start  : Nat := 0
deriving DecidableEq, Repr, Inhabited

/-- A mirror channel beyond its registers (R435 to R437): the slot and sequence being copied, since when, and a newer publish. -/
structure Mirror where
  slot  : Nat := 0
  seq   : Nat := 0
  start : Nat := 0
  newer : Option (Nat × Nat) := none
deriving DecidableEq, Repr, Inhabited

/-- A twin binding beyond its registers (R439): the local commit that waits for the partner's record. -/
structure TwinBind where
  waiting : Option Nat := none
  stream  : Nat := 0
  sent    : Option PartnerRec := none
deriving DecidableEq, Repr, Inhabited

/-- A running rung of the reset ladder (R512, R513): its number, target, the unit `ERR_LADDER` shows, its start, the `SEQ` of the
record that caused it and a requesting mailbox. -/
structure Rung where
  rung    : Nat := 0
  target  : Target := .mailbox 0
  unit    : Nat := 0
  start   : Nat := 0
  recSeq  : Option Nat := none
  mailbox : Option Nat := none
deriving DecidableEq, Repr, Inhabited

/-- A section of a dump or readout (R507, R511): unit, subsource, what it holds, and its state: 0 to be read, 1 unreadable, 3
absent. -/
structure Section where
  unit      : Nat := 0
  subsource : Nat := 0
  kind      : Nat := 0
  state     : Nat := 0
deriving DecidableEq, Repr, Inhabited

/-- A dump in progress (R507 to R511): the `SEQ` of its record, its scope, its start and its sections. -/
structure Dump where
  recSeq   : Nat := 0
  scope    : Nat := 0
  start    : Nat := 0
  sections : List Section := []
deriving DecidableEq, Repr, Inhabited

/-- A search for the guilty context (R524 to R526): the tile whose watchdog fired, the suspects still to replay, the first of them
in replay on the quarantine partition when one is. -/
structure Search where
  tile     : Nat := 0
  suspects : List (Nat × Nat) := []
  quar     : Option Nat := none
deriving DecidableEq, Repr, Inhabited

/-- Where a start stands (R536, R540): held in reset, waiting for the eMMC or the TRNG, in backoff, or with supervisor firmware and
mailbox service running. -/
inductive BootPhase where
  | held | waiting | backoff | done
deriving DecidableEq, Repr, Inhabited

/-- Boot and identity beyond the registers (R531 to R548): what this start finds outside the device, whether the identity is derived and
the part record verified, the start of the attempt or backoff at hand, the rollback store as read, the slot of the attempt, the
verified bodies and objects, the first untested pair, whether the token check has passed, and the slot of a boot that a chip reset cut
before its confirmation. -/
structure Boot where
  phase     : BootPhase := .held
  env       : BootEnv := {}
  identity  : Bool := false
  partOk    : Bool := false
  since     : Nat := 0
  emmc      : Option RpmbBlock := none
  counters  : List Nat := []
  rootMask  : Nat := 0
  slotB     : Bool := false
  manifest  : Manifest := {}
  part      : PartRecord := {}
  objs      : List BootObj := []
  comboA    : Nat := 255
  comboB    : Nat := 255
  comboBad  : Bool := false
  comboOk   : Bool := false
  cut       : Option Bool := none
deriving DecidableEq, Repr, Inhabited

/-- Where the power sequencer stands (R563 to R567). -/
inductive PowerPhase where
  | off | polling | ordering | up | retry | goingDown | standby | shutdown
deriving DecidableEq, Repr, Inhabited

/-- The power manager beyond its registers (R557 to R575): the sequencer and the rail order it has enabled; consecutive deviations by
sensor and whether the thermal trip has been recorded; the last voltage step by rail, in ns, and rails held at their limit; a wake that
waits; the references; the open-drain outputs asserted; domains with an event refused in this run; since when the hottest sensor is hot
or cool, the last shed and restoration; and whether a power-down leads to standby. -/
structure Power where
  phase     : PowerPhase := .up
  order     : Nat := 10
  deviates  : SMap Nat := []
  tripped   : Bool := false
  avsAt     : SMap Nat := []
  avsHeld   : SMap Bool := []
  wakeWait  : Bool := false
  refOk     : Bool := true
  sdsRefOk  : Bool := true
  thermN    : Bool := false
  pwrCycN   : Bool := false
  offRun    : SMap Bool := []
  hotSince  : Option Nat := none
  coolSince : Option Nat := none
  lastShed  : Option Nat := none
  lastUnshed : Option Nat := none
  downTo    : Bool := false
deriving DecidableEq, Repr, Inhabited

/-- The safety state beyond its registers (R443 to R452). -/
structure Safety where
  latched   : BitVec 8 := 0#8
  crimson   : List Nat := []
  amberEnd  : SMap Nat := []
  amberOn   : BitVec 9 := 0#9
  kickAt    : Nat := 0
  kickTime  : Nat := 0
  watchdog  : Bool := false
  expired   : Bool := false
  healthEnd : Option Nat := none
  safeLow   : Option Nat := none
  s4Seen    : Bool := false
  s4At      : Option Nat := none
  notProven : Bool := false
  outside   : Option Nat := none
deriving DecidableEq, Repr, Inhabited

/-- The freeze unit beyond its registers (R582 to R588): whether a request while disarmed was recorded, the snapshot registers as
latched, when FREEZE_OUT falls, when the readout began, the source, node, error record and lateness of the pending or last freeze,
and the freeze times sent to the members of the fabric. -/
structure Freeze where
  disarmedRun : Bool := false
  snapshot    : List (Section × List Byte) := []
  outUntil    : Option Nat := none
  readout     : Option Nat := none
  source      : Nat := 0
  node        : Nat := 0
  cause       : Nat := 0
  late        : Bool := false
  messages    : List Nat := []
deriving DecidableEq, Repr, Inhabited

/-- A record of the recorder (R589, R590): type, source, subsource, stamp, sequence, auxiliary word, payload. -/
structure RecItem where
  typ    : Nat := 0
  source : Nat := 0
  sub    : Nat := 0
  time   : Nat := 0
  seq    : Nat := 0
  aux    : Nat := 0
  data   : List Byte := []
deriving DecidableEq, Repr, Inhabited

/-- The recorder (R589 to R594): the records kept, those lost and the first of them, whether a command of R594 has completed since chip
start, whether wrapping lost a record, the place in the ring, records written, the frame sequence and next port of the stream; and the
replayer (R595 to R599): the recording loaded and what of its stream is not yet a whole record, whether it comes from the stream, its
blob area, whether it is replayable, the records passed, the commands reissued by mailbox and the commit marks compared by stream. -/
structure Recorder where
  items     : List RecItem := []
  lost      : Nat := 0
  clean     : Bool := true
  wrapped   : Bool := false
  ringPos   : Nat := 0
  stored    : Nat := 0
  sinkSeq   : Nat := 0
  sinkPort  : Nat := 0
  lostSeq   : Option Nat := none
  loaded    : List RecItem := []
  inflow    : List Byte := []
  streamed  : Bool := false
  blobs     : Nat := 0
  replayable : Bool := false
  passed    : Nat := 0
  issued    : SMap Nat := []
  seen      : SMap Nat := []
deriving DecidableEq, Repr, Inhabited

/-- Debug access beyond its registers (R600 to R603): the outstanding challenge's nonce, the challenges so far, since when a failed answer
blocks them, and the owner register and assignment that mailbox 15 had before the console took it. -/
structure Debug where
  nonce   : Option Nat := none
  counter : Nat := 0
  blocked : Option Nat := none
  owner   : Option (Nat × Bool) := none
deriving DecidableEq, Repr, Inhabited

/-- The state of the block. -/
structure State where
  /-- Commands waiting, first in first out (the host's queue of a block). -/
  pending   : List Instr := []
  /-- Registers, by device address (R26): what differs from the reset values of the register maps. -/
  regs      : SMap Dword := []
  /-- The three copies of each TMR word as differences from the register's value (R147, R148). -/
  tmr       : SMap (Dword × Dword × Dword) := []
  /-- Bytes of compute DRAM, host DRAM and scratchpads, by device address (R22). -/
  mem       : List Host.Cell := []
  /-- Poison bits, by device address div 64 (R135, R609). -/
  poison    : SMap Bool := []
  /-- Pages of host or compute DRAM whose first access after retirement has been recorded (R143). -/
  retiredHit : SMap Bool := []
  /-- The response to the latest access. -/
  reply     : Reply := {}
  /-- Device time: nanoseconds in bits 95:32, fraction in bits 31:0 (R34). -/
  time      : BitVec 96 := 0#96
  /-- What the steps of device time have added in all, in ns (R35): the model's own, to tell spans of device time (log entry 44). -/
  stepped   : Int := 0
  /-- The time servo (R36, R41). -/
  servo     : Servo := {}
  /-- The device time at which the next service round begins (R357). -/
  roundNext : Nat := 0
  /-- Holding registers, by master (R37). -/
  holds     : SMap TimeHold := []
  /-- The eight time wheels (R46). -/
  wheels    : SMap Wheel := []
  /-- The launch edge on which entries take effect: its number, the entries so far, and the latest newly due entry on it as wheel
  × 4,096 + index + 1 (R54, R55). -/
  edge      : Nat × Nat × Nat := (0, 0, 0)
  /-- Entries delayed to a later edge, in their order (R55). -/
  delayed   : List Due := []
  /-- Handoff descriptors in being, by number (R58, R617). -/
  handoffs  : SMap Handoff := []
  /-- Open handoff windows, by descriptor (R60). -/
  windows   : SMap Window := []
  /-- Landing lists, by die × 65,536 + number (R615). -/
  landings  : SMap Landing := []
  /-- Unit input ports, by unit ID × 16 + number (R58, R293). -/
  ports     : SMap Port := []
  /-- Twin launches whose copy B is still to start: the wheel entry, partition B and descriptor (R44). -/
  copyB     : List (Due × Nat × Nat) := []
  /-- Frame-sync pulses, by output: when they end (R383). -/
  fsync     : SMap Nat := []
  /-- Host interrupt lines raised (R52 NOTIFY, R528 IRQ). -/
  hostIrq   : BitVec 64 := 0#64
  /-- Logical tiles, by tile ID (R12). -/
  tiles     : SMap Tile := []
  /-- Partitions, by number (R314). -/
  parts     : SMap Part := []
  /-- The number the next job instance receives (R319). -/
  nextInst  : Nat := 1
  /-- Output streams, by number (R458). -/
  streams   : SMap Stream := []
  /-- Golden slots in force, by partition (R480). -/
  goldens   : SMap Golden := []
  /-- Periodic self-test, by block (R474). -/
  selfTests : SMap SelfTest := []
  /-- Access table entries, by table × 64 + entry (R341). -/
  access    : SMap AccEntry := []
  /-- Pixel-engine programs, by number (R213). -/
  pixProgs  : SMap (BitVec 512) := []
  /-- Starts running on the pixel engine and those accepted in the last 100 ms (R217, R222). -/
  pixRuns   : List PixRun := []
  /-- Accepted starts: time and raw pixels (R222). -/
  pixWindow : List (Nat × Nat) := []
  /-- KV pools (R241) and contexts (R244). -/
  kvPools   : SMap KvPool := []
  /-- KV contexts, by ID (R244). -/
  kvCtxs    : SMap KvCtx := []
  /-- Solver slots (R272). -/
  solSlots  : SMap SolSlot := []
  /-- The start queue (R281). -/
  solQueue  : List SolStart := []
  /-- The running solve. -/
  solRun    : Option SolRun := none
  /-- Loop channels (R296). -/
  channels  : SMap Channel := []
  /-- Input sources of the control engine, by kind × 256 + index (R292, R413). -/
  ctlInputs : SMap CtlInput := []
  /-- The test generator (R307). -/
  testGen   : TestGen := {}
  /-- The capture memory: entries of 16 bytes, by index (R309). -/
  capture   : SMap (BitVec 128) := []
  /-- Camera streams (R378). -/
  camStrs   : SMap CamStream := []
  /-- External Ethernet ports. -/
  ethPorts  : SMap EthPort := []
  /-- Ethernet tables, by table × 65,536 + port × 4,096 + entry, 16 data words each (R418). -/
  ethTables : SMap (BitVec 1024) := []
  /-- The next descriptor of each host ring (R398), by ring number, transmit rings from 16 on. -/
  ethRings  : SMap Nat := []
  /-- Mailbox response frames still to send, by binding (R400). -/
  ethRsp    : List Nat := []
  /-- CAN controllers. -/
  cans      : SMap CanCtl := []
  /-- Hardened inputs, by pin (R414). -/
  pins      : SMap Pin := []
  /-- Since when the SAFE_IN states differ, and whether it was recorded (R417). -/
  safeDiff  : Option Nat × Bool := (none, false)
  /-- SENT inputs. -/
  sents     : SMap Sent := []
  /-- SPI controllers. -/
  spis      : SMap Spi := []
  /-- Bamset ports, by number (R421). -/
  bamPorts  : SMap BamPort := []
  /-- The discovery run. -/
  discovery : Discovery := {}
  /-- Whether a packet of an old epoch was dropped since the last commit (R430), destinations without route (R431), and whether
  the absence of a time root was recorded (R434). -/
  bamFlags  : Bool × List Nat × Bool := (false, [], false)
  /-- Remote accesses outstanding, by number (R432). -/
  remotes   : SMap Remote := []
  /-- Mirror channels copying, by channel (R435). -/
  mirrors   : SMap Mirror := []
  /-- Twin bindings, by number (R438). -/
  twins     : SMap TwinBind := []
  /-- Records on their way to the collector, oldest first (R490). -/
  posting   : List ErrRecord := []
  /-- Records held by the collector (R493). -/
  collector : List ErrRecord := []
  /-- The error log, oldest first (R501). -/
  errLog    : List ErrRecord := []
  /-- Whether the entry reserved for an overflow record is taken (R497). -/
  overflowed : Bool := false
  /-- The end of the service round in whose window the handler last took a step (R494). -/
  handled   : Nat := 0
  /-- Records written to the retention store since power-up (R502). -/
  retains   : Nat := 0
  /-- The running dump (R507). -/
  dump      : Option Dump := none
  /-- Dumps since chip reset, and the place of the next in the dump ring (R511). -/
  dumpSeq   : Nat × Nat := (0, 0)
  /-- The running rungs, in the order of their start (R513, R498). -/
  rungs     : List Rung := []
  /-- The host harts that run, by hart; the others are held in reset (R540 step 14, R569). -/
  harts     : BitVec 16 := 0#16
  /-- Rung-2 and rung-3 resets of the last 10 s, by partition (0–31) or 32 + unit (R520). -/
  resets    : SMap (List Nat) := []
  /-- Searches running and waiting, first in first out (R525). -/
  searches  : List Search := []
  /-- Host-hart watchdogs: latest kick, by hart (R506). -/
  hartKick  : SMap Nat := []
  /-- Host cache corrections, by core (R529). -/
  hostCe    : SMap Nat := []
  /-- A chip reset that waits to be applied: its cause and instant (R518). -/
  chipReset : Option (Nat × Nat) := none
  /-- Mailboxes (R353). -/
  mailboxes : SMap Mailbox := []
  /-- Objects locked by commands (R360). -/
  locks     : List ObjLock := []
  /-- Boot (R540). -/
  boot      : Boot := {}
  /-- SHA-384 image log of attestation (R550) and images logged. -/
  imageLog  : BitVec 384 × Nat := (0#384, 0)
  /-- When an attestation report was requested (R549). -/
  attest    : Option Nat := none
  /-- Whether the TRNG withholds output after a failed health test (R552). -/
  trng      : Bool := false
  /-- The power manager. -/
  power     : Power := {}
  /-- The safety state. -/
  safety    : Safety := {}
  /-- The freeze unit. -/
  frz       : Freeze := {}
  /-- Recorder and replayer. -/
  recorder  : Recorder := {}
  /-- Debug access. -/
  dbg       : Debug := {}
  /-- MODEL FIELD, not the manual's: how many free values have been drawn. Config's free values are applied to it. -/
  fresh     : Nat := 0
deriving DecidableEq, Repr, Inhabited

/-- The block right after the release of reset (step 1 of R540): every register at its reset value, nothing loaded, the state
Grey, device time 0 and not yet running (R5, R38). The values the manual does not state are those of the log entries named in
INVENTORY.md. -/
def State.reset : State := {}

end Sys2Proof.Machine
end

