-- ==== Sys2Proof/Machine/RegMap.lean ====
section
/-! DEFINITION. The register maps of the manual (R69, R96, R150, R223, R265, R288, R311, R346, R349, R418, R440, R486, R528, R553, R579, R605): the address, extent, reset value and writable bits of every register. -/

namespace Sys2Proof.Machine

/-- What a write of a register does beyond storing its writable bits. -/
inductive RegAct where
  | plain
  | safeKick
  | attest
  | request
  | sequence
  | timeRun
  | rate
  | source
  | stepGo
  | wheelCtrl
  | wheelBase
  | publish
  | streamCfg
  | streamOff
  | fabricLimit
  | standby
  | spread
  | domain
  | freezeArm
  | debugLock
  | recCfg
  | repair
  | cetClear
  | engine
  | camPort
  | camStream
  | fsyncMode
  | ethTable
  | canCtrl
  | canRam
  | canTx
  | bamCtrl
  | bamPort
  | mirror
  | twin
  | solSlot
  | testGen
  | captureCfg
  | channel
  | channelOff
  | hartTimeout
  | hartKick
  | sentCfg
  | kvRegion
deriving DecidableEq, Repr, Inhabited

/-- One row of a register map: offset, count and stride (two levels), extent in bytes (R27), reset value, bits a write stores, bits a write of 1 sets, whether reads return zero, the stated range of the whole register and whether 0 is admitted outside it, the row's behaviour, and whether it is a TMR word (R147). -/
structure RegRow where
  off : Nat
  n1 : Nat
  s1 : Nat
  n2 : Nat
  s2 : Nat
  bytes : Nat
  reset : Nat
  wmask : Nat
  w1s : Nat
  wo : Bool
  lo : Nat
  hi : Nat
  zero : Bool
  act : RegAct
  tmr : Bool
deriving DecidableEq, Repr, Inhabited

/-- The configuration base of a unit (R26). -/
def unitBase (u : Nat) : Nat := 0x003000000000 + u * 0x10000

/-- `TW_CTRL`, RW (R69). -/
def R.TW_CTRL : Nat := 0x3000020000
/-- `TW_STATUS`, RO (R69). -/
def R.TW_STATUS : Nat := 0x3000020004
/-- `TW_TIME_LO`, TMR, RO (R69). -/
def R.TW_TIME_LO : Nat := 0x3000020008
/-- `TW_TIME_HI`, TMR, RO (R69). -/
def R.TW_TIME_HI : Nat := 0x300002000C
/-- `TW_FRAC`, TMR, RO (R69). -/
def R.TW_FRAC : Nat := 0x3000020010
/-- `TW_SHORT`, RO (R69). -/
def R.TW_SHORT : Nat := 0x3000020014
/-- `TW_RATE`, TMR (R69). -/
def R.TW_RATE : Nat := 0x3000020018
/-- `TW_SRC`, TMR (R69). -/
def R.TW_SRC : Nat := 0x300002001C
/-- `TW_STEP_LO`, WO (R69). -/
def R.TW_STEP_LO : Nat := 0x3000020020
/-- `TW_STEP_HI`, WO (R69). -/
def R.TW_STEP_HI : Nat := 0x3000020024
/-- `TW_STEP_GO`, WO (R69). -/
def R.TW_STEP_GO : Nat := 0x3000020028
/-- `TW_LAUNCH_OFFSET`, RO (R69). -/
def R.TW_LAUNCH_OFFSET : Nat := 0x300002002C
/-- `TW_ISSUE_LATE_CNT`, RO (R69). -/
def R.TW_ISSUE_LATE_CNT : Nat := 0x3000020030
/-- `TW_STALE_CNT`, RO (R69). -/
def R.TW_STALE_CNT : Nat := 0x3000020034
/-- `TW_Wn_CTRL`, RW (R69). -/
def R.TW_W_CTRL (i : Nat) : Nat := 0x3000020100 + 0x40 * i
/-- `TW_Wn_BASE`, TMR (R69). -/
def R.TW_W_BASE (i : Nat) : Nat := 0x3000020108 + 0x40 * i
/-- `TW_Wn_NEXT`, RO (R69). -/
def R.TW_W_NEXT (i : Nat) : Nat := 0x3000020110 + 0x40 * i
/-- `TW_Wn_PERIOD_A`, TMR, RO (R69). -/
def R.TW_W_PERIOD_A (i : Nat) : Nat := 0x3000020118 + 0x40 * i
/-- `TW_Wn_PERIOD_B`, TMR, RO (R69). -/
def R.TW_W_PERIOD_B (i : Nat) : Nat := 0x3000020120 + 0x40 * i
/-- `TW_Wn_COUNT`, RO (R69). -/
def R.TW_W_COUNT (i : Nat) : Nat := 0x3000020128 + 0x40 * i
/-- `TW_Wn_PERIODS`, RO (R69). -/
def R.TW_W_PERIODS (i : Nat) : Nat := 0x300002012C + 0x40 * i
/-- `TW_HO_PUBLISH`, WO (R69). -/
def R.TW_HO_PUBLISH : Nat := 0x3000021000
/-- `TW_HOi_STATE`, RO (R69). -/
def R.TW_HO_STATE (i : Nat) : Nat := 0x3000024000 + 0x10 * i
/-- `TW_HOi_DELIV`, RO (R69). -/
def R.TW_HO_DELIV (i : Nat) : Nat := 0x3000024008 + 0x10 * i
/-- `CDn_ID`, RO (R96). -/
def R.CD_ID (n : Nat) : Nat := 0x3000100000 + 0x10000 * n
/-- `CDn_CTRL`, RW (R96). -/
def R.CD_CTRL (n : Nat) : Nat := 0x3000100008 + 0x10000 * n
/-- `CDn_BLOCK_OOS`, TMR, RWL (R96). -/
def R.CD_BLOCK_OOS (n : Nat) : Nat := 0x3000100010 + 0x10000 * n
/-- `CDn_OOS_CAUSE`, TMR, RWL (R96). -/
def R.CD_OOS_CAUSE (n : Nat) : Nat := 0x3000100018 + 0x10000 * n
/-- `CDn_ROWr_MAP`, TMR, RWL (R96). -/
def R.CD_ROW_MAP (n i : Nat) : Nat := 0x3000100100 + 0x10000 * n + 0x8 * i
/-- `CDn_XLINK_FAIL`, TMR, RWL (R96). -/
def R.CD_XLINK_FAIL (n : Nat) : Nat := 0x3000100180 + 0x10000 * n
/-- `CDn_XLINK_MAXDLY`, RO (R96). -/
def R.CD_XLINK_MAXDLY (n : Nat) : Nat := 0x3000100188 + 0x10000 * n
/-- `CDn_Tt_STATUS`, RO (R96). -/
def R.CD_T_STATUS (n i : Nat) : Nat := 0x3000102000 + 0x10000 * n + 0x20 * i
/-- `CDn_Tt_CYCLE`, RO (R96). -/
def R.CD_T_CYCLE (n i : Nat) : Nat := 0x3000102008 + 0x10000 * n + 0x20 * i
/-- `CDn_Tt_EXPEND`, RO (R96). -/
def R.CD_T_EXPEND (n i : Nat) : Nat := 0x3000102010 + 0x10000 * n + 0x20 * i
/-- `CDn_MEM_CTRL`, RW (R150). -/
def R.CD_MEM_CTRL (n : Nat) : Nat := 0x3000108000 + 0x10000 * n
/-- `CDn_CET_THRESH`, RW (R150). -/
def R.CD_CET_THRESH (n : Nat) : Nat := 0x3000108008 + 0x10000 * n
/-- `CDn_CET_LOST`, RO (R150). -/
def R.CD_CET_LOST (n : Nat) : Nat := 0x3000108010 + 0x10000 * n
/-- `CDn_CET_CLR`, WO (R150). -/
def R.CD_CET_CLR (n : Nat) : Nat := 0x3000108018 + 0x10000 * n
/-- `CDn_CE_CNT`, RO (R150). -/
def R.CD_CE_CNT (n : Nat) : Nat := 0x3000108020 + 0x10000 * n
/-- `CDn_UE_CNT`, RO (R150). -/
def R.CD_UE_CNT (n : Nat) : Nat := 0x3000108028 + 0x10000 * n
/-- `CDn_SPAD_CE_CNT`, RO (R150). -/
def R.CD_SPAD_CE_CNT (n : Nat) : Nat := 0x3000108030 + 0x10000 * n
/-- `CDn_SCRUB_PASSES`, RO (R150). -/
def R.CD_SCRUB_PASSES (n : Nat) : Nat := 0x3000108038 + 0x10000 * n
/-- `CDn_RETIRE_CNT`, RO (R150). -/
def R.CD_RETIRE_CNT (n : Nat) : Nat := 0x3000108040 + 0x10000 * n
/-- `CDn_CETe`, RO (R150). -/
def R.CD_CET (n i : Nat) : Nat := 0x3000109000 + 0x10000 * n + 0x20 * i
/-- `CDn_RETP_i`, RW (R150). -/
def R.CD_RETP (n i : Nat) : Nat := 0x300010B000 + 0x10000 * n + 0x8 * i
/-- `CDn_RETB_j`, RW (R150). -/
def R.CD_RETB (n i : Nat) : Nat := 0x300010B800 + 0x10000 * n + 0x8 * i
/-- `CDn_Tt_MEMCFG`, TMR (R150). -/
def R.CD_T_MEMCFG (n i : Nat) : Nat := 0x300010C000 + 0x10000 * n + 0x8 * i
/-- `CDn_Tt_BEAT`, RO (R150). -/
def R.CD_T_BEAT (n i : Nat) : Nat := 0x300010D000 + 0x10000 * n + 0x8 * i
/-- `CDn_Tt_SCRUB`, RO (R150). -/
def R.CD_T_SCRUB (n i : Nat) : Nat := 0x300010E000 + 0x10000 * n + 0x8 * i
/-- `PIX_CTRL`, RW (R223). -/
def R.PIX_CTRL : Nat := 0x3000180000
/-- `PIX_STATUS`, RO (R223). -/
def R.PIX_STATUS : Nat := 0x3000180008
/-- `PIX_WINDOW_PIX`, RO (R223). -/
def R.PIX_WINDOW_PIX : Nat := 0x3000180010
/-- `PIX_OVERRUN_CNT`, RO (R223). -/
def R.PIX_OVERRUN_CNT : Nat := 0x3000180018
/-- `PIX_TIMEOUT_CNT`, RO (R223). -/
def R.PIX_TIMEOUT_CNT : Nat := 0x3000180020
/-- `PIX_SEAL_CNT`, RO (R223). -/
def R.PIX_SEAL_CNT : Nat := 0x3000180028
/-- `PIX_LANEn_STATE`, RO (R223). -/
def R.PIX_LANE_STATE (i : Nat) : Nat := 0x3000180100 + 0x10 * i
/-- `KVD_CTRL`, RW (R265). -/
def R.KVD_CTRL : Nat := 0x3000210000
/-- `KVD_STATUS`, RO (R265). -/
def R.KVD_STATUS : Nat := 0x3000210008
/-- `KVD_REGION_BASE`, TMR (R265). -/
def R.KVD_REGION_BASE : Nat := 0x3000210010
/-- `KVD_REGION_SIZE`, TMR (R265). -/
def R.KVD_REGION_SIZE : Nat := 0x3000210018
/-- `KVD_CTX_OPEN_CNT`, RO (R265). -/
def R.KVD_CTX_OPEN_CNT : Nat := 0x3000210020
/-- `KVD_STALE_CNT`, RO (R265). -/
def R.KVD_STALE_CNT : Nat := 0x3000210028
/-- `KVD_ROLLBACK_CNT`, RO (R265). -/
def R.KVD_ROLLBACK_CNT : Nat := 0x3000210030
/-- `KVD_COPY_CNT`, RO (R265). -/
def R.KVD_COPY_CNT : Nat := 0x3000210038
/-- `KVD_POOLp_CFG`, TMR, RO (R265). -/
def R.KVD_POOL_CFG (i : Nat) : Nat := 0x3000211000 + 0x40 * i
/-- `KVD_POOLp_STEP`, RO (R265). -/
def R.KVD_POOL_STEP (i : Nat) : Nat := 0x3000211008 + 0x40 * i
/-- `KVD_POOLp_FREE`, RO (R265). -/
def R.KVD_POOL_FREE (i : Nat) : Nat := 0x3000211010 + 0x40 * i
/-- `KVD_POOLp_FRAMES`, RO (R265). -/
def R.KVD_POOL_FRAMES (i : Nat) : Nat := 0x3000211018 + 0x40 * i
/-- `SOL_CTRL`, RW (R288). -/
def R.SOL_CTRL : Nat := 0x30001D0000
/-- `SOL_STATUS`, RO (R288). -/
def R.SOL_STATUS : Nat := 0x30001D0008
/-- `SOL_SRAM_USED`, RO (R288). -/
def R.SOL_SRAM_USED : Nat := 0x30001D0010
/-- `SOL_SOLVE_CNT`, RO (R288). -/
def R.SOL_SOLVE_CNT : Nat := 0x30001D0018
/-- `SOL_DEADLINE_CNT`, RO (R288). -/
def R.SOL_DEADLINE_CNT : Nat := 0x30001D0020
/-- `SOL_SKIP_CNT`, RO (R288). -/
def R.SOL_SKIP_CNT : Nat := 0x30001D0028
/-- `SOL_SLOTs_CFG`, RW (R288). -/
def R.SOL_SLOT_CFG (i : Nat) : Nat := 0x30001D1000 + 0x40 * i
/-- `SOL_SLOTs_DIM`, RO (R288). -/
def R.SOL_SLOT_DIM (i : Nat) : Nat := 0x30001D1008 + 0x40 * i
/-- `SOL_SLOTs_NNZ`, RO (R288). -/
def R.SOL_SLOT_NNZ (i : Nat) : Nat := 0x30001D1010 + 0x40 * i
/-- `SOL_SLOTs_WF`, RO (R288). -/
def R.SOL_SLOT_WF (i : Nat) : Nat := 0x30001D1018 + 0x40 * i
/-- `SOL_SLOTs_HASH`, RO (R288). -/
def R.SOL_SLOT_HASH (i : Nat) : Nat := 0x30001D1020 + 0x40 * i
/-- `SOL_SLOTs_STATE`, RO (R288). -/
def R.SOL_SLOT_STATE (i : Nat) : Nat := 0x30001D1028 + 0x40 * i
/-- `SOL_SLOTs_LAST`, RO (R288). -/
def R.SOL_SLOT_LAST (i : Nat) : Nat := 0x30001D1030 + 0x40 * i
/-- `SOL_SLOTs_PARAM`, RO (R288). -/
def R.SOL_SLOT_PARAM (i : Nat) : Nat := 0x30001D1038 + 0x40 * i
/-- `CTL_CTRL`, RW (R311). -/
def R.CTL_CTRL : Nat := 0x30001E0000
/-- `CTL_STATUS`, RO (R311). -/
def R.CTL_STATUS : Nat := 0x30001E0008
/-- `CTL_OVERRUN_CNT`, RO (R311). -/
def R.CTL_OVERRUN_CNT : Nat := 0x30001E0010
/-- `CTL_TG_CFG`, RW (R311). -/
def R.CTL_TG_CFG : Nat := 0x30001E0020
/-- `CTL_TG_AMP`, RW (R311). -/
def R.CTL_TG_AMP : Nat := 0x30001E0024
/-- `CTL_TG_LEN`, RW (R311). -/
def R.CTL_TG_LEN : Nat := 0x30001E0028
/-- `CTL_TG_DPHI`, RW (R311). -/
def R.CTL_TG_DPHI : Nat := 0x30001E002C
/-- `CTL_TG_DDPHI`, RW (R311). -/
def R.CTL_TG_DDPHI : Nat := 0x30001E0030
/-- `CTL_TG_SEED`, RW (R311). -/
def R.CTL_TG_SEED : Nat := 0x30001E0034
/-- `CTL_CAP_CFG`, RW (R311). -/
def R.CTL_CAP_CFG : Nat := 0x30001E0040
/-- `CTL_CAP_COUNT`, RO (R311). -/
def R.CTL_CAP_COUNT : Nat := 0x30001E0048
/-- `CTL_CHc_CFG`, RW (R311). -/
def R.CTL_CH_CFG (i : Nat) : Nat := 0x30001E0100 + 0x40 * i
/-- `CTL_CHc_SP`, RW (R311). -/
def R.CTL_CH_SP (i : Nat) : Nat := 0x30001E0108 + 0x40 * i
/-- `CTL_CHc_AGE`, RW (R311). -/
def R.CTL_CH_AGE (i : Nat) : Nat := 0x30001E0110 + 0x40 * i
/-- `CTL_CHc_TARGET`, RW (R311). -/
def R.CTL_CH_TARGET (i : Nat) : Nat := 0x30001E0114 + 0x40 * i
/-- `CTL_CHc_STATE`, RO (R311). -/
def R.CTL_CH_STATE (i : Nat) : Nat := 0x30001E0118 + 0x40 * i
/-- `CTL_CHc_COUNT`, RO (R311). -/
def R.CTL_CH_COUNT (i : Nat) : Nat := 0x30001E0120 + 0x40 * i
/-- `CTL_CHc_LAST`, RO (R311). -/
def R.CTL_CH_LAST (i : Nat) : Nat := 0x30001E0128 + 0x40 * i
/-- `ACC_DENIED_CNT`, RO (R346). -/
def R.ACC_DENIED_CNT : Nat := 0x3000080000
/-- `ACC_SHED_SKIP_CNT`, RO (R346). -/
def R.ACC_SHED_SKIP_CNT : Nat := 0x3000080008
/-- `ACC_Pp_STATUS`, TMR, RO (R346). -/
def R.ACC_P_STATUS (i : Nat) : Nat := 0x3000080100 + 0x10 * i
/-- `ACC_Pp_BLOCKS`, TMR, RO (R346). -/
def R.ACC_P_BLOCKS (i : Nat) : Nat := 0x3000080108 + 0x10 * i
/-- `ACC_Pp_JOBj`, RO (R346). -/
def R.ACC_P_JOB (i : Nat) : Nat := 0x3000080400 + 0x8 * i
/-- `ACC_Cc_SUBMIT`, RO (R346). -/
def R.ACC_C_SUBMIT (i : Nat) : Nat := 0x3000088000 + 0x20 * i
/-- `ACC_Cc_DONE`, RO (R346). -/
def R.ACC_C_DONE (i : Nat) : Nat := 0x3000088008 + 0x20 * i
/-- `ACC_Cc_ABORT`, RO (R346). -/
def R.ACC_C_ABORT (i : Nat) : Nat := 0x3000088010 + 0x20 * i
/-- `PMU_FABRIC_LIMIT`, RW (R346). -/
def R.PMU_FABRIC_LIMIT : Nat := 0x3000034000
/-- `PMU_ALLOC_SUM`, RO (R346). -/
def R.PMU_ALLOC_SUM : Nat := 0x3000034008
/-- `PMU_TSHED`, RW (R346). -/
def R.PMU_TSHED : Nat := 0x3000034010
/-- `PMU_THYST`, RW (R346). -/
def R.PMU_THYST : Nat := 0x3000034014
/-- `PMU_Pp_ALLOC`, TMR, RO (R346). -/
def R.PMU_P_ALLOC (i : Nat) : Nat := 0x3000034100 + 0x10 * i
/-- `PMU_Pp_DEMAND`, RO (R346). -/
def R.PMU_P_DEMAND (i : Nat) : Nat := 0x3000034108 + 0x10 * i
/-- `SUP_START_ID`, RO (R349). -/
def R.SUP_START_ID : Nat := 0x3000010000
/-- `SUP_ROUND_CNT`, RO (R349). -/
def R.SUP_ROUND_CNT : Nat := 0x3000010008
/-- `SUP_CMD_CNT`, RO (R349). -/
def R.SUP_CMD_CNT : Nat := 0x3000010010
/-- `SUP_REFUSE_CNT`, RO (R349). -/
def R.SUP_REFUSE_CNT : Nat := 0x3000010018
/-- `SUP_MBn_REQ`, RW (R349). -/
def R.SUP_MB_REQ (i : Nat) : Nat := 0x3000011000 + 0x400 * i
/-- `SUP_MBn_RSP`, RO (R349). -/
def R.SUP_MB_RSP (i : Nat) : Nat := 0x3000011100 + 0x400 * i
/-- `SUP_MBn_REQ_SEQ`, RW (R349). -/
def R.SUP_MB_REQ_SEQ (i : Nat) : Nat := 0x3000011200 + 0x400 * i
/-- `SUP_MBn_RSP_SEQ`, RO (R349). -/
def R.SUP_MB_RSP_SEQ (i : Nat) : Nat := 0x3000011204 + 0x400 * i
/-- `SUP_MBn_STATE`, RO (R349). -/
def R.SUP_MB_STATE (i : Nat) : Nat := 0x3000011208 + 0x400 * i
/-- `SUP_MBn_OWNER`, TMR, RO (R349). -/
def R.SUP_MB_OWNER (i : Nat) : Nat := 0x3000011210 + 0x400 * i
/-- `SUP_MBn_RIGHTS`, TMR, RO (R349). -/
def R.SUP_MB_RIGHTS (i : Nat) : Nat := 0x3000011218 + 0x400 * i
/-- `SUP_MBn_SCOPE`, TMR, RO (R349). -/
def R.SUP_MB_SCOPE (i : Nat) : Nat := 0x3000011220 + 0x400 * i
/-- `CAM_CTRL`, RW (R418). -/
def R.CAM_CTRL : Nat := 0x3000190000
/-- `CAM_BW_USED`, RO (R418). -/
def R.CAM_BW_USED : Nat := 0x3000190008
/-- `CAM_DROP_CNT`, RO (R418). -/
def R.CAM_DROP_CNT : Nat := 0x3000190010
/-- `CAM_PORTp_CFG`, RW (R418). -/
def R.CAM_PORT_CFG (i : Nat) : Nat := 0x3000190100 + 0x40 * i
/-- `CAM_PORTp_ERR`, RO (R418). -/
def R.CAM_PORT_ERR (i : Nat) : Nat := 0x3000190108 + 0x40 * i
/-- `CAM_STRs_CFG`, RW (R418). -/
def R.CAM_STR_CFG (i : Nat) : Nat := 0x3000191000 + 0x40 * i
/-- `CAM_STRs_RING`, RW (R418). -/
def R.CAM_STR_RING (i : Nat) : Nat := 0x3000191008 + 0x40 * i
/-- `CAM_STRs_SLOT`, RW (R418). -/
def R.CAM_STR_SLOT (i : Nat) : Nat := 0x3000191010 + 0x40 * i
/-- `CAM_STRs_GEOM`, RW (R418). -/
def R.CAM_STR_GEOM (i : Nat) : Nat := 0x3000191018 + 0x40 * i
/-- `CAM_STRs_CAPOFF`, RW (R418). -/
def R.CAM_STR_CAPOFF (i : Nat) : Nat := 0x3000191020 + 0x40 * i
/-- `CAM_STRs_STATE`, RO (R418). -/
def R.CAM_STR_STATE (i : Nat) : Nat := 0x3000191028 + 0x40 * i
/-- `CAM_FSYNCf_CFG`, RW (R418). -/
def R.CAM_FSYNC_CFG (i : Nat) : Nat := 0x3000192000 + 0x8 * i
/-- `ETH_CTRL`, RW (R418). -/
def R.ETH_CTRL : Nat := 0x30001A0000
/-- `ETH_TBL_SEL`, RW (R418). -/
def R.ETH_TBL_SEL : Nat := 0x30001A0010
/-- `ETH_TBL_DATAk`, RW (R418). -/
def R.ETH_TBL_DATA (i : Nat) : Nat := 0x30001A0018 + 0x8 * i
/-- `ETH_TBL_CMD`, W1S (R418). -/
def R.ETH_TBL_CMD : Nat := 0x30001A0098
/-- `ETH_Pp_CFG`, RW (R418). -/
def R.ETH_P_CFG (i : Nat) : Nat := 0x30001A0100 + 0x40 * i
/-- `ETH_Pp_STATUS`, RO (R418). -/
def R.ETH_P_STATUS (i : Nat) : Nat := 0x30001A0108 + 0x40 * i
/-- `ETH_Pp_RX_PHY_LAT`, RW (R418). -/
def R.ETH_P_RX_PHY_LAT (i : Nat) : Nat := 0x30001A0110 + 0x40 * i
/-- `ETH_Pp_TX_PHY_LAT`, RW (R418). -/
def R.ETH_P_TX_PHY_LAT (i : Nat) : Nat := 0x30001A0114 + 0x40 * i
/-- `ETH_Pp_MAC`, RW (R418). -/
def R.ETH_P_MAC (i : Nat) : Nat := 0x30001A0118 + 0x40 * i
/-- `ETH_Pp_DROP_CNT`, RO (R418). -/
def R.ETH_P_DROP_CNT (i : Nat) : Nat := 0x30001A0120 + 0x40 * i
/-- `ETH_MBb_CFG`, RW (R418). -/
def R.ETH_MB_CFG (i : Nat) : Nat := 0x30001A0800 + 0x20 * i
/-- `ETH_MBb_PEER`, RW (R418). -/
def R.ETH_MB_PEER (i : Nat) : Nat := 0x30001A0808 + 0x20 * i
/-- `CAN_RAM_SEL`, RW (R418). -/
def R.CAN_RAM_SEL : Nat := 0x30001B0000
/-- `CANn_CTRL`, RW (R418). -/
def R.CAN_CTRL (i : Nat) : Nat := 0x30001B0100 + 0x100 * i
/-- `CANn_NBT`, RW (R418). -/
def R.CAN_NBT (i : Nat) : Nat := 0x30001B0108 + 0x100 * i
/-- `CANn_DBT`, RW (R418). -/
def R.CAN_DBT (i : Nat) : Nat := 0x30001B0110 + 0x100 * i
/-- `CANn_XBT`, RW (R418). -/
def R.CAN_XBT (i : Nat) : Nat := 0x30001B0118 + 0x100 * i
/-- `CANn_TDC`, RW (R418). -/
def R.CAN_TDC (i : Nat) : Nat := 0x30001B0120 + 0x100 * i
/-- `CANn_RAM_CFG`, RW (R418). -/
def R.CAN_RAM_CFG (i : Nat) : Nat := 0x30001B0128 + 0x100 * i
/-- `CANn_STATUS`, RO (R418). -/
def R.CAN_STATUS (i : Nat) : Nat := 0x30001B0130 + 0x100 * i
/-- `CANn_TX_REQ`, W1S (R418). -/
def R.CAN_TX_REQ (i : Nat) : Nat := 0x30001B0138 + 0x100 * i
/-- `CANn_WAKE`, RW (R418). -/
def R.CAN_WAKE (i : Nat) : Nat := 0x30001B0140 + 0x100 * i
/-- `CANn_WAKE_DATA`, RW (R418). -/
def R.CAN_WAKE_DATA (i : Nat) : Nat := 0x30001B0148 + 0x100 * i
/-- `CANn_WAKE_DMASK`, RW (R418). -/
def R.CAN_WAKE_DMASK (i : Nat) : Nat := 0x30001B0150 + 0x100 * i
/-- `CANn_RETRY`, RW (R418). -/
def R.CAN_RETRY (i : Nat) : Nat := 0x30001B0158 + 0x100 * i
/-- `CANn_WAKE_CFG`, RW (R418). -/
def R.CAN_WAKE_CFG (i : Nat) : Nat := 0x30001B0160 + 0x100 * i
/-- `GPIO_IN`, RO (R418). -/
def R.GPIO_IN : Nat := 0x3000200000
/-- `GPIO_OUT`, RW (R418). -/
def R.GPIO_OUT : Nat := 0x3000200008
/-- `GPIO_DIR`, RW (R418). -/
def R.GPIO_DIR : Nat := 0x3000200010
/-- `GPIO_SAFE`, RO (R418). -/
def R.GPIO_SAFE : Nat := 0x3000200018
/-- `GPIO_SAFE_DISC`, RW (R418). -/
def R.GPIO_SAFE_DISC : Nat := 0x300020001C
/-- `GPIO_PINp_CFG`, RW (R418). -/
def R.GPIO_PIN_CFG (i : Nat) : Nat := 0x3000200100 + 0x20 * i
/-- `GPIO_PINp_RL`, RW (R418). -/
def R.GPIO_PIN_RL (i : Nat) : Nat := 0x3000200104 + 0x20 * i
/-- `GPIO_PINp_CC`, RW (R418). -/
def R.GPIO_PIN_CC (i : Nat) : Nat := 0x3000200108 + 0x20 * i
/-- `GPIO_PINp_STUCK`, RW (R418). -/
def R.GPIO_PIN_STUCK (i : Nat) : Nat := 0x300020010C + 0x20 * i
/-- `GPIO_PINp_SCLR`, RW (R418). -/
def R.GPIO_PIN_SCLR (i : Nat) : Nat := 0x3000200110 + 0x20 * i
/-- `GPIO_PINp_STATE`, RO (R418). -/
def R.GPIO_PIN_STATE (i : Nat) : Nat := 0x3000200114 + 0x20 * i
/-- `SENTi_CFG`, RW (R418). -/
def R.SENT_CFG (i : Nat) : Nat := 0x3000201000 + 0x20 * i
/-- `SENTi_SILENT`, RW (R418). -/
def R.SENT_SILENT (i : Nat) : Nat := 0x3000201008 + 0x20 * i
/-- `SENTi_LAST`, RO (R418). -/
def R.SENT_LAST (i : Nat) : Nat := 0x3000201010 + 0x20 * i
/-- `SPIj_CFG`, RW (R418). -/
def R.SPI_CFG (i : Nat) : Nat := 0x3000202000 + 0x40 * i
/-- `SPIj_PERIOD`, RW (R418). -/
def R.SPI_PERIOD (i : Nat) : Nat := 0x3000202008 + 0x40 * i
/-- `SPIj_PHASE`, RW (R418). -/
def R.SPI_PHASE (i : Nat) : Nat := 0x3000202010 + 0x40 * i
/-- `SPIj_LAST`, RO (R418). -/
def R.SPI_LAST (i : Nat) : Nat := 0x3000202018 + 0x40 * i
/-- `BAM_CTRL`, RW (R440). -/
def R.BAM_CTRL : Nat := 0x30001C0000
/-- `BAM_STATUS`, RO (R440). -/
def R.BAM_STATUS : Nat := 0x30001C0008
/-- `BAM_NODE_REQ`, RW (R440). -/
def R.BAM_NODE_REQ : Nat := 0x30001C0010
/-- `BAM_EPOCH_DROP_CNT`, RO (R440). -/
def R.BAM_EPOCH_DROP_CNT : Nat := 0x30001C0018
/-- `BAM_TIMEOUT_CNT`, RO (R440). -/
def R.BAM_TIMEOUT_CNT : Nat := 0x30001C0020
/-- `BAM_MEMBERS`, RO (R440). -/
def R.BAM_MEMBERS : Nat := 0x30001C0028
/-- `BAM_TIME_PORT`, RO (R440). -/
def R.BAM_TIME_PORT : Nat := 0x30001C0030
/-- `BAM_Pp_CFG`, RW (R440). -/
def R.BAM_P_CFG (i : Nat) : Nat := 0x30001C0100 + 0x40 * i
/-- `BAM_Pp_STATUS`, RO (R440). -/
def R.BAM_P_STATUS (i : Nat) : Nat := 0x30001C0108 + 0x40 * i
/-- `BAM_Pp_LAT`, RO (R440). -/
def R.BAM_P_LAT (i : Nat) : Nat := 0x30001C0110 + 0x40 * i
/-- `BAM_Pp_NBR_FP`, RO (R440). -/
def R.BAM_P_NBR_FP (i : Nat) : Nat := 0x30001C0118 + 0x40 * i
/-- `BAM_Pp_RETRY_CNT`, RO (R440). -/
def R.BAM_P_RETRY_CNT (i : Nat) : Nat := 0x30001C0120 + 0x40 * i
/-- `BAM_Pp_FEC_CNT`, RO (R440). -/
def R.BAM_P_FEC_CNT (i : Nat) : Nat := 0x30001C0128 + 0x40 * i
/-- `BAM_RTq_n`, TMR, RO (R440). -/
def R.BAM_RT (i j : Nat) : Nat := 0x30001C1000 + 0x200 * i + 0x8 * j
/-- `BAM_MIRc_CFG`, RW (R440). -/
def R.BAM_MIR_CFG (i : Nat) : Nat := 0x30001C2000 + 0x20 * i
/-- `BAM_MIRc_STATE`, RO (R440). -/
def R.BAM_MIR_STATE (i : Nat) : Nat := 0x30001C2008 + 0x20 * i
/-- `BAM_TWINk_CFG`, RW (R440). -/
def R.BAM_TWIN_CFG (i : Nat) : Nat := 0x30001C3000 + 0x20 * i
/-- `BAM_TWINk_WAIT`, RW (R440). -/
def R.BAM_TWIN_WAIT (i : Nat) : Nat := 0x30001C3008 + 0x20 * i
/-- `BAM_TWINk_STATE`, RO (R440). -/
def R.BAM_TWIN_STATE (i : Nat) : Nat := 0x30001C3010 + 0x20 * i
/-- `CFG_SAFE_STATE`, TMR, RO (R486). -/
def R.CFG_SAFE_STATE : Nat := 0x3000001000
/-- `CFG_SAFE_NOTIFY`, RW (R486). -/
def R.CFG_SAFE_NOTIFY : Nat := 0x3000001008
/-- `CFG_SAFE_KICK`, WO (R486). -/
def R.CFG_SAFE_KICK : Nat := 0x3000001010
/-- `CFG_AMBER_HOLD`, RW (R486). -/
def R.CFG_AMBER_HOLD : Nat := 0x3000001018
/-- `CFG_SAFE_REL`, RW (R486). -/
def R.CFG_SAFE_REL : Nat := 0x300000101C
/-- `CFG_HOLDOVER_AMBER`, RW (R486). -/
def R.CFG_HOLDOVER_AMBER : Nat := 0x3000001020
/-- `CFG_TCRIT`, RW (R486). -/
def R.CFG_TCRIT : Nat := 0x3000001024
/-- `CFG_AMBER_EVENTS`, RO (R486). -/
def R.CFG_AMBER_EVENTS : Nat := 0x3000001028
/-- `CFG_CRIMSON_DECISIONS`, RO (R486). -/
def R.CFG_CRIMSON_DECISIONS : Nat := 0x3000001030
/-- `CFG_NOTIFY_CNT`, RO (R486). -/
def R.CFG_NOTIFY_CNT : Nat := 0x3000001038
/-- `CFG_INJ_RESULT`, TMR, RO (R486). -/
def R.CFG_INJ_RESULT : Nat := 0x3000001040
/-- `CFG_HEALTH`, RO (R486). -/
def R.CFG_HEALTH : Nat := 0x3000001048
/-- `TW_OSs_CFG`, RW (R486). -/
def R.TW_OS_CFG (i : Nat) : Nat := 0x3000028000 + 0x40 * i
/-- `TW_OSs_AGE`, RW (R486). -/
def R.TW_OS_AGE (i : Nat) : Nat := 0x3000028008 + 0x40 * i
/-- `TW_OSs_PAIRWAIT`, RW (R486). -/
def R.TW_OS_PAIRWAIT (i : Nat) : Nat := 0x300002800C + 0x40 * i
/-- `TW_OSs_DEADLINE`, RO (R486). -/
def R.TW_OS_DEADLINE (i : Nat) : Nat := 0x3000028010 + 0x40 * i
/-- `TW_OSs_STATUS`, RO (R486). -/
def R.TW_OS_STATUS (i : Nat) : Nat := 0x3000028018 + 0x40 * i
/-- `TW_OSs_LAST`, RO (R486). -/
def R.TW_OS_LAST (i : Nat) : Nat := 0x3000028020 + 0x40 * i
/-- `TW_OSs_CNT`, RO (R486). -/
def R.TW_OS_CNT (i : Nat) : Nat := 0x3000028028 + 0x40 * i
/-- `TW_OSs_GOLD`, RW (R486). -/
def R.TW_OS_GOLD (i : Nat) : Nat := 0x3000028030 + 0x40 * i
/-- `SNAP_ST_CTRL`, RW (R486). -/
def R.SNAP_ST_CTRL : Nat := 0x300006C000
/-- `SNAP_ST_LIMIT`, RW (R486). -/
def R.SNAP_ST_LIMIT : Nat := 0x300006C008
/-- `SNAP_STb_STATE`, RO (R486). -/
def R.SNAP_ST_STATE (i : Nat) : Nat := 0x300006C100 + 0x10 * i
/-- `SNAP_STb_LAST`, RO (R486). -/
def R.SNAP_ST_LAST (i : Nat) : Nat := 0x300006C108 + 0x10 * i
/-- `ERR_CTRL`, RW (R528). -/
def R.ERR_CTRL : Nat := 0x3000050000
/-- `ERR_STATUS`, RO (R528). -/
def R.ERR_STATUS : Nat := 0x3000050008
/-- `ERR_NEXT_SEQ`, RO (R528). -/
def R.ERR_NEXT_SEQ : Nat := 0x3000050010
/-- `ERR_LOG_OLDEST`, RO (R528). -/
def R.ERR_LOG_OLDEST : Nat := 0x3000050014
/-- `ERR_OVERFLOW_CNT`, RO (R528). -/
def R.ERR_OVERFLOW_CNT : Nat := 0x3000050018
/-- `ERR_GEN_DROP_CNT`, RO (R528). -/
def R.ERR_GEN_DROP_CNT : Nat := 0x300005001C
/-- `ERR_CNT_Ss`, RO (R528). -/
def R.ERR_CNT_S (i : Nat) : Nat := 0x3000050020 + 0x4 * i
/-- `ERR_S4_HOLD`, RW (R528). -/
def R.ERR_S4_HOLD : Nat := 0x3000050040
/-- `ERR_QUAR`, RW (R528). -/
def R.ERR_QUAR : Nat := 0x3000050044
/-- `ERR_TRANSIENT_CNT`, RO (R528). -/
def R.ERR_TRANSIENT_CNT : Nat := 0x3000050048
/-- `ERR_GUILTY_CNT`, RO (R528). -/
def R.ERR_GUILTY_CNT : Nat := 0x300005004C
/-- `ERR_DUMP_BASE`, RW (R528). -/
def R.ERR_DUMP_BASE : Nat := 0x3000050050
/-- `ERR_DUMP_SIZE`, RW (R528). -/
def R.ERR_DUMP_SIZE : Nat := 0x3000050058
/-- `ERR_DUMP_LAST`, RO (R528). -/
def R.ERR_DUMP_LAST : Nat := 0x3000050060
/-- `ERR_LADDER`, RO (R528). -/
def R.ERR_LADDER : Nat := 0x3000050068
/-- `ERR_RESET_CAUSE`, RO (R528). -/
def R.ERR_RESET_CAUSE : Nat := 0x3000050070
/-- `ERR_Pp_RESETS`, RO (R528). -/
def R.ERR_P_RESETS (i : Nat) : Nat := 0x3000050100 + 0x8 * i
/-- `ERR_Uu_RESETS`, RO (R528). -/
def R.ERR_U_RESETS (i : Nat) : Nat := 0x3000050200 + 0x8 * i
/-- `ERR_RETAINi`, RO (R528). -/
def R.ERR_RETAIN (i : Nat) : Nat := 0x3000050400 + 0x40 * i
/-- `HST_WDOGh_CFG`, RW (R528). -/
def R.HST_WDOG_CFG (i : Nat) : Nat := 0x30001F2000 + 0x10 * i
/-- `HST_WDOGh_KICK`, WO (R528). -/
def R.HST_WDOG_KICK (i : Nat) : Nat := 0x30001F2008 + 0x10 * i
/-- `CFG_BOOT_STATUS`, RO (R553). -/
def R.CFG_BOOT_STATUS : Nat := 0x3000003000
/-- `CFG_BOOT_ATTEMPTS`, RO (R553). -/
def R.CFG_BOOT_ATTEMPTS : Nat := 0x3000003008
/-- `CFG_BOOT_LAST_FAIL`, RO (R553). -/
def R.CFG_BOOT_LAST_FAIL : Nat := 0x3000003010
/-- `CFG_BOOT_CONFIRM`, RW (R553). -/
def R.CFG_BOOT_CONFIRM : Nat := 0x3000003018
/-- `CFG_ATT_NONCE`, RW (R553). -/
def R.CFG_ATT_NONCE : Nat := 0x3000003020
/-- `CFG_ATT_ADDR`, RW (R553). -/
def R.CFG_ATT_ADDR : Nat := 0x3000003040
/-- `CFG_ATT_CTRL`, RW (R553). -/
def R.CFG_ATT_CTRL : Nat := 0x3000003048
/-- `CFG_ATT_SEQ`, RO (R553). -/
def R.CFG_ATT_SEQ : Nat := 0x3000003050
/-- `SEC_CTRL`, RW (R553). -/
def R.SEC_CTRL : Nat := 0x3000040000
/-- `SEC_STATUS`, RO (R553). -/
def R.SEC_STATUS : Nat := 0x3000040008
/-- `SEC_TRNG_FAIL_CNT`, RO (R553). -/
def R.SEC_TRNG_FAIL_CNT : Nat := 0x3000040010
/-- `SEC_FINGERPRINT`, RO (R553). -/
def R.SEC_FINGERPRINT : Nat := 0x3000040018
/-- `SEC_ROOT`, TMR, RO (R553). -/
def R.SEC_ROOT : Nat := 0x3000040020
/-- `SEC_OWNER_HASH`, TMR, RO (R553). -/
def R.SEC_OWNER_HASH : Nat := 0x3000040100
/-- `SEC_KEYk_INFO`, RO (R553). -/
def R.SEC_KEY_INFO (i : Nat) : Nat := 0x3000040200 + 0x8 * i
/-- `PMU_STATUS`, RO (R579). -/
def R.PMU_STATUS : Nat := 0x3000030000
/-- `PMU_SBY_CTRL`, RW (R579). -/
def R.PMU_SBY_CTRL : Nat := 0x3000030008
/-- `PMU_WAKE_CAUSE`, RO (R579). -/
def R.PMU_WAKE_CAUSE : Nat := 0x3000030010
/-- `PMU_TMAX`, RO (R579). -/
def R.PMU_TMAX : Nat := 0x3000030018
/-- `PMU_SSC_BAM`, RW (R579). -/
def R.PMU_SSC_BAM : Nat := 0x3000030020
/-- `PMU_Dd_CTRL`, RW (R579). -/
def R.PMU_D_CTRL (i : Nat) : Nat := 0x3000030100 + 0x10 * i
/-- `PMU_Dd_STATUS`, RO (R579). -/
def R.PMU_D_STATUS (i : Nat) : Nat := 0x3000030108 + 0x10 * i
/-- `PMU_RAILk_CFG`, RW (R579). -/
def R.PMU_RAIL_CFG (i : Nat) : Nat := 0x3000030300 + 0x10 * i
/-- `PMU_RAILk_MEAS`, RO (R579). -/
def R.PMU_RAIL_MEAS (i : Nat) : Nat := 0x3000030308 + 0x10 * i
/-- `PMU_TSENSs`, RO (R579). -/
def R.PMU_TSENS (i : Nat) : Nat := 0x3000030600 + 0x8 * i
/-- `PMU_PADg_CFG`, RW (R579). -/
def R.PMU_PAD_CFG (i : Nat) : Nat := 0x3000030800 + 0x8 * i
/-- `SNAP_FRZ_CFG`, RW (R605). -/
def R.SNAP_FRZ_CFG : Nat := 0x3000060000
/-- `SNAP_FRZ_CTRL`, RW (R605). -/
def R.SNAP_FRZ_CTRL : Nat := 0x3000060008
/-- `SNAP_FRZ_PEND`, RO (R605). -/
def R.SNAP_FRZ_PEND : Nat := 0x3000060010
/-- `SNAP_FRZ_TIME`, RO (R605). -/
def R.SNAP_FRZ_TIME : Nat := 0x3000060018
/-- `SNAP_FRZ_SRC`, RO (R605). -/
def R.SNAP_FRZ_SRC : Nat := 0x3000060020
/-- `SNAP_FAB_LEAD`, RW (R605). -/
def R.SNAP_FAB_LEAD : Nat := 0x3000060028
/-- `SNAP_IGNORED_CNT`, RO (R605). -/
def R.SNAP_IGNORED_CNT : Nat := 0x3000060030
/-- `SNAP_DST_BASE`, RW (R605). -/
def R.SNAP_DST_BASE : Nat := 0x3000060038
/-- `SNAP_DST_SIZE`, RW (R605). -/
def R.SNAP_DST_SIZE : Nat := 0x3000060040
/-- `SNAP_CNT`, RO (R605). -/
def R.SNAP_CNT : Nat := 0x3000060048
/-- `SNAP_DBG_STATE`, RO (R605). -/
def R.SNAP_DBG_STATE : Nat := 0x3000060100
/-- `SNAP_DBG_LOCK`, WO (R605). -/
def R.SNAP_DBG_LOCK : Nat := 0x3000060108
/-- `REC_STATUS`, RO (R605). -/
def R.REC_STATUS : Nat := 0x3000070000
/-- `REC_CFG`, RW (R605). -/
def R.REC_CFG : Nat := 0x3000070008
/-- `REC_RING_BASE`, RW (R605). -/
def R.REC_RING_BASE : Nat := 0x3000070010
/-- `REC_RING_SIZE`, RW (R605). -/
def R.REC_RING_SIZE : Nat := 0x3000070018
/-- `REC_SEQ`, RO (R605). -/
def R.REC_SEQ : Nat := 0x3000070020
/-- `REC_BYTES`, RO (R605). -/
def R.REC_BYTES : Nat := 0x3000070028
/-- `REC_GAP_CNT`, RO (R605). -/
def R.REC_GAP_CNT : Nat := 0x3000070030
/-- `REC_CMD_MAX`, RW (R605). -/
def R.REC_CMD_MAX : Nat := 0x3000070038
/-- `REC_HO_DATAk`, RW (R605). -/
def R.REC_HO_DATA (i : Nat) : Nat := 0x3000070100 + 0x4 * i
/-- `REPLAY_STATUS`, RO (R605). -/
def R.REPLAY_STATUS : Nat := 0x3000070200
/-- `REPLAY_POS`, RO (R605). -/
def R.REPLAY_POS : Nat := 0x3000070208
/-- `REPLAY_DIV_SEQ`, RO (R605). -/
def R.REPLAY_DIV_SEQ : Nat := 0x3000070210
/-- `REPLAY_DIV_EXP`, RO (R605). -/
def R.REPLAY_DIV_EXP : Nat := 0x3000070218
/-- `REPLAY_DIV_ACT`, RO (R605). -/
def R.REPLAY_DIV_ACT : Nat := 0x3000070220
/-- `REPLAY_DIV_CYC`, RO (R605). -/
def R.REPLAY_DIV_CYC : Nat := 0x3000070228
/-- `CDn_Tt_NUMFLAGS`, RO (R185). -/
def R.CD_T_NUMFLAGS (n i : Nat) : Nat := 0x3000102018 + 0x10000 * n + 0x20 * i
/-- `CDn_Tt_CHKFLAGS`, RO (R453). -/
def R.CD_T_CHKFLAGS (n i : Nat) : Nat := 0x300010201C + 0x10000 * n + 0x20 * i

/-- The register map of unit 0x00. -/
def regRows00 : List RegRow :=
  [⟨0x1000, 1, 0, 1, 0, 4, 0, 0, 0, false, 0, 0xFFFFFFFFFFFFFFFF, false, .plain, true⟩,
   ⟨0x1008, 1, 0, 1, 0, 4, 0, 0x1FF7F, 0, false, 0, 0xFFFFFFFFFFFFFFFF, false, .plain, false⟩,
   ⟨0x1010, 1, 0, 1, 0, 4, 0, 0xFFFFFFFF, 0, true, 0, 0xFFFFFFFFFFFFFFFF, false, .safeKick, false⟩,
   ⟨0x1018, 1, 0, 1, 0, 4, 0x3E8, 0xFFFFFFFF, 0, false, 1, 0xEA60, false, .plain, false⟩,
   ⟨0x101C, 1, 0, 1, 0, 4, 0xA, 0xFFFFFFFF, 0, false, 1, 0x3E8, false, .plain, false⟩,
   ⟨0x1020, 1, 0, 1, 0, 4, 0x3E8, 0xFFFFFFFF, 0, false, 0, 0xFFFFFFFFFFFFFFFF, false, .plain, false⟩,
   ⟨0x1024, 1, 0, 1, 0, 4, 0x7A, 0xFFFFFFFF, 0, false, 0x64, 0x7C, false, .plain, false⟩,
   ⟨0x1028, 1, 0, 1, 0, 4, 0, 0, 0, false, 0, 0xFFFFFFFFFFFFFFFF, false, .plain, false⟩,
   ⟨0x1030, 1, 0, 1, 0, 4, 0, 0, 0, false, 0, 0xFFFFFFFFFFFFFFFF, false, .plain, false⟩,
   ⟨0x1038, 1, 0, 1, 0, 4, 0, 0, 0, false, 0, 0xFFFFFFFFFFFFFFFF, false, .plain, false⟩,
   ⟨0x1040, 1, 0, 1, 0, 4, 0, 0, 0, false, 0, 0xFFFFFFFFFFFFFFFF, false, .plain, true⟩,
   ⟨0x1048, 1, 0, 1, 0, 4, 0, 0, 0, false, 0, 0xFFFFFFFFFFFFFFFF, false, .plain, false⟩,
   ⟨0x3000, 1, 0, 1, 0, 4, 1, 0, 0, false, 0, 0xFFFFFFFFFFFFFFFF, false, .plain, false⟩,
   ⟨0x3008, 1, 0, 1, 0, 4, 0, 0, 0, false, 0, 0xFFFFFFFFFFFFFFFF, false, .plain, false⟩,
   ⟨0x3010, 1, 0, 1, 0, 4, 0, 0, 0, false, 0, 0xFFFFFFFFFFFFFFFF, false, .plain, false⟩,
   ⟨0x3018, 1, 0, 1, 0, 4, 0x2710, 0xFFFFFFFF, 0, false, 0x3E8, 0x927C0, false, .plain, false⟩,
   ⟨0x3020, 1, 0, 1, 0, 32, 0, 0xFFFFFFFFFFFFFFFF, 0, false, 0, 0xFFFFFFFFFFFFFFFF, false, .plain, false⟩,
   ⟨0x3040, 1, 0, 1, 0, 8, 0, 0xFFFFFFFFFFFFFFFF, 0, false, 0, 0xFFFFFFFFFFFFFFFF, false, .plain, false⟩,
   ⟨0x3048, 1, 0, 1, 0, 4, 0, 0, 1, false, 0, 0xFFFFFFFFFFFFFFFF, false, .attest, false⟩,
   ⟨0x3050, 1, 0, 1, 0, 4, 0, 0, 0, false, 0, 0xFFFFFFFFFFFFFFFF, false, .plain, false⟩]

/-- The register map of unit 0x01. -/
def regRows01 : List RegRow :=
  [⟨0, 1, 0, 1, 0, 4, 0, 0, 0, false, 0, 0xFFFFFFFFFFFFFFFF, false, .plain, false⟩,
   ⟨8, 1, 0, 1, 0, 4, 0, 0, 0, false, 0, 0xFFFFFFFFFFFFFFFF, false, .plain, false⟩,
   ⟨0x10, 1, 0, 1, 0, 4, 0, 0, 0, false, 0, 0xFFFFFFFFFFFFFFFF, false, .plain, false⟩,
   ⟨0x18, 1, 0, 1, 0, 4, 0, 0, 0, false, 0, 0xFFFFFFFFFFFFFFFF, false, .plain, false⟩,
   ⟨0x1000, 16, 0x400, 1, 0, 256, 0, 0xFFFFFFFFFFFFFFFF, 0, false, 0, 0xFFFFFFFFFFFFFFFF, false, .request, false⟩,
   ⟨0x1100, 16, 0x400, 1, 0, 256, 0, 0, 0, false, 0, 0xFFFFFFFFFFFFFFFF, false, .plain, false⟩,
   ⟨0x1200, 16, 0x400, 1, 0, 4, 0, 0xFFFFFFFF, 0, false, 0, 0xFFFFFFFFFFFFFFFF, false, .sequence, false⟩,
   ⟨0x1204, 16, 0x400, 1, 0, 4, 0, 0, 0, false, 0, 0xFFFFFFFFFFFFFFFF, false, .plain, false⟩,
   ⟨0x1208, 16, 0x400, 1, 0, 4, 0, 0, 0, false, 0, 0xFFFFFFFFFFFFFFFF, false, .plain, false⟩,
   ⟨0x1210, 16, 0x400, 1, 0, 4, 0, 0, 0, false, 0, 0xFFFFFFFFFFFFFFFF, false, .plain, true⟩,
   ⟨0x1218, 16, 0x400, 1, 0, 4, 0, 0, 0, false, 0, 0xFFFFFFFFFFFFFFFF, false, .plain, true⟩,
   ⟨0x1220, 16, 0x400, 1, 0, 4, 0, 0, 0, false, 0, 0xFFFFFFFFFFFFFFFF, false, .plain, true⟩]

/-- The register map of unit 0x02. -/
def regRows02 : List RegRow :=
  [⟨0, 1, 0, 1, 0, 4, 0, 2, 1, false, 0, 0xFFFFFFFFFFFFFFFF, false, .timeRun, false⟩,
   ⟨4, 1, 0, 1, 0, 4, 0, 0, 0, false, 0, 0xFFFFFFFFFFFFFFFF, false, .plain, false⟩,
   ⟨8, 1, 0, 1, 0, 4, 0, 0, 0, false, 0, 0xFFFFFFFFFFFFFFFF, false, .plain, true⟩,
   ⟨0xC, 1, 0, 1, 0, 4, 0, 0, 0, false, 0, 0xFFFFFFFFFFFFFFFF, false, .plain, true⟩,
   ⟨0x10, 1, 0, 1, 0, 4, 0, 0, 0, false, 0, 0xFFFFFFFFFFFFFFFF, false, .plain, true⟩,
   ⟨0x14, 1, 0, 1, 0, 4, 0, 0, 0, false, 0, 0xFFFFFFFFFFFFFFFF, false, .plain, false⟩,
   ⟨0x18, 1, 0, 1, 0, 4, 0, 0xFFFFFFFF, 0, false, 0, 0xFFFFFFFFFFFFFFFF, false, .rate, true⟩,
   ⟨0x1C, 1, 0, 1, 0, 4, 0, 0xFF03, 0, false, 0, 0xFFFFFFFFFFFFFFFF, false, .source, true⟩,
   ⟨0x20, 1, 0, 1, 0, 4, 0, 0xFFFFFFFF, 0, true, 0, 0xFFFFFFFFFFFFFFFF, false, .plain, false⟩,
   ⟨0x24, 1, 0, 1, 0, 4, 0, 0xFFFFFFFF, 0, true, 0, 0xFFFFFFFFFFFFFFFF, false, .plain, false⟩,
   ⟨0x28, 1, 0, 1, 0, 4, 0, 0xFFFFFFFF, 0, true, 0, 0xFFFFFFFFFFFFFFFF, false, .stepGo, false⟩,
   ⟨0x2C, 1, 0, 1, 0, 4, 0x18, 0, 0, false, 0, 0xFFFFFFFFFFFFFFFF, false, .plain, false⟩,
   ⟨0x30, 1, 0, 1, 0, 4, 0, 0, 0, false, 0, 0xFFFFFFFFFFFFFFFF, false, .plain, false⟩,
   ⟨0x34, 1, 0, 1, 0, 4, 0, 0, 0, false, 0, 0xFFFFFFFFFFFFFFFF, false, .plain, false⟩,
   ⟨0x100, 8, 0x40, 1, 0, 4, 0, 1, 2, false, 0, 0xFFFFFFFFFFFFFFFF, false, .wheelCtrl, false⟩,
   ⟨0x108, 8, 0x40, 1, 0, 8, 0, 0xFFFFFFFFFFFFFFFF, 0, false, 0, 0xFFFFFFFFFFFFFFFF, false, .wheelBase, true⟩,
   ⟨0x110, 8, 0x40, 1, 0, 8, 0, 0, 0, false, 0, 0xFFFFFFFFFFFFFFFF, false, .plain, false⟩,
   ⟨0x118, 8, 0x40, 1, 0, 8, 0, 0, 0, false, 0, 0xFFFFFFFFFFFFFFFF, false, .plain, true⟩,
   ⟨0x120, 8, 0x40, 1, 0, 8, 0, 0, 0, false, 0, 0xFFFFFFFFFFFFFFFF, false, .plain, true⟩,
   ⟨0x128, 8, 0x40, 1, 0, 4, 0, 0, 0, false, 0, 0xFFFFFFFFFFFFFFFF, false, .plain, false⟩] ++
  [⟨0x12C, 8, 0x40, 1, 0, 4, 0, 0, 0, false, 0, 0xFFFFFFFFFFFFFFFF, false, .plain, false⟩,
   ⟨0x1000, 1, 0, 1, 0, 4, 0, 0x3FF, 0, true, 0, 0xFFFFFFFFFFFFFFFF, false, .publish, false⟩,
   ⟨0x4000, 1024, 0x10, 1, 0, 8, 0xCF00000000, 0, 0, false, 0, 0xFFFFFFFFFFFFFFFF, false, .plain, false⟩,
   ⟨0x4008, 1024, 0x10, 1, 0, 4, 0, 0, 0, false, 0, 0xFFFFFFFFFFFFFFFF, false, .plain, false⟩,
   ⟨0x8000, 256, 0x40, 1, 0, 8, 0, 0x3FFFFFFFFFFFFFFF, 0, false, 0, 0xFFFFFFFFFFFFFFFF, false, .streamCfg, false⟩,
   ⟨0x8008, 256, 0x40, 1, 0, 4, 0, 0xFFFFFFFF, 0, false, 0, 0xFFFFFFFFFFFFFFFF, false, .streamOff, false⟩,
   ⟨0x800C, 256, 0x40, 1, 0, 4, 0xFA0, 0xFFFFFFFF, 0, false, 0x4B0, 0x186A0, false, .streamOff, false⟩,
   ⟨0x8010, 256, 0x40, 1, 0, 8, 0, 0, 0, false, 0, 0xFFFFFFFFFFFFFFFF, false, .plain, false⟩,
   ⟨0x8018, 256, 0x40, 1, 0, 4, 0, 0, 0, false, 0, 0xFFFFFFFFFFFFFFFF, false, .plain, false⟩,
   ⟨0x8020, 256, 0x40, 1, 0, 8, 0, 0, 0, false, 0, 0xFFFFFFFFFFFFFFFF, false, .plain, false⟩,
   ⟨0x8028, 256, 0x40, 1, 0, 4, 0, 0, 0, false, 0, 0xFFFFFFFFFFFFFFFF, false, .plain, false⟩,
   ⟨0x8030, 256, 0x40, 1, 0, 8, 0, 0xFFFFFFFF0000003F, 0, false, 0, 0xFFFFFFFFFFFFFFFF, false, .streamOff, false⟩]

/-- The register map of unit 0x03. -/
def regRows03 : List RegRow :=
  [⟨0x4000, 1, 0, 1, 0, 4, 0x606F8, 0xFFFFFFFF, 0, false, 0, 0xFFFFFFFFFFFFFFFF, false, .fabricLimit, false⟩,
   ⟨0x4008, 1, 0, 1, 0, 4, 0, 0, 0, false, 0, 0xFFFFFFFFFFFFFFFF, false, .plain, false⟩,
   ⟨0x4010, 1, 0, 1, 0, 4, 0x76, 0xFFFFFFFF, 0, false, 0x5A, 0x7C, false, .plain, false⟩,
   ⟨0x4014, 1, 0, 1, 0, 4, 5, 0xFFFFFFFF, 0, false, 1, 0x14, false, .plain, false⟩,
   ⟨0x4100, 32, 0x10, 1, 0, 4, 0, 0, 0, false, 0, 0xFFFFFFFFFFFFFFFF, false, .plain, true⟩,
   ⟨0x4108, 32, 0x10, 1, 0, 4, 0, 0, 0, false, 0, 0xFFFFFFFFFFFFFFFF, false, .plain, false⟩,
   ⟨0, 1, 0, 1, 0, 4, 1, 0, 0, false, 0, 0xFFFFFFFFFFFFFFFF, false, .plain, false⟩,
   ⟨8, 1, 0, 1, 0, 4, 6, 6, 1, false, 0, 0xFFFFFFFFFFFFFFFF, false, .standby, false⟩,
   ⟨0x10, 1, 0, 1, 0, 4, 0, 0, 0, false, 0, 0xFFFFFFFFFFFFFFFF, false, .plain, false⟩,
   ⟨0x18, 1, 0, 1, 0, 4, 0, 0, 0, false, 0, 0xFFFFFFFFFFFFFFFF, false, .plain, false⟩,
   ⟨0x20, 1, 0, 1, 0, 4, 0, 3, 0, false, 0, 0xFFFFFFFFFFFFFFFF, false, .spread, false⟩,
   ⟨0x100, 24, 0x10, 1, 0, 4, 0, 1, 0, false, 0, 0xFFFFFFFFFFFFFFFF, false, .domain, false⟩,
   ⟨0x108, 24, 0x10, 1, 0, 4, 0, 0, 0, false, 0, 0xFFFFFFFFFFFFFFFF, false, .plain, false⟩,
   ⟨0x300, 16, 0x10, 1, 0, 4, 0, 0x1000000, 0, false, 0, 0xFFFFFFFFFFFFFFFF, false, .plain, false⟩,
   ⟨0x308, 16, 0x10, 1, 0, 4, 0, 0, 0, false, 0, 0xFFFFFFFFFFFFFFFF, false, .plain, false⟩,
   ⟨0x600, 40, 8, 1, 0, 4, 0, 0, 0, false, 0, 0xFFFFFFFFFFFFFFFF, false, .plain, false⟩,
   ⟨0x800, 10, 8, 1, 0, 4, 0, 0xF, 0, false, 0, 0xFFFFFFFFFFFFFFFF, false, .plain, false⟩]

/-- The register map of unit 0x04. -/
def regRows04 : List RegRow :=
  [⟨0, 1, 0, 1, 0, 4, 1, 1, 0, false, 0, 0xFFFFFFFFFFFFFFFF, false, .plain, false⟩,
   ⟨8, 1, 0, 1, 0, 4, 0, 0, 0, false, 0, 0xFFFFFFFFFFFFFFFF, false, .plain, false⟩,
   ⟨0x10, 1, 0, 1, 0, 4, 0, 0, 0, false, 0, 0xFFFFFFFFFFFFFFFF, false, .plain, false⟩,
   ⟨0x18, 1, 0, 1, 0, 8, 0, 0, 0, false, 0, 0xFFFFFFFFFFFFFFFF, false, .plain, false⟩,
   ⟨0x20, 1, 0, 1, 0, 4, 0, 0, 0, false, 0, 0xFFFFFFFFFFFFFFFF, false, .plain, true⟩,
   ⟨0x100, 1, 0, 1, 0, 48, 0, 0, 0, false, 0, 0xFFFFFFFFFFFFFFFF, false, .plain, true⟩,
   ⟨0x200, 16, 8, 1, 0, 4, 0, 0, 0, false, 0, 0xFFFFFFFFFFFFFFFF, false, .plain, false⟩]

/-- The register map of unit 0x05. -/
def regRows05 : List RegRow :=
  [⟨0, 1, 0, 1, 0, 4, 1, 0x3F070F, 0, false, 0, 0xFFFFFFFFFFFFFFFF, false, .plain, false⟩,
   ⟨8, 1, 0, 1, 0, 4, 0, 0, 0, false, 0, 0xFFFFFFFFFFFFFFFF, false, .plain, false⟩,
   ⟨0x10, 1, 0, 1, 0, 4, 0, 0, 0, false, 0, 0xFFFFFFFFFFFFFFFF, false, .plain, false⟩,
   ⟨0x14, 1, 0, 1, 0, 4, 0, 0, 0, false, 0, 0xFFFFFFFFFFFFFFFF, false, .plain, false⟩,
   ⟨0x18, 1, 0, 1, 0, 4, 0, 0, 0, false, 0, 0xFFFFFFFFFFFFFFFF, false, .plain, false⟩,
   ⟨0x1C, 1, 0, 1, 0, 4, 0, 0, 0, false, 0, 0xFFFFFFFFFFFFFFFF, false, .plain, false⟩,
   ⟨0x20, 5, 4, 1, 0, 4, 0, 0, 0, false, 0, 0xFFFFFFFFFFFFFFFF, false, .plain, false⟩,
   ⟨0x40, 1, 0, 1, 0, 4, 0x64, 0xFFFFFFFF, 0, false, 1, 0xEA60, false, .plain, false⟩,
   ⟨0x44, 1, 0, 1, 0, 4, 0, 0x9F, 0, false, 0, 0xFFFFFFFFFFFFFFFF, false, .plain, false⟩,
   ⟨0x48, 1, 0, 1, 0, 4, 0, 0, 0, false, 0, 0xFFFFFFFFFFFFFFFF, false, .plain, false⟩,
   ⟨0x4C, 1, 0, 1, 0, 4, 0, 0, 0, false, 0, 0xFFFFFFFFFFFFFFFF, false, .plain, false⟩,
   ⟨0x50, 1, 0, 1, 0, 8, 0, 0xFFFFFFFFFFFFFFFF, 0, false, 0, 0xFFFFFFFFFFFFFFFF, false, .plain, false⟩,
   ⟨0x58, 1, 0, 1, 0, 4, 0, 0xFFFFFFFF, 0, false, 0x40, 0x100000, true, .plain, false⟩,
   ⟨0x60, 1, 0, 1, 0, 4, 0, 0, 0, false, 0, 0xFFFFFFFFFFFFFFFF, false, .plain, false⟩,
   ⟨0x68, 1, 0, 1, 0, 8, 0, 0, 0, false, 0, 0xFFFFFFFFFFFFFFFF, false, .plain, false⟩,
   ⟨0x70, 1, 0, 1, 0, 4, 0, 0, 0, false, 0, 0xFFFFFFFFFFFFFFFF, false, .plain, false⟩,
   ⟨0x100, 32, 8, 1, 0, 4, 0, 0, 0, false, 0, 0xFFFFFFFFFFFFFFFF, false, .plain, false⟩,
   ⟨0x200, 64, 8, 1, 0, 4, 0, 0, 0, false, 0, 0xFFFFFFFFFFFFFFFF, false, .plain, false⟩,
   ⟨0x400, 16, 0x40, 1, 0, 64, 0, 0, 0, false, 0, 0xFFFFFFFFFFFFFFFF, false, .plain, false⟩]

/-- The register map of unit 0x06. -/
def regRows06 : List RegRow :=
  [⟨0xC000, 1, 0, 1, 0, 4, 0, 1, 0, false, 0, 0xFFFFFFFFFFFFFFFF, false, .plain, false⟩,
   ⟨0xC008, 1, 0, 1, 0, 4, 0x3E8, 0xFFFFFFFF, 0, false, 0xA, 0xEA60, false, .plain, false⟩,
   ⟨0xC100, 64, 0x10, 1, 0, 4, 0, 0, 0, false, 0, 0xFFFFFFFFFFFFFFFF, false, .plain, false⟩,
   ⟨0xC108, 64, 0x10, 1, 0, 4, 0, 0, 0, false, 0, 0xFFFFFFFFFFFFFFFF, false, .plain, false⟩,
   ⟨0, 1, 0, 1, 0, 4, 0x447, 0x777, 0, false, 0, 0xFFFFFFFFFFFFFFFF, false, .plain, false⟩,
   ⟨8, 1, 0, 1, 0, 4, 2, 0, 1, false, 0, 0xFFFFFFFFFFFFFFFF, false, .freezeArm, false⟩,
   ⟨0x10, 1, 0, 1, 0, 8, 0, 0, 0, false, 0, 0xFFFFFFFFFFFFFFFF, false, .plain, false⟩,
   ⟨0x18, 1, 0, 1, 0, 8, 0, 0, 0, false, 0, 0xFFFFFFFFFFFFFFFF, false, .plain, false⟩,
   ⟨0x20, 1, 0, 1, 0, 4, 0, 0, 0, false, 0, 0xFFFFFFFFFFFFFFFF, false, .plain, false⟩,
   ⟨0x28, 1, 0, 1, 0, 4, 0xC350, 0xFFFFFFFF, 0, false, 0x2710, 0x3B9ACA00, false, .plain, false⟩,
   ⟨0x30, 1, 0, 1, 0, 4, 0, 0, 0, false, 0, 0xFFFFFFFFFFFFFFFF, false, .plain, false⟩,
   ⟨0x38, 1, 0, 1, 0, 8, 0, 0xFFFFFFFFFFFFFFFF, 0, false, 0, 0xFFFFFFFFFFFFFFFF, false, .plain, false⟩,
   ⟨0x40, 1, 0, 1, 0, 4, 0, 0xFFFFFFFF, 0, false, 0x40, 0x10000, true, .plain, false⟩,
   ⟨0x48, 1, 0, 1, 0, 4, 0, 0, 0, false, 0, 0xFFFFFFFFFFFFFFFF, false, .plain, false⟩,
   ⟨0x100, 1, 0, 1, 0, 4, 0, 0, 0, false, 0, 0xFFFFFFFFFFFFFFFF, false, .plain, false⟩,
   ⟨0x108, 1, 0, 1, 0, 4, 0, 0xFFFFFFFF, 0, true, 0, 0xFFFFFFFFFFFFFFFF, false, .debugLock, false⟩]

/-- The register map of unit 0x07. -/
def regRows07 : List RegRow :=
  [⟨0, 1, 0, 1, 0, 4, 0, 0, 0, false, 0, 0xFFFFFFFFFFFFFFFF, false, .plain, false⟩,
   ⟨8, 1, 0, 1, 0, 4, 0x7FF0000, 0x7FF003F, 0, false, 0, 0xFFFFFFFFFFFFFFFF, false, .recCfg, false⟩,
   ⟨0x10, 1, 0, 1, 0, 8, 0, 0xFFFFFFFFFFFFFFFF, 0, false, 0, 0xFFFFFFFFFFFFFFFF, false, .recCfg, false⟩,
   ⟨0x18, 1, 0, 1, 0, 4, 0, 0xFFFFFFFF, 0, false, 1, 0x4000, false, .recCfg, false⟩,
   ⟨0x20, 1, 0, 1, 0, 4, 0, 0, 0, false, 0, 0xFFFFFFFFFFFFFFFF, false, .plain, false⟩,
   ⟨0x28, 1, 0, 1, 0, 8, 0, 0, 0, false, 0, 0xFFFFFFFFFFFFFFFF, false, .plain, false⟩,
   ⟨0x30, 1, 0, 1, 0, 4, 0, 0, 0, false, 0, 0xFFFFFFFFFFFFFFFF, false, .plain, false⟩,
   ⟨0x38, 1, 0, 1, 0, 4, 0x10000, 0xFFFFFFFF, 0, false, 0, 0x100000, false, .recCfg, false⟩,
   ⟨0x100, 32, 4, 1, 0, 4, 0, 0xFFFFFFFF, 0, false, 0, 0xFFFFFFFFFFFFFFFF, false, .recCfg, false⟩,
   ⟨0x200, 1, 0, 1, 0, 4, 0, 0, 0, false, 0, 0xFFFFFFFFFFFFFFFF, false, .plain, false⟩,
   ⟨0x208, 1, 0, 1, 0, 4, 0, 0, 0, false, 0, 0xFFFFFFFFFFFFFFFF, false, .plain, false⟩,
   ⟨0x210, 1, 0, 1, 0, 4, 0, 0, 0, false, 0, 0xFFFFFFFFFFFFFFFF, false, .plain, false⟩,
   ⟨0x218, 1, 0, 1, 0, 8, 0, 0, 0, false, 0, 0xFFFFFFFFFFFFFFFF, false, .plain, false⟩,
   ⟨0x220, 1, 0, 1, 0, 8, 0, 0, 0, false, 0, 0xFFFFFFFFFFFFFFFF, false, .plain, false⟩,
   ⟨0x228, 1, 0, 1, 0, 8, 0, 0, 0, false, 0, 0xFFFFFFFFFFFFFFFF, false, .plain, false⟩]

/-- The register map of unit 0x08. -/
def regRows08 : List RegRow :=
  [⟨0, 1, 0, 1, 0, 4, 0, 0, 0, false, 0, 0xFFFFFFFFFFFFFFFF, false, .plain, false⟩,
   ⟨8, 1, 0, 1, 0, 4, 0, 0, 0, false, 0, 0xFFFFFFFFFFFFFFFF, false, .plain, false⟩,
   ⟨0x100, 32, 0x10, 1, 0, 4, 0, 0, 0, false, 0, 0xFFFFFFFFFFFFFFFF, false, .plain, true⟩,
   ⟨0x108, 32, 0x10, 1, 0, 8, 0, 0, 0, false, 0, 0xFFFFFFFFFFFFFFFF, false, .plain, true⟩,
   ⟨0x400, 2048, 8, 1, 0, 8, 0, 0, 0, false, 0, 0xFFFFFFFFFFFFFFFF, false, .plain, false⟩,
   ⟨0x8000, 256, 0x20, 1, 0, 8, 0, 0, 0, false, 0, 0xFFFFFFFFFFFFFFFF, false, .plain, false⟩,
   ⟨0x8008, 256, 0x20, 1, 0, 8, 0, 0, 0, false, 0, 0xFFFFFFFFFFFFFFFF, false, .plain, false⟩,
   ⟨0x8010, 256, 0x20, 1, 0, 8, 0, 0, 0, false, 0, 0xFFFFFFFFFFFFFFFF, false, .plain, false⟩]

/-- The register map of unit 0x10. -/
def regRows10 : List RegRow :=
  [⟨0, 1, 0, 1, 0, 4, 0, 0, 0, false, 0, 0xFFFFFFFFFFFFFFFF, false, .plain, false⟩,
   ⟨8, 1, 0, 1, 0, 4, 0, 0, 1, false, 0, 0xFFFFFFFFFFFFFFFF, false, .plain, false⟩,
   ⟨0x10, 1, 0, 1, 0, 4, 0, 0xFFFF, 0, false, 0, 0xFFFFFFFFFFFFFFFF, false, .repair, true⟩,
   ⟨0x18, 1, 0, 1, 0, 4, 0, 0xFFFFFFFF, 0, false, 0, 0xFFFFFFFFFFFFFFFF, false, .repair, true⟩,
   ⟨0x100, 16, 8, 1, 0, 8, 0x210000000000, 0x3F01FFFFFFFF, 0, false, 0, 0xFFFFFFFFFFFFFFFF, false, .repair, true⟩,
   ⟨0x180, 1, 0, 1, 0, 8, 0, 0xFFFFFFFFFFFF, 0, false, 0, 0xFFFFFFFFFFFFFFFF, false, .repair, true⟩,
   ⟨0x188, 1, 0, 1, 0, 4, 0, 0, 0, false, 0, 0xFFFFFFFFFFFFFFFF, false, .plain, false⟩,
   ⟨0x2000, 512, 0x20, 1, 0, 8, 0, 0, 0, false, 0, 0xFFFFFFFFFFFFFFFF, false, .plain, false⟩,
   ⟨0x2008, 512, 0x20, 1, 0, 8, 0, 0, 0, false, 0, 0xFFFFFFFFFFFFFFFF, false, .plain, false⟩,
   ⟨0x2010, 512, 0x20, 1, 0, 8, 0, 0, 0, false, 0, 0xFFFFFFFFFFFFFFFF, false, .plain, false⟩,
   ⟨0x8000, 1, 0, 1, 0, 4, 1, 1, 0, false, 0, 0xFFFFFFFFFFFFFFFF, false, .plain, false⟩,
   ⟨0x8008, 1, 0, 1, 0, 4, 0x10, 0xFFFF, 0, false, 1, 0xFFFF, false, .plain, false⟩,
   ⟨0x8010, 1, 0, 1, 0, 4, 0, 0, 0, false, 0, 0xFFFFFFFFFFFFFFFF, false, .plain, false⟩,
   ⟨0x8018, 1, 0, 1, 0, 4, 0, 0x13F, 0, true, 0, 0xFFFFFFFFFFFFFFFF, false, .cetClear, false⟩,
   ⟨0x8020, 1, 0, 1, 0, 4, 0, 0, 0, false, 0, 0xFFFFFFFFFFFFFFFF, false, .plain, false⟩,
   ⟨0x8028, 1, 0, 1, 0, 4, 0, 0, 0, false, 0, 0xFFFFFFFFFFFFFFFF, false, .plain, false⟩,
   ⟨0x8030, 1, 0, 1, 0, 4, 0, 0, 0, false, 0, 0xFFFFFFFFFFFFFFFF, false, .plain, false⟩,
   ⟨0x8038, 1, 0, 1, 0, 4, 0, 0, 0, false, 0, 0xFFFFFFFFFFFFFFFF, false, .plain, false⟩,
   ⟨0x8040, 1, 0, 1, 0, 4, 0, 0, 0, false, 0, 0xFFFFFFFFFFFFFFFF, false, .plain, false⟩,
   ⟨0x9000, 64, 0x20, 1, 0, 32, 0, 0, 0, false, 0, 0xFFFFFFFFFFFFFFFF, false, .plain, false⟩] ++
  [⟨0xB000, 256, 8, 1, 0, 8, 0, 0x8000013F1FFFFFFF, 0, false, 0, 0xFFFFFFFFFFFFFFFF, false, .plain, false⟩,
   ⟨0xB800, 32, 8, 1, 0, 8, 0, 0x8000013F07FF003F, 0, false, 0, 0xFFFFFFFFFFFFFFFF, false, .plain, false⟩,
   ⟨0xC000, 512, 8, 1, 0, 4, 0x13, 0, 0, false, 0, 0xFFFFFFFFFFFFFFFF, false, .plain, true⟩,
   ⟨0xD000, 512, 8, 1, 0, 4, 0, 0, 0, false, 0, 0xFFFFFFFFFFFFFFFF, false, .plain, false⟩,
   ⟨0xE000, 512, 8, 1, 0, 4, 0, 0, 0, false, 0, 0xFFFFFFFFFFFFFFFF, false, .plain, false⟩,
   ⟨0x2018, 512, 0x20, 1, 0, 4, 0, 0, 0, false, 0, 0xFFFFFFFFFFFFFFFF, false, .plain, false⟩,
   ⟨0x201C, 512, 0x20, 1, 0, 4, 0, 0, 0, false, 0, 0xFFFFFFFFFFFFFFFF, false, .plain, false⟩]

/-- The register map of unit 0x18. -/
def regRows18 : List RegRow :=
  [⟨0, 1, 0, 1, 0, 4, 0, 1, 0, false, 0, 0xFFFFFFFFFFFFFFFF, false, .engine, false⟩,
   ⟨8, 1, 0, 1, 0, 4, 0, 0, 0, false, 0, 0xFFFFFFFFFFFFFFFF, false, .plain, false⟩,
   ⟨0x10, 1, 0, 1, 0, 4, 0, 0, 0, false, 0, 0xFFFFFFFFFFFFFFFF, false, .plain, false⟩,
   ⟨0x18, 1, 0, 1, 0, 4, 0, 0, 0, false, 0, 0xFFFFFFFFFFFFFFFF, false, .plain, false⟩,
   ⟨0x20, 1, 0, 1, 0, 4, 0, 0, 0, false, 0, 0xFFFFFFFFFFFFFFFF, false, .plain, false⟩,
   ⟨0x28, 1, 0, 1, 0, 4, 0, 0, 0, false, 0, 0xFFFFFFFFFFFFFFFF, false, .plain, false⟩,
   ⟨0x100, 4, 0x10, 1, 0, 8, 0, 0, 0, false, 0, 0xFFFFFFFFFFFFFFFF, false, .plain, false⟩]

/-- The register map of unit 0x19. -/
def regRows19 : List RegRow :=
  [⟨0, 1, 0, 1, 0, 4, 0, 1, 0, false, 0, 0xFFFFFFFFFFFFFFFF, false, .engine, false⟩,
   ⟨8, 1, 0, 1, 0, 4, 0, 0, 0, false, 0, 0xFFFFFFFFFFFFFFFF, false, .plain, false⟩,
   ⟨0x10, 1, 0, 1, 0, 4, 0, 0, 0, false, 0, 0xFFFFFFFFFFFFFFFF, false, .plain, false⟩,
   ⟨0x100, 12, 0x40, 1, 0, 4, 0, 0xFFFF000F, 0, false, 0, 0xFFFFFFFFFFFFFFFF, false, .camPort, false⟩,
   ⟨0x108, 12, 0x40, 1, 0, 4, 0, 0, 0, false, 0, 0xFFFFFFFFFFFFFFFF, false, .plain, false⟩,
   ⟨0x1000, 64, 0x40, 1, 0, 4, 0, 0xFFFFFFFF, 0, false, 0, 0xFFFFFFFFFFFFFFFF, false, .camStream, false⟩,
   ⟨0x1008, 64, 0x40, 1, 0, 8, 0, 0x1FFFFFFFFFFFFF, 0, false, 0, 0xFFFFFFFFFFFFFFFF, false, .plain, false⟩,
   ⟨0x1010, 64, 0x40, 1, 0, 4, 0, 0xFFFFFFFF, 0, false, 0, 0xFFFFFFFFFFFFFFFF, false, .plain, false⟩,
   ⟨0x1018, 64, 0x40, 1, 0, 4, 0, 0xFFFFFFFF, 0, false, 0, 0xFFFFFFFFFFFFFFFF, false, .plain, false⟩,
   ⟨0x1020, 64, 0x40, 1, 0, 4, 0, 0xFFFFFFFF, 0, false, 0, 0xFFFFFFFFFFFFFFFF, false, .plain, false⟩,
   ⟨0x1028, 64, 0x40, 1, 0, 8, 0, 0, 0, false, 0, 0xFFFFFFFFFFFFFFFF, false, .plain, false⟩,
   ⟨0x2000, 16, 8, 1, 0, 4, 1, 7, 0, false, 0, 0xFFFFFFFFFFFFFFFF, false, .fsyncMode, false⟩]

/-- The register map of unit 0x1A. -/
def regRows1A : List RegRow :=
  [⟨0, 1, 0, 1, 0, 4, 0, 1, 0, false, 0, 0xFFFFFFFFFFFFFFFF, false, .engine, false⟩,
   ⟨0x10, 1, 0, 1, 0, 4, 0, 0xFFF0FFF, 0, false, 0, 0xFFFFFFFFFFFFFFFF, false, .plain, false⟩,
   ⟨0x18, 16, 8, 1, 0, 8, 0, 0xFFFFFFFFFFFFFFFF, 0, false, 0, 0xFFFFFFFFFFFFFFFF, false, .plain, false⟩,
   ⟨0x98, 1, 0, 1, 0, 4, 0, 0, 3, false, 0, 0xFFFFFFFFFFFFFFFF, false, .ethTable, false⟩,
   ⟨0x100, 4, 0x40, 1, 0, 4, 0, 0x7FFF, 0, false, 0, 0xFFFFFFFFFFFFFFFF, false, .plain, false⟩,
   ⟨0x108, 4, 0x40, 1, 0, 4, 0, 0, 0, false, 0, 0xFFFFFFFFFFFFFFFF, false, .plain, false⟩,
   ⟨0x110, 4, 0x40, 1, 0, 4, 0, 0xFFFFFFFF, 0, false, 0, 0xFFFFFFFFFFFFFFFF, false, .plain, false⟩,
   ⟨0x114, 4, 0x40, 1, 0, 4, 0, 0xFFFFFFFF, 0, false, 0, 0xFFFFFFFFFFFFFFFF, false, .plain, false⟩,
   ⟨0x118, 4, 0x40, 1, 0, 8, 0, 0xFFFFFFFFFFFF, 0, false, 0, 0xFFFFFFFFFFFFFFFF, false, .plain, false⟩,
   ⟨0x120, 4, 0x40, 1, 0, 4, 0, 0, 0, false, 0, 0xFFFFFFFFFFFFFFFF, false, .plain, false⟩,
   ⟨0x800, 4, 0x20, 1, 0, 8, 0, 0xFFFFFF7F, 0, false, 0, 0xFFFFFFFFFFFFFFFF, false, .plain, false⟩,
   ⟨0x808, 4, 0x20, 1, 0, 8, 0, 0xFFFFFFFFFFFF, 0, false, 0, 0xFFFFFFFFFFFFFFFF, false, .plain, false⟩]

/-- The register map of unit 0x1B. -/
def regRows1B : List RegRow :=
  [⟨0, 1, 0, 1, 0, 4, 0, 0xF, 0, false, 0, 0xFFFFFFFFFFFFFFFF, false, .plain, false⟩,
   ⟨0x100, 8, 0x100, 1, 0, 4, 1, 0x3FF, 0, false, 0, 0xFFFFFFFFFFFFFFFF, false, .canCtrl, false⟩,
   ⟨0x108, 8, 0x100, 1, 0, 4, 0, 0xFFFFFFFF, 0, false, 0, 0xFFFFFFFFFFFFFFFF, false, .plain, false⟩,
   ⟨0x110, 8, 0x100, 1, 0, 4, 0, 0xFFFFFFFF, 0, false, 0, 0xFFFFFFFFFFFFFFFF, false, .plain, false⟩,
   ⟨0x118, 8, 0x100, 1, 0, 8, 0, 0xFFFFFFFFFFFFFFFF, 0, false, 0, 0xFFFFFFFFFFFFFFFF, false, .plain, false⟩,
   ⟨0x120, 8, 0x100, 1, 0, 4, 0, 0x1FF, 0, false, 0, 0xFFFFFFFFFFFFFFFF, false, .plain, false⟩,
   ⟨0x128, 8, 0x100, 1, 0, 4, 0, 0x3FFFF3F, 0, false, 0, 0xFFFFFFFFFFFFFFFF, false, .canRam, false⟩,
   ⟨0x130, 8, 0x100, 1, 0, 4, 0, 0, 0, false, 0, 0xFFFFFFFFFFFFFFFF, false, .plain, false⟩,
   ⟨0x138, 8, 0x100, 1, 0, 4, 0, 0, 0xFFFFFFFF, false, 0, 0xFFFFFFFFFFFFFFFF, false, .canTx, false⟩,
   ⟨0x140, 8, 0x100, 1, 0, 8, 0, 0xFFFFFFFF1FFFFFFF, 0, false, 0, 0xFFFFFFFFFFFFFFFF, false, .plain, false⟩,
   ⟨0x148, 8, 0x100, 1, 0, 8, 0, 0xFFFFFFFFFFFFFFFF, 0, false, 0, 0xFFFFFFFFFFFFFFFF, false, .plain, false⟩,
   ⟨0x150, 8, 0x100, 1, 0, 8, 0, 0xFFFFFFFFFFFFFFFF, 0, false, 0, 0xFFFFFFFFFFFFFFFF, false, .plain, false⟩,
   ⟨0x158, 8, 0x100, 1, 0, 4, 0x10, 0x1F, 0, false, 0, 0xFFFFFFFFFFFFFFFF, false, .plain, false⟩,
   ⟨0x160, 8, 0x100, 1, 0, 4, 0x3E8, 0xF3FFF, 0, false, 0, 0xFFFFFFFFFFFFFFFF, false, .plain, false⟩]

/-- The register map of unit 0x1C. -/
def regRows1C : List RegRow :=
  [⟨0, 1, 0, 1, 0, 4, 0, 1, 2, false, 0, 0xFFFFFFFFFFFFFFFF, false, .bamCtrl, false⟩,
   ⟨8, 1, 0, 1, 0, 4, 0, 0, 0, false, 0, 0xFFFFFFFFFFFFFFFF, false, .plain, false⟩,
   ⟨0x10, 1, 0, 1, 0, 4, 0xFF, 0xFF, 0, false, 0, 0xFFFFFFFFFFFFFFFF, false, .plain, false⟩,
   ⟨0x18, 1, 0, 1, 0, 4, 0, 0, 0, false, 0, 0xFFFFFFFFFFFFFFFF, false, .plain, false⟩,
   ⟨0x20, 1, 0, 1, 0, 4, 0, 0, 0, false, 0, 0xFFFFFFFFFFFFFFFF, false, .plain, false⟩,
   ⟨0x28, 1, 0, 1, 0, 8, 0, 0, 0, false, 0, 0xFFFFFFFFFFFFFFFF, false, .plain, false⟩,
   ⟨0x30, 1, 0, 1, 0, 4, 7, 0, 0, false, 0, 0xFFFFFFFFFFFFFFFF, false, .plain, false⟩,
   ⟨0x100, 6, 0x40, 1, 0, 4, 0, 3, 0, false, 0, 0xFFFFFFFFFFFFFFFF, false, .bamPort, false⟩,
   ⟨0x108, 6, 0x40, 1, 0, 4, 0, 0, 0, false, 0, 0xFFFFFFFFFFFFFFFF, false, .plain, false⟩,
   ⟨0x110, 6, 0x40, 1, 0, 4, 0, 0, 0, false, 0, 0xFFFFFFFFFFFFFFFF, false, .plain, false⟩,
   ⟨0x118, 6, 0x40, 1, 0, 8, 0, 0, 0, false, 0, 0xFFFFFFFFFFFFFFFF, false, .plain, false⟩,
   ⟨0x120, 6, 0x40, 1, 0, 4, 0, 0, 0, false, 0, 0xFFFFFFFFFFFFFFFF, false, .plain, false⟩,
   ⟨0x128, 6, 0x40, 1, 0, 4, 0, 0, 0, false, 0, 0xFFFFFFFFFFFFFFFF, false, .plain, false⟩,
   ⟨0x1000, 7, 0x200, 64, 8, 4, 0, 0, 0, false, 0, 0xFFFFFFFFFFFFFFFF, false, .plain, true⟩,
   ⟨0x2000, 32, 0x20, 1, 0, 4, 0, 0x7FFFFFF, 0, false, 0, 0xFFFFFFFFFFFFFFFF, false, .mirror, false⟩,
   ⟨0x2008, 32, 0x20, 1, 0, 8, 0, 0, 0, false, 0, 0xFFFFFFFFFFFFFFFF, false, .plain, false⟩,
   ⟨0x3000, 16, 0x20, 1, 0, 4, 0, 0x1FFFFFF, 0, false, 0, 0xFFFFFFFFFFFFFFFF, false, .twin, false⟩,
   ⟨0x3008, 16, 0x20, 1, 0, 4, 0xFA0, 0xFFFFFFFF, 0, false, 0x3E8, 0x186A0, false, .plain, false⟩,
   ⟨0x3010, 16, 0x20, 1, 0, 4, 0, 0, 0, false, 0, 0xFFFFFFFFFFFFFFFF, false, .plain, false⟩]

/-- The register map of unit 0x1D. -/
def regRows1D : List RegRow :=
  [⟨0, 1, 0, 1, 0, 4, 0, 1, 0, false, 0, 0xFFFFFFFFFFFFFFFF, false, .engine, false⟩,
   ⟨8, 1, 0, 1, 0, 4, 0, 0, 0, false, 0, 0xFFFFFFFFFFFFFFFF, false, .plain, false⟩,
   ⟨0x10, 1, 0, 1, 0, 4, 0, 0, 0, false, 0, 0xFFFFFFFFFFFFFFFF, false, .plain, false⟩,
   ⟨0x18, 1, 0, 1, 0, 4, 0, 0, 0, false, 0, 0xFFFFFFFFFFFFFFFF, false, .plain, false⟩,
   ⟨0x20, 1, 0, 1, 0, 4, 0, 0, 0, false, 0, 0xFFFFFFFFFFFFFFFF, false, .plain, false⟩,
   ⟨0x28, 1, 0, 1, 0, 4, 0, 0, 0, false, 0, 0xFFFFFFFFFFFFFFFF, false, .plain, false⟩,
   ⟨0x1000, 8, 0x40, 1, 0, 8, 0, 0xFFFFFFF, 0, false, 0, 0xFFFFFFFFFFFFFFFF, false, .solSlot, false⟩,
   ⟨0x1008, 8, 0x40, 1, 0, 4, 0, 0, 0, false, 0, 0xFFFFFFFFFFFFFFFF, false, .plain, false⟩,
   ⟨0x1010, 8, 0x40, 1, 0, 8, 0, 0, 0, false, 0, 0xFFFFFFFFFFFFFFFF, false, .plain, false⟩,
   ⟨0x1018, 8, 0x40, 1, 0, 8, 0, 0, 0, false, 0, 0xFFFFFFFFFFFFFFFF, false, .plain, false⟩,
   ⟨0x1020, 8, 0x40, 1, 0, 8, 0, 0, 0, false, 0, 0xFFFFFFFFFFFFFFFF, false, .plain, false⟩,
   ⟨0x1028, 8, 0x40, 1, 0, 4, 0, 0, 0, false, 0, 0xFFFFFFFFFFFFFFFF, false, .plain, false⟩,
   ⟨0x1030, 8, 0x40, 1, 0, 8, 0, 0, 0, false, 0, 0xFFFFFFFFFFFFFFFF, false, .plain, false⟩,
   ⟨0x1038, 8, 0x40, 1, 0, 8, 0, 0, 0, false, 0, 0xFFFFFFFFFFFFFFFF, false, .plain, false⟩]

/-- The register map of unit 0x1E. -/
def regRows1E : List RegRow :=
  [⟨0, 1, 0, 1, 0, 4, 0, 1, 0, false, 0, 0xFFFFFFFFFFFFFFFF, false, .engine, false⟩,
   ⟨8, 1, 0, 1, 0, 4, 0, 0, 0, false, 0, 0xFFFFFFFFFFFFFFFF, false, .plain, false⟩,
   ⟨0x10, 1, 0, 1, 0, 4, 0, 0, 0, false, 0, 0xFFFFFFFFFFFFFFFF, false, .plain, false⟩,
   ⟨0x20, 1, 0, 1, 0, 4, 0, 0xFFFF003F, 0x100, false, 0, 0xFFFFFFFFFFFFFFFF, false, .testGen, false⟩,
   ⟨0x24, 1, 0, 1, 0, 4, 0, 0xFFFFFFFF, 0, false, 0, 0xFFFFFFFFFFFFFFFF, false, .plain, false⟩,
   ⟨0x28, 1, 0, 1, 0, 4, 0, 0xFFFFFFFF, 0, false, 1, 0xFFFFFFFF, false, .plain, false⟩,
   ⟨0x2C, 1, 0, 1, 0, 4, 0, 0xFFFFFFFF, 0, false, 0, 0xFFFFFFFFFFFFFFFF, false, .plain, false⟩,
   ⟨0x30, 1, 0, 1, 0, 4, 0, 0xFFFFFFFF, 0, false, 0, 0xFFFFFFFFFFFFFFFF, false, .plain, false⟩,
   ⟨0x34, 1, 0, 1, 0, 4, 1, 0x7FFFFFFF, 0, false, 1, 0x7FFFFFFF, false, .plain, false⟩,
   ⟨0x40, 1, 0, 1, 0, 4, 0, 0xFFFF1F, 0, false, 0, 0xFFFFFFFFFFFFFFFF, false, .captureCfg, false⟩,
   ⟨0x48, 1, 0, 1, 0, 4, 0, 0, 0, false, 0, 0xFFFFFFFFFFFFFFFF, false, .plain, false⟩,
   ⟨0x100, 8, 0x40, 1, 0, 8, 0, 0xFFFF3FFFFFFFFFFF, 0, false, 0, 0xFFFFFFFFFFFFFFFF, false, .channel, false⟩,
   ⟨0x108, 8, 0x40, 1, 0, 8, 0, 0xFFFFFFFFFFFFFFFF, 0, false, 0, 0xFFFFFFFFFFFFFFFF, false, .channelOff, false⟩,
   ⟨0x110, 8, 0x40, 1, 0, 4, 0, 0xFFFFFFFF, 0, false, 0, 0xFFFFFFFFFFFFFFFF, false, .channelOff, false⟩,
   ⟨0x114, 8, 0x40, 1, 0, 4, 0, 0xFFFFFFFF, 0, false, 0, 0xFFFFFFFFFFFFFFFF, false, .plain, false⟩,
   ⟨0x118, 8, 0x40, 1, 0, 4, 0, 0, 0, false, 0, 0xFFFFFFFFFFFFFFFF, false, .plain, false⟩,
   ⟨0x120, 8, 0x40, 1, 0, 4, 0, 0, 0, false, 0, 0xFFFFFFFFFFFFFFFF, false, .plain, false⟩,
   ⟨0x128, 8, 0x40, 1, 0, 8, 0, 0, 0, false, 0, 0xFFFFFFFFFFFFFFFF, false, .plain, false⟩]

/-- The register map of unit 0x1F. -/
def regRows1F : List RegRow :=
  [⟨0x2000, 16, 0x10, 1, 0, 4, 0, 0xFFFFFF, 0, false, 0, 0xFFFFFFFFFFFFFFFF, false, .hartTimeout, false⟩,
   ⟨0x2008, 16, 0x10, 1, 0, 4, 0, 0xFFFFFFFF, 0, true, 0, 0xFFFFFFFFFFFFFFFF, false, .hartKick, false⟩]

/-- The register map of unit 0x20. -/
def regRows20 : List RegRow :=
  [⟨0, 1, 0, 1, 0, 4, 0, 0, 0, false, 0, 0xFFFFFFFFFFFFFFFF, false, .plain, false⟩,
   ⟨8, 1, 0, 1, 0, 4, 0, 0xFFFFFFFF, 0, false, 0, 0xFFFFFFFFFFFFFFFF, false, .plain, false⟩,
   ⟨0x10, 1, 0, 1, 0, 4, 0, 0xFFFFFFFF, 0, false, 0, 0xFFFFFFFFFFFFFFFF, false, .plain, false⟩,
   ⟨0x18, 1, 0, 1, 0, 4, 0, 0, 0, false, 0, 0xFFFFFFFFFFFFFFFF, false, .plain, false⟩,
   ⟨0x1C, 1, 0, 1, 0, 4, 0xF4240, 0xFFFFFFFF, 0, false, 0x3E8, 0x5F5E100, false, .plain, false⟩,
   ⟨0x100, 51, 0x20, 1, 0, 4, 0xC8, 0x800FFFFF, 0, false, 0, 0xFFFFFFFFFFFFFFFF, false, .plain, false⟩,
   ⟨0x104, 51, 0x20, 1, 0, 4, 0x7D0, 0xFFFFFFFF, 0, false, 0, 0xFFFFFFFFFFFFFFFF, false, .plain, false⟩,
   ⟨0x108, 51, 0x20, 1, 0, 4, 0x2710, 0xFFFFFFFF, 0, false, 0, 0xFFFFFFFFFFFFFFFF, false, .plain, false⟩,
   ⟨0x10C, 51, 0x20, 1, 0, 4, 0x64, 0xFFFFFFFF, 0, false, 0, 0xFFFF, false, .plain, false⟩,
   ⟨0x110, 51, 0x20, 1, 0, 4, 0xA, 0xFFFFFFFF, 0, false, 1, 0xFFFF, false, .plain, false⟩,
   ⟨0x114, 51, 0x20, 1, 0, 4, 0, 0, 0, false, 0, 0xFFFFFFFFFFFFFFFF, false, .plain, false⟩,
   ⟨0x1000, 8, 0x20, 1, 0, 4, 0, 0xFFFFF, 0, false, 0, 0xFFFFFFFFFFFFFFFF, false, .sentCfg, false⟩,
   ⟨0x1008, 8, 0x20, 1, 0, 4, 0, 0xFFFFFFFF, 0, false, 0, 0xFFFFFFFFFFFFFFFF, false, .plain, false⟩,
   ⟨0x1010, 8, 0x20, 1, 0, 8, 0, 0, 0, false, 0, 0xFFFFFFFFFFFFFFFF, false, .plain, false⟩,
   ⟨0x2000, 4, 0x40, 1, 0, 4, 0, 0xFF01FFFF, 0, false, 0, 0xFFFFFFFFFFFFFFFF, false, .plain, false⟩,
   ⟨0x2008, 4, 0x40, 1, 0, 4, 0, 0xFFFFFFFF, 0, false, 0x2710, 0x3B9ACA00, true, .plain, false⟩,
   ⟨0x2010, 4, 0x40, 1, 0, 4, 0, 0xFFFFFFFF, 0, false, 0, 0xFFFFFFFFFFFFFFFF, false, .plain, false⟩,
   ⟨0x2018, 4, 0x40, 1, 0, 32, 0, 0, 0, false, 0, 0xFFFFFFFFFFFFFFFF, false, .plain, false⟩]

/-- The register map of unit 0x21. -/
def regRows21 : List RegRow :=
  [⟨0, 1, 0, 1, 0, 4, 0, 1, 0, false, 0, 0xFFFFFFFFFFFFFFFF, false, .engine, false⟩,
   ⟨8, 1, 0, 1, 0, 4, 0, 0, 0, false, 0, 0xFFFFFFFFFFFFFFFF, false, .plain, false⟩,
   ⟨0x10, 1, 0, 1, 0, 8, 0, 0xFFFFFFFFFFFFFFFF, 0, false, 0, 0xFFFFFFFFFFFFFFFF, false, .kvRegion, true⟩,
   ⟨0x18, 1, 0, 1, 0, 4, 0, 0xFFFFFFFF, 0, false, 4, 0x1000, false, .kvRegion, true⟩,
   ⟨0x20, 1, 0, 1, 0, 4, 0, 0, 0, false, 0, 0xFFFFFFFFFFFFFFFF, false, .plain, false⟩,
   ⟨0x28, 1, 0, 1, 0, 4, 0, 0, 0, false, 0, 0xFFFFFFFFFFFFFFFF, false, .plain, false⟩,
   ⟨0x30, 1, 0, 1, 0, 4, 0, 0, 0, false, 0, 0xFFFFFFFFFFFFFFFF, false, .plain, false⟩,
   ⟨0x38, 1, 0, 1, 0, 4, 0, 0, 0, false, 0, 0xFFFFFFFFFFFFFFFF, false, .plain, false⟩,
   ⟨0x1000, 32, 0x40, 1, 0, 8, 0, 0, 0, false, 0, 0xFFFFFFFFFFFFFFFF, false, .plain, true⟩,
   ⟨0x1008, 32, 0x40, 1, 0, 8, 0, 0, 0, false, 0, 0xFFFFFFFFFFFFFFFF, false, .plain, false⟩,
   ⟨0x1010, 32, 0x40, 1, 0, 4, 0, 0, 0, false, 0, 0xFFFFFFFFFFFFFFFF, false, .plain, false⟩,
   ⟨0x1018, 32, 0x40, 1, 0, 4, 0, 0, 0, false, 0, 0xFFFFFFFFFFFFFFFF, false, .plain, false⟩]

/-- The registers of the host stack in the window of HST: the memory registers of R150, without `CDn_Tt_MEMCFG`. -/
def regRowsHostMem : List RegRow := regRows10.filter fun r => decide (0x8000 ≤ r.off ∧ r.off < 0xC000)

/-- The register map of a unit (units of the table under R27; none for an unassigned ID). -/
def unitRows (u : Nat) : Option (List RegRow) :=
  if u = 0x00 then some regRows00
  else if u = 0x01 then some regRows01
  else if u = 0x02 then some regRows02
  else if u = 0x03 then some regRows03
  else if u = 0x04 then some regRows04
  else if u = 0x05 then some regRows05
  else if u = 0x06 then some regRows06
  else if u = 0x07 then some regRows07
  else if u = 0x08 then some regRows08
  else if 0x10 ≤ u ∧ u ≤ 0x13 then some regRows10
  else if u = 0x18 then some regRows18
  else if u = 0x19 then some regRows19
  else if u = 0x1A then some regRows1A
  else if u = 0x1B then some regRows1B
  else if u = 0x1C then some regRows1C
  else if u = 0x1D then some regRows1D
  else if u = 0x1E then some regRows1E
  else if u = 0x1F then some (regRows1F ++ regRowsHostMem)
  else if u = 0x20 then some regRows20
  else if u = 0x21 then some regRows21
  else none

/-- Whether a row covers an offset, and the offset of the instance's first byte. -/
def RegRow.covers (r : RegRow) (o : Nat) : Option Nat :=
  if o < r.off then none
  else
    let d := o - r.off
    let i := if r.s1 = 0 then 0 else min (d / r.s1) (r.n1 - 1)
    let d1 := d - i * r.s1
    let j := if r.s2 = 0 then 0 else min (d1 / r.s2) (r.n2 - 1)
    let d2 := d1 - j * r.s2
    if d2 < r.bytes then some (r.off + i * r.s1 + j * r.s2) else none

/-- The first row of a list that covers an offset. -/
def findRow : List RegRow → Nat → Option (RegRow × Nat)
  | [], _ => none
  | r :: rs, o =>
    match r.covers o with
    | some b => some (r, b)
    | none => findRow rs o

/-- The register that holds a byte of the configuration space: its row and the device address of its first byte. -/
def regAt (a : Nat) : Option (RegRow × Nat) :=
  if a < 0x003000000000 ∨ 0x003001000000 ≤ a then none
  else
    let u := (a - 0x003000000000) / 0x10000
    match unitRows u with
    | none => none
    | some rows =>
      match findRow rows (a % 0x10000) with
      | some (r, o) => some (r, unitBase u + o)
      | none => none

/-- Reset values that differ between instances or are written out elsewhere: die numbers (R96), the switched-on domains
(R569), the rails' addresses and nominal setpoints (R560), the pads (R576), mailbox 0 (R349), SAFE_IN0 (R418). -/
def regResetSpecial : List (Nat × Nat) :=
  [(R.CD_ID 0, 0), (R.CD_ID 1, 1), (R.CD_ID 2, 2), (R.CD_ID 3, 3),
   (R.PMU_D_CTRL 0, 1), (R.PMU_D_CTRL 1, 1), (R.PMU_D_CTRL 2, 1), (R.PMU_D_CTRL 8, 1),
   (R.PMU_D_STATUS 0, 2), (R.PMU_D_STATUS 1, 2), (R.PMU_D_STATUS 2, 2), (R.PMU_D_STATUS 8, 2),
   (R.GPIO_PIN_CFG 32, 0x800000C8),
   (R.SUP_MB_STATE 0, 2), (R.SUP_MB_OWNER 0, 0x03FF0100), (R.SUP_MB_RIGHTS 0, 0x1FFF), (R.SUP_MB_SCOPE 0, 0xFFFFFFFF)] ++
  [(R.PMU_RAIL_CFG 0, 0x40 + 0x100 * 1800), (R.PMU_RAIL_CFG 1, 0x41 + 0x100 * 900),
   (R.PMU_RAIL_CFG 2, 0x42 + 0x100 * 750), (R.PMU_RAIL_CFG 3, 0x43 + 0x100 * 800),
   (R.PMU_RAIL_CFG 4, 0x44 + 0x100 * 900), (R.PMU_RAIL_CFG 5, 0x45 + 0x100 * 1200),
   (R.PMU_RAIL_CFG 6, 0x46 + 0x100 * 1800), (R.PMU_RAIL_CFG 7, 0x47 + 0x100 * 1100),
   (R.PMU_RAIL_CFG 8, 0x48 + 0x100 * 1100), (R.PMU_RAIL_CFG 9, 0x49 + 0x100 * 1100),
   (R.PMU_RAIL_CFG 10, 0x4A + 0x100 * 1100), (R.PMU_RAIL_CFG 11, 0x4B + 0x100 * 1100),
   (R.PMU_RAIL_CFG 12, 0x4C + 0x100 * 750), (R.PMU_RAIL_CFG 13, 0x4D + 0x100 * 750),
   (R.PMU_RAIL_CFG 14, 0x4E + 0x100 * 750), (R.PMU_RAIL_CFG 15, 0x4F + 0x100 * 750)] ++
  [(R.PMU_PAD_CFG 0, 0x9), (R.PMU_PAD_CFG 1, 0x6), (R.PMU_PAD_CFG 2, 0x9), (R.PMU_PAD_CFG 3, 0x6),
   (R.PMU_PAD_CFG 4, 0x3), (R.PMU_PAD_CFG 5, 0x6), (R.PMU_PAD_CFG 6, 0x9), (R.PMU_PAD_CFG 7, 0xD),
   (R.PMU_PAD_CFG 8, 0x9), (R.PMU_PAD_CFG 9, 0x5)]

/-- What a register reads after reset (R9), by the device address of its first byte; later 8-byte pieces of a long register
reset to zero, as the register maps say. -/
def regReset (a : Nat) : Dword :=
  match regResetSpecial.lookup a with
  | some v => BitVec.ofNat 64 v
  | none =>
    match regAt a with
    | some (r, b) => if a = b then BitVec.ofNat 64 r.reset else 0#64
    | none => 0#64

end Sys2Proof.Machine
end

