-- ==== Sys2Proof/Machine/Status.lean ====
section
/-! DEFINITION. Status codes (R11, R373) with their values, severities and source units, from the code lists of the chapters. -/

namespace Sys2Proof.Machine

/-- `ST_OK`. -/
def ST.OK : Status := 0x0000#16
/-- `ST_UNIT_ABSENT`. -/
def ST.UNIT_ABSENT : Status := 0x0101#16
/-- `ST_ADDR_UNMAPPED`. -/
def ST.ADDR_UNMAPPED : Status := 0x0102#16
/-- `ST_ADDR_OUT_OF_SERVICE`. -/
def ST.ADDR_OUT_OF_SERVICE : Status := 0x0103#16
/-- `ST_SPAD_BUSY`. -/
def ST.SPAD_BUSY : Status := 0x0104#16
/-- `ST_BAM_NODE_UNKNOWN`. -/
def ST.BAM_NODE_UNKNOWN : Status := 0x0105#16
/-- `ST_IMG_TILE_COUNT`. -/
def ST.IMG_TILE_COUNT : Status := 0x0106#16
/-- `ST_IMG_FORMAT`. -/
def ST.IMG_FORMAT : Status := 0x0107#16
/-- `ST_IMG_IN_USE`. -/
def ST.IMG_IN_USE : Status := 0x0108#16
/-- `ST_MB_BUSY`. -/
def ST.MB_BUSY : Status := 0x0110#16
/-- `ST_MB_SEQ`. -/
def ST.MB_SEQ : Status := 0x0111#16
/-- `ST_MB_CMD`. -/
def ST.MB_CMD : Status := 0x0112#16
/-- `ST_MB_ARG`. -/
def ST.MB_ARG : Status := 0x0113#16
/-- `ST_MB_RIGHTS`. -/
def ST.MB_RIGHTS : Status := 0x0114#16
/-- `ST_MB_SCOPE`. -/
def ST.MB_SCOPE : Status := 0x0115#16
/-- `ST_MB_ARG_ACCESS`. -/
def ST.MB_ARG_ACCESS : Status := 0x0116#16
/-- `ST_MB_OBJECT_BUSY`. -/
def ST.MB_OBJECT_BUSY : Status := 0x0117#16
/-- `ST_MB_RESET`. -/
def ST.MB_RESET : Status := 0x0118#16
/-- `ST_SUP_GREY`. -/
def ST.SUP_GREY : Status := 0x0119#16
/-- `ST_SUP_NOT_READY`. -/
def ST.SUP_NOT_READY : Status := 0x011a#16
/-- `ST_MB_REG_PROTECTED`. -/
def ST.MB_REG_PROTECTED : Status := 0x011b#16
/-- `ST_TIME_STEP_REFUSED`. -/
def ST.TIME_STEP_REFUSED : Status := 0x0201#16
/-- `ST_TIME_RATE_CLIPPED`. -/
def ST.TIME_RATE_CLIPPED : Status := 0x0202#16
/-- `ST_TIME_OFFSET_LARGE`. -/
def ST.TIME_OFFSET_LARGE : Status := 0x0203#16
/-- `ST_TIME_RANGE`. -/
def ST.TIME_RANGE : Status := 0x0204#16
/-- `ST_TIME_SRC_LOST`. -/
def ST.TIME_SRC_LOST : Status := 0x0205#16
/-- `ST_TIME_SRC_RESTORED`. -/
def ST.TIME_SRC_RESTORED : Status := 0x0206#16
/-- `ST_WHEEL_BAD_ENTRY`. -/
def ST.WHEEL_BAD_ENTRY : Status := 0x0210#16
/-- `ST_WHEEL_PERIOD`. -/
def ST.WHEEL_PERIOD : Status := 0x0211#16
/-- `ST_WHEEL_BANK_BUSY`. -/
def ST.WHEEL_BANK_BUSY : Status := 0x0212#16
/-- `ST_WHEEL_ISSUE_LATE`. -/
def ST.WHEEL_ISSUE_LATE : Status := 0x0213#16
/-- `ST_WHEEL_TARGET_GONE`. -/
def ST.WHEEL_TARGET_GONE : Status := 0x0214#16
/-- `ST_WHEEL_BASE_LOCKED`. -/
def ST.WHEEL_BASE_LOCKED : Status := 0x0215#16
/-- `ST_HANDOFF_LANES`. -/
def ST.HANDOFF_LANES : Status := 0x0220#16
/-- `ST_HANDOFF_DEST`. -/
def ST.HANDOFF_DEST : Status := 0x0221#16
/-- `ST_HANDOFF_PUBLISH_DENIED`. -/
def ST.HANDOFF_PUBLISH_DENIED : Status := 0x0222#16
/-- `ST_HANDOFF_STALE`. -/
def ST.HANDOFF_STALE : Status := 0x0223#16
/-- `ST_HANDOFF_OVERLAP`. -/
def ST.HANDOFF_OVERLAP : Status := 0x0224#16
/-- `ST_HANDOFF_DEST_BUSY`. -/
def ST.HANDOFF_DEST_BUSY : Status := 0x0225#16
/-- `ST_LAUNCH_IN_WINDOW`. -/
def ST.LAUNCH_IN_WINDOW : Status := 0x0226#16
/-- `ST_POWER_BUDGET`. -/
def ST.POWER_BUDGET : Status := 0x0301#16
/-- `ST_POWER_ADMIT`. -/
def ST.POWER_ADMIT : Status := 0x0302#16
/-- `ST_PWR_DOMAIN_BUSY`. -/
def ST.PWR_DOMAIN_BUSY : Status := 0x0303#16
/-- `ST_PWR_DOMAIN_OFF`. -/
def ST.PWR_DOMAIN_OFF : Status := 0x0304#16
/-- `ST_PWR_RAIL_FAULT`. -/
def ST.PWR_RAIL_FAULT : Status := 0x0305#16
/-- `ST_PWR_THERMAL_TRIP`. -/
def ST.PWR_THERMAL_TRIP : Status := 0x0306#16
/-- `ST_PWR_AVS_LIMIT`. -/
def ST.PWR_AVS_LIMIT : Status := 0x0307#16
/-- `ST_PWR_SENSOR`. -/
def ST.PWR_SENSOR : Status := 0x0308#16
/-- `ST_CLK_REF_LOSS`. -/
def ST.CLK_REF_LOSS : Status := 0x0309#16
/-- `ST_CLK_SDSREF_LOSS`. -/
def ST.CLK_SDSREF_LOSS : Status := 0x030a#16
/-- `ST_PWR_WAKE`. -/
def ST.PWR_WAKE : Status := 0x030b#16
/-- `ST_FW_UNTESTED_COMBO`. -/
def ST.FW_UNTESTED_COMBO : Status := 0x0401#16
/-- `ST_BOOT_SIG`. -/
def ST.BOOT_SIG : Status := 0x0402#16
/-- `ST_BOOT_FORMAT`. -/
def ST.BOOT_FORMAT : Status := 0x0403#16
/-- `ST_BOOT_ROLLBACK`. -/
def ST.BOOT_ROLLBACK : Status := 0x0404#16
/-- `ST_BOOT_RPMB`. -/
def ST.BOOT_RPMB : Status := 0x0405#16
/-- `ST_BOOT_PUF`. -/
def ST.BOOT_PUF : Status := 0x0406#16
/-- `ST_BOOT_PART_RECORD`. -/
def ST.BOOT_PART_RECORD : Status := 0x0407#16
/-- `ST_BOOT_MANIFEST`. -/
def ST.BOOT_MANIFEST : Status := 0x0408#16
/-- `ST_BOOT_FLASH`. -/
def ST.BOOT_FLASH : Status := 0x0409#16
/-- `ST_BOOT_NOT_CONFIRMED`. -/
def ST.BOOT_NOT_CONFIRMED : Status := 0x040a#16
/-- `ST_BOOT_CONFIRMED`. -/
def ST.BOOT_CONFIRMED : Status := 0x040b#16
/-- `ST_SEC_TRNG`. -/
def ST.SEC_TRNG : Status := 0x040c#16
/-- `ST_SEC_KEYBLOB`. -/
def ST.SEC_KEYBLOB : Status := 0x040d#16
/-- `ST_ATT_REQ`. -/
def ST.ATT_REQ : Status := 0x040e#16
/-- `ST_ERR_FIFO_OVERFLOW`. -/
def ST.ERR_FIFO_OVERFLOW : Status := 0x0501#16
/-- `ST_JOB_HANG`. -/
def ST.JOB_HANG : Status := 0x0502#16
/-- `ST_JOB_CYCLE_MISMATCH`. -/
def ST.JOB_CYCLE_MISMATCH : Status := 0x0503#16
/-- `ST_ERR_ENGINE_TIMEOUT`. -/
def ST.ERR_ENGINE_TIMEOUT : Status := 0x0504#16
/-- `ST_ERR_RESET_DONE`. -/
def ST.ERR_RESET_DONE : Status := 0x0505#16
/-- `ST_ERR_ESC_ENGINE`. -/
def ST.ERR_ESC_ENGINE : Status := 0x0506#16
/-- `ST_ERR_ESC_PARTITION`. -/
def ST.ERR_ESC_PARTITION : Status := 0x0507#16
/-- `ST_ERR_ESC_CHIP`. -/
def ST.ERR_ESC_CHIP : Status := 0x0508#16
/-- `ST_ERR_DOMAIN_RESET`. -/
def ST.ERR_DOMAIN_RESET : Status := 0x0509#16
/-- `ST_ERR_TARGET_HELD`. -/
def ST.ERR_TARGET_HELD : Status := 0x050a#16
/-- `ST_ERR_GEN_DROP`. -/
def ST.ERR_GEN_DROP : Status := 0x050b#16
/-- `ST_ERR_SEARCH_SKIPPED`. -/
def ST.ERR_SEARCH_SKIPPED : Status := 0x050c#16
/-- `ST_ERR_GUILTY`. -/
def ST.ERR_GUILTY : Status := 0x050d#16
/-- `ST_ERR_TRANSIENT`. -/
def ST.ERR_TRANSIENT : Status := 0x050e#16
/-- `ST_SNAP_DONE`. -/
def ST.SNAP_DONE : Status := 0x0601#16
/-- `ST_SNAP_DISARMED`. -/
def ST.SNAP_DISARMED : Status := 0x0602#16
/-- `ST_SNAP_TRUNCATED`. -/
def ST.SNAP_TRUNCATED : Status := 0x0603#16
/-- `ST_SNAP_FABRIC_LATE`. -/
def ST.SNAP_FABRIC_LATE : Status := 0x0604#16
/-- `ST_SNAP_HALT_REFUSED`. -/
def ST.SNAP_HALT_REFUSED : Status := 0x0605#16
/-- `ST_DBG_UNLOCKED`. -/
def ST.DBG_UNLOCKED : Status := 0x0610#16
/-- `ST_DBG_LOCKED`. -/
def ST.DBG_LOCKED : Status := 0x0611#16
/-- `ST_DBG_UNLOCK_FAIL`. -/
def ST.DBG_UNLOCK_FAIL : Status := 0x0612#16
/-- `ST_DBG_UNLOCK_SAFETY`. -/
def ST.DBG_UNLOCK_SAFETY : Status := 0x0613#16
/-- `ST_REC_FULL`. -/
def ST.REC_FULL : Status := 0x0701#16
/-- `ST_REC_GAP`. -/
def ST.REC_GAP : Status := 0x0702#16
/-- `ST_REC_CONFIG`. -/
def ST.REC_CONFIG : Status := 0x0703#16
/-- `ST_REPLAY_ORIGIN`. -/
def ST.REPLAY_ORIGIN : Status := 0x0710#16
/-- `ST_REPLAY_NO_ORIGIN`. -/
def ST.REPLAY_NO_ORIGIN : Status := 0x0711#16
/-- `ST_REPLAY_INJECT_LATE`. -/
def ST.REPLAY_INJECT_LATE : Status := 0x0712#16
/-- `ST_REPLAY_BLOB`. -/
def ST.REPLAY_BLOB : Status := 0x0713#16
/-- `ST_REPLAY_DIVERGED`. -/
def ST.REPLAY_DIVERGED : Status := 0x0714#16
/-- `ST_REPLAY_GAP`. -/
def ST.REPLAY_GAP : Status := 0x0715#16
/-- `ST_REPLAY_ACTIVE`. -/
def ST.REPLAY_ACTIVE : Status := 0x0716#16
/-- `ST_ACCESS_DENIED`. -/
def ST.ACCESS_DENIED : Status := 0x0801#16
/-- `ST_ACC_TABLE`. -/
def ST.ACC_TABLE : Status := 0x0802#16
/-- `ST_SAFE_STATE_CHANGE`. -/
def ST.SAFE_STATE_CHANGE : Status := 0x0a01#16
/-- `ST_SAFE_CHECKER_FAIL`. -/
def ST.SAFE_CHECKER_FAIL : Status := 0x0a02#16
/-- `ST_SAFE_CHECK`. -/
def ST.SAFE_CHECK : Status := 0x0a03#16
/-- `ST_SAFE_COPY_DISCARDED`. -/
def ST.SAFE_COPY_DISCARDED : Status := 0x0a04#16
/-- `ST_SAFE_SINGLE_COPY`. -/
def ST.SAFE_SINGLE_COPY : Status := 0x0a05#16
/-- `ST_SAFE_MISMATCH`. -/
def ST.SAFE_MISMATCH : Status := 0x0a06#16
/-- `ST_SAFE_DEADLINE_MISSED`. -/
def ST.SAFE_DEADLINE_MISSED : Status := 0x0a07#16
/-- `ST_SAFE_DEADLINE_OVERLAP`. -/
def ST.SAFE_DEADLINE_OVERLAP : Status := 0x0a08#16
/-- `ST_SAFE_NO_DEADLINE`. -/
def ST.SAFE_NO_DEADLINE : Status := 0x0a09#16
/-- `ST_SAFE_INPUT`. -/
def ST.SAFE_INPUT : Status := 0x0a0a#16
/-- `ST_SAFE_COPY_LATE`. -/
def ST.SAFE_COPY_LATE : Status := 0x0a0b#16
/-- `ST_SAFE_STREAM_CONFIG`. -/
def ST.SAFE_STREAM_CONFIG : Status := 0x0a0c#16
/-- `ST_SAFE_REQUEST`. -/
def ST.SAFE_REQUEST : Status := 0x0a10#16
/-- `ST_SAFE_KICK_MISSING`. -/
def ST.SAFE_KICK_MISSING : Status := 0x0a11#16
/-- `ST_SAFE_THERMAL`. -/
def ST.SAFE_THERMAL : Status := 0x0a12#16
/-- `ST_SAFE_HOLDOVER_LONG`. -/
def ST.SAFE_HOLDOVER_LONG : Status := 0x0a13#16
/-- `ST_SAFE_TEST_SKIPPED`. -/
def ST.SAFE_TEST_SKIPPED : Status := 0x0a20#16
/-- `ST_SAFE_TEST_PREEMPTED`. -/
def ST.SAFE_TEST_PREEMPTED : Status := 0x0a21#16
/-- `ST_SAFE_SELFTEST_FAIL`. -/
def ST.SAFE_SELFTEST_FAIL : Status := 0x0a22#16
/-- `ST_SAFE_COVERAGE`. -/
def ST.SAFE_COVERAGE : Status := 0x0a23#16
/-- `ST_SAFE_GOLDEN_DEFERRED`. -/
def ST.SAFE_GOLDEN_DEFERRED : Status := 0x0a30#16
/-- `ST_SAFE_GOLDEN_FAIL`. -/
def ST.SAFE_GOLDEN_FAIL : Status := 0x0a31#16
/-- `ST_SAFE_GOLDEN_OVERRUN`. -/
def ST.SAFE_GOLDEN_OVERRUN : Status := 0x0a32#16
/-- `ST_SAFE_GOLDEN_SINGLE`. -/
def ST.SAFE_GOLDEN_SINGLE : Status := 0x0a33#16
/-- `ST_TILE_ILLEGAL_OP`. -/
def ST.TILE_ILLEGAL_OP : Status := 0x1001#16
/-- `ST_TILE_LOOP_BOUND`. -/
def ST.TILE_LOOP_BOUND : Status := 0x1002#16
/-- `ST_TILE_IFETCH_LATE`. -/
def ST.TILE_IFETCH_LATE : Status := 0x1003#16
/-- `ST_TILE_CYCLE_RANGE`. -/
def ST.TILE_CYCLE_RANGE : Status := 0x1004#16
/-- `ST_MESH_ROUTE`. -/
def ST.MESH_ROUTE : Status := 0x1010#16
/-- `ST_MESH_COLLISION`. -/
def ST.MESH_COLLISION : Status := 0x1011#16
/-- `ST_MESH_UNEXPECTED`. -/
def ST.MESH_UNEXPECTED : Status := 0x1012#16
/-- `ST_REPAIR_SPARE_USED`. -/
def ST.REPAIR_SPARE_USED : Status := 0x1020#16
/-- `ST_REPAIR_BLOCK_LOST`. -/
def ST.REPAIR_BLOCK_LOST : Status := 0x1021#16
/-- `ST_REPAIR_XLINK`. -/
def ST.REPAIR_XLINK : Status := 0x1022#16
/-- `ST_IMG_DIE_PATTERN`. -/
def ST.IMG_DIE_PATTERN : Status := 0x1030#16
/-- `ST_MEM_CORRECTED`. -/
def ST.MEM_CORRECTED : Status := 0x1101#16
/-- `ST_MEM_CE_REPEAT`. -/
def ST.MEM_CE_REPEAT : Status := 0x1102#16
/-- `ST_MEM_UE`. -/
def ST.MEM_UE : Status := 0x1103#16
/-- `ST_MEM_UE_SCRUB`. -/
def ST.MEM_UE_SCRUB : Status := 0x1104#16
/-- `ST_MEM_POISON_CONSUMED`. -/
def ST.MEM_POISON_CONSUMED : Status := 0x1105#16
/-- `ST_MEM_RETIRED_ACCESS`. -/
def ST.MEM_RETIRED_ACCESS : Status := 0x1106#16
/-- `ST_MEM_RETIRE_FULL`. -/
def ST.MEM_RETIRE_FULL : Status := 0x1107#16
/-- `ST_MEM_RETIRE_PENDING`. -/
def ST.MEM_RETIRE_PENDING : Status := 0x1108#16
/-- `ST_MEM_RETIRED_FOOTPRINT`. -/
def ST.MEM_RETIRED_FOOTPRINT : Status := 0x1109#16
/-- `ST_SPAD_CORRECTED`. -/
def ST.SPAD_CORRECTED : Status := 0x1110#16
/-- `ST_SPAD_UE`. -/
def ST.SPAD_UE : Status := 0x1111#16
/-- `ST_SPAD_BANK_CONFLICT`. -/
def ST.SPAD_BANK_CONFLICT : Status := 0x1112#16
/-- `ST_SPAD_HANDLE_BOUNDS`. -/
def ST.SPAD_HANDLE_BOUNDS : Status := 0x1113#16
/-- `ST_SPAD_HANDLE_OVERLAP`. -/
def ST.SPAD_HANDLE_OVERLAP : Status := 0x1114#16
/-- `ST_SPAD_HANDLE_FULL`. -/
def ST.SPAD_HANDLE_FULL : Status := 0x1115#16
/-- `ST_TMR_CORRECTED`. -/
def ST.TMR_CORRECTED : Status := 0x1120#16
/-- `ST_TMR_NO_MAJORITY`. -/
def ST.TMR_NO_MAJORITY : Status := 0x1121#16
/-- `ST_IMG_ECC_STRENGTH`. -/
def ST.IMG_ECC_STRENGTH : Status := 0x1130#16
/-- `ST_NUM_EXCEPTION`. -/
def ST.NUM_EXCEPTION : Status := 0x1201#16
/-- `ST_NUM_FORMAT_PAIR`. -/
def ST.NUM_FORMAT_PAIR : Status := 0x1202#16
/-- `ST_NUM_QDESC`. -/
def ST.NUM_QDESC : Status := 0x1203#16
/-- `ST_NUM_OUTLIER_MAP`. -/
def ST.NUM_OUTLIER_MAP : Status := 0x1204#16
/-- `ST_CONV_EMPTY`. -/
def ST.CONV_EMPTY : Status := 0x1301#16
/-- `ST_CONV_SHAPE`. -/
def ST.CONV_SHAPE : Status := 0x1302#16
/-- `ST_CONV_HANDLE`. -/
def ST.CONV_HANDLE : Status := 0x1303#16
/-- `ST_ATT_DESC`. -/
def ST.ATT_DESC : Status := 0x1401#16
/-- `ST_ATT_GATHER_RANGE`. -/
def ST.ATT_GATHER_RANGE : Status := 0x1402#16
/-- `ST_PIX_PROGRAM`. -/
def ST.PIX_PROGRAM : Status := 0x1801#16
/-- `ST_PIX_EMPTY`. -/
def ST.PIX_EMPTY : Status := 0x1802#16
/-- `ST_PIX_BUSY`. -/
def ST.PIX_BUSY : Status := 0x1803#16
/-- `ST_PIX_SEAL`. -/
def ST.PIX_SEAL : Status := 0x1804#16
/-- `ST_PIX_FRAME_TIMEOUT`. -/
def ST.PIX_FRAME_TIMEOUT : Status := 0x1805#16
/-- `ST_PIX_OVERRUN`. -/
def ST.PIX_OVERRUN : Status := 0x1806#16
/-- `ST_PIX_RATE`. -/
def ST.PIX_RATE : Status := 0x1807#16
/-- `ST_CAM_CONFIG`. -/
def ST.CAM_CONFIG : Status := 0x1901#16
/-- `ST_CAM_BANDWIDTH`. -/
def ST.CAM_BANDWIDTH : Status := 0x1902#16
/-- `ST_CAM_FRAME_INVALID`. -/
def ST.CAM_FRAME_INVALID : Status := 0x1903#16
/-- `ST_CAM_COUNTER`. -/
def ST.CAM_COUNTER : Status := 0x1904#16
/-- `ST_CAM_RING_FULL`. -/
def ST.CAM_RING_FULL : Status := 0x1905#16
/-- `ST_CAM_FSYNC_OVERLAP`. -/
def ST.CAM_FSYNC_OVERLAP : Status := 0x1906#16
/-- `ST_ETH_CONFIG`. -/
def ST.ETH_CONFIG : Status := 0x1a01#16
/-- `ST_ETH_GCL`. -/
def ST.ETH_GCL : Status := 0x1a02#16
/-- `ST_ETH_EXPRESS_REPLACED`. -/
def ST.ETH_EXPRESS_REPLACED : Status := 0x1a03#16
/-- `ST_ETH_EXPRESS_DROP`. -/
def ST.ETH_EXPRESS_DROP : Status := 0x1a04#16
/-- `ST_ETH_MB_AUTH`. -/
def ST.ETH_MB_AUTH : Status := 0x1a05#16
/-- `ST_ETH_MB_STALE_START`. -/
def ST.ETH_MB_STALE_START : Status := 0x1a06#16
/-- `ST_CAN_CONFIG`. -/
def ST.CAN_CONFIG : Status := 0x1b01#16
/-- `ST_CAN_TX_ABORT`. -/
def ST.CAN_TX_ABORT : Status := 0x1b02#16
/-- `ST_CAN_CMD_REPLACED`. -/
def ST.CAN_CMD_REPLACED : Status := 0x1b03#16
/-- `ST_CAN_ERR_PASSIVE`. -/
def ST.CAN_ERR_PASSIVE : Status := 0x1b04#16
/-- `ST_CAN_BUS_OFF`. -/
def ST.CAN_BUS_OFF : Status := 0x1b05#16
/-- `ST_CAN_RECOVERED`. -/
def ST.CAN_RECOVERED : Status := 0x1b06#16
/-- `ST_CAN_RX_OVERRUN`. -/
def ST.CAN_RX_OVERRUN : Status := 0x1b07#16
/-- `ST_CAN_WAKE`. -/
def ST.CAN_WAKE : Status := 0x1b08#16
/-- `ST_BAM_LINK_DOWN`. -/
def ST.BAM_LINK_DOWN : Status := 0x1c01#16
/-- `ST_BAM_LINK_DEGRADED`. -/
def ST.BAM_LINK_DEGRADED : Status := 0x1c02#16
/-- `ST_BAM_LINK_LATENCY`. -/
def ST.BAM_LINK_LATENCY : Status := 0x1c03#16
/-- `ST_BAM_RETRY`. -/
def ST.BAM_RETRY : Status := 0x1c04#16
/-- `ST_BAM_NOT_MEMBER`. -/
def ST.BAM_NOT_MEMBER : Status := 0x1c05#16
/-- `ST_BAM_NODE_CONFLICT`. -/
def ST.BAM_NODE_CONFLICT : Status := 0x1c06#16
/-- `ST_BAM_FP_DUP`. -/
def ST.BAM_FP_DUP : Status := 0x1c07#16
/-- `ST_BAM_TOO_MANY`. -/
def ST.BAM_TOO_MANY : Status := 0x1c08#16
/-- `ST_BAM_DISCOVERED`. -/
def ST.BAM_DISCOVERED : Status := 0x1c09#16
/-- `ST_BAM_EPOCH_DROP`. -/
def ST.BAM_EPOCH_DROP : Status := 0x1c0a#16
/-- `ST_BAM_NO_ROUTE`. -/
def ST.BAM_NO_ROUTE : Status := 0x1c0b#16
/-- `ST_BAM_TIMEOUT`. -/
def ST.BAM_TIMEOUT : Status := 0x1c0c#16
/-- `ST_BAM_NO_TIME_ROOT`. -/
def ST.BAM_NO_TIME_ROOT : Status := 0x1c0d#16
/-- `ST_BAM_MIRROR`. -/
def ST.BAM_MIRROR : Status := 0x1c0e#16
/-- `ST_BAM_TWIN_MISMATCH`. -/
def ST.BAM_TWIN_MISMATCH : Status := 0x1c0f#16
/-- `ST_BAM_TWIN_LATE`. -/
def ST.BAM_TWIN_LATE : Status := 0x1c10#16
/-- `ST_SOL_LOAD`. -/
def ST.SOL_LOAD : Status := 0x1d01#16
/-- `ST_SOL_SRAM`. -/
def ST.SOL_SRAM : Status := 0x1d02#16
/-- `ST_SOL_BUSY`. -/
def ST.SOL_BUSY : Status := 0x1d03#16
/-- `ST_SOL_OVERRUN`. -/
def ST.SOL_OVERRUN : Status := 0x1d04#16
/-- `ST_SOL_QUEUE_FULL`. -/
def ST.SOL_QUEUE_FULL : Status := 0x1d05#16
/-- `ST_SOL_DELTA`. -/
def ST.SOL_DELTA : Status := 0x1d06#16
/-- `ST_SOL_FACTOR`. -/
def ST.SOL_FACTOR : Status := 0x1d07#16
/-- `ST_SOL_DEADLINE`. -/
def ST.SOL_DEADLINE : Status := 0x1d08#16
/-- `ST_SOL_TAGS`. -/
def ST.SOL_TAGS : Status := 0x1d09#16
/-- `ST_WARM_DISCARDED`. -/
def ST.WARM_DISCARDED : Status := 0x1d0a#16
/-- `ST_CTL_BANK`. -/
def ST.CTL_BANK : Status := 0x1e01#16
/-- `ST_CTL_BANK_BUSY`. -/
def ST.CTL_BANK_BUSY : Status := 0x1e02#16
/-- `ST_CTL_OVERRUN`. -/
def ST.CTL_OVERRUN : Status := 0x1e03#16
/-- `ST_CTL_RATE`. -/
def ST.CTL_RATE : Status := 0x1e04#16
/-- `ST_CTL_INPUT_STALE`. -/
def ST.CTL_INPUT_STALE : Status := 0x1e05#16
/-- `ST_CTL_CHANNEL_FAULT`. -/
def ST.CTL_CHANNEL_FAULT : Status := 0x1e06#16
/-- `ST_CTL_NONFINITE`. -/
def ST.CTL_NONFINITE : Status := 0x1e07#16
/-- `ST_CTL_TEST`. -/
def ST.CTL_TEST : Status := 0x1e08#16
/-- `ST_CTL_CONFIG`. -/
def ST.CTL_CONFIG : Status := 0x1e09#16
/-- `ST_HST_HART_WDOG`. -/
def ST.HST_HART_WDOG : Status := 0x1f01#16
/-- `ST_HST_LOCKSTEP`. -/
def ST.HST_LOCKSTEP : Status := 0x1f02#16
/-- `ST_HST_L2_UE`. -/
def ST.HST_L2_UE : Status := 0x1f03#16
/-- `ST_HST_L3_UE`. -/
def ST.HST_L3_UE : Status := 0x1f04#16
/-- `ST_HST_CORRECTED`. -/
def ST.HST_CORRECTED : Status := 0x1f05#16
/-- `ST_GPIO_CHATTER`. -/
def ST.GPIO_CHATTER : Status := 0x2001#16
/-- `ST_GPIO_STUCK`. -/
def ST.GPIO_STUCK : Status := 0x2002#16
/-- `ST_GPIO_STUCK_CLEAR`. -/
def ST.GPIO_STUCK_CLEAR : Status := 0x2003#16
/-- `ST_GPIO_SAFE_DISCREPANCY`. -/
def ST.GPIO_SAFE_DISCREPANCY : Status := 0x2004#16
/-- `ST_SENT_ERROR`. -/
def ST.SENT_ERROR : Status := 0x2010#16
/-- `ST_SENT_SILENT`. -/
def ST.SENT_SILENT : Status := 0x2011#16
/-- `ST_SPI_SKIP`. -/
def ST.SPI_SKIP : Status := 0x2012#16
/-- `ST_KV_STALE_PAGE`. -/
def ST.KV_STALE_PAGE : Status := 0x2101#16
/-- `ST_KV_NO_FRAME`. -/
def ST.KV_NO_FRAME : Status := 0x2102#16
/-- `ST_KV_CTX_STATE`. -/
def ST.KV_CTX_STATE : Status := 0x2103#16
/-- `ST_KV_DUP_CONTEXT`. -/
def ST.KV_DUP_CONTEXT : Status := 0x2104#16
/-- `ST_KV_LENGTH`. -/
def ST.KV_LENGTH : Status := 0x2105#16
/-- `ST_KV_STEP_BUSY`. -/
def ST.KV_STEP_BUSY : Status := 0x2106#16
/-- `ST_KV_STEP_ABORTED`. -/
def ST.KV_STEP_ABORTED : Status := 0x2107#16
/-- `ST_KV_FORK_RANGE`. -/
def ST.KV_FORK_RANGE : Status := 0x2108#16
/-- `ST_KV_REFCOUNT`. -/
def ST.KV_REFCOUNT : Status := 0x2109#16
/-- `ST_KV_POOL`. -/
def ST.KV_POOL : Status := 0x210a#16
/-- `ST_KV_NO_TABLE`. -/
def ST.KV_NO_TABLE : Status := 0x210b#16
/-- `ST_KV_PLAN_SIZE`. -/
def ST.KV_PLAN_SIZE : Status := 0x210c#16
/-- `ST_KV_POOL_DIVERGED`. -/
def ST.KV_POOL_DIVERGED : Status := 0x210d#16
/-- `ST_PART_GREY`. -/
def ST.PART_GREY : Status := 0x3001#16
/-- `ST_PART_STATE`. -/
def ST.PART_STATE : Status := 0x3002#16
/-- `ST_PART_BLOCKS`. -/
def ST.PART_BLOCKS : Status := 0x3003#16
/-- `ST_PART_NO_PLACE`. -/
def ST.PART_NO_PLACE : Status := 0x3010#16
/-- `ST_JOB_SLICE`. -/
def ST.JOB_SLICE : Status := 0x3011#16
/-- `ST_JOB_OVERRUN`. -/
def ST.JOB_OVERRUN : Status := 0x3012#16
/-- `ST_LAUNCH_IN_SWITCH`. -/
def ST.LAUNCH_IN_SWITCH : Status := 0x3013#16
/-- `ST_SLICE_TABLE`. -/
def ST.SLICE_TABLE : Status := 0x3020#16
/-- `ST_SLICE_BUSY`. -/
def ST.SLICE_BUSY : Status := 0x3021#16
/-- `ST_CREDIT_COLOUR`. -/
def ST.CREDIT_COLOUR : Status := 0x3030#16
/-- `ST_CREDIT_LEAK`. -/
def ST.CREDIT_LEAK : Status := 0x3031#16
/-- `ST_PART_SHED`. -/
def ST.PART_SHED : Status := 0x3040#16
/-- `ST_PART_UNSHED`. -/
def ST.PART_UNSHED : Status := 0x3041#16

/-- The codes of severity S0. -/
def sevList0 : List Status :=
  [ST.MB_OBJECT_BUSY, ST.MB_RESET, ST.SUP_NOT_READY, ST.TIME_OFFSET_LARGE, ST.TIME_SRC_LOST,
   ST.TIME_SRC_RESTORED, ST.WHEEL_ISSUE_LATE, ST.WHEEL_TARGET_GONE, ST.HANDOFF_STALE, ST.PWR_WAKE,
   ST.BOOT_CONFIRMED, ST.ERR_RESET_DONE, ST.ERR_GEN_DROP, ST.ERR_SEARCH_SKIPPED, ST.ERR_TRANSIENT,
   ST.SNAP_DONE, ST.SNAP_DISARMED, ST.SNAP_TRUNCATED, ST.DBG_UNLOCKED, ST.DBG_LOCKED,
   ST.SAFE_STATE_CHANGE, ST.SAFE_INPUT, ST.SAFE_HOLDOVER_LONG, ST.SAFE_TEST_SKIPPED, ST.SAFE_TEST_PREEMPTED,
   ST.SAFE_GOLDEN_DEFERRED, ST.SAFE_GOLDEN_SINGLE, ST.REPAIR_SPARE_USED, ST.REPAIR_BLOCK_LOST, ST.REPAIR_XLINK,
   ST.MEM_UE, ST.MEM_UE_SCRUB, ST.MEM_RETIRED_ACCESS, ST.MEM_RETIRE_PENDING, ST.SPAD_UE,
   ST.NUM_EXCEPTION, ST.CAM_FRAME_INVALID, ST.CAM_COUNTER, ST.CAM_FSYNC_OVERLAP, ST.ETH_EXPRESS_REPLACED,
   ST.ETH_MB_STALE_START, ST.CAN_CMD_REPLACED, ST.CAN_ERR_PASSIVE, ST.CAN_RECOVERED, ST.CAN_RX_OVERRUN,
   ST.CAN_WAKE, ST.BAM_LINK_DEGRADED, ST.BAM_NODE_CONFLICT, ST.BAM_DISCOVERED, ST.BAM_EPOCH_DROP,
   ST.BAM_NO_TIME_ROOT, ST.SOL_DEADLINE, ST.WARM_DISCARDED, ST.CTL_INPUT_STALE, ST.GPIO_STUCK_CLEAR,
   ST.SENT_ERROR, ST.SPI_SKIP, ST.KV_STEP_ABORTED, ST.PART_SHED, ST.PART_UNSHED]

/-- The codes of severity S1. -/
def sevList1 : List Status :=
  [ST.TIME_RATE_CLIPPED, ST.PWR_AVS_LIMIT, ST.SAFE_COPY_DISCARDED, ST.SAFE_SINGLE_COPY, ST.MEM_CORRECTED,
   ST.MEM_CE_REPEAT, ST.SPAD_CORRECTED, ST.TMR_CORRECTED, ST.BAM_RETRY, ST.HST_CORRECTED]

/-- The codes of severity S3. -/
def sevList3 : List Status :=
  [ST.PWR_SENSOR, ST.FW_UNTESTED_COMBO, ST.BOOT_SIG, ST.BOOT_FORMAT, ST.BOOT_ROLLBACK,
   ST.BOOT_RPMB, ST.BOOT_PUF, ST.BOOT_PART_RECORD, ST.BOOT_MANIFEST, ST.BOOT_FLASH,
   ST.BOOT_NOT_CONFIRMED, ST.SEC_TRNG, ST.ERR_ESC_PARTITION, ST.ERR_TARGET_HELD, ST.SAFE_CHECKER_FAIL,
   ST.SAFE_MISMATCH, ST.SAFE_DEADLINE_MISSED, ST.SAFE_THERMAL, ST.SAFE_SELFTEST_FAIL, ST.SAFE_GOLDEN_FAIL,
   ST.MESH_COLLISION, ST.MESH_UNEXPECTED, ST.KV_POOL_DIVERGED]

/-- The codes of severity S4. -/
def sevList4 : List Status :=
  [ST.PWR_RAIL_FAULT, ST.PWR_THERMAL_TRIP, ST.CLK_REF_LOSS, ST.ERR_FIFO_OVERFLOW, ST.ERR_ESC_CHIP,
   ST.SAFE_KICK_MISSING, ST.TMR_NO_MAJORITY]

/-- The severity of a code, 0 to 4 (the chapters' code lists). -/
def stSev (c : Status) : Nat :=
  if c ∈ sevList0 then 0 else if c ∈ sevList1 then 1 else if c ∈ sevList3 then 3 else if c ∈ sevList4 then 4 else 2

/-- The source unit of a code where its defining table gives one, else 0x01 (R363): classes 0x10 to 0x14 belong to a die, which
the writer of the record names. -/
def stUnit (c : Status) : Nat :=
  let k := c.toNat / 256
  if k = 0x02 then 0x02 else if k = 0x03 then 0x03 else if k = 0x04 then 0x04 else if k = 0x05 then 0x05
  else if k = 0x06 then 0x06 else if k = 0x07 then 0x07 else if k = 0x08 then 0x08
  else if k = 0x0A then (if c.toNat % 256 < 3 ∨ c.toNat = 0x0A10 ∨ c.toNat = 0x0A11 ∨ c.toNat = 0x0A12 ∨ c.toNat = 0x0A13 then 0x00
    else if 0x0A20 ≤ c.toNat ∧ c.toNat ≤ 0x0A23 then 0x06 else 0x02)
  else if 0x18 ≤ k ∧ k ≤ 0x21 then k
  else 0x01

end Sys2Proof.Machine
end

