-- ==== Sys2Proof/Machine/Ops.lean ====
section
/-! DEFINITION. The named operations that every meaning uses: sparse tables, registers and their fields, memory bytes and words, device time, counters, error posting, free values. -/

namespace Sys2Proof.Machine

/-! ### Sparse tables -/

/-- The value a table holds under a key; `d` is what an unlisted key reads as. -/
def mget {β : Type} (d : β) : SMap β → Nat → β
  | [], _ => d
  | (a, v) :: r, k => if a = k then v else mget d r k

/-- A table without a key. -/
def merase {β : Type} : SMap β → Nat → SMap β
  | [], _ => []
  | (a, v) :: r, k => if a = k then r else (a, v) :: merase r k

/-- A table with a key set, at its place in the rising order. -/
def minsert {β : Type} : SMap β → Nat → β → SMap β
  | [], k, x => [(k, x)]
  | (a, v) :: r, k, x =>
    if k < a then (k, x) :: (a, v) :: r
    else if a = k then (k, x) :: r
    else (a, v) :: minsert r k x

/-- Writing a key: the value an unlisted key reads as removes the entry, so equal tables are equal data. -/
def mset {β : Type} [DecidableEq β] (d : β) (m : SMap β) (k : Nat) (x : β) : SMap β :=
  if x = d then merase m k else minsert m k x

/-- Changing the value under a key. -/
def mmod {β : Type} [DecidableEq β] (d : β) (m : SMap β) (k : Nat) (f : β → β) : SMap β :=
  mset d m k (f (mget d m k))

/-- A table without the keys from `lo` up to, not including, `hi`. -/
def mclear {β : Type} (m : SMap β) (lo hi : Nat) : SMap β :=
  m.filter fun x => !(decide (lo ≤ x.1) && decide (x.1 < hi))

/-- Keys rise strictly. -/
def mrising {β : Type} : SMap β → Bool
  | [] => true
  | [_] => true
  | (a, _) :: (b, w) :: r => decide (a < b) && mrising ((b, w) :: r)

/-- The canonical form of a table: keys rise strictly and no entry equals what its key reads as unlisted. -/
def mwf {β : Type} [DecidableEq β] (d : Nat → β) (m : SMap β) : Bool :=
  mrising m && m.all fun x => decide (x.2 ≠ d x.1)

/-- The canonical form of memory: an unlisted byte reads 0 (log entry 3). -/
abbrev Memory.wf (m : List Host.Cell) : Bool := mwf (fun _ => 0#8) m

/-! ### Bit fields -/

/-- Bits `lo` to `lo + w - 1` of a number. -/
def bitsOf (v lo w : Nat) : Nat := (v >>> lo) % 2 ^ w

/-- A number with bits `lo` to `lo + w - 1` replaced. -/
def putBits (v lo w x : Nat) : Nat :=
  v % 2 ^ lo + (x % 2 ^ w) * 2 ^ lo + (v >>> (lo + w)) * 2 ^ (lo + w)

/-- A truth value as a bit. -/
def b2n (b : Bool) : Nat := if b then 1 else 0

/-- A signed number of `w` bits in two's complement. -/
def toSigned (w x : Nat) : Int := if x % 2 ^ w < 2 ^ (w - 1) then (x % 2 ^ w : Nat) else ((x % 2 ^ w : Nat) : Int) - 2 ^ w

/-- The two's complement bits of a number. -/
def ofSigned (w : Nat) (x : Int) : Nat := (x % (2 ^ w : Nat)).toNat

/-- Bytes of a number, least significant first (R7). -/
def leBytes (v : Nat) : Nat → List Byte
  | 0 => []
  | n + 1 => BitVec.ofNat 8 v :: leBytes (v / 256) n

/-- The number that bytes spell, least significant first (R7). -/
def leNat : List Byte → Nat
  | [] => 0
  | b :: r => b.toNat + 256 * leNat r

/-- The first `n` members of a list that a test keeps, with their places. -/
def enumFrom {α : Type} : Nat → List α → List (Nat × α)
  | _, [] => []
  | i, x :: r => (i, x) :: enumFrom (i + 1) r

/-! ### Device time -/

/-- Device time in whole nanoseconds (R34). -/
def State.now (s : State) : Nat := s.time.toNat / 2 ^ 32

/-- Nanoseconds of device time that have passed since it last stood at 0, steps (R35) not counted: the clock of every span the spec
gives "of device time". DEDUCED (log entry 44): a step sets the time and lets no time pass. -/
def State.age (s : State) : Nat := ((s.now : Int) - s.stepped).toNat

/-- The device time, as it counts now, of an instant given on that clock. -/
def State.timeOf (s : State) (a : Nat) : Nat := ((a : Int) + s.stepped).toNat

/-- An instant of device time on the clock of `age`. -/
def State.ageOf (s : State) (t : Nat) : Nat := ((t : Int) - s.stepped).toNat

/-- The short time of an instant: its low 32 bits (R39). -/
def shortOf (t : Nat) : Nat := t % 2 ^ 32

/-! ### Registers -/

/-- A register's value, by the device address of its first byte or of an 8-byte piece. -/
def State.reg (s : State) (a : Nat) : Dword := mget (regReset a) s.regs a

/-- A register given a value; a TMR word is written in all three copies (R147). -/
def State.setReg (s : State) (a : Nat) (v : Dword) : State :=
  { s with regs := mset (regReset a) s.regs a v, tmr := merase s.tmr a }

/-- A register's value as a number. -/
def State.regN (s : State) (a : Nat) : Nat := (s.reg a).toNat

/-- A register given a number. -/
def State.setRegN (s : State) (a : Nat) (v : Nat) : State := s.setReg a (BitVec.ofNat 64 v)

/-- A field of a register. -/
def State.fld (s : State) (a lo w : Nat) : Nat := bitsOf (s.regN a) lo w

/-- A register with one field replaced. -/
def State.setFld (s : State) (a lo w x : Nat) : State := s.setRegN a (putBits (s.regN a) lo w x)

/-- One bit of a register. -/
def State.bit (s : State) (a i : Nat) : Bool := decide (s.fld a i 1 = 1)

/-- A register with one bit replaced. -/
def State.setBit (s : State) (a i : Nat) (b : Bool) : State := s.setFld a i 1 (b2n b)

/-- A saturating counter field one higher. -/
def State.incFld (s : State) (a lo w : Nat) : State :=
  if s.fld a lo w + 1 < 2 ^ w then s.setFld a lo w (s.fld a lo w + 1) else s

/-- A saturating 32-bit counter register `k` higher. -/
def State.addReg (s : State) (a k : Nat) : State := s.setRegN a (min (s.regN a + k) (2 ^ 32 - 1))

/-- A saturating 32-bit counter register one higher. -/
def State.incReg (s : State) (a : Nat) : State := s.addReg a 1

/-- A wrapping 32-bit counter register one higher. -/
def State.wrapReg (s : State) (a : Nat) : State := s.setRegN a ((s.regN a + 1) % 2 ^ 32)

/-- The bytes of a long register kept in 8-byte pieces. -/
def State.regBytes (s : State) (a : Nat) : Nat → List Byte
  | 0 => []
  | n + 1 => leBytes (s.regN a) 8 ++ State.regBytes s (a + 8) n

/-- A long register's 8-byte pieces written from a list of numbers. -/
def State.setPieces (s : State) (a : Nat) : List Nat → State
  | [] => s
  | v :: r => (s.setRegN a v).setPieces (a + 8) r

/-- Registers of a window from `lo` up to, not including, `hi` back at their reset values. -/
def State.resetRegs (s : State) (lo hi : Nat) : State := { s with regs := mclear s.regs lo hi, tmr := mclear s.tmr lo hi }

/-- Every register of a unit back at its reset value. -/
def State.resetUnitRegs (s : State) (u : Nat) : State := s.resetRegs (unitBase u) (unitBase u + 0x10000)

/-! ### Memory -/

/-- One byte of memory. -/
def State.byte (s : State) (a : Nat) : Byte := mget 0#8 s.mem a

/-- One byte of memory written. -/
def State.setByte (s : State) (a : Nat) (b : Byte) : State := { s with mem := mset 0#8 s.mem a b }

/-- Bytes of memory. -/
def State.bytes (s : State) (a : Nat) : Nat → List Byte
  | 0 => []
  | n + 1 => s.byte a :: State.bytes s (a + 1) n

/-- Bytes of memory written. -/
def State.setBytes (s : State) (a : Nat) : List Byte → State
  | [] => s
  | b :: r => (s.setByte a b).setBytes (a + 1) r

/-- A number in memory, little-endian (R7). -/
def State.le (s : State) (a n : Nat) : Nat := leNat (s.bytes a n)

/-- Whether the 64-byte word that holds an address is poisoned (R135). -/
def State.isPoison (s : State) (a : Nat) : Bool := mget false s.poison (a / 64)

/-- A 64-byte word's poison bit written. -/
def State.setPoison (s : State) (a : Nat) (p : Bool) : State := { s with poison := mset false s.poison (a / 64) p }

/-- A 64-byte word of memory with its poison bit. -/
def State.line (s : State) (a : Nat) : VReg :=
  { data := BitVec.ofNat 512 (s.le (a / 64 * 64) 64), poison := s.isPoison a }

/-- A 64-byte word of memory written with its poison bit. -/
def State.setLine (s : State) (a : Nat) (v : VReg) : State :=
  (s.setBytes (a / 64 * 64) (leBytes v.data.toNat 64)).setPoison a v.poison

/-- The poison bits of the words from `w` on, `k` of them, after a write of `n` bytes at `a` whose data carry poison `p`: a
word covered whole takes `p`, a word covered in part the OR with its stored bit (R609). -/
def State.mixPoison (s : State) (a n : Nat) (p : Bool) (w : Nat) : Nat → State
  | 0 => s
  | k + 1 =>
    let whole := decide (a ≤ 64 * w ∧ 64 * w + 64 ≤ a + n)
    (s.setPoison (64 * w) (if whole then p else s.isPoison (64 * w) || p)).mixPoison a n p (w + 1) k

/-- Bytes written to memory with the poison of their data (R609). -/
def State.store (s : State) (a : Nat) (data : List Byte) (p : Bool) : State :=
  if data.isEmpty then s
  else (s.setBytes a data).mixPoison a data.length p (a / 64) ((a + data.length - 1) / 64 - a / 64 + 1)

/-- Whether some byte of a range stands in a poisoned word (R609). -/
def State.anyPoison (s : State) (a n : Nat) : Bool :=
  s.poison.any fun x => x.2 && decide (a / 64 ≤ x.1) && decide (x.1 < (a + n + 63) / 64)

/-- A range of memory made zero and free of poison; both ends on 64-byte words. -/
def State.zero (s : State) (lo hi : Nat) : State :=
  { s with mem := mclear s.mem lo hi, poison := mclear s.poison (lo / 64) (hi / 64) }

/-- The device address of a byte of a tile's DRAM (R22). -/
def dramAddr (t off : Nat) : Nat := t * 0x2000000 + off

/-- The device address of a byte of a tile's scratchpad (R22). -/
def spadAddr (t off : Nat) : Nat := 0x002000000000 + t * 0x100000 + off

/-- The base of host DRAM (R22). -/
def hostBase : Nat := 0x001000000000

/-- Whether a range lies in host DRAM (R22). -/
def inHost (a n : Nat) : Bool := decide (hostBase ≤ a ∧ a + n ≤ hostBase + 0x400000000)

/-! ### Logical tiles (R12 to R14) -/

/-- The die of a logical tile. -/
def dieOf (t : Nat) : Nat := t / 512

/-- The mesh row of a logical tile. -/
def meshRow (t : Nat) : Nat := 16 * (t / 512 / 2) + t / 32 % 16

/-- The mesh column of a logical tile. -/
def meshCol (t : Nat) : Nat := 32 * (t / 512 % 2) + t % 32

/-- The tile at a mesh row and column. -/
def tileAt (y x : Nat) : Nat := 512 * (2 * (y / 16) + x / 32) + 32 * (y % 16) + x % 32

/-- The block of a logical tile. -/
def blockOf (t : Nat) : Nat := 16 * (t / 512) + 4 * (t / 32 % 16 / 4) + t % 32 / 8

/-- The 32 tiles of a block. -/
def blockTiles (b : Nat) : List Nat :=
  (List.range 4).flatMap fun r => (List.range 8).map fun c => 512 * (b / 16) + 32 * (4 * (b % 16 / 4) + r) + 8 * (b % 4) + c

/-- Whether a block is in service (R16): its bit in `CDn_BLOCK_OOS` is 0. -/
def State.inService (s : State) (b : Nat) : Bool := !(s.bit (R.CD_BLOCK_OOS (b / 16)) (b % 16))

/-- The in-service block mask of the capability descriptor (R16). -/
def State.serviceMask (s : State) : Nat :=
  ((List.range 64).filter s.inService).foldl (fun m b => m + 2 ^ b) 0

/-- The logical tile count (R4, R16): 32 for each block in service. -/
def State.tileCount (s : State) : Nat := 32 * ((List.range 64).filter s.inService).length

/-! ### Table accessors -/

/-- A tile. -/
def State.tile (s : State) (t : Nat) : Tile := mget {} s.tiles t
/-- A tile changed. -/
def State.modTile (s : State) (t : Nat) (f : Tile → Tile) : State := { s with tiles := mmod {} s.tiles t f }
/-- A partition. -/
def State.part (s : State) (p : Nat) : Part := mget {} s.parts p
/-- A partition changed. -/
def State.modPart (s : State) (p : Nat) (f : Part → Part) : State := { s with parts := mmod {} s.parts p f }
/-- A job descriptor's side of a partition. -/
def State.job (s : State) (p j : Nat) : Job := mget {} (s.part p).jobs j
/-- A job descriptor changed. -/
def State.modJob (s : State) (p j : Nat) (f : Job → Job) : State :=
  s.modPart p fun q => { q with jobs := mmod {} q.jobs j f }
/-- A wheel. -/
def State.wheel (s : State) (w : Nat) : Wheel := mget {} s.wheels w
/-- A wheel changed. -/
def State.modWheel (s : State) (w : Nat) (f : Wheel → Wheel) : State := { s with wheels := mmod {} s.wheels w f }
/-- An output stream. -/
def State.stream (s : State) (i : Nat) : Stream := mget {} s.streams i
/-- An output stream changed. -/
def State.modStream (s : State) (i : Nat) (f : Stream → Stream) : State := { s with streams := mmod {} s.streams i f }
/-- A unit input port, of unit `u` and number `i`. -/
def State.port (s : State) (u i : Nat) : Port := mget {} s.ports (u * 16 + i)
/-- A unit input port changed. -/
def State.modPort (s : State) (u i : Nat) (f : Port → Port) : State := { s with ports := mmod {} s.ports (u * 16 + i) f }
/-- A control channel. -/
def State.chan (s : State) (i : Nat) : Channel := mget {} s.channels i
/-- A control channel changed. -/
def State.modChan (s : State) (i : Nat) (f : Channel → Channel) : State := { s with channels := mmod {} s.channels i f }
/-- A solver slot. -/
def State.slot (s : State) (i : Nat) : SolSlot := mget {} s.solSlots i
/-- A solver slot changed. -/
def State.modSlot (s : State) (i : Nat) (f : SolSlot → SolSlot) : State := { s with solSlots := mmod {} s.solSlots i f }
/-- A KV pool. -/
def State.pool (s : State) (i : Nat) : KvPool := mget {} s.kvPools i
/-- A KV pool changed. -/
def State.modPool (s : State) (i : Nat) (f : KvPool → KvPool) : State := { s with kvPools := mmod {} s.kvPools i f }
/-- A CAN controller. -/
def State.can (s : State) (i : Nat) : CanCtl := mget {} s.cans i
/-- A CAN controller changed. -/
def State.modCan (s : State) (i : Nat) (f : CanCtl → CanCtl) : State := { s with cans := mmod {} s.cans i f }
/-- An Ethernet port. -/
def State.eth (s : State) (i : Nat) : EthPort := mget {} s.ethPorts i
/-- An Ethernet port changed. -/
def State.modEth (s : State) (i : Nat) (f : EthPort → EthPort) : State := { s with ethPorts := mmod {} s.ethPorts i f }
/-- A hardened input. -/
def State.pin (s : State) (i : Nat) : Pin := mget {} s.pins i
/-- A hardened input changed. -/
def State.modPin (s : State) (i : Nat) (f : Pin → Pin) : State := { s with pins := mmod {} s.pins i f }
/-- A mailbox. -/
def State.mbox (s : State) (i : Nat) : Mailbox := mget {} s.mailboxes i
/-- A mailbox changed. -/
def State.modMbox (s : State) (i : Nat) (f : Mailbox → Mailbox) : State := { s with mailboxes := mmod {} s.mailboxes i f }

/-- Whether a handoff descriptor exists (R617). -/
def State.hoExists (s : State) (i : Nat) : Bool := s.handoffs.any fun x => decide (x.1 = i)
/-- A handoff descriptor. -/
def State.ho (s : State) (i : Nat) : Handoff := mget {} s.handoffs i
/-- An existing handoff descriptor changed; its entry stays, whatever its value (it marks that the descriptor exists). -/
def State.modHo (s : State) (i : Nat) (f : Handoff → Handoff) : State :=
  { s with handoffs := minsert s.handoffs i (f (s.ho i)) }

/-! ### Error records (R489, R490, R497) -/

/-- A record of a code with its severity, a source unit and a subsource. -/
def mkRec (c : Status) (src sub : Nat) : ErrRecord :=
  { status := c, sev := stSev c, source := src, subsource := sub }

/-- A record that names a partition, with its generation (R317, R489). -/
def ErrRecord.withPart (r : ErrRecord) (s : State) (p : Nat) : ErrRecord :=
  { r with partition := p, partValid := true, gen := s.fld (R.ACC_P_STATUS p) 2 4 }

/-- A record that was lost (R497): it is counted, and the first loss while no S4 record is handled leaves the overflow record
on its way to the entry reserved for it. -/
def State.loseRec (s : State) : State :=
  let s := s.incReg R.ERR_OVERFLOW_CNT
  if s.overflowed || s.collector.any (fun r => decide (r.sev = 4)) then s
  else { s with overflowed := true, posting := s.posting ++ [mkRec ST.ERR_FIFO_OVERFLOW 0x05 0] }

/-- A unit writes a record: it enters the unit's posting buffer of 4 or is counted as an overflow (R490). -/
def State.post (s : State) (r : ErrRecord) : State :=
  if (s.posting.filter fun x => decide (x.source = r.source)).length < 4 then
    { s with posting := s.posting ++ [r] }
  else s.loseRec

/-- A record of a code, source and subsource. -/
def State.postC (s : State) (c : Status) (src sub : Nat) : State := s.post (mkRec c src sub)

/-! ### Free values -/

/-- A value the manual leaves open, drawn fresh (Config.lean): its place in the sequence and the state that has drawn it. -/
def State.draw (s : State) : Nat × State := (s.fresh, { s with fresh := s.fresh + 1 })

/-- A meaning that always goes on. -/
abbrev ok (s : State) : Host.Outcome State Fault Refusal := .next s

/-- A fold over a list of the state. -/
def State.each {α : Type} (s : State) (l : List α) (f : State → α → State) : State := l.foldl f s

end Sys2Proof.Machine
end

