-- ==== Sys2Proof/Machine/Fp.lean ====
section
/-! DEFINITION. The number formats of R153 to R155, their values, and the one rounding of the device: nearest, ties to even (R158 to R163), with FP32 arithmetic under R169 to R172. -/

namespace Sys2Proof.Machine

/-- A floating-point value: NaN, an infinity, or (−1)^neg × m × 2^e; a zero keeps its sign. -/
inductive Fp where
  | nan
  | inf (neg : Bool)
  | fin (neg : Bool) (m : Nat) (e : Int)
deriving DecidableEq, Repr, Inhabited

/-- A floating-point format (R154): exponent and mantissa bits, bias, the code of the largest finite value, whether it has
infinities, and its canonical NaN. -/
structure Fmt where
  ebits : Nat
  mbits : Nat
  bias  : Nat
  maxc  : Nat
  hasInf : Bool
  nan   : Option Nat
deriving DecidableEq, Repr, Inhabited

/-- FP32. -/
def fp32 : Fmt := ⟨8, 23, 127, 0x7F7FFFFF, true, some 0x7FC00000⟩
/-- BF16. -/
def bf16 : Fmt := ⟨8, 7, 127, 0x7F7F, true, some 0x7FC0⟩
/-- FP16. -/
def fp16 : Fmt := ⟨5, 10, 15, 0x7BFF, true, some 0x7E00⟩
/-- E4M3. -/
def e4m3 : Fmt := ⟨4, 3, 7, 0x7E, false, some 0x7F⟩
/-- E5M2. -/
def e5m2 : Fmt := ⟨5, 2, 15, 0x7B, true, some 0x7E⟩
/-- E2M3. -/
def e2m3 : Fmt := ⟨2, 3, 1, 0x1F, false, none⟩
/-- E3M2. -/
def e3m2 : Fmt := ⟨3, 2, 3, 0x1F, false, none⟩
/-- E2M1. -/
def e2m1 : Fmt := ⟨2, 1, 1, 0x7, false, none⟩

/-- What a format code of R153 names. -/
inductive Kind where
  | float (f : Fmt)
  | int (w : Nat)
  | mxint8
  | e8m0
  | reserved
deriving DecidableEq, Repr, Inhabited

/-- The formats by code (R153). -/
def kindOf : Nat → Kind
  | 0x0 => .float fp32
  | 0x1 => .float bf16
  | 0x2 => .float fp16
  | 0x3 => .float e4m3
  | 0x4 => .float e5m2
  | 0x5 => .int 8
  | 0x6 => .int 4
  | 0x7 => .float e4m3
  | 0x8 => .float e5m2
  | 0x9 => .float e2m3
  | 0xA => .float e3m2
  | 0xB => .float e2m1
  | 0xC => .mxint8
  | 0xD => .int 32
  | 0xE => .e8m0
  | _ => .reserved

/-- Element bits of a format code (R153). -/
def widthOf : Nat → Nat
  | 0x0 => 32
  | 0x1 => 16
  | 0x2 => 16
  | 0x6 => 4
  | 0x9 => 6
  | 0xA => 6
  | 0xB => 4
  | 0xD => 32
  | _ => 8

/-- MX element formats (R153). -/
def isMx (c : Nat) : Bool := decide (7 ≤ c ∧ c ≤ 12)
/-- Integer formats with FP32 scales. -/
def isInt (c : Nat) : Bool := decide (c = 5 ∨ c = 6)

/-- The sign bit of a code. -/
def signOf (f : Fmt) (x : Nat) : Bool := decide (bitsOf x (f.ebits + f.mbits) 1 = 1)

/-- The value of a code (R154). -/
def fpValue (f : Fmt) (x : Nat) : Fp :=
  let s := signOf f x
  let e := bitsOf x f.mbits f.ebits
  let m := bitsOf x 0 f.mbits
  let mag := bitsOf x 0 (f.ebits + f.mbits)
  if f.maxc < mag then (if f.hasInf ∧ m = 0 then .inf s else .nan)
  else if e = 0 then .fin s m (1 - f.bias - f.mbits)
  else .fin s (m + 2 ^ f.mbits) ((e : Int) - f.bias - f.mbits)

/-- m × 2^(−k) rounded to an integer, ties to even. -/
def rneShift (m k : Nat) : Nat :=
  let q := m >>> k
  let r := m % 2 ^ k
  if 2 ^ k < 2 * r ∨ (2 * r = 2 ^ k ∧ q % 2 = 1) then q + 1 else q

/-- m × 2^e rounded to an integer, ties to even. -/
def rneInt (m : Nat) (e : Int) : Nat := if 0 ≤ e then m <<< e.toNat else rneShift m (-e).toNat

/-- The magnitude code of m × 2^e in a format with an exponent range unbounded above (R158, R162): subnormals round into their
range, and a code beyond `maxc` has overflowed. -/
def magCode (f : Fmt) (m : Nat) (e : Int) : Nat :=
  if m = 0 then 0
  else
    let qmin : Int := 1 - f.bias - f.mbits
    let q := max (e + m.log2 - f.mbits) qmin
    (q - qmin).toNat * 2 ^ f.mbits + rneInt m (e - q)

/-- A code with its sign. -/
def withSign (f : Fmt) (s : Bool) (mag : Nat) : Nat := mag + b2n s * 2 ^ (f.ebits + f.mbits)

/-- What an overflow gives (R159): the largest finite value, or infinity, or the NaN of a format without infinity. -/
def overflowCode (f : Fmt) (s special : Bool) : Nat :=
  if special then
    (if f.hasInf then withSign f s ((2 ^ f.ebits - 1) * 2 ^ f.mbits)
     else match f.nan with
       | some n => withSign f s n
       | none => withSign f s f.maxc)
  else withSign f s f.maxc

/-- Exception flags of R185 as a number: bit 0 `OVF_SAT`, 1 `OVF_SPECIAL`, 2 `NAN_IN`, 3 `NAN_GEN`, 4 `INF_GEN`, 5 `NAN_DROP`,
6 `STAT_NONFINITE`. -/
abbrev NumFlags := Nat

/-- A value converted to a floating-point format with an overflow mode (R158 to R162), and the flags it sets. -/
def toFloat (f : Fmt) (special : Bool) : Fp → Nat × NumFlags
  | .nan => match f.nan with
    | some n => (n, 4)
    | none => (0, 36)
  | .inf s =>
    if f.hasInf then (withSign f s ((2 ^ f.ebits - 1) * 2 ^ f.mbits), 0)
    else (overflowCode f s special, if special ∧ f.nan.isSome then 2 else 1)
  | .fin s m e =>
    let c := magCode f m e
    if f.maxc < c then (overflowCode f s special, if special ∧ (f.hasInf ∨ f.nan.isSome) then 2 else 1)
    else (withSign f s c, 0)

/-- A value converted to a two's-complement integer of `w` bits, scaled by 2^k, saturating (R159, R161). -/
def toInt (w : Nat) (k : Int) : Fp → Nat × NumFlags
  | .nan => (0, 36)
  | .inf s => (if s then 2 ^ (w - 1) else 2 ^ (w - 1) - 1, 1)
  | .fin s m e =>
    let n := rneInt m (e + k)
    if s then (if 2 ^ (w - 1) < n then (2 ^ (w - 1), 1) else ((2 ^ w - n) % 2 ^ w, 0))
    else if 2 ^ (w - 1) ≤ n then (2 ^ (w - 1) - 1, 1)
    else (n, 0)

/-- A value converted to a format code; MX elements always saturate (R159, R178). -/
def convertTo (code : Nat) (special : Bool) (x : Fp) : Nat × NumFlags :=
  match kindOf code with
  | .float f => toFloat f (special && !(isMx code)) x
  | .int w => toInt w 0 x
  | .mxint8 => toInt 8 6 x
  | _ => (0, 0)

/-- An integer as a value. -/
def ofInt (x : Int) (e : Int) : Fp := .fin (decide (x < 0)) x.natAbs e

/-- The value of an element code (R154, R155). -/
def elemValue (code x : Nat) : Fp :=
  match kindOf code with
  | .float f => fpValue f x
  | .int w => ofInt (toSigned w x) 0
  | .mxint8 => ofInt (toSigned 8 x) (-6)
  | .e8m0 => if x = 255 then .nan else .fin false 1 ((x : Int) - 127)
  | .reserved => .nan

/-! ### FP32 arithmetic (R158, R162, R163, R169) -/

/-- The value of an FP32 pattern. -/
def f32 (x : Nat) : Fp := fpValue fp32 x

/-- A value rounded to FP32; an overflow of arithmetic gives an infinity. -/
def round32 (x : Fp) : Nat := (toFloat fp32 true x).1

/-- The signed mantissa of a finite value aligned to exponent `e0`. -/
def alignTo (s : Bool) (m : Nat) (e e0 : Int) : Int :=
  let x : Int := ((m <<< (e - e0).toNat : Nat) : Int)
  if s then -x else x

/-- The exact sum. -/
def fpAdd : Fp → Fp → Fp
  | .nan, _ => .nan
  | _, .nan => .nan
  | .inf a, .inf b => if a = b then .inf a else .nan
  | .inf a, .fin _ _ _ => .inf a
  | .fin _ _ _, .inf b => .inf b
  | .fin s m e, .fin t n d =>
    let e0 := min e d
    let x := alignTo s m e e0 + alignTo t n d e0
    if x = 0 then .fin (s && t && decide (m = 0) && decide (n = 0)) 0 0 else .fin (decide (x < 0)) x.natAbs e0

/-- The exact product. -/
def fpMul : Fp → Fp → Fp
  | .nan, _ => .nan
  | _, .nan => .nan
  | .inf a, .inf b => .inf (a ^^ b)
  | .inf a, .fin t n _ => if n = 0 then .nan else .inf (a ^^ t)
  | .fin s m _, .inf b => if m = 0 then .nan else .inf (s ^^ b)
  | .fin s m e, .fin t n d => .fin (s ^^ t) (m * n) (e + d)

/-- The value with its sign changed. -/
def fpNeg : Fp → Fp
  | .nan => .nan
  | .inf s => .inf (!s)
  | .fin s m e => .fin (!s) m e

/-- The magnitude. -/
def fpAbs : Fp → Fp
  | .nan => .nan
  | .inf _ => .inf false
  | .fin _ m e => .fin false m e

/-- Whether a value is below another; false when either is NaN. Zeros of either sign are equal. -/
def fpLt : Fp → Fp → Bool
  | .nan, _ => false
  | _, .nan => false
  | .inf a, .inf b => a && !b
  | .inf a, .fin _ _ _ => a
  | .fin _ _ _, .inf b => !b
  | .fin s m e, .fin t n d => let e0 := min e d; decide (alignTo s m e e0 < alignTo t n d e0)

/-- Whether two values are equal; false when either is NaN. -/
def fpEq (a b : Fp) : Bool := decide (a ≠ .nan) && decide (b ≠ .nan) && !(fpLt a b) && !(fpLt b a)

/-- Whether a value is NaN. -/
def isNan (x : Fp) : Bool := decide (x = .nan)

/-- Whether a value is finite. -/
def isFin : Fp → Bool
  | .fin _ _ _ => true
  | _ => false

/-- The sign of a value. -/
def fpSign : Fp → Bool
  | .nan => false
  | .inf s => s
  | .fin s _ _ => s

/-- The flags of an FP32 result from its operands (R185). -/
def arithFlags (ops : List Fp) (r : Nat) : NumFlags :=
  if ops.any isNan then 4
  else match f32 r with
    | .nan => 8
    | .inf _ => if ops.all isFin then 16 else 0
    | .fin _ _ _ => 0

/-- FP32 addition. -/
def add32 (a b : Nat) : Nat := round32 (fpAdd (f32 a) (f32 b))
/-- FP32 multiplication. -/
def mul32 (a b : Nat) : Nat := round32 (fpMul (f32 a) (f32 b))
/-- FP32 fused multiply-add with one rounding (R169). -/
def fma32 (a b c : Nat) : Nat := round32 (fpAdd (fpMul (f32 a) (f32 b)) (f32 c))
/-- The negated pattern. -/
def neg32 (a : Nat) : Nat := round32 (fpNeg (f32 a))
/-- The magnitude pattern. -/
def abs32 (a : Nat) : Nat := round32 (fpAbs (f32 a))

/-- `VMAX` (R169): the canonical NaN for a NaN operand; +0 is above −0. -/
def max32 (a b : Nat) : Nat :=
  let x := f32 a
  let y := f32 b
  if isNan x ∨ isNan y then 0x7FC00000
  else if fpLt x y ∨ (fpEq x y ∧ fpSign x ∧ !(fpSign y)) then b else a

/-- `VMIN` (R169). -/
def min32 (a b : Nat) : Nat :=
  let x := f32 a
  let y := f32 b
  if isNan x ∨ isNan y then 0x7FC00000
  else if fpLt y x ∨ (fpEq x y ∧ fpSign y ∧ !(fpSign x)) then b else a

/-! ### Correctly rounded quotients and roots (R172, R177) -/

/-- The quotient of two positive integers as a value whose one rounding is correct: 128 bits beyond the point, the last of them
sticky. -/
def ratio (n d : Nat) (e : Int) : Fp :=
  let q := (n <<< 128) / d
  .fin false (2 * q + b2n (decide ((n <<< 128) % d ≠ 0))) (e - 129)

/-- The bits of an integer square root, from bit `i` down. -/
def isqrtFrom (n : Nat) : Nat → Nat → Nat
  | 0, r => r
  | i + 1, r => if (r + 2 ^ i) * (r + 2 ^ i) ≤ n then isqrtFrom n i (r + 2 ^ i) else isqrtFrom n i r

/-- The integer square root. -/
def isqrt (n : Nat) : Nat := isqrtFrom n (n.log2 / 2 + 1) 0

/-- `VRCP` (R172). -/
def rcp32 (a : Nat) : Nat :=
  match f32 a with
  | .nan => 0x7FC00000
  | .inf s => withSign fp32 s 0
  | .fin s m e =>
    if m = 0 then withSign fp32 s 0x7F800000
    else
      match ratio 1 m (-e) with
      | .fin _ q d => round32 (.fin s q d)
      | x => round32 x

/-- `VRSQRT` (R172): 1/√x by an integer root of 2^(2k)/m with a sticky last bit. -/
def rsqrt32 (a : Nat) : Nat :=
  match f32 a with
  | .nan => 0x7FC00000
  | .inf s => if s then 0x7FC00000 else 0
  | .fin s m e =>
    if m = 0 then withSign fp32 s 0x7F800000
    else if s then 0x7FC00000
    else
      let m := if e % 2 = 0 then m else 2 * m
      let e := if e % 2 = 0 then e else e - 1
      let r := isqrt (2 ^ 160 / m)
      round32 (.fin false (2 * r + b2n (decide (r * r * m ≠ 2 ^ 160))) (-(e / 2) - 81))

/-- A value rounded to an integer, ties to even. -/
def toNearest : Fp → Int
  | .fin s m e => let n : Int := (rneInt m e : Nat); if s then -n else n
  | _ => 0

/-- `VEXP` (R171), step by step as the manual's procedure. -/
def exp32 (a : Nat) : Nat :=
  if isNan (f32 a) then 0x7FC00000
  else
    let x := min32 (max32 a 0xC2D00000) 0x42B20000
    let n := toNearest (f32 (mul32 x 0x3FB8AA3B))
    let m := round32 (ofInt (-n) 0)
    let r := fma32 m 0x3F317200 x
    let r := fma32 m 0x35BFBE8E r
    let p := fma32 0x3AB60B61 r 0x3C088889
    let p := fma32 p r 0x3D2AAAAB
    let p := fma32 p r 0x3E2AAAAB
    let p := fma32 p r 0x3F000000
    let p := fma32 p r 0x3F800000
    let p := fma32 p r 0x3F800000
    round32 (fpMul (f32 p) (.fin false 1 n))

/-! ### Lanes and trees (R156, R166, R170) -/

/-- Lane `i` of a 64-byte word of 32-bit elements. -/
def laneOf (l : Line) (i : Nat) : Nat := bitsOf l.toNat (32 * i) 32

/-- The 16 lanes of a word. -/
def lanes (l : Line) : List Nat := (List.range 16).map (laneOf l)

/-- A number from fields of `w` bits, the first lowest. -/
def packBits (w : Nat) : List Nat → Nat
  | [] => 0
  | x :: r => x % 2 ^ w + 2 ^ w * packBits w r

/-- A word of 32-bit lanes. -/
def ofLanes (l : List Nat) : Line := BitVec.ofNat 512 (packBits 32 l)

/-- One level of the balanced tree: adjacent pairs combined in ascending order. -/
def treeLevel {α : Type} (f : α → α → α) : List α → List α
  | a :: b :: r => f a b :: treeLevel f r
  | l => l

/-- The balanced tree over 2^k values (R166). -/
def tree {α : Type} (d : α) (f : α → α → α) : Nat → List α → α
  | 0, l => l.headD d
  | k + 1, l => tree d f k (treeLevel f l)

end Sys2Proof.Machine
end

