-- ==== Sys2Proof/Machine/Access.lean ====
section
/-! DEFINITION. Which window an address lies in and whether a master may reach it: the window checks of R22 to R25, R27 and R610, and the access tables of R341 to R345 and R608. -/

namespace Sys2Proof.Machine

/-- What an address names (R22). -/
inductive Win where
  | dram (t : Nat)
  | host
  | spad (t : Nat)
  | unit (u : Nat)
  | remote (n : Nat)
deriving DecidableEq, Repr, Inhabited

/-- The window one byte lies in (R22). -/
def targetOf (a : Nat) : Option Win :=
  if a < 0x001000000000 then some (.dram (a / 0x2000000))
  else if a < 0x001400000000 then some .host
  else if a < 0x002000000000 then none
  else if a < 0x002080000000 then some (.spad ((a - 0x002000000000) / 0x100000))
  else if a < 0x003000000000 then none
  else if a < 0x003001000000 then some (.unit ((a - 0x003000000000) / 0x10000))
  else if a < 0x800000000000 then none
  else if a < 0xC00000000000 then some (.remote ((a - 0x800000000000) / 0x10000000000))
  else none

/-- Whether a unit is absent (R2, R371): its bit in the unit mask of the verified part record is 0. -/
def State.unitAbsent (s : State) (u : Nat) : Bool := s.boot.partOk && decide (s.boot.part.unitMask / 2 ^ u % 2 = 0)

/-- The power domain of a unit's configuration window (R569); domain 0 is never off. -/
def unitDomain (u : Nat) : Nat :=
  if 0x10 ≤ u ∧ u ≤ 0x13 then 16 + (u - 0x10)
  else if u = 0x18 then 9 else if u = 0x19 then 10 else if u = 0x1A then 11 else if u = 0x1B then 12
  else if u = 0x1C then 13 else if u = 0x1D then 14 else if u = 0x1E then 15
  else if u = 0x21 then 1 else if u = 0x20 then 0 else if u = 0x1F then 1 else 1

/-- Whether a domain is in service: its state reads on (R569, R571). -/
def State.domainOn (s : State) (d : Nat) : Bool := decide (s.fld (R.PMU_D_STATUS d) 0 2 = 2)

/-- Whether a unit's domain is off or ramping (R571). -/
def State.unitOff (s : State) (u : Nat) : Bool := !(s.domainOn (unitDomain u))

/-- `STATE` of a tile (R96). -/
def State.tileState (s : State) (t : Nat) : Nat := s.fld (R.CD_T_STATUS (t / 512) (t % 512)) 0 3

/-- Whether a scratchpad window access is served (R24): the tile is idle, loaded or pre-empted with no save, restore or
zeroing pass in progress, or the device is halted. -/
def State.spadFree (s : State) (t : Nat) : Bool :=
  s.bit R.SNAP_FRZ_CTRL 3 ||
  ((decide (s.tileState t = 0) || decide (s.tileState t = 1) || decide (s.tileState t = 3)) &&
    !(s.tile t).busySave && !(s.tile t).busyRest)

/-! ### What a configuration window lists (R27, R418) -/

/-- A piece of an access that lies in one register, or in one 8-byte piece of a long one: the register's row, its first byte, the
piece's first byte and size, and the bytes accessed from an offset. Without a row it lies in the CAN message RAM aperture. -/
structure Piece where
  row   : Option RegRow := none
  first : Nat := 0
  base  : Nat := 0
  size  : Nat := 0
  off   : Nat := 0
  len   : Nat := 0
deriving DecidableEq, Repr, Inhabited

/-- The CAN message RAM aperture (R418). -/
def inAperture (a : Nat) : Bool := decide (unitBase 0x1B + 0x8000 ≤ a ∧ a < unitBase 0x1B + 0x10000)

/-- The piece that holds a byte, for an access of `n` bytes from it. -/
def pieceAt (a n : Nat) : Option Piece :=
  if inAperture a then
    let b := unitBase 0x1B + 0x8000
    some { first := b, base := b, size := 0x8000, off := a - b, len := min n (b + 0x8000 - a) }
  else
    match regAt a with
    | some (r, b) =>
      let c := b + (a - b) / 8 * 8
      let size := min 8 (b + r.bytes - c)
      some { row := some r, first := b, base := c, size := size, off := a - c, len := min n (c + size - a) }
    | none => none

/-- The pieces of an access in ascending order; none when it touches an undefined byte (R27). -/
def piecesOf : Nat → Nat → Nat → Option (List Piece)
  | 0, _, _ => some []
  | k + 1, a, n =>
    if n = 0 then some []
    else
      match pieceAt a n with
      | some p => (piecesOf k (a + p.len) (n - p.len)).map fun l => p :: l
      | none => none

/-- The address just past the part of the address space that holds one byte and that no access may leave (R610). -/
def targetEnd (a : Nat) : Nat :=
  match targetOf a with
  | none => a + 1
  | some (.dram k) => (k + 1) * 0x2000000
  | some .host => 0x001400000000
  | some (.spad k) => 0x002000000000 + (k + 1) * 0x100000
  | some (.unit u) => unitBase (u + 1)
  | some (.remote n) => 0x800000000000 + (n + 1) * 0x10000000000

/-- A larger block as the separate accesses in which a master issues it (R610), at most `fuel` of them. -/
def splitRange (a len : Nat) : Nat → List (Nat × Nat)
  | 0 => [(a, len)]
  | fuel + 1 =>
    if a + len ≤ targetEnd a then [(a, len)]
    else (a, targetEnd a - a) :: splitRange (targetEnd a) (a + len - targetEnd a) fuel

/-- The window checks of an access of `len` bytes (R22, R23, R24, R25, R27, R571, R610): the code that refuses it and the
source unit of the record (R611), or the window it lies in. A master of the fabric is a partition. -/
def State.windowCheck (s : State) (m a len : Nat) : Sum (Status × Nat) Win :=
  match targetOf a with
  | none => .inl (ST.ADDR_UNMAPPED, 1)
  | some t =>
    if targetOf (a + len - 1) ≠ some t ∨ len = 0 then .inl (ST.ADDR_UNMAPPED, 1)
    else match t with
      | .dram k => if s.inService (blockOf k) then .inr t else .inl (ST.ADDR_OUT_OF_SERVICE, 1)
      | .spad k =>
        if !(s.inService (blockOf k)) then .inl (ST.ADDR_OUT_OF_SERVICE, 1)
        else if (0x200 ≤ m ∧ m ≤ 0x21F) ∨ s.spadFree k then .inr t
        else .inl (ST.SPAD_BUSY, 0x10 + k / 512)
      | .host => .inr t
      | .unit u =>
        if (unitRows u).isSome ∧ (piecesOf len a len).isSome then .inr t else .inl (ST.ADDR_UNMAPPED, 1)
      | .remote n =>
        if s.bit R.BAM_STATUS 6 ∧ n = s.fld R.BAM_STATUS 0 6 then .inl (ST.BAM_NODE_UNKNOWN, 1)
        else if s.bit R.BAM_MEMBERS n then .inr t
        else .inl (ST.BAM_NODE_UNKNOWN, 1)

/-- The partition a tile's block belongs to once its creation has completed (R608, R346). -/
def State.partOfTile (s : State) (t : Nat) : Option Nat :=
  (List.range 32).find? fun p =>
    s.bit (R.ACC_P_BLOCKS p) (blockOf t) && decide (2 ≤ s.fld (R.ACC_P_STATUS p) 0 2)

/-- Whether an address range lies in the KV region while KVD is enabled (R265). -/
def State.inKvRegion (s : State) (a len : Nat) : Bool :=
  let b := s.regN R.KVD_REGION_BASE
  let e := b + s.regN R.KVD_REGION_SIZE * 0x100000
  s.bit R.KVD_CTRL 0 && decide (a < e ∧ b < a + len)

/-- The number of the access table that governs a target (R341, R265, R608); `0x1FF` names none. -/
def State.tableOf (s : State) (t : Win) (a len : Nat) : Nat :=
  match t with
  | .unit u => u
  | .host => if s.inKvRegion a len then 0x101 else 0x100
  | .dram k => match s.partOfTile k with | some p => 0x120 + p | none => 0x1FF
  | .spad k => match s.partOfTile k with | some p => 0x120 + p | none => 0x1FF
  | .remote _ => 0x140

/-- A whole-target entry for one master (R344). -/
def fixedEntry (m : Nat) (x : Bool) : AccEntry :=
  { master := m, mask := 0x3FF, r := true, w := true, x := x, valid := true, base := 0, limit := 0xFFFFFFFFFFFF }

/-- An entry for a mailbox owner over a range of the SUP window (R350). -/
def ownerEntry (s : State) (n lo hi : Nat) (w : Bool) : AccEntry :=
  { master := s.fld (R.SUP_MB_OWNER n) 0 10, mask := s.fld (R.SUP_MB_OWNER n) 16 10, r := true, w := w,
    valid := s.bit (R.SUP_MB_STATE n) 1, base := lo, limit := hi }

/-- Whether an entry number of a table is fixed (R344, R350, R69, R265). -/
def fixedNumber (t e : Nat) : Bool :=
  decide (t = 0x02) || decide (t = 0x101) || decide (e = 0) ||
  (decide (e = 1) && (decide (t = 0x100) || (decide (0x120 ≤ t) && decide (t < 0x140)))) ||
  (decide (t = 0x01) && decide (1 ≤ e) && decide (e ≤ 16))

/-- An entry of a table: a fixed one (R344) or the one `ACC_WRITE` stored. -/
def State.accEntry (s : State) (t e : Nat) : AccEntry :=
  if t = 0x101 then (if e = 0 then fixedEntry 0x037 false else {})
  else if t = 0x02 then
    (if e = 0 then fixedEntry 0x001 false
     else if e = 1 then { mask := 0, r := true, valid := true, base := 0, limit := 0xFFFFFFFFFFFF } else {})
  else if e = 0 then fixedEntry 0x001 (decide (t = 0x100))
  else if e = 1 ∧ (t = 0x100 ∨ (0x120 ≤ t ∧ t < 0x140)) then fixedEntry 0x036 false
  else if t = 0x01 ∧ 1 ≤ e ∧ e ≤ 16 then
    ownerEntry s (e - 1) (R.SUP_MB_REQ (e - 1)) (R.SUP_MB_REQ (e - 1) + 0xFF) true
  else mget {} s.access (t * 64 + e)

/-- Whether an entry covers an access (R342). -/
def accCovers (e : AccEntry) (m a len : Nat) : Bool :=
  e.valid && decide (m &&& e.mask = e.master &&& e.mask) && decide (e.base ≤ a) && decide (a + len - 1 ≤ e.limit)

/-- The right an entry gives to a kind of access. -/
def accRight (e : AccEntry) : AccessKind → Bool
  | .read => e.r
  | .write => e.w
  | .fetch => e.x

/-- The mailbox owner's rights in the SUP window (R350): read and write to the request buffer and `REQ_SEQ`, read to the rest
of the mailbox's 1 KiB and to offsets 0x0000 to 0x001F. -/
def State.ownerMay (s : State) (m : Nat) (k : AccessKind) (a len : Nat) : Bool :=
  (List.range 16).any fun n =>
    let b := R.SUP_MB_REQ n
    s.bit (R.SUP_MB_STATE n) 1 &&
    decide (m &&& s.fld (R.SUP_MB_OWNER n) 16 10 = s.fld (R.SUP_MB_OWNER n) 0 10 &&& s.fld (R.SUP_MB_OWNER n) 16 10) &&
    (match k with
     | .read => (decide (b ≤ a) && decide (a + len ≤ b + 0x400)) ||
                (decide (unitBase 1 ≤ a) && decide (a + len ≤ unitBase 1 + 0x20))
     | .write => (decide (b ≤ a) && decide (a + len ≤ b + 0x100)) ||
                 (decide (a = R.SUP_MB_REQ_SEQ n) && decide (len = 4))
     | .fetch => false)

/-- Whether the debug master has the access right (R602). -/
def State.debugMay (s : State) (m : Nat) : Bool := decide (m = 0x3FF) && s.bit R.SNAP_DBG_STATE 1

/-- A host hart's write of its own kick register, whatever its guest field (R528). -/
def ownKick (m a len : Nat) : Bool :=
  (List.range 16).any fun h => decide (m / 16 = 0x10 + h ∧ a = R.HST_WDOG_KICK h ∧ len = 4)

/-- Whether a unit's registers take a write from a master (R69, R96, R223, R265, R288, R311, R346, R418, R440, R486, R528, R553,
R579, R605): only the supervisor's, but for the publish register, mailbox owners, a hart's kick, and the debug master (R602). -/
def State.writerOk (s : State) (u m a len : Nat) : Bool :=
  decide (m = 1) || decide (u = 0x01) || decide (u = 0x02) || s.debugMay m || (decide (u = 0x1F) && ownKick m a len)

/-- Whether a table admits an access (R342 to R344, R69, R350, R528, R602, R608). -/
def State.tableAllows (s : State) (tab m : Nat) (k : AccessKind) (a len : Nat) : Bool :=
  if tab = 0x1FF then decide (m = 1) && decide (k ≠ .fetch)
  else if tab = 0x02 then
    match k with
    | .read => true
    | .write => decide (m = 1) || s.debugMay m || (decide (a = R.TW_HO_PUBLISH) && decide (len = 4))
    | .fetch => false
  else if tab = 0x01 ∧ m ≠ 1 then s.ownerMay m k a len ||
    (match ((List.range 47).map (fun i => s.accEntry tab (i + 17))).find? (fun e => accCovers e m a len) with
     | some e => accRight e k
     | none => false)
  else if tab = 0x1F ∧ k = .write ∧ ownKick m a len then true
  else if s.debugMay m ∧ (tab = 0x100 ∨ (tab < 0x100 ∧ tab ≠ 0x04 ∧ tab ≠ 0x01)) ∧
      !((List.range 63).any fun i => accCovers (s.accEntry tab i) m a len) then decide (k ≠ .fetch)
  else
    match ((List.range 64).map (s.accEntry tab)).find? (fun e => accCovers e m a len) with
    | some e => accRight e k
    | none => false

/-- Whether an internal master's access to memory is admitted (R28, R343): the window checks and then the table. -/
def State.admits (s : State) (m : Nat) (k : AccessKind) (a len : Nat) : Bool :=
  match s.windowCheck m a len with
  | .inl _ => false
  | .inr t => s.tableAllows (s.tableOf t a len) m k a len

/-- The record of a denial (R343): the table number in `SUBSOURCE` (R489), the address, and the master in the syndrome. -/
def denyRec (tab m a : Nat) : ErrRecord :=
  { mkRec ST.ACCESS_DENIED 0x08 tab with address := a, syndrome := m }

/-- The effect of an access being refused on the records and the denial counter: a table's denial writes the record of R343
and counts, a window check's refusal writes the record of R611. -/
def State.refuseAccess (s : State) (m : Nat) (k : AccessKind) (a len : Nat) : State :=
  match s.windowCheck m a len with
  | .inl (c, u) =>
    s.post { mkRec c u 0 with address := a, syndrome := m % 1024 + (if k = .write then 1024 else 0) }
  | .inr t =>
    if s.tableAllows (s.tableOf t a len) m k a len then s
    else (s.post (denyRec (s.tableOf t a len) m a)).incReg R.ACC_DENIED_CNT

end Sys2Proof.Machine
end

