-- ==== Sys2Proof/Machine/Crc.lean ====
section
/-! DEFINITION. CRC-32C with the parameters of R381. -/

namespace Sys2Proof.Machine

/-- One bit of the reflected division by the Castagnoli polynomial 0x1EDC_6F41. -/
def crcBit (c : BitVec 32) : BitVec 32 := if c.getLsbD 0 then (c >>> 1) ^^^ 0x82F63B78#32 else c >>> 1

/-- One byte taken into the remainder. -/
def crcByte (c : BitVec 32) (b : Byte) : BitVec 32 :=
  let c := c ^^^ b.setWidth 32
  crcBit (crcBit (crcBit (crcBit (crcBit (crcBit (crcBit (crcBit c)))))))

/-- CRC-32C of bytes: initial value and final XOR 0xFFFF_FFFF (R381). -/
def crc32c (l : List Byte) : Word := (l.foldl crcByte 0xFFFFFFFF#32) ^^^ 0xFFFFFFFF#32

/-- A seal or payload of 28 bytes with its CRC in bytes 28 to 31, over `data` and then those 28 bytes (R381, R305). -/
def sealed (data head : List Byte) : List Byte := head ++ leBytes (crc32c (data ++ head)).toNat 4

end Sys2Proof.Machine
end

