-- ==== Sys2Proof/Machine/Recorder.lean ====
section
/-! DEFINITION. The recorder's store (R589 to R593): every tap of an input or mark goes through `State.tap`. -/

namespace Sys2Proof.Machine

/-- Bytes of a payload padded to 64 (R589). -/
def pad64 (l : List Byte) : List Byte := l ++ List.replicate ((64 - l.length % 64) % 64) 0#8

/-- The header of a record (R589). `AUX` has no stated contents: a free value (log entry 4). -/
def recHeader (r : RecItem) : List Byte :=
  let h := leBytes r.typ 1 ++ leBytes r.source 1 ++ leBytes r.sub 2 ++ leBytes r.data.length 4 ++ leBytes r.time 8 ++
    leBytes r.seq 4 ++ leBytes r.aux 4 ++ leBytes 0 4
  h ++ leBytes (crc32c (h ++ r.data)).toNat 4

/-- A record as bytes: 32 bytes of header and the padded payload. -/
def recBytes (r : RecItem) : List Byte := recHeader r ++ pad64 r.data

/-- Bytes written into a ring of `size` bytes at `base`, from position `pos`, going round at its end. -/
def ringWrite (s : State) (base size pos : Nat) : List Byte → State
  | [] => s
  | b :: r => ringWrite (s.setByte (base + pos % size) b) base size (pos + 1) r

/-- Oldest records dropped until `need` bytes fit beside the rest (R593, `WRAP`). -/
def dropOldest (need cap : Nat) : List RecItem → List RecItem
  | [] => []
  | r :: l => if ((r :: l).foldl (fun n x => n + (recBytes x).length) 0) + need ≤ cap then r :: l else dropOldest need cap l

/-- The bytes of records kept. -/
def keptBytes (l : List RecItem) : Nat := l.foldl (fun n x => n + (recBytes x).length) 0

/-- One frame of a streamed record (R593): EtherType 0x88B5, subtype 0x5243, version 1, the frame sequence and the fragment's
offset, in network byte order, then the fragment; it goes in traffic class 5. -/
def sinkFrame (seq off : Nat) (frag : List Byte) : EthFrame :=
  { cls := some 5, bytes := [0x88#8, 0xB5#8, 0x52#8, 0x43#8, 0x01#8] ++ (leBytes seq 4).reverse ++ (leBytes off 4).reverse ++ frag }

/-- The ports named by `REC_CFG.PORTS`. -/
def State.recPorts (s : State) : List Nat := (List.range 4).filter fun p => s.bit R.REC_CFG (2 + p)

/-- A record streamed on the ports of `PORTS` in turn, in fragments of up to 8,960 bytes (R593). -/
def sinkStore (s : State) (off : Nat) : Nat → List Byte → State
  | 0, _ => s
  | k + 1, l =>
    match s.recPorts with
    | [] => s
    | ps =>
      let p := ps.getD (s.recorder.sinkPort % ps.length) 0
      let s1 := s.modEth p fun e => { e with queue := e.queue ++ [sinkFrame s.recorder.sinkSeq off (l.take 8960)] }
      let s2 := { s1 with recorder := { s1.recorder with sinkSeq := (s1.recorder.sinkSeq + 1) % 2 ^ 32, sinkPort := s1.recorder.sinkPort + 1 } }
      if (l.drop 8960).isEmpty then s2 else sinkStore s2 (off + 8960) k (l.drop 8960)

/-- Whether REC can store `n` bytes now: in the ring, its master must be admitted and the ring large enough; on the stream, a
port must be named. -/
def State.recCan (s : State) (n : Nat) : Bool :=
  if s.bit R.REC_CFG 0 then !s.recPorts.isEmpty
  else
    let cap := s.regN R.REC_RING_SIZE * 0x100000
    decide (n ≤ cap) && s.admits 0x03A .write (s.regN R.REC_RING_BASE) cap

/-- A record stored: into the ring, dropping the oldest whole records when `WRAP` is 1, or onto the stream. -/
def State.recPut (s : State) (r : RecItem) : State :=
  let bs := recBytes r
  let s := s.setRegN R.REC_BYTES (s.regN R.REC_BYTES + bs.length)
  if s.bit R.REC_CFG 0 then
    let s := sinkStore s 0 (bs.length / 8960 + 1) bs
    { s with recorder := { s.recorder with items := s.recorder.items ++ [r], stored := s.recorder.stored + 1 } }
  else
    let cap := s.regN R.REC_RING_SIZE * 0x100000
    let kept := dropOldest bs.length cap s.recorder.items
    let lost := decide (kept.length < s.recorder.items.length)
    let s := ringWrite s (s.regN R.REC_RING_BASE) cap s.recorder.ringPos bs
    let s := if lost then s.setBit R.REC_STATUS 1 false else s
    { s with recorder := { s.recorder with
        items := kept ++ [r]
        stored := s.recorder.stored + 1
        ringPos := (s.recorder.ringPos + bs.length) % cap
        wrapped := s.recorder.wrapped || lost } }

/-- A record that takes the next `SEQ`, with its `AUX` drawn. -/
def State.recNew (s : State) (typ src sub time : Nat) (data : List Byte) : State × RecItem :=
  let r : RecItem := ⟨typ, src, sub, time, s.regN R.REC_SEQ, Config.freeNat s.fresh % 2 ^ 32, data⟩
  ((s.draw.2).setRegN R.REC_SEQ ((s.regN R.REC_SEQ + 1) % 2 ^ 32), r)

/-- The `GAP` record and `ST_REC_GAP`, written as soon as REC can store again (R592). -/
def State.recGap (s : State) : State :=
  match s.recorder.lostSeq with
  | none => s
  | some q =>
    if s.recCan 96 then
      let (s, r) := s.recNew 0x0E 0x07 0 s.now (leBytes q 4 ++ leBytes s.recorder.lost 4)
      let s := s.recPut r
      ({ s with recorder := { s.recorder with lostSeq := none, lost := 0 } }).postC ST.REC_GAP 0x07 0
    else s

/-- A record that REC cannot store: discarded and counted (R592). -/
def State.recLose (s : State) (seq : Nat) : State :=
  let s := (s.incReg R.REC_GAP_CNT).setBit R.REC_STATUS 2 true |>.setBit R.REC_STATUS 1 false
  { s with recorder := { s.recorder with
      lost := s.recorder.lost + 1
      lostSeq := some (s.recorder.lostSeq.getD seq) } }

/-- A record stored, or lost, or the recording stopped by a full ring without `WRAP` (R592, R593). -/
def State.recStore (s : State) (typ src sub time : Nat) (data : List Byte) : State :=
  let s := s.recGap
  let (s, r) := s.recNew typ src sub time data
  let n := (recBytes r).length
  if s.recCan n then
    if !(s.bit R.REC_CFG 0) ∧ !(s.bit R.REC_CFG 1) ∧
        s.regN R.REC_RING_SIZE * 0x100000 < keptBytes s.recorder.items + n then
      (s.setBit R.REC_STATUS 0 false).postC ST.REC_FULL 0x07 0
    else s.recPut r
  else s.recLose r.seq

/-- A tap of the recorder (R590): while a recording runs and the class is set, one record; the recording of any other state is
unchanged (R592). `cls` is none for `ORIGIN`, `MARKER` and `GAP`. -/
def State.tap (s : State) (typ : Nat) (cls : Option Nat) (src sub time : Nat) (data : List Byte) : State :=
  if s.bit R.REC_STATUS 0 then
    match cls with
    | none => s.recStore typ src sub time data
    | some c => if s.bit R.REC_CFG (16 + c) then s.recStore typ src sub time data else s
  else s

/-- The EtherType, subtype and version that begin a frame of a streamed recording. -/
def sinkMark : List Byte := [0x88#8, 0xB5#8, 0x52#8, 0x43#8, 0x01#8]

/-- A fragment of a streamed recording that reaches a port of `PORTS` while this device does not record (R593, R604): it joins what the
replayer has received. -/
def State.streamIn (s : State) (frame : List Byte) : State :=
  if frame.take 5 = sinkMark ∧ !(s.bit R.REC_STATUS 0) then
    { s with recorder := { s.recorder with inflow := s.recorder.inflow ++ frame.drop 13 } }
  else s

/-- Whether a replay runs. -/
def State.replaying (s : State) : Bool := decide (s.fld R.REPLAY_STATUS 0 2 = 2)

end Sys2Proof.Machine
end

