-- ==== Sys2Proof/Machine/BusOps.lean ====
section
/-! DEFINITION. The course of one access on the bus: the checks that can refuse it, the error response and its record (R22 to R27, R343, R571, R611), around the effect of the register or memory it reaches. -/

namespace Sys2Proof.Machine

/-- The response of an access that completes without error. -/
def State.answer (s : State) (m : Nat) (data : List Byte) (poison : Bool) : State :=
  { s with reply := { master := m, data := data, poison := poison } }

/-- An error response with a code; a refused read returns zeros (R343, R27). -/
def State.errorReply (s : State) (m : Nat) (c : Status) (data : List Byte) : State :=
  { s with reply := { master := m, error := true, status := c, data := data } }

/-- The record of R611 for an access that completes with an error response. -/
def busRec (c : Status) (u m : Nat) (k : AccessKind) (a : Nat) : ErrRecord :=
  { mkRec c u 0 with address := a, syndrome := m % 1024 + (if k = .write then 1024 else 0) }

/-- The zeros that a refused read returns. -/
def zerosFor (k : AccessKind) (len : Nat) : List Byte := if k = .write then [] else List.replicate len 0#8

/-- An access that a rule refuses: the error response and the one record of R611. -/
def State.busFail (s : State) (m : Nat) (k : AccessKind) (a len : Nat) (c : Status) (u : Nat) : State :=
  (s.errorReply m c (zerosFor k len)).post (busRec c u m k a)

/-- An access that a table denies (R343). -/
def State.busDeny (s : State) (tab m : Nat) (k : AccessKind) (a len : Nat) : State :=
  ((s.errorReply m ST.ACCESS_DENIED (zerosFor k len)).post (denyRec tab m a)).incReg R.ACC_DENIED_CNT

/-- The unit of a configuration-space address. -/
def unitOf (a : Nat) : Nat := (a - 0x003000000000) / 0x10000

/-- What the units refuse before any table is asked: an absent unit's window reads as zero and refuses writes (R27, R371; its
record's source is that of the window checks), a unit of a domain that is off refuses every access (R571). -/
def State.unitGate (s : State) (t : Win) (k : AccessKind) : Option (Status × Nat × Bool) :=
  match t with
  | .unit u =>
    if s.unitAbsent u then some (ST.UNIT_ABSENT, 0x01, decide (k = .read))
    else if s.unitOff u then some (ST.PWR_DOMAIN_OFF, u, false)
    else none
  | _ => none

/-- Whether the rule on who writes a unit's registers admits an access that the table admits. -/
def State.ruleAllows (s : State) (t : Win) (m : Nat) (k : AccessKind) (a len : Nat) : Bool :=
  match t, k with
  | .unit u, .write => s.writerOk u m a len
  | _, _ => true

/-- An access with every check that comes before its effect (R22 to R25, R571, R342, R343); `f` is the effect on what the
address names, with the data a read returns or the code that refuses it (R611). -/
def State.viaBus (s : State) (m : Nat) (k : AccessKind) (a len : Nat)
    (f : State → State × Sum Status (List Byte × Bool)) : State :=
  match s.windowCheck m a len with
  | .inl (c, u) => s.busFail m k a len c u
  | .inr t =>
    match s.unitGate t k with
    | some (c, u, zeroRead) =>
      if zeroRead then s.answer m (List.replicate len 0#8) false else s.busFail m k a len c u
    | none =>
      if !(s.tableAllows (s.tableOf t a len) m k a len && s.ruleAllows t m k a len) then s.busDeny (s.tableOf t a len) m k a len
      else
        match f s with
        | (s', .inl c) => s'.busFail m k a len c (unitOf a)
        | (s', .inr (d, p)) => s'.answer m d p

/-- A write of one register by a master: the checks of the bus around the register's behaviour, which answers a code when it
refuses the write. -/
def State.regBus (s : State) (m a len : Nat) (f : State → State × Option Status) : State :=
  s.viaBus m .write a len fun s =>
    match f s with
    | (s', some c) => (s', .inl c)
    | (s', none) => (s', .inr ([], false))

/-- A behaviour that stores a value and refuses nothing. -/
def accept (s : State) : State × Option Status := (s, none)

/-- A behaviour that refuses the write and changes nothing. -/
def refuse (s : State) (c : Status) : State × Option Status := (s, some c)

end Sys2Proof.Machine
end

