-- ==== Sys2Proof/Machine/Egress.lean ====
section
/-! DEFINITION. Outgoing frames that other units hand over: express Ethernet frames (R393, R394, R396) and CAN payloads (R403, R405, R306). -/

namespace Sys2Proof.Machine

/-! ### Express Ethernet -/

/-- The key of an Ethernet table entry (R418): table, port, entry. -/
def ethKey (t p e : Nat) : Nat := t * 65536 + p * 4096 + e

/-- Byte `i` of an express template (R393): table 8. -/
def State.tplByte (s : State) (tpl i : Nat) : Nat := bitsOf (mget 0#1024 s.ethTables (ethKey 8 0 tpl)).toNat (8 * i) 8

/-- Bytes of an express template. -/
def State.tplBytes (s : State) (tpl i : Nat) : Nat → List Byte
  | 0 => []
  | n + 1 => BitVec.ofNat 8 (s.tplByte tpl i) :: State.tplBytes s tpl (i + 1) n

/-- A list with members from a place on replaced. -/
def patch (l : List Byte) (i : Nat) (x : List Byte) : List Byte := l.take i ++ x ++ l.drop (i + x.length)

/-- The express frame of a template around a payload (R393), without its FCS: the header with the 802.1CB sequence number in the
R-tag, the payload, zero padding to 60 bytes, and the UDP checksum where the template asks for it. -/
def State.expressFrame (s : State) (tpl : Nat) (payload : List Byte) : List Byte :=
  let n := s.tplByte tpl 96
  let opt := s.tplByte tpl 98
  let seq := s.tplByte tpl 102 + 256 * s.tplByte tpl 103
  let hdr := s.tplBytes tpl 0 n
  let hdr := if opt % 2 = 1 then
      patch hdr (s.tplByte tpl 99 + 4) [BitVec.ofNat 8 (seq / 256), BitVec.ofNat 8 seq] else hdr
  let f := hdr ++ payload
  let f := f ++ List.replicate (60 - f.length) 0#8
  if opt / 2 % 2 = 1 then
    let o := s.tplByte tpl 100 + 256 * s.tplByte tpl 101
    let c := (Config.udpChecksum f o).toNat
    patch f o [BitVec.ofNat 8 (c / 256), BitVec.ofNat 8 c]
  else f

/-- An express queue with a frame added (R394): a waiting frame of the same template gives way to it in its place, a notification
stands ahead of every waiting control frame, behind earlier notifications. A frame leaves the queue when its transmission begins. -/
def enqueueExpress (q : List Express) (x : Express) : List Express :=
  if x.notify then
    q.takeWhile (fun y => y.notify) ++ x :: q.dropWhile (fun y => y.notify)
  else if q.any (fun y => decide (y.template = x.template) && !y.notify) then
    q.map fun y => if y.template = x.template ∧ !y.notify then x else y
  else q ++ [x]

/-- Whether a waiting control frame of a template is on a port's queue. -/
def waitsExpress (q : List Express) (tpl : Nat) : Bool :=
  q.any fun y => decide (y.template = tpl) && !y.notify

/-- An express frame handed to one port (R394, R396): queued while the link is up, else discarded and counted, with one record
for the first discard after the loss of the link. -/
def State.expressOn (s : State) (x : Express) (p : Nat) : State :=
  if s.bit (R.ETH_P_STATUS p) 0 then s.modEth p fun e => { e with express := enqueueExpress e.express x }
  else
    let s := s.incReg (R.ETH_P_DROP_CNT p)
    if (s.eth p).wasUp ∧ !(s.eth p).dropRun then
      (s.modEth p fun e => { e with dropRun := true }).postC ST.ETH_EXPRESS_DROP 0x1A p
    else s

/-- An express frame built from a template and a payload and queued on the template's ports (R393, R394): a replaced frame
writes one record, the 802.1CB sequence number advances once. -/
def State.express (s : State) (tpl : Nat) (payload : List Byte) (notify : Bool) : State :=
  if !(s.domainOn 11) then s
  else
    let ports := (List.range 4).filter fun p => s.tplByte tpl 97 / 2 ^ p % 2 = 1
    let x : Express := { template := tpl, payload := s.expressFrame tpl payload, notify := notify }
    let repl := !notify && ports.any fun p => s.bit (R.ETH_P_STATUS p) 0 && waitsExpress (s.eth p).express tpl
    let s := s.each ports fun s p => s.expressOn x p
    let s := if repl then s.postC ST.ETH_EXPRESS_REPLACED 0x1A tpl else s
    if s.tplByte tpl 98 % 2 = 1 ∧ ports ≠ [] then
      let seq := (s.tplByte tpl 102 + 256 * s.tplByte tpl 103 + 1) % 65536
      { s with ethTables := mmod 0#1024 s.ethTables (ethKey 8 0 tpl) fun v =>
          BitVec.ofNat 1024 (putBits v.toNat (8 * 102) 16 seq) }
    else s

/-! ### CAN transmit buffers -/

/-- The data capacity of an element (R402, `CANn_RAM_CFG`). -/
def State.canCap (s : State) (n : Nat) : Nat :=
  match s.fld (R.CAN_RAM_CFG n) 24 2 with
  | 0 => 8
  | 1 => 64
  | _ => 2048

/-- The byte offset of transmit buffer `i` in the message RAM: after the 2,048 bytes of filter elements (R402). -/
def State.canTxBase (s : State) (n i : Nat) : Nat := 2048 + i * (16 + s.canCap n)

/-- Bytes of a controller's message RAM. -/
def State.canRam (s : State) (n a : Nat) : Nat → List Byte
  | 0 => []
  | k + 1 => mget 0#8 (s.can n).ram a :: State.canRam s n (a + 1) k

/-- Bytes written to a controller's message RAM. -/
def canRamSet (r : SMap Byte) (a : Nat) : List Byte → SMap Byte
  | [] => r
  | b :: l => canRamSet (mset 0#8 r a b) (a + 1) l

/-- The compact form of a payload (R306): bytes 0 to 3, a counter's low byte, a flag byte, the low half of the CRC. -/
def compactForm (payload : List Byte) (counter flags : Nat) : List Byte :=
  payload.take 4 ++ [BitVec.ofNat 8 counter, BitVec.ofNat 8 flags] ++ (payload.drop 28).take 2

/-- Whether buffer `i` of a controller is pending (`CANn_TX_REQ`). -/
def State.canPending (s : State) (n i : Nat) : Bool := s.bit (R.CAN_TX_REQ n) i

/-- Whether a controller can transmit: it is initialised, awake, on the bus, and in a mode that transmits (R401, R406, R408). -/
def State.canTalks (s : State) (n : Nat) : Bool :=
  let c := s.regN (R.CAN_CTRL n)
  decide (bitsOf c 0 1 = 0) && decide (bitsOf c 4 3 = 0) && decide (s.fld (R.CAN_STATUS n) 16 2 < 2)

/-- The pending buffer whose frame would win arbitration (R403): the lowest identifier, of equal ones the lowest index. -/
def State.canBest (s : State) (n : Nat) : Option Nat :=
  ((List.range (min 32 (s.fld (R.CAN_RAM_CFG n) 0 6))).filter fun i => s.canPending n i).foldl (fun m i =>
    match m with
    | none => some i
    | some k =>
      if Config.canId (s.canRam n (s.canTxBase n i) 16) < Config.canId (s.canRam n (s.canTxBase n k) 16) then some i else m) none

/-- The controller offers its best pending frame when none is in transmission (R403). -/
def State.canPick (s : State) (n : Nat) : State :=
  if (s.can n).sending.isNone ∧ s.canTalks n then s.modCan n fun c => { c with sending := s.canBest n } else s

/-- A payload stored in a transmit buffer, which becomes pending. -/
def State.canLoad (s : State) (n i : Nat) (data : List Byte) : State :=
  let b := s.canTxBase n i + 16
  let s := s.modCan n fun c =>
    { c with ram := canRamSet c.ram b data, tx := mset {} c.tx i {} }
  s.setBit (R.CAN_TX_REQ n) i true

/-- A payload handed to a CAN transmit buffer (R405): it replaces one still pending, with a record; a frame in transmission
completes and the payload becomes pending after it. The data are the compact form for CAN CC and the whole payload for FD and
XL. -/
def State.canSend (s : State) (n i : Nat) (payload : List Byte) (counter flags : Nat) : State :=
  if !(s.domainOn 12) then s
  else
    let data := if Config.canFormat (s.canRam n (s.canTxBase n i) 16) = 0 then compactForm payload counter flags else payload
    if (s.can n).sending = some i then
      let s := if (mget {} (s.can n).tx i).next.isSome then s.postC ST.CAN_CMD_REPLACED 0x1B n else s
      s.modCan n fun c => { c with tx := mmod {} c.tx i fun t => { t with next := some data } }
    else
      let s := if s.canPending n i then s.postC ST.CAN_CMD_REPLACED 0x1B n else s
      (s.canLoad n i data).canPick n

end Sys2Proof.Machine
end

