-- ==== Sys2Proof/Machine/SafetyOps.lean ====
section
/-! DEFINITION. The safety state and what moves it (R443 to R451), the freeze request (R582, R583), and the start of an error record's S4 handling. -/

namespace Sys2Proof.Machine

/-- `STATE` of `CFG_SAFE_STATE`: 0 Grey, 1 Ivory, 2 Amber, 3 Crimson. -/
def State.safeState (s : State) : Nat := s.fld R.CFG_SAFE_STATE 0 2

/-- Milliseconds in nanoseconds. -/
def ms (n : Nat) : Nat := n * 1000000

/-- The safety structure changed. -/
def State.modSafety (s : State) (f : Safety → Safety) : State := { s with safety := f s.safety }

/-- The 32-byte notification payload (R451). -/
def notifyPayload (t st cause stream fseq cnt startId : Nat) : List Byte :=
  sealed [] (leBytes t 8 ++ leBytes st 1 ++ leBytes cause 1 ++ leBytes stream 2 ++ leBytes fseq 4 ++ leBytes cnt 4 ++
    leBytes startId 4 ++ leBytes 0 4)

/-- One notification frame (R451): the counter advances, the frame goes to the express template and, when `CAN_EN` is 1, to
the named CAN buffer. The flag byte of its compact form is not stated: a free value. -/
def State.notify (s : State) (t st cause stream fseq : Nat) : State :=
  let s := s.wrapReg R.CFG_NOTIFY_CNT
  let cnt := s.regN R.CFG_NOTIFY_CNT
  let p := notifyPayload t st cause stream fseq cnt (s.regN R.SUP_START_ID)
  let s := if s.bit R.CFG_SAFE_NOTIFY 0 then s.express (s.fld R.CFG_SAFE_NOTIFY 1 6) p true else s
  if s.bit R.CFG_SAFE_NOTIFY 8 then
    let f := Config.freeNat s.fresh
    s.draw.2.canSend (s.fld R.CFG_SAFE_NOTIFY 9 3) (s.fld R.CFG_SAFE_NOTIFY 12 5) p cnt f
  else s

/-- The lowest-numbered latched cause, 0 when none holds. -/
def lowCause (l : BitVec 8) : Nat := ((List.range 8).find? fun i => l.getLsbD i).getD 0

/-- The state R445 and R447 give for what holds now, outside Grey. -/
def State.wantState (s : State) : Nat :=
  if s.safety.latched ≠ 0#8 ∨ s.safety.crimson ≠ [] then 3 else if s.safety.amberOn ≠ 0#9 then 2 else 1

/-- `CFG_SAFE_STATE` brought to what holds (R443, R445, R446). -/
def State.showSafe (s : State) (st : Nat) : State :=
  let s := s.setFld R.CFG_SAFE_STATE 0 2 st
  let s := s.setFld R.CFG_SAFE_STATE 2 1 (b2n (decide (s.safety.latched ≠ 0#8)))
  let s := s.setFld R.CFG_SAFE_STATE 4 4 (lowCause s.safety.latched)
  let s := s.setFld R.CFG_SAFE_STATE 8 8 (min 255 s.safety.crimson.length)
  s.setFld R.CFG_SAFE_STATE 16 9 s.safety.amberOn.toNat

/-- Amber cause `k` begins or ends (R445), before the state is brought up to date. -/
def State.putAmber (s : State) (k : Nat) (on : Bool) : State :=
  s.modSafety fun y => { y with amberOn := if on then y.amberOn ||| (1#9 <<< k) else y.amberOn &&& ~~~(1#9 <<< k) }

/-- Amber cause `k` held until `CFG_AMBER_HOLD` after now (R445: causes 0, 1 and 8). -/
def State.holdAmber (s : State) (k : Nat) : State :=
  (s.putAmber k true).modSafety fun y =>
    { y with amberEnd := minsert y.amberEnd k (s.age + ms (s.regN R.CFG_AMBER_HOLD)) }

/-- The state after a change of what holds (R443 to R447, R449): leaving Crimson raises cause 1 and enters Amber; a change of
state writes one record and, unless a decision notifies anyway, sends one notification; HEALTH toggles in Ivory and Amber,
holds its level in Crimson and is low in Grey; outside Grey BOOT_STATUS shows 0xE (R538). `quiet` leaves the notification to the decision. -/
def State.moveTo (s : State) (st t : Nat) (quiet : Bool) : State :=
  let old := s.safeState
  if st = old then s.showSafe st
  else
    let s := s.showSafe st
    let s := s.post { mkRec ST.SAFE_STATE_CHANGE 0x00 0 with syndrome := st + old * 256 }
    let s := s.setBit R.CFG_HEALTH 1 (decide (st = 1 ∨ st = 2))
    let s := if st = 0 then s.setBit R.CFG_HEALTH 0 false else s.setFld R.CFG_BOOT_STATUS 0 4 0xE
    let s := s.modSafety fun y => { y with outside := if st = 0 then none else if old = 0 then some s.age else y.outside }
    if quiet then s else s.notify t st 0 0xFFFF 0

/-- The state brought up to date (R443, R445, R447). -/
def State.settle (s : State) (quiet : Bool) : State :=
  if s.safeState = 0 then s.showSafe 0
  else if s.safeState = 3 ∧ s.wantState ≠ 3 then (s.holdAmber 1).moveTo 2 s.now quiet
  else s.moveTo s.wantState s.now quiet

/-- An Amber cause of R445 begins or ends and the state follows. -/
def State.setAmber (s : State) (k : Nat) (on : Bool) : State := (s.putAmber k on).settle false

/-- An Amber cause with a hold begins or is renewed and the state follows. -/
def State.amberHold (s : State) (k : Nat) : State := (s.holdAmber k).settle false

/-- A Crimson decision (R446, R447, R451): counted; in Grey a frame-scoped one holds no stream and the state stays; it sends
one notification whether or not the state changes. -/
def State.crimson (s : State) (cause : Nat) (stream : Option Nat) (fseq : Nat) : State :=
  let s := s.incReg R.CFG_CRIMSON_DECISIONS
  let s := match stream with
    | some i =>
      if s.safeState = 0 then s
      else
        let s := s.modSafety fun y => { y with crimson := if i ∈ y.crimson then y.crimson else y.crimson ++ [i] }
        s.setBit (R.TW_OS_STATUS i) 3 true
    | none => s.modSafety fun y => { y with latched := y.latched ||| (1#8 <<< cause) }
  let s := s.settle true
  s.notify s.now s.safeState cause (stream.getD 0xFFFF) fseq

/-- A stream leaves frame-scoped Crimson at a valid commit (R446). -/
def State.uncrimson (s : State) (i : Nat) : State :=
  if i ∈ s.safety.crimson then
    let s := s.modSafety fun y => { y with crimson := y.crimson.filter fun x => decide (x ≠ i) }
    (s.setBit (R.TW_OS_STATUS i) 3 false).settle false
  else s

/-- A latched cause ends (R446) and the state follows. -/
def State.unlatch (s : State) (cause : Nat) : State :=
  (s.modSafety fun y => { y with latched := y.latched &&& ~~~(1#8 <<< cause) }).settle false

/-! ### The freeze request -/

/-- The freeze structure changed. -/
def State.modFrz (s : State) (f : Freeze → Freeze) : State := { s with frz := f s.frz }

/-- A freeze request with freeze time F (R583): while SNAP is armed an earlier time replaces a later pending one and every other
request is counted as ignored; while disarmed it is counted, and the first after each freeze writes a record. With `FABRIC` an
accepted request sends a freeze message carrying F to every node of `BAM_MEMBERS` (R585). -/
def State.freezeAt (s : State) (src node f : Nat) : State :=
  if !(s.bit R.SNAP_FRZ_CTRL 1) then
    let s := s.incReg R.SNAP_IGNORED_CNT
    if s.frz.disarmedRun then s
    else (s.modFrz fun z => { z with disarmedRun := true }).postC ST.SNAP_DISARMED 0x06 0
  else if s.bit R.SNAP_FRZ_CTRL 2 ∧ s.regN R.SNAP_FRZ_PEND ≤ f then s.incReg R.SNAP_IGNORED_CNT
  else
    let s := (s.setBit R.SNAP_FRZ_CTRL 2 true).setRegN R.SNAP_FRZ_PEND f
    let s := s.modFrz fun z => { z with source := src, node := node, late := false }
    if s.bit R.SNAP_FRZ_CFG 8 then
      s.modFrz fun z => { z with messages := z.messages ++ [f] }
    else s

/-- The freeze time of a local request (R583): the request time, plus the lead when `FABRIC` is 1. -/
def State.freezeLead (s : State) (t : Nat) : Nat := if s.bit R.SNAP_FRZ_CFG 8 then t + s.regN R.SNAP_FAB_LEAD else t

/-- A request of an enabled local source (R582): its bit of `SNAP_FRZ_CFG`, or none for a source that needs no enable. -/
def State.freezeReq (s : State) (src : Nat) (enable : Option Nat) (t : Nat) : State :=
  match enable with
  | some i => if s.bit R.SNAP_FRZ_CFG i then s.freezeAt src (s.fld R.BAM_STATUS 0 6) (s.freezeLead t) else s
  | none => s.freezeAt src (s.fld R.BAM_STATUS 0 6) (s.freezeLead t)

end Sys2Proof.Machine
end

