-- ==== Sys2Proof/Machine/Time.lean ====
section
/-! DEFINITION. Device time (R34 to R41): the clock, its steps and rate, per-master latches, the servo and holdover. -/

namespace Sys2Proof.Machine

/-- `TW_RATE` as a signed number of units of 2^-32 ns (R36). -/
def State.rate (s : State) : Int := toSigned 32 (s.regN R.TW_RATE)

/-- One TCLK cycle (R34): while `TW_CTRL.RUN` is 1 the 96-bit sum gains 1 ns and the signed rate adjustment. -/
def State.advance (s : State) : State :=
  if s.bit R.TW_CTRL 0 ∧ s.power.refOk then
    { s with time := BitVec.ofInt 96 ((s.time.toNat : Int) + 2 ^ 32 + s.rate) }
  else s

/-- Whether some time wheel is enabled (R35). -/
def State.anyWheel (s : State) : Bool := (List.range 8).any fun w => s.bit (R.TW_W_CTRL w) 0

/-- The limit of the rate adjustment: ±100 ppm (R36). -/
def rateLimit : Int := 429496

/-- A rate clipped to the range of R36. -/
def clipRate (r : Int) : Int := max (-rateLimit) (min rateLimit r)

/-- `TW_RATE` given a signed value. -/
def State.setRate (s : State) (r : Int) : State := s.setRegN R.TW_RATE (ofSigned 32 r)

/-- The behaviour of a write of `TW_RATE` (R36). -/
def actRate (s : State) (v : Nat) : State × Option Status :=
  let r := toSigned 32 v
  let s1 := s.setRate (clipRate r)
  accept (if clipRate r = r then s1 else s1.postC ST.TIME_RATE_CLIPPED 0x02 0)

/-- A step of device time to `t` ns (R35): the fraction held alongside stays, and the next service round begins at the first
multiple of 4,000 ns after the new time (R357). -/
def State.stepTime (s : State) (t : Nat) : State :=
  { s with
    time := BitVec.ofNat 96 (t * 2 ^ 32 + s.time.toNat % 2 ^ 32)
    stepped := s.stepped + ((t : Int) - s.now)
    roundNext := (t / 4000 + 1) * 4000
    handled := (t / 4000 + 1) * 4000 }

/-- The behaviour of a write of `TW_STEP_GO` (R35): writing 1 steps device time while no wheel is enabled. -/
def actStepGo (s : State) (v : Nat) : State × Option Status :=
  if v % 2 = 1 then
    if s.anyWheel then refuse s ST.TIME_STEP_REFUSED
    else accept (s.stepTime (s.regN R.TW_STEP_LO % 2 ^ 32 + s.regN R.TW_STEP_HI * 2 ^ 32))
  else accept s

/-- The behaviour of a read of `TW_TIME_LO` (R37): the upper word and the fraction are latched for the reading master. -/
def State.latchTime (s : State) (m : Nat) : State :=
  let h : TimeHold :=
    { hi := BitVec.ofNat 32 (s.now / 2 ^ 32), frac := BitVec.ofNat 32 (s.time.toNat % 2 ^ 32), hiHeld := true, fracHeld := true }
  { s with holds := mset {} s.holds m h }

/-- The value of `TW_TIME_LO`: the low word of device time. -/
def State.timeLo (s : State) : Nat := s.now % 2 ^ 32

/-- TW_TIME_LO_READ: a master reads `TW_TIME_LO` (R37, R69). -/
def execTwTimeLoRead (m : Nat) (s : State) : Host.Outcome State Fault Refusal :=
  ok (s.viaBus m .read R.TW_TIME_LO 4 fun s => (s.latchTime m, .inr (leBytes s.timeLo 4, false)))

/-- TW_STEP_GO: a master writes `TW_STEP_GO` (R35). -/
def execTwStepGo (m : Nat) (v : Dword) (s : State) : Host.Outcome State Fault Refusal :=
  ok (s.regBus m R.TW_STEP_GO 4 fun s => actStepGo s v.toNat)

/-- TW_RATE_WRITE: a master writes `TW_RATE` (R36). -/
def execTwRateWrite (m : Nat) (v : Dword) (s : State) : Host.Outcome State Fault Refusal :=
  ok (s.regBus m R.TW_RATE 4 fun s => actRate s (v.toNat % 2 ^ 32))

/-- The servo's answer to a measured offset (R36, R41): beyond 1 ms it writes one record and slews at the clipped rate towards
the source; else the rate it chooses is not stated: a free value within the limits. It never steps. `LOCKED` needs 16
intervals below 100 ns. -/
def State.servoTo (s : State) (offset : Int) : State :=
  let old := s.servo.offset
  let big := decide (1000000 < offset.natAbs)
  let close := if offset.natAbs < 100 then s.servo.close + 1 else 0
  let s := { s with servo := { s.servo with offset := offset, close := close } }
  let s := s.setBit R.TW_STATUS 1 (decide (16 ≤ close))
  let s := if big ∧ old.natAbs ≤ 1000000 then s.postC ST.TIME_OFFSET_LARGE 0x02 0 else s
  if big then s.setRate (if 0 < offset then -rateLimit else rateLimit)
  else s.draw.2.setRate (clipRate (toSigned 32 (Config.freeNat s.fresh)))

/-- SYNC_RECEIVED: a sync of the selected source, `offset` the device time less the source's time in ns (R36, R41). A
free-running device has no source. -/
def execSyncReceived (offset : Int) (s : State) : Host.Outcome State Fault Refusal :=
  if s.fld R.TW_SRC 0 2 = 0 then ok s else ok (s.servoTo offset)

/-- Holdover is entered (R41): the last `TW_RATE` is kept. -/
def State.enterHoldover (s : State) : State :=
  if s.bit R.TW_STATUS 0 then s
  else
    let s := { s with servo := { s.servo with since := some s.age, close := 0 } }
    let s := (s.setBit R.TW_STATUS 0 true).setBit R.TW_STATUS 1 false
    s.postC ST.TIME_SRC_LOST 0x02 0

/-- Holdover ends (R41, R445 cause 4). -/
def State.leaveHoldover (s : State) : State :=
  if s.bit R.TW_STATUS 0 then
    let s := { s with servo := { s.servo with since := none } }
    let s := (s.setBit R.TW_STATUS 0 false).postC ST.TIME_SRC_RESTORED 0x02 0
    s.setAmber 4 false
  else s

/-- HOLDOVER_ENTRY: three sync intervals without valid time of the selected source (R41). -/
def execHoldoverEntry (s : State) : Host.Outcome State Fault Refusal :=
  if s.fld R.TW_SRC 0 2 = 0 then ok s else ok s.enterHoldover

/-- HOLDOVER_EXIT: the source returns (R41). -/
def execHoldoverExit (s : State) : Host.Outcome State Fault Refusal := ok s.leaveHoldover

end Sys2Proof.Machine
end

