-- ==== Sys2Proof/Machine/HandoffOps.lean ====
section
/-! DEFINITION. Handoff descriptors: publishing (R59, R435, R436), the fence rule and windows (R60 to R67, R620), the status word (R65) and landing lists (R615). -/

namespace Sys2Proof.Machine

/-! ### Short times and slots -/

/-- R39: short time a is not later than b. -/
def shortLe (a b : Nat) : Bool := decide (toSigned 32 (2 ^ 32 + a % 2 ^ 32 - b % 2 ^ 32) ≤ 0)

/-- `SLOT_BYTES` rounded up to 4 KiB: the stride of a source's slots (R57). -/
def slotStride (d : HoDesc) : Nat := (d.slotBytes + 4095) / 4096 * 4096

/-- The address of a slot of a source (R57). -/
def slotAddr (d : HoDesc) (k : Nat) : Nat := d.srcBase + k * slotStride d

/-- The last published sequence number (`TW_HOi_STATE`). -/
def State.hoSeq (s : State) (i : Nat) : Nat := s.fld (R.TW_HO_STATE i) 0 32
/-- L, 3 when none. -/
def State.hoL (s : State) (i : Nat) : Nat := s.fld (R.TW_HO_STATE i) 32 2
/-- D, 3 when none. -/
def State.hoD (s : State) (i : Nat) : Nat := s.fld (R.TW_HO_STATE i) 34 2
/-- The write slot. -/
def State.hoW (s : State) (i : Nat) : Nat := s.fld (R.TW_HO_STATE i) 36 2
/-- Q, 3 when none. -/
def State.hoQ (s : State) (i : Nat) : Nat := s.fld (R.TW_HO_STATE i) 38 2
/-- `STALE_RUN`. -/
def State.hoRun (s : State) (i : Nat) : Nat := s.fld (R.TW_HO_STATE i) 48 16

/-- `D` given a slot, or 3. -/
def State.setHoD (s : State) (i k : Nat) : State := s.setFld (R.TW_HO_STATE i) 34 2 k

/-- The write slot after a publish (R59): the lowest-numbered slot that is none of L, Q and D, else Q, which then becomes none. -/
def nextWrite (l q d : Nat) : Nat × Nat :=
  match (List.range 3).find? fun k => decide (k ≠ l ∧ k ≠ q ∧ k ≠ d) with
  | some k => (k, q)
  | none => (q, 3)

/-- The state of the slots after an accepted publish of slot `k` (R59). -/
def State.hoTake (s : State) (i k : Nat) : State :=
  let seq := (s.hoSeq i + 1) % 2 ^ 32
  let q := s.hoL i
  let (w, q) := nextWrite k q (s.hoD i)
  let s := s.setFld (R.TW_HO_STATE i) 0 32 seq
  let s := ((s.setFld (R.TW_HO_STATE i) 32 2 k).setFld (R.TW_HO_STATE i) 36 2 w).setFld (R.TW_HO_STATE i) 38 2 q
  s.modHo i fun h => { h with pubAt := mset 0 h.pubAt k s.now, pubSeq := mset 0 h.pubSeq k seq }

/-! ### Mirror channels (R435, R436) -/

/-- Whether a mirror channel copies. -/
def State.mirroring (s : State) (c : Nat) : Bool := s.mirrors.any fun x => decide (x.1 = c)

/-- A mirror channel begins to copy a slot: the slot is the local descriptor's `D` while the copy runs. -/
def State.mirrorStart (s : State) (c i k seq : Nat) : State :=
  let s := { s with mirrors := minsert s.mirrors c { slot := k, seq := seq, start := s.age } }
  (s.setBit (R.BAM_MIR_STATE c) 48 true).setHoD i k

/-- A publish reaches the mirror channels that watch its descriptor (R436): an idle one begins to copy it, a copying one keeps
it as the newest, and a publish that is passed over counts as skipped. -/
def State.mirrorNotice (s : State) (i k : Nat) : State :=
  s.each ((List.range 32).filter fun c =>
      s.bit (R.BAM_MIR_CFG c) 0 && decide (s.fld (R.BAM_MIR_CFG c) 1 10 = i)) fun s c =>
    if s.mirroring c then
      let m := mget {} s.mirrors c
      let s := if m.newer.isSome then s.incFld (R.BAM_MIR_STATE c) 32 16 else s
      { s with mirrors := minsert s.mirrors c { m with newer := some (k, s.hoSeq i) } }
    else s.mirrorStart c i k (s.hoSeq i)

/-! ### Publishing (R59) -/

/-- The record of a refused publish (R59). -/
def denyPublish (s : State) (m i k : Nat) : ErrRecord :=
  { mkRec ST.HANDOFF_PUBLISH_DENIED 0x02 i with
    syndrome := m % 1024 + (k % 4) * 2 ^ 16 + s.hoW i * 2 ^ 24 + (b2n (!(s.hoExists i))) * 2 ^ 32 +
      (b2n (s.hoExists i && decide (m ≠ (s.ho i).desc.producer))) * 2 ^ 33 }

/-- A publish of slot `k` of descriptor `i` by master `m` as the time unit decides on it when it arrives (R59). -/
def State.publish (s : State) (m i k : Nat) : State :=
  if s.hoExists i ∧ m = (s.ho i).desc.producer ∧ k = s.hoW i then
    (s.hoTake i k).mirrorNotice i k
  else s.post (denyPublish s m i k)

/-! ### Landing lists (R58, R615) -/

/-- Whether a landing list exists on a die. -/
def State.hasLanding (s : State) (die l : Nat) : Bool := s.landings.any fun x => decide (x.1 = die * 65536 + l)

/-- A landing list. -/
def State.landing (s : State) (die l : Nat) : Landing := mget {} s.landings (die * 65536 + l)

/-- The total length of a landing list. -/
def landingBytes (x : Landing) : Nat := x.stripes.foldl (fun n y => n + y.length) 0

/-- A list without its repeats. -/
def distinct (l : List Nat) : List Nat := l.foldl (fun a y => if y ∈ a then a else a ++ [y]) []

/-- The distinct tiles of a landing list. -/
def landingTiles (x : Landing) : List Nat := distinct (x.stripes.map fun y => y.tile)

/-- Bytes written at a position of a landing list, with poison; what does not fit is not written. -/
def State.landWrite (s : State) : List Stripe → Nat → List Byte → Bool → State
  | [], _, _, _ => s
  | st :: r, pos, data, p =>
    if st.length ≤ pos then s.landWrite r (pos - st.length) data p
    else
      let n := st.length - pos
      let s := s.store (dramAddr st.tile (st.offset + pos)) (data.take n) p
      if data.length ≤ n then s else s.landWrite r 0 (data.drop n) p

/-- Bytes read from a position of a landing list. -/
def State.landRead (s : State) : List Stripe → Nat → Nat → List Byte
  | [], _, _ => []
  | st :: r, pos, n =>
    if st.length ≤ pos then s.landRead r (pos - st.length) n
    else
      let k := min n (st.length - pos)
      s.bytes (dramAddr st.tile (st.offset + pos)) k ++ (if n ≤ k then [] else s.landRead r 0 (n - k))

/-- Whether a word of a landing list's bytes is poisoned. -/
def State.landPoison (s : State) (x : Landing) : Bool :=
  x.stripes.any fun st => s.anyPoison (dramAddr st.tile st.offset) st.length

/-- The dies of a `LINK_MASK`. -/
def maskDies (m : Nat) : List Nat := (List.range 4).filter fun d => m / 2 ^ d % 2 = 1

/-- The partitions into which a kind-1 descriptor's window delivers (R615). -/
def State.hoParts (s : State) (d : HoDesc) : List Nat :=
  (maskDies d.linkMask).filterMap fun die => if s.hasLanding die d.dstIndex then some (s.landing die d.dstIndex).partition else none

/-- Whether a kind-1 descriptor's landing lists all exist (R615). -/
def State.hoLists (s : State) (d : HoDesc) : Bool := (maskDies d.linkMask).all fun die => s.hasLanding die d.dstIndex

/-- Whether a job of a partition runs, saves, restores or is being aborted (R67). -/
def State.partBusy (s : State) (p : Nat) : Bool :=
  (s.part p).jobs.any fun x => decide (x.2.phase ≠ .idle ∧ x.2.phase ≠ .preempted)

/-- The length of a window (R60). -/
def windowLen (d : HoDesc) : Nat :=
  if d.dstKind = 1 then 200 + (d.slotBytes + 32 * d.lanes - 1) / (32 * d.lanes) else 200 + (d.slotBytes + 31) / 32

/-- Whether a window of a descriptor is open. -/
def State.windowOpen (s : State) (i : Nat) : Bool := s.windows.any fun x => decide (x.1 = i)

/-- Whether a kind-1 window into a partition is open (R67). -/
def State.windowInto (s : State) (p : Nat) : Bool :=
  s.windows.any fun x => decide (x.2.desc.dstKind = 1) && (s.hoParts x.2.desc).contains p

/-! ### The fence rule (R60 to R62) -/

/-- The slot R60 selects for fence F: of L and Q whose publish time is not later than F, the one with the higher sequence
number; none when neither qualifies. -/
def State.fencePick (s : State) (i f : Nat) : Option Nat :=
  let h := s.ho i
  let okSlot := fun k => decide (k < 3) && shortLe (mget 0 h.pubAt k) f
  let l := s.hoL i
  let q := s.hoQ i
  if okSlot l ∧ okSlot q then some (if mget 0 h.pubSeq q < mget 0 h.pubSeq l then l else q)
  else if okSlot l then some l else if okSlot q then some q else none

/-- The slot a handoff at H with a margin copies: the pick of R60 when it is newer than what was last delivered (R61, R62). -/
def State.freshPick (s : State) (i h margin : Nat) : Option Nat :=
  match s.fencePick i (h - margin) with
  | some k => if s.regN (R.TW_HO_DELIV i) < mget 0 (s.ho i).pubSeq k then some k else none
  | none => none

/-- One more stale handoff (R62, R67): `STALE_RUN` and `TW_STALE_CNT` rise, the first of a run writes one record. -/
def State.bumpStale (s : State) (i : Nat) : State :=
  let first := decide (s.hoRun i = 0)
  let s := (s.incFld (R.TW_HO_STATE i) 48 16).incReg R.TW_STALE_CNT
  if first then s.postC ST.HANDOFF_STALE 0x02 i else s

/-- A window opened at H over slot `k`, or over none (R60, R61). -/
def State.openWindow (s : State) (i h : Nat) (k : Option Nat) : State :=
  let d := (s.ho i).desc
  let w : Window :=
    { desc := d
      due := h
      close := h + windowLen d
      slot := k
      seq := match k with | some k => mget 0 (s.ho i).pubSeq k | none => 0
      pub := match k with | some k => mget 0 (s.ho i).pubAt k | none => 0
      hadAny := (s.ho i).delivered
      hadSeq := s.regN (R.TW_HO_DELIV i)
      hadPub := (s.ho i).heldPub
      run := min 65535 (s.hoRun i + 1) }
  let s := { s with windows := minsert s.windows i w }
  match k with
  | some k => s.setHoD i k
  | none => s

/-! ### The close (R64, R65) -/

/-- The status word of R65 as 64 bytes. -/
def statusBytes (w : StatusWord) : List Byte :=
  leBytes w.seq 4 ++ leBytes (b2n w.stale + 2 * b2n w.empty) 2 ++ leBytes w.staleRun 2 ++ leBytes w.pubShort 4 ++
    leBytes w.hoShort 4 ++ List.replicate 48 0#8

/-- Data of a source slot as 64-byte words with their poison. -/
def State.slotWords (s : State) (a : Nat) : Nat → List VReg
  | 0 => []
  | n + 1 => s.line a :: State.slotWords s (a + 64) n

/-- Bytes cut into unpoisoned 64-byte words. -/
def lineWords (d : List Byte) : Nat → List VReg
  | 0 => []
  | n + 1 => { data := BitVec.ofNat 512 (leNat (d.take 64)) } :: lineWords (d.drop 64) n

/-- Words written from a position of a landing list on. -/
def State.landWords (s : State) (l : List Stripe) (pos : Nat) : List VReg → State
  | [] => s
  | v :: r => (s.landWrite l pos (leBytes v.data.toNat 64) v.poison).landWords l (pos + 64) r

/-- The buffer a port does not use filled with a delivery and its status word (R293, R609); CTL ports switch at the close, SOL
and PIX ports hold one buffer. -/
def portDeliver (p : Port) (switch : Bool) (ws : List VReg) (st : StatusWord) (t : Nat) : Port :=
  let bytes := ws.flatMap fun v => leBytes v.data.toNat 64
  let pz := (enumFrom 0 ws).filterMap fun x => if x.2.poison then some x.1 else none
  if switch ∧ !p.cur then { p with cur := true, bytesB := bytes, statusB := st, closedB := some t, poisonB := pz }
  else { p with cur := false, bytesA := bytes, statusA := st, closedA := some t, poisonA := pz }

/-- A stale close of a port: the buffer in use stays and takes the new status word (R62, R65). -/
def portStale (p : Port) (st : StatusWord) (t : Nat) : Port :=
  if p.cur then { p with statusB := st, closedB := some t } else { p with statusA := st, closedA := some t }

/-- A window's data and status word written to every destination (R61, R62, R64). -/
def State.deliver (s : State) (w : Window) (ws : Option (List VReg)) (st : StatusWord) : State :=
  if w.desc.dstKind = 1 then
    s.each (maskDies w.desc.linkMask) fun s die =>
      let l := (s.landing die w.desc.dstIndex).stripes
      let s := match ws with | some ws => s.landWords l 64 ws | none => s
      s.landWrite l 0 (statusBytes st) false
  else
    s.modPort w.desc.dstUnit w.desc.dstIndex fun p =>
      match ws with
      | some ws => portDeliver p (decide (w.desc.dstUnit = 0x1E)) ws st w.close
      | none => portStale p st w.close

/-- The status word of a window's close. Under `NONE` the publish time of the buffer held is not stated: a free value (log
entry 4). -/
def closeStatus (w : Window) (free : Nat) : StatusWord :=
  match w.slot with
  | some _ => ⟨w.seq, false, false, 0, shortOf w.pub, shortOf w.due⟩
  | none =>
    ⟨if w.hadAny then w.hadSeq else 0, true, !w.hadAny, w.run, if w.hadAny then shortOf w.hadPub else shortOf free, shortOf w.due⟩

/-- The bookkeeping of a close: `D` is released; a fresh delivery becomes the last delivered one and ends the stale run, a stale
one lengthens it (R61, R62). A window whose descriptor was destroyed leaves the new descriptor alone (R617). -/
def State.closeBooks (s : State) (i : Nat) (w : Window) : State :=
  if w.orphan then s
  else
    match w.slot with
    | some _ =>
      let s := ((s.setHoD i 3).setRegN (R.TW_HO_DELIV i) w.seq).setFld (R.TW_HO_STATE i) 48 16 0
      s.modHo i fun h => { h with heldPub := w.pub, delivered := true }
    | none => s.bumpStale i

/-- Whether the recorder keeps a delivery's data (R591). -/
def State.recHoData (s : State) (i : Nat) (d : HoDesc) : Bool :=
  s.bit (R.REC_HO_DATA (i / 32)) (i % 32) || (decide (0x100 ≤ d.producer) && decide (d.producer ≤ 0x1FF)) ||
    (decide (0x300 ≤ d.producer) && decide (d.producer ≤ 0x33F))

/-- The payload of a `HANDOFF` record (R68, R590): descriptor, H, sequence number, flags, CRC of the data, and the data when R591
asks for them. The manual names these items and no layout; this one is the model's (log entry 8). -/
def handoffPayload (i h seq : Nat) (stale none : Bool) (data : List Byte) (keep : Bool) : List Byte :=
  leBytes i 2 ++ leBytes h 8 ++ leBytes seq 4 ++ leBytes (b2n stale + 2 * b2n none) 1 ++
    leBytes (crc32c data).toNat 4 ++ (if keep then data else [])

/-- Streams whose trigger is this descriptor take note of a fresh delivery (R481). -/
def State.triggerStreams (s : State) (i : Nat) : State :=
  s.each ((List.range 256).filter fun k => decide (s.fld (R.TW_OS_CFG k) 30 10 = i) && s.bit (R.TW_OS_CFG k) 0) fun s k =>
    s.modStream k fun x => { x with trigger := true }

/-- The KV step whose plan this delivery carries becomes bound (R260). -/
def State.bindStep (s : State) (i seq : Nat) : State :=
  s.each (List.range 32) fun s p =>
    match (s.pool p).step with
    | some st =>
      if st.ho = i ∧ st.published = some seq ∧ !st.bound then s.modPool p fun q => { q with step := some { st with bound := true } }
      else s
    | none => s

/-- A window closes (R61 to R65): the data, then the status word as its last act; the recorder takes the outcome. -/
def State.closeWindow (s : State) (i : Nat) (w : Window) : State :=
  let ws := w.slot.map fun k =>
    match w.data with
    | some d => lineWords d (w.desc.slotBytes / 64)
    | none => s.slotWords (slotAddr w.desc k) (w.desc.slotBytes / 64)
  let s := s.closeBooks i w
  let st := closeStatus w (Config.freeNat s.fresh)
  let s := if st.empty then s.draw.2 else s
  let s := s.deliver w ws st
  let s := { s with windows := merase s.windows i }
  let s := if w.slot.isSome then (s.triggerStreams i).bindStep i w.seq else s
  let data := (ws.getD []).flatMap fun v => leBytes v.data.toNat 64
  s.tap 0x07 (some 5) 0x02 i s.now (handoffPayload i w.due st.seq st.stale st.empty data (s.recHoData i w.desc))

/-- HANDOFF_WINDOW_CLOSE: the window of descriptor `i` reaches its close (R60, R64). Before its time nothing has happened. -/
def execHandoffWindowClose (i : Nat) (s : State) : Host.Outcome State Fault Refusal :=
  match s.windows.lookup i with
  | some w => if w.close ≤ s.now then ok (s.closeWindow i w) else ok s
  | none => ok s

/-- TW_HO_PUBLISH: a master writes descriptor and slot to `TW_HO_PUBLISH` (R59). The write itself completes without error. -/
def execTwHoPublish (m d slot : Nat) (s : State) : Host.Outcome State Fault Refusal :=
  ok (s.regBus m R.TW_HO_PUBLISH 4 fun s => accept (s.publish m (d % 1024) (slot % 4)))

end Sys2Proof.Machine
end

