-- ==== Sys2Proof/Machine/ReplayOps.lean ====
section
/-! DEFINITION. The divergence of a replay (R598, R599): a bench output compared with its mark. -/

namespace Sys2Proof.Machine

/-- Whether a halt is permitted (R586): `HALT` is 1, the debug unlock holds the halt right, and a replay runs. -/
def State.haltAllowed (s : State) : Bool := s.bit R.SNAP_FRZ_CFG 9 && s.bit R.SNAP_DBG_STATE 3 && s.replaying

/-- A halt (R586): device time stands still. -/
def State.halt (s : State) : State :=
  ((s.setBit R.TW_CTRL 0 false).setBit R.SNAP_FRZ_CTRL 3 true).setBit R.REPLAY_STATUS 3 true

/-- A replay stops. -/
def State.replayStop (s : State) : State := s.setFld R.REPLAY_STATUS 0 2 3

/-- A divergence (R599): the replay stops, or halts when R586 allows it; the record carries the mark's `SEQ`. -/
def State.diverge (s : State) (seq expected actual cyc : Nat) : State :=
  let s := if s.haltAllowed then s.halt else s.replayStop
  let s := (s.setBit R.REPLAY_STATUS 2 true).setRegN R.REPLAY_DIV_SEQ seq
  let s := ((s.setRegN R.REPLAY_DIV_EXP expected).setRegN R.REPLAY_DIV_ACT actual).setRegN R.REPLAY_DIV_CYC cyc
  s.post { mkRec ST.REPLAY_DIVERGED 0x07 0 with syndrome := seq }

/-- A bench output against its mark (R599). `same` compares the payloads, `pick` gives CRC and flags of one. -/
def State.replayCompare (s : State) (m : Option RecItem) (data : List Byte) (same : List Byte → List Byte → Bool)
    (pick : List Byte → Nat) (cyc : Nat) : State :=
  if s.replaying ∧ !(s.bit R.REPLAY_STATUS 2) then
    match m with
    | some r => if same r.data data then s else s.diverge r.seq (pick r.data) (pick data) cyc
    | none => s
  else s

/-- A bench output against the loaded mark of a type with the same first bytes of payload (R599). -/
def State.replayCheck (s : State) (typ keyLen : Nat) (data : List Byte) (same : List Byte → List Byte → Bool)
    (pick : List Byte → Nat) (cyc : Nat) : State :=
  s.replayCompare (s.recorder.loaded.find? fun r => decide (r.typ = typ ∧ r.data.take keyLen = data.take keyLen)) data same pick cyc

/-- A commit of stream `i` against the stream's next `COMMIT` mark (R599). -/
def State.replayCommit (s : State) (i : Nat) (data : List Byte) (same : List Byte → List Byte → Bool)
    (pick : List Byte → Nat) (cyc : Nat) : State :=
  let n := mget 0 s.recorder.seen i
  let m := (s.recorder.loaded.filter fun r => decide (r.typ = 0x0B ∧ leNat (r.data.take 1) = i))[n]?
  let s := s.replayCompare m data same pick cyc
  if s.replaying then { s with recorder := { s.recorder with seen := mset 0 s.recorder.seen i (n + 1) } } else s

end Sys2Proof.Machine
end

