-- ==== Sys2Proof/Machine/CommitOps.lean ====
section
/-! DEFINITION. Output streams: when a commit starts (R460), how its copies are classed and decided (R461, R462), the header and deadline checks (R463, R469 to R471), the seal and the publication (R464, R465), the partner's record (R467, R439). -/

namespace Sys2Proof.Machine

/-! ### The configuration of a stream (R486) -/

/-- `EN`. -/
def State.osEn (s : State) (i : Nat) : Bool := s.bit (R.TW_OS_CFG i) 0
/-- `TWIN`. -/
def State.osTwin (s : State) (i : Nat) : Bool := s.bit (R.TW_OS_CFG i) 1
/-- `SAFETY`. -/
def State.osSafety (s : State) (i : Nat) : Bool := s.bit (R.TW_OS_CFG i) 2
/-- `DL_REQ`. -/
def State.osDlReq (s : State) (i : Nat) : Bool := s.bit (R.TW_OS_CFG i) 3
/-- `PART_A`, or `PART_B` for copy B. -/
def State.osPart (s : State) (i : Nat) (b : Bool) : Nat := s.fld (R.TW_OS_CFG i) (if b then 9 else 4) 5
/-- `JOB`. -/
def State.osJob (s : State) (i : Nat) : Nat := s.fld (R.TW_OS_CFG i) 14 6
/-- `OUT_HO`. -/
def State.osOut (s : State) (i : Nat) : Nat := s.fld (R.TW_OS_CFG i) 20 10
/-- `LIST`. -/
def State.osList (s : State) (i : Nat) : Nat := s.fld (R.TW_OS_CFG i) 40 16
/-- `LANES`. -/
def State.osLanes (s : State) (i : Nat) : Nat := s.fld (R.TW_OS_CFG i) 56 5
/-- `XDEV`. -/
def State.osXdev (s : State) (i : Nat) : Bool := s.bit (R.TW_OS_CFG i) 61

/-- The output region of a copy: the landing list `LIST` of its partition on its die. -/
def State.outRegion (s : State) (p list : Nat) : Option Landing :=
  ((List.range 4).find? fun d => s.hasLanding d list && decide ((s.landing d list).partition = p)).map fun d => s.landing d list

/-- The streams to which a job instance belongs, with the copy it is: true for copy B. -/
def State.jobStreams (s : State) (p j : Nat) : List (Nat × Bool) :=
  (List.range 256).flatMap fun i =>
    if s.osEn i ∧ s.osJob i = j then
      (if s.osPart i false = p then [(i, false)] else []) ++ (if s.osTwin i ∧ s.osPart i true = p then [(i, true)] else [])
    else []

/-- The 64-byte words of an output region with their poison. -/
def State.regionWords (s : State) (l : List Stripe) : List VReg :=
  l.flatMap fun st => s.slotWords (dramAddr st.tile st.offset) (st.length / 64)

/-- The bytes of words. -/
def wordBytes (ws : List VReg) : List Byte := ws.flatMap fun v => leBytes v.data.toNat 64

/-- Words written to memory from an address on. -/
def State.putWords (s : State) (a : Nat) : List VReg → State
  | [] => s
  | v :: r => (s.setLine a v).putWords (a + 64) r

/-! ### The decision (R461, R462) -/

/-- The classes of R461: missing, flagged, valid. -/
inductive CopyClass where
  | m | f | v
deriving DecidableEq, Repr, Inhabited

/-- A copy is suspect (R478, R483): its stream's bit is set or it is placed on a suspect block. -/
def State.copySuspect (s : State) (i : Nat) (b : Bool) : Bool :=
  s.bit (R.TW_OS_STATUS i) (if b then 2 else 1) ||
    (s.job (s.osPart i b) (s.osJob i)).blocks.any fun k => s.bit (R.SNAP_ST_STATE k) 8

/-- The class of a copy (R461); a copy whose region no longer exists cannot be read and is missing. -/
def State.classify (s : State) (i : Nat) (b : Bool) : CopyState → CopyClass
  | .done _ flags _ =>
    match s.outRegion (s.osPart i b) (s.osList i) with
    | none => .m
    | some l => if flags ≠ 0 ∨ s.landPoison l ∨ s.copySuspect i b then .f else .v
  | _ => .m

/-- The outcome of R462: the copy delivered (false A, true B), seal flags, an Amber event, a Crimson decision of cause 1, and
the record it writes. -/
structure Verdict where
  deliver : Option Bool := none
  flags   : Nat := 0
  amber   : Bool := false
  crimson : Bool := false
  code    : Option Status := none
  publish : Bool := true
deriving DecidableEq, Repr, Inhabited

/-- The table of R462 for a twin stream; `eq` says that the CRCs of the two copies are equal. -/
def twinVerdict (a b : CopyClass) (eq : Bool) : Verdict :=
  let clash : Verdict := { flags := 0x11, crimson := true, code := some ST.SAFE_MISMATCH }
  let lost : Verdict := { flags := 0x03, crimson := true, code := some ST.SAFE_MISMATCH }
  match a, b with
  | .v, .v => if eq then { deliver := some false } else clash
  | .v, .f => { deliver := some false, flags := 4, amber := true, code := some ST.SAFE_COPY_DISCARDED }
  | .f, .v => { deliver := some true, flags := 4, amber := true, code := some ST.SAFE_COPY_DISCARDED }
  | .f, .f => if eq then { deliver := some false, flags := 4, amber := true, code := some ST.SAFE_COPY_DISCARDED } else clash
  | .v, .m => { deliver := some false, flags := 2, amber := true, code := some ST.SAFE_SINGLE_COPY }
  | .m, .v => { deliver := some true, flags := 2, amber := true, code := some ST.SAFE_SINGLE_COPY }
  | .f, .m => lost
  | .m, .f => lost
  | .m, .m => { crimson := true, code := some ST.SAFE_MISMATCH, publish := false }

/-- R462 for a stream with `TWIN` 0: it delivers V and publishes F with `INVALID`. -/
def soleVerdict (a : CopyClass) : Verdict :=
  match a with
  | .v => { deliver := some false }
  | .f => { flags := 1, crimson := true, code := some ST.SAFE_MISMATCH }
  | .m => { crimson := true, code := some ST.SAFE_MISMATCH, publish := false }

/-- The exception of R467: a decision that delivers the partner's copy publishes the local output with `INVALID` and `PARTNER`
and takes no Crimson decision. -/
def partnerVerdict (v : Verdict) : Verdict :=
  if v.deliver = some true then { v with deliver := none, flags := v.flags ||| 0x401, crimson := false } else v

/-- The withheld copy of a golden frame (R482): `GOLDEN` joins `SINGLE` and no Amber event counts. -/
def goldenVerdict (v : Verdict) (golden : Bool) : Verdict :=
  if golden ∧ v.flags = 2 then { v with flags := v.flags ||| 0x200, amber := false } else v

/-! ### Header and deadline (R463, R469 to R471, R450) -/

/-- Seal flags that R463 adds for a delivered header at K. -/
def State.headerFlags (s : State) (i k : Nat) (hdr : Nat) : Nat :=
  let age := s.regN (R.TW_OS_AGE i)
  let cap := bitsOf hdr 32 64
  let last := s.fld (R.TW_OS_LAST i) 0 32
  let input := if bitsOf hdr 96 1 = 1 then 0x21 else 0
  let late := if age ≠ 0 ∧ age < k - cap then 0x41 else 0
  let rep := if (s.stream i).everDone ∧ toSigned 32 (2 ^ 32 + bitsOf hdr 0 32 - last) ≤ 0 then 0x81 else 0
  input ||| late ||| rep

/-- The deadline at K (R469, R470, R471): seal flags, whether a decision of cause 2 falls, and the state with the stream
disarmed and its records written. -/
def State.deadlineAt (s : State) (i k : Nat) : Nat × Bool × State :=
  if (s.stream i).late then (0x09, false, s.modStream i fun x => { x with late := false })
  else if s.bit (R.TW_OS_STATUS i) 0 then
    let s1 := s.setBit (R.TW_OS_STATUS i) 0 false
    if k ≤ s.regN (R.TW_OS_DEADLINE i) then (0, false, s1)
    else (0x09, s.osSafety i, s1.postC ST.SAFE_DEADLINE_MISSED 0x02 i)
  else if s.osDlReq i then (0x101, false, s.postC ST.SAFE_NO_DEADLINE 0x02 i)
  else (0, false, s)

/-! ### Seal and publication (R464, R465) -/

/-- The first 32 bytes of the commit seal over a region. -/
def commitSeal (hdr stream flags len k : Nat) (isB : Bool) (region : List Byte) : List Byte :=
  sealed region (leBytes (bitsOf hdr 32 64) 8 ++ leBytes (bitsOf hdr 0 32) 4 ++ leBytes (stream + 256 * b2n isB) 2 ++
    leBytes flags 2 ++ leBytes len 4 ++ leBytes (shortOf k) 4 ++ leBytes 0 4)

/-- The payload of a `COMMIT` record (R590): stream, seal bytes 0 to 31, the cycle counts of both copies. -/
def commitMark (i : Nat) (head : List Byte) (ca cb : Nat) : List Byte := leBytes i 1 ++ head ++ leBytes ca 8 ++ leBytes cb 8

/-- Whether two commit marks agree (R599): `FRAME_SEQ`, flags, CRC and both cycle counts. -/
def commitSame (x y : List Byte) : Bool :=
  decide ((x.drop 9).take 4 = (y.drop 9).take 4 ∧ (x.drop 15).take 2 = (y.drop 15).take 2 ∧ x.drop 29 = y.drop 29)

/-- CRC and flags of a commit mark as `REPLAY_DIV_EXP` shows them. -/
def commitPick (x : List Byte) : Nat := leNat ((x.drop 29).take 4) + leNat ((x.drop 15).take 2) * 2 ^ 32

/-- The stream's registers after a publication with seal flags (R486): the flags shown, an invalid commit counted, and the last
committed sequence with its K when a header was delivered. -/
def State.commitBooks (s : State) (i k flags : Nat) (hdr : Option Nat) : State :=
  let s := s.setFld (R.TW_OS_STATUS i) 8 8 (flags % 256)
  let s := if flags % 2 = 1 then s.incFld (R.TW_OS_CNT i) 0 16 else s
  match hdr with
  | some h =>
    (s.setRegN (R.TW_OS_LAST i) (bitsOf h 0 32 + shortOf k * 2 ^ 32)).modStream i fun x => { x with everDone := true }
  | none => s

/-- The write slot of a stream's output descriptor. -/
def State.outSlot (s : State) (i : Nat) : Nat := slotAddr (s.ho (s.osOut i)).desc (s.hoW (s.osOut i))

/-- The time unit publishes a stream's slot (R464). -/
def State.outPublish (s : State) (i : Nat) : State :=
  let o := s.osOut i
  if s.hoExists o ∧ (s.ho o).desc.producer = 0x036 then s.publish 0x036 o (s.hoW o) else s

/-- The region of a commit written into the slot, when one is. -/
def State.fillSlot (s : State) (i : Nat) (ws : Option (List VReg)) : State :=
  match ws with
  | some ws => if s.hoExists (s.osOut i) then s.putWords (s.outSlot i + 64) ws else s
  | none => s

/-- The seal written at the front of the slot, bytes 32 to 63 zero (R465). -/
def State.putSeal (s : State) (i : Nat) (head : List Byte) : State :=
  if s.hoExists (s.osOut i) then
    (s.setBytes (s.outSlot i) (head ++ List.replicate 32 0#8)).setPoison (s.outSlot i) false
  else s

/-- The mark of a publication for the recorder and a replay (R590, R599). -/
def State.markCommit (s : State) (i ca : Nat) (mark : List Byte) : State :=
  (s.tap 0x0B (some 9) 0x02 i s.now mark).replayCommit i mark commitSame commitPick ca

/-- The seal header of a publication with a header in hand (R464, R465): the region and the seal stand in the write slot of
`OUT_HO`, which the time unit publishes; a commit without `INVALID` ends the stream's Crimson. -/
def State.publishWith (s : State) (i k flags ca cb : Nat) (isB : Bool) (h : Nat) (hdr : Option Nat) (ws : Option (List VReg)) :
    State :=
  let s := s.fillSlot i ws
  let len := match s.outRegion (s.osPart i isB) (s.osList i) with | some l => landingBytes l | none => 0
  let region := match ws with | some ws => wordBytes ws | none => s.bytes (s.outSlot i + 64) len
  let head := commitSeal h i flags len k isB region
  let s := ((s.putSeal i head).commitBooks i k flags hdr).outPublish i
  let s := if flags % 2 = 0 then s.uncrimson i else s
  s.markCommit i ca (commitMark i head ca cb)

/-- A commit is published (R464, R465). With no header delivered the seal's header fields are not stated: free values. -/
def State.publishCommit (s : State) (i k flags ca cb : Nat) (isB : Bool) (hdr : Option Nat) (ws : Option (List VReg)) : State :=
  match hdr with
  | some h => s.publishWith i k flags ca cb isB h hdr ws
  | none => s.draw.2.publishWith i k flags ca cb isB (Config.freeNat s.fresh) none ws

/-- An Amber event (R462). -/
def State.amberEvent (s : State) (i : Nat) : State :=
  ((s.incReg R.CFG_AMBER_EVENTS).incFld (R.TW_OS_CNT i) 16 16).amberHold 0

/-- The cycle count of a completed copy. -/
def copyCycles : CopyState → Nat
  | .done _ _ c => c
  | _ => 0

/-- Whether a copy completed. -/
def copyDone : CopyState → Bool
  | .done _ _ _ => true
  | _ => false

/-- The bytes of the delivered header as a number, none when no copy is read. -/
def State.copyWords (s : State) (i : Nat) (b : Bool) : Option (List VReg) :=
  (s.outRegion (s.osPart i b) (s.osList i)).map fun l => s.regionWords l.stripes

/-- The 64-byte header at the front of a region. -/
def headerOf (ws : List VReg) : Nat := match ws with | v :: _ => v.data.toNat | [] => 0

/-- CRC-32C of a copy's region. -/
def State.copyCrc (s : State) (i : Nat) (b : Bool) : Nat :=
  match s.copyWords i b with
  | some ws => (crc32c (wordBytes ws)).toNat
  | none => 0

/-- A verdict carried out at K (R462 to R471): the records, the Amber event, the deadline, the Crimson decisions, then the
publication, or the reading of copy B again before it. -/
def State.applyVerdict (s : State) (i : Nat) (c : Commit) (v : Verdict) : State :=
  let k := c.k
  let bothRead := copyDone c.a && copyDone c.b
  let src := match v.deliver with | some b => b | none => copyDone c.b && !(copyDone c.a)
  let ws := if copyDone (if src then c.b else c.a) then s.copyWords i src else none
  let fseq := match ws with | some ws => bitsOf (headerOf ws) 0 32 | none => 0
  let s := s.modStream i fun x => { x with commit := none, trigger := false }
  let s := s.setBit (R.TW_OS_STATUS i) 4 false
  let (dlFlags, dlCrimson, s) := s.deadlineAt i k
  let crimson1 := v.crimson && s.osSafety i && decide (dlFlags ≠ 0x09 ∨ dlCrimson)
  let s := match v.code with | some code => s.postC code 0x02 i | none => s
  let s := if v.flags / 0x200 % 2 = 1 then s.postC ST.SAFE_GOLDEN_SINGLE 0x02 i else s
  let hflags := match v.deliver, ws with | some _, some ws => s.headerFlags i k (headerOf ws) | _, _ => 0
  let s := if hflags ≠ 0 ∧ !(s.stream i).invRun then s.postC ST.SAFE_INPUT 0x02 i else s
  let s := s.modStream i fun x => { x with invRun := decide (hflags ≠ 0) }
  let s := if v.amber then s.amberEvent i else s
  let s := if crimson1 then s.crimson 1 (some i) fseq else s
  let s := if dlCrimson then s.crimson 2 (some i) fseq else s
  if !v.publish then s
  else
    let latched := if s.safety.latched ≠ 0#8 then 1 else 0
    let flags := v.flags ||| hflags ||| dlFlags ||| latched
    let ca := copyCycles c.a
    let cb := copyCycles c.b
    if bothRead ∧ v.deliver = some true then
      let len := match s.outRegion (s.osPart i true) (s.osList i) with | some l => landingBytes l | none => 0
      let d := (len + 32 * s.osLanes i - 1) / (32 * s.osLanes i)
      (s.setBit (R.TW_OS_STATUS i) 4 true).modStream i fun x => { x with reread := some ⟨k + 100 + d, k, flags, ca, cb⟩ }
    else
      let hdr := match v.deliver, ws with | some _, some ws => some (headerOf ws) | _, _ => none
      s.publishCommit i k flags ca cb src hdr ws

/-- The binding of a stream to a partner device (R438), if one is in force. -/
def State.twinOf (s : State) (i : Nat) : Option Nat :=
  (List.range 16).find? fun k =>
    s.bit (R.BAM_TWIN_CFG k) 0 && s.bit (R.BAM_TWIN_STATE k) 0 && decide (s.fld (R.BAM_TWIN_CFG k) 17 8 = i)

/-- The class of the partner's copy by its record (R467). -/
def partnerClass : Option PartnerRec → CopyClass
  | some r => if r.flags = 0#5 then .v else .f
  | none => .m

/-- The decision at K for a stream, with the partner's record where the stream is bound (R462, R467). -/
def State.decideCommit (s : State) (i : Nat) (c : Commit) (partner : Option PartnerRec) (bound : Bool) : State :=
  let a := s.classify i false c.a
  if bound then
    let crc := s.copyCrc i false
    let v := twinVerdict a (partnerClass partner) (decide ((partner.getD {}).crc.toNat = crc))
    s.applyVerdict i c (partnerVerdict v)
  else if s.osTwin i then
    let b := s.classify i true c.b
    let eq := decide (s.copyCrc i false = s.copyCrc i true)
    s.applyVerdict i c (goldenVerdict (twinVerdict a b eq) c.golden)
  else s.applyVerdict i c (soleVerdict a)

/-! ### When a commit starts (R460) -/

/-- Whether the frame in hand has reached S. -/
def State.frameReady (s : State) (i : Nat) : Bool :=
  let x := s.stream i
  decide (x.commit.isNone ∧ x.reread.isNone ∧ x.copyA ≠ .none ∧ (s.osTwin i = false ∨ x.copyB ≠ .none))

/-- Whether a copy's job has still to report: its instance is not idle. -/
def State.copyOwed (s : State) (i : Nat) (b : Bool) : Bool := decide ((s.job (s.osPart i b) (s.osJob i)).phase ≠ .idle)

/-- Commit starts at S, which is now (R460, R464): a copy that has not reported is missing and, while its job still runs, owes a
late report; with no copy read the decision falls at once. -/
def State.startCommit (s : State) (i : Nat) : State :=
  let x := s.stream i
  let owedA := decide (x.copyA = .none) && s.copyOwed i false
  let owedB := s.osTwin i && decide (x.copyB = .none) && s.copyOwed i true
  let golden := x.golden
  let anyRead := copyDone x.copyA || (s.osTwin i && copyDone x.copyB)
  let len := match s.outRegion (s.osPart i (!(copyDone x.copyA))) (s.osList i) with | some l => landingBytes l | none => 0
  let k := if anyRead then s.now + 200 + (len + 32 * s.osLanes i - 1) / (32 * s.osLanes i) else s.now
  let c : Commit := { start := s.now, k := k, a := x.copyA, b := x.copyB, golden := golden }
  let s := s.modStream i fun y =>
    { y with copyA := .none, copyB := .none, start := none, owedA := y.owedA || owedA, owedB := y.owedB || owedB, golden := false, commit := some c }
  if anyRead then s.setBit (R.TW_OS_STATUS i) 4 true
  else if s.osXdev i ∧ (s.twinOf i).isSome then s
  else s.decideCommit i c none false

/-- A copy reports for the frame in hand (R460): a second report before the other copy's starts the commit of that frame, and
opens the next. -/
def State.takeReport (s : State) (i : Nat) (b : Bool) (c : CopyState) : State :=
  if !(s.osEn i) then s
  else
    let cur := if b then (s.stream i).copyB else (s.stream i).copyA
    let s := if cur ≠ .none ∧ (s.stream i).commit.isNone then s.startCommit i else s
    let s := s.modStream i fun x => if b then { x with copyB := c } else { x with copyA := c }
    let s := if copyDone c ∧ (s.stream i).start.isNone then s.modStream i fun x => { x with start := some s.now } else s
    if s.frameReady i then s.startCommit i else s

/-- A copy of a stream completes or is aborted (R460): a report that an earlier frame still awaited is late. -/
def State.reportCopy (s : State) (i : Nat) (b : Bool) (c : CopyState) : State :=
  if s.osEn i ∧ (if b then (s.stream i).owedB else (s.stream i).owedA) then
    (s.modStream i fun x => if b then { x with owedB := false } else { x with owedA := false }).postC ST.SAFE_COPY_LATE 0x02 i
  else s.takeReport i b c

/-- A job instance reports to every stream it is a copy of. -/
def State.reportJob (s : State) (p j : Nat) (c : CopyState) : State :=
  s.each (s.jobStreams p j) fun s x => s.reportCopy x.1 x.2 c

/-- A launch of a job had no effect: its copy of every stream is missing (R460). -/
def State.reportRefused (s : State) (p j : Nat) : State :=
  s.each (s.jobStreams p j) fun s x => s.takeReport x.1 x.2 (.missing s.now)

/-- After a decision the next frame, already complete, starts its own commit. -/
def State.nextFrame (s : State) (i : Nat) : State := if s.frameReady i then s.startCommit i else s

/-- Whether the commit logic reads an output region of a partition (R466). -/
def State.commitInto (s : State) (p : Nat) : Bool :=
  s.streams.any fun x =>
    match x.2.commit with
    | some c => (copyDone c.a && decide (s.osPart x.1 false = p)) || (copyDone c.b && decide (s.osPart x.1 true = p))
    | none => x.2.reread.isSome && decide (s.osPart x.1 true = p)

/-! ### Commands -/

/-- A twin binding waits for its partner's record from K on (R439): its own record goes to the partner. -/
def State.sendTwin (s : State) (k i : Nat) (c : Commit) : State :=
  let p := s.osPart i false
  let flags := match c.a with | .done _ f _ => f | _ => 0
  let fseq := match s.copyWords i false with | some ws => bitsOf (headerOf ws) 0 32 | none => 0
  let hash := (s.job p (s.osJob i)).image.hash
  let r : PartnerRec :=
    { stream := i, frameSeq := BitVec.ofNat 32 fseq, crc := BitVec.ofNat 32 (s.copyCrc i false), flags := BitVec.ofNat 5 flags,
      hash := hash.setWidth 32, short := BitVec.ofNat 32 (shortOf c.k) }
  { s with twins := mset {} s.twins k { waiting := some c.k, stream := i, sent := some r } }

/-- COMMIT_DECISION: stream `st` reaches K (R462 to R471); a bound stream first exchanges records with its partner (R439). -/
def execCommitDecision (st : Nat) (s : State) : Host.Outcome State Fault Refusal :=
  let i := st % 256
  match (s.stream i).commit with
  | none => ok s
  | some c =>
    if s.now < c.k then ok s
    else if s.osXdev i then
      match s.twinOf i with
      | none => ok ((s.decideCommit i c none true).nextFrame i)
      | some k =>
        if (mget {} s.twins k).waiting.isSome then ok s
        else
          match (s.stream i).partner with
          | some r => ok (((s.sendTwin k i c).decideCommit i c (some r) true |>.modStream i fun x => { x with partner := none })
              |> fun s => ({ s with twins := mmod {} s.twins k fun t => { t with waiting := none } }).nextFrame i)
          | none => ok (s.sendTwin k i c)
    else ok ((s.decideCommit i c none false).nextFrame i)

/-- PARTNER_RECORD: the partner's commit record arrives (R439, R467); one whose hash differs counts as a missing copy. -/
def execPartnerRecord (k : Nat) (rec : PartnerRec) (s : State) : Host.Outcome State Fault Refusal :=
  let k := k % 16
  let i := s.fld (R.BAM_TWIN_CFG k) 17 8
  if !(s.bit (R.BAM_TWIN_STATE k) 0) ∨ rec.stream ≠ i then ok s
  else
    let good := decide (rec.hash = (s.job (s.osPart i false) (s.osJob i)).image.hash.setWidth 32)
    let s := if good then s else (s.incFld (R.BAM_TWIN_STATE k) 16 16).postC ST.BAM_TWIN_MISMATCH 0x1C k
    match (mget {} s.twins k).waiting, (s.stream i).commit with
    | some _, some c =>
      let s := { s with twins := mmod {} s.twins k fun t => { t with waiting := none } }
      ok ((s.decideCommit i c (if good then some rec else none) true).nextFrame i)
    | _, _ => ok (if good then s.modStream i fun x => { x with partner := some rec } else s)

/-- TWIN_WAIT_EXPIRY: `BAM_TWINk_WAIT` has passed since the local commit without the partner's record (R439, R467). -/
def execTwinWaitExpiry (k : Nat) (s : State) : Host.Outcome State Fault Refusal :=
  let k := k % 16
  let t := mget {} s.twins k
  match t.waiting, (s.stream t.stream).commit with
  | some at_, some c =>
    if s.now < at_ + s.regN (R.BAM_TWIN_WAIT k) then ok s
    else
      let s := { s with twins := mmod {} s.twins k fun t => { t with waiting := none } }
      let s := (s.incFld (R.BAM_TWIN_STATE k) 16 16).postC ST.BAM_TWIN_LATE 0x1C k
      ok ((s.decideCommit t.stream c none true).nextFrame t.stream)
  | _, _ => ok s

/-- REREAD_DONE: copy B has been read again into the slot and the commit is published (R464). -/
def execRereadDone (st : Nat) (s : State) : Host.Outcome State Fault Refusal :=
  let i := st % 256
  match (s.stream i).reread with
  | none => ok s
  | some r =>
    if s.now < r.ends then ok s
    else
      let s := (s.setBit (R.TW_OS_STATUS i) 4 false).modStream i fun x => { x with reread := none }
      let ws := s.copyWords i true
      ok ((s.publishCommit i r.k r.flags r.cycA r.cycB true (ws.map headerOf) ws).nextFrame i)

/-- PAIR_WAIT_EXPIRY: `PAIR_WAIT` has passed since the first completion of a frame (R460). -/
def execPairWaitExpiry (st : Nat) (s : State) : Host.Outcome State Fault Refusal :=
  let i := st % 256
  match (s.stream i).start with
  | some t =>
    if s.now < t + s.regN (R.TW_OS_PAIRWAIT i) ∨ (s.stream i).commit.isSome ∨ (s.stream i).reread.isSome then ok s
    else ok (s.startCommit i)
  | none => ok s

/-- DEADLINE_EXPIRY: device time reaches D with the stream armed and no commit started (R470). -/
def execDeadlineExpiry (st : Nat) (s : State) : Host.Outcome State Fault Refusal :=
  let i := st % 256
  if s.bit (R.TW_OS_STATUS i) 0 ∧ s.regN (R.TW_OS_DEADLINE i) ≤ s.now ∧ (s.stream i).commit.isNone then
    let s := (s.setBit (R.TW_OS_STATUS i) 0 false).postC ST.SAFE_DEADLINE_MISSED 0x02 i
    let s := s.modStream i fun x => { x with late := true }
    ok (if s.osSafety i then s.crimson 2 (some i) 0 else s)
  else ok s

end Sys2Proof.Machine
end

