-- ==== Sys2Proof/Machine/KvOps.lean ====
section
/-! DEFINITION. How a KV step ends: binding to a job, the epoch at its close, its rollback, and the divergence of a twin pool (R260 to R264). -/

namespace Sys2Proof.Machine

/-- Frames on all free lists of a pool. -/
def poolFree (q : KvPool) : Nat := q.free.foldl (fun n x => n + x.2.length) 0

/-- `KVD_POOLp_FREE` brought up to date. -/
def State.showFree (s : State) (p : Nat) : State := s.setRegN (R.KVD_POOL_FREE p) (poolFree (s.pool p))

/-- Contexts open or closing (`KVD_CTX_OPEN_CNT`). -/
def State.showCtxCount (s : State) : State :=
  s.setRegN R.KVD_CTX_OPEN_CNT (s.kvCtxs.filter fun x => decide (x.2.state ≠ 0)).length

/-- A pending frame whose count is still 0 returns to its group's list with its generation raised (R261). -/
def epochFrame (q : KvPool) (f : Nat) : KvPool :=
  let e := mget {} q.frames f
  if e.pending ∧ e.count = 0 then
    { q with
      frames := mset {} q.frames f { e with gen := (e.gen + 1) % 256, pending := false }
      free := mmod [] q.free (f % q.h) fun l => f :: l }
  else q

/-- A step closes (R261): its changes stand, the epoch runs, closing contexts become free, the committed step number moves. -/
def State.kvClose (s : State) (p : Nat) (st : KvStep) : State :=
  let s := s.modPool p fun q => { st.zeroed.foldl epochFrame q with step := none }
  let s := { s with kvCtxs := s.kvCtxs.filter fun x => !(decide (x.2.state = 2) && decide (x.2.pool = p)) }
  let s := s.setRegN (R.KVD_POOL_STEP p) (putBits (putBits (s.regN (R.KVD_POOL_STEP p)) 0 32 st.number) 32 1 0)
  ((s.addReg R.KVD_COPY_CNT st.copies.length).showFree p).showCtxCount

/-- The record of a pool. -/
def State.postPool (s : State) (c : Status) (p step : Nat) : State :=
  s.post (({ mkRec c 0x21 p with context := step }).withPart s (s.pool p).partition)

/-- A step rolls back (R262): counts, tables, lengths, states and free lists as they were at its open, and one record. -/
def State.kvRollback (s : State) (p : Nat) (st : KvStep) : State :=
  let s := s.modPool p fun q => { q with frames := st.oldFrames, free := st.oldFree, step := none }
  let s := { s with kvCtxs := st.items.foldl (fun m (x : KvItem) => mset {} m x.ctx (mget {} st.oldCtxs x.ctx)) s.kvCtxs }
  let s := (s.setBit (R.KVD_POOL_STEP p) 32 false).incReg R.KVD_ROLLBACK_CNT
  (((s.showFree p).showCtxCount).postPool ST.KV_STEP_ABORTED p st.number)

/-- A twin pool becomes diverged (R264, R445 cause 5). -/
def State.kvDiverge (s : State) (p step : Nat) : State :=
  ((s.setBit (R.KVD_POOL_STEP p) 33 true).postPool ST.KV_POOL_DIVERGED p step).setAmber 5 true

/-- How a step ends once its copies have reported (R260, R264): 0 not yet, 1 completed, 2 aborted. -/
def State.kvSettle (s : State) (p : Nat) : State :=
  match (s.pool p).step with
  | none => s
  | some st =>
    match (s.pool p).twin with
    | none => if st.doneA = 1 then s.kvClose p st else if st.doneA = 2 then s.kvRollback p st else s
    | some _ =>
      if st.doneA = 0 ∨ st.doneB = 0 then s
      else if st.doneA = 2 ∧ st.doneB = 2 then s.kvRollback p st
      else if st.doneA = 1 ∧ st.doneB = 1 then s.kvClose p st
      else
        ((s.kvClose p st).modPool p fun q => { q with lostB := decide (st.doneB = 2) }).kvDiverge p st.number

/-- The job of a partition's launch becomes the job of every bound step of its pools (R260). -/
def State.kvLaunch (s : State) (p j : Nat) : State :=
  s.each (List.range 32) fun s k =>
    match (s.pool k).step with
    | some st =>
      if st.bound ∧ st.job.isNone ∧ ((s.pool k).partition = p ∨ (s.pool k).twin = some p) then
        s.modPool k fun q => { q with step := some { st with job := some (p, j) } }
      else s
    | none => s

/-- A job that a step waits for has completed (1) or ended without completing (2) (R260, R264). -/
def State.kvJobEnds (s : State) (p j how : Nat) : State :=
  s.each (List.range 32) fun s k =>
    match (s.pool k).step with
    | some st =>
      if st.job.map Prod.snd ≠ some j then s
      else if (s.pool k).partition = p then
        (s.modPool k fun q => { q with step := some { st with doneA := how } }).kvSettle k
      else if (s.pool k).twin = some p then
        (s.modPool k fun q => { q with step := some { st with doneB := how } }).kvSettle k
      else s
    | none => s

end Sys2Proof.Machine
end

