-- ==== Sys2Proof/Machine/WheelOps.lean ====
section
/-! DEFINITION. The time wheels: how a due entry is taken on a launch edge (R43, R48, R54 to R56, R619), period boundaries (R47, R50, R51), and the entries whose whole effect lies in the time unit: NOP, HANDOFF, FSYNC, DEADLINE, FREEZE, NOTIFY. -/

namespace Sys2Proof.Machine

/-- The active bank of a wheel: 0 A, 1 B (`TW_Wn_CTRL.ACTIVE`). -/
def State.activeBank (s : State) (w : Nat) : Nat := s.fld (R.TW_W_CTRL w) 8 1

/-- The entries of a bank. -/
def Wheel.bank (x : Wheel) (b : Nat) : List WheelEntry := if b = 0 then x.entriesA else x.entriesB

/-- The period of a bank in 48.16 fixed point. -/
def State.bankPeriod (s : State) (w b : Nat) : Nat := s.regN (if b = 0 then R.TW_W_PERIOD_A w else R.TW_W_PERIOD_B w)

/-- The partition an entry names, if its action names one (R52). -/
def WheelEntry.names (e : WheelEntry) : Option Nat :=
  if e.action = 1 ∨ e.action = 2 ∨ e.action = 3 ∨ e.action = 10 then some (e.index % 32) else none

/-- The record fields of R619 for an entry. -/
def entryRec (s : State) (c : Status) (d : Due) : ErrRecord :=
  let r := { mkRec c 0x02 d.wheel with
    context := d.index % 4096 + d.bank * 4096
    syndrome := d.entry.action % 256 + (d.entry.index % 65536) * 65536 + shortOf d.due * 2 ^ 32 }
  match WheelEntry.names d.entry with
  | some p => r.withPart s p
  | none => r

/-- The record of R347 for a refused wheel action: the job descriptor index in the syndrome. -/
def refusedRec (s : State) (c : Status) (d : Due) (p j : Nat) : ErrRecord :=
  ({ mkRec c 0x02 d.wheel with context := d.index % 4096 + d.bank * 4096, syndrome := j % 64 }).withPart s p

/-- An entry whose target no longer exists (R56). -/
def State.targetGone (s : State) (d : Due) : State := s.post (entryRec s ST.WHEEL_TARGET_GONE d)

/-- A launch whose own partition, or whose descriptor there, no longer exists (R56, R323). -/
def State.targetGoneIn (s : State) (d : Due) (p : Nat) : State :=
  s.post ((entryRec s ST.WHEEL_TARGET_GONE d).withPart s p)

/-- The entry that a command names, in the running period of its wheel, when it has not been taken. -/
def State.currentDue (s : State) (w e : Nat) : Option Due :=
  let x := s.wheel w
  if x.inPeriod ∧ e ∉ x.taken then
    match (Wheel.bank x (s.activeBank w))[e]? with
    | some ent => some { wheel := w, bank := s.activeBank w, index := e, due := x.start + ent.offset, entry := ent }
    | none => none
  else none

/-- The due entry that a command names and whether it stands in the delayed list: the head of the delayed list (R55), an entry
left over from an earlier period, or one of the running period. -/
def State.findDue (s : State) (w e action : Nat) : Option (Due × Bool) :=
  match s.delayed.find? (fun d => decide (d.wheel = w ∧ d.index = e ∧ d.entry.action = action)) with
  | some d => if s.delayed.head? = some d then some (d, true) else none
  | none =>
    match (s.wheel w).carry.find? (fun d => decide (d.index = e ∧ d.entry.action = action)) with
    | some d => some (d, false)
    | none =>
      match s.currentDue w e with
      | some d => if d.entry.action = action then some (d, false) else none
      | none => none

/-- An entry leaves the lists it waits in. -/
def State.markTaken (s : State) (d : Due) (wasDelayed : Bool) : State :=
  if wasDelayed then { s with delayed := s.delayed.drop 1 }
  else if d ∈ (s.wheel d.wheel).carry then s.modWheel d.wheel fun x => { x with carry := x.carry.erase d }
  else s.modWheel d.wheel fun x => { x with taken := x.taken ++ [d.index] }

/-- An entry beyond the 16 of its edge (R55): delayed to the following edge, counted and recorded once. -/
def State.delayEntry (s : State) (d : Due) (wasDelayed : Bool) : State :=
  let s := s.markTaken d wasDelayed
  if d.late then { s with delayed := s.delayed ++ [d] }
  else
    let s := { s with delayed := s.delayed ++ [{ d with late := true }] }
    (s.incReg R.TW_ISSUE_LATE_CNT).post (entryRec s ST.WHEEL_ISSUE_LATE d)

/-- The place of an entry among those newly due on one edge (R54): wheel, then index. -/
def entryRank (w e : Nat) : Nat := w * 4096 + e + 1

/-- The entries that the edge has taken so far, and the rank of its latest newly due one. -/
def State.edgeCount (s : State) (edge : Nat) : Nat × Nat :=
  if edge = s.edge.1 then (s.edge.2.1, s.edge.2.2) else (0, 0)

/-- An entry falls due and takes effect on a launch edge (R43, R48, R54, R55): its due time plus `lead` has come, no entry
delayed to this edge or of lower rank stands before it, and fewer than 16 have taken effect on the edge; a seventeenth is
delayed. The answer is the entry that takes effect now, if any, and the state with the edge's bookkeeping. -/
def State.takeEntry (s : State) (w e edge action lead : Nat) : Option Due × State :=
  match s.findDue w e action with
  | none => (none, s)
  | some (d, wasDelayed) =>
    let (n, last) := s.edgeCount edge
    if edge < s.edge.1 ∨ s.now < d.due + lead ∨ !(s.bit R.TW_CTRL 0) then (none, s)
    else if !wasDelayed ∧ (entryRank w e ≤ last ∨ (n < 16 ∧ s.delayed ≠ [])) then (none, s)
    else if 16 ≤ n then
      (none, { s.delayEntry d wasDelayed with edge := (edge, n, if wasDelayed then last else entryRank w e) })
    else (some d, { s.markTaken d wasDelayed with edge := (edge, n + 1, if wasDelayed then last else entryRank w e) })

/-- A wheel entry with its effect: `f` acts when the entry takes effect on this edge. -/
def State.onEntry (s : State) (w e edge action lead : Nat) (f : State → Due → State) : State :=
  match s.takeEntry w e edge action lead with
  | (some d, s') => f s' d
  | (none, s') => s'

/-- The distribution delay of R43. -/
def launchOffset : Nat := 24

/-- A unit serves an entry: the run of events that found its domain off is over (R571). -/
def State.unitServed (s : State) (u : Nat) : State :=
  { s with power := { s.power with offRun := mset false s.power.offRun u false } }

/-- The target unit of an entry lies in a domain that is off (R571): no effect, and the first such event of a run writes one
record. -/
def State.ifPowered (s : State) (u : Nat) (f : State → State) : State :=
  if s.unitOff u then
    if mget false s.power.offRun u then s
    else ({ s with power := { s.power with offRun := mset false s.power.offRun u true } }).postC ST.PWR_DOMAIN_OFF u 0
  else f (s.unitServed u)

/-! ### Period boundaries (R47, R50, R51) -/

/-- Entries of the ending period that were not taken stay due (R51). -/
def leftover (x : Wheel) (w b : Nat) : List Due :=
  (enumFrom 0 (Wheel.bank x b)).filterMap fun y =>
    if x.inPeriod ∧ y.1 ∉ x.taken then
      some { wheel := w, bank := b, index := y.1, due := x.start + y.2.offset, entry := y.2 }
    else none

/-- The other bank becomes active and the request bit clears (R50). -/
def State.swapBank (s : State) (w : Nat) : State :=
  let s := s.setFld (R.TW_W_CTRL w) 8 1 (1 - s.activeBank w)
  (s.setBit (R.TW_W_CTRL w) 1 false).modWheel w fun x => { x with swapAt := none }

/-- `TW_STATUS.ANY_WHEEL` brought up to date. -/
def State.showAny (s : State) : State := s.setBit R.TW_STATUS 2 s.anyWheel

/-- A wheel passes the boundary at time `b`: a pending swap due by then, or any pending swap when the disable takes effect,
takes place (R50, R51); then the wheel stops, or the next period begins and the accumulator gains its period (R47). -/
def State.passBoundary (s : State) (w b : Nat) : State :=
  let x := s.wheel w
  let s := s.modWheel w fun y => { y with carry := y.carry ++ leftover x w (s.activeBank w) }
  let s := s.wrapReg (R.TW_W_PERIODS w)
  let stop := match x.disableAt with | some d => decide (d ≤ b) | none => false
  let s := match x.swapAt with
    | some t => if t ≤ b ∨ stop then s.swapBank w else s
    | none => s
  if stop then
    let s := s.setBit (R.TW_W_CTRL w) 0 false
    (s.modWheel w fun y => { y with disableAt := none, inPeriod := false, taken := [] }).showAny
  else
    let sum := x.sum + s.bankPeriod w (s.activeBank w)
    let s := s.modWheel w fun y => { y with start := b, inPeriod := true, taken := [], sum := sum }
    s.setRegN (R.TW_W_NEXT w) (x.origin + sum / 65536)

/-- WHEEL_PERIOD_BOUNDARY: an enabled wheel reaches the boundary of `TW_Wn_NEXT` (R47). -/
def execWheelPeriodBoundary (w : Nat) (s : State) : Host.Outcome State Fault Refusal :=
  if w < 8 ∧ s.bit (R.TW_W_CTRL w) 0 ∧ s.regN (R.TW_W_NEXT w) ≤ s.now then
    ok (s.passBoundary w (s.regN (R.TW_W_NEXT w)))
  else ok s

/-- The behaviour of a write of `TW_Wn_BASE` (R49). -/
def actWheelBase (w : Nat) (s : State) (v : Nat) : State × Option Status :=
  if s.bit (R.TW_W_CTRL w) 0 then refuse s ST.WHEEL_BASE_LOCKED else accept (s.setRegN (R.TW_W_BASE w) v)

/-- TW_WN_BASE_WRITE: a master writes a wheel's base (R49). -/
def execTwWnBaseWrite (m w : Nat) (v : Dword) (s : State) : Host.Outcome State Fault Refusal :=
  ok (s.regBus m (R.TW_W_BASE (w % 8)) 8 fun s => actWheelBase (w % 8) s v.toNat)

/-! ### Requests on a wheel (R49 to R51), shared by `WHEEL_CTRL` and `TW_Wn_CTRL` -/

/-- The next boundary of a wheel that lies at least `t`: the boundaries are found from the accumulator, `k` tried. -/
def boundaryFrom (origin sum period t : Nat) : Nat → Nat
  | 0 => origin + sum / 65536
  | k + 1 => if t ≤ origin + sum / 65536 then origin + sum / 65536 else boundaryFrom origin (sum + period) period t k

/-- An enable with a base (R49): the code that refuses it, and the base in force. -/
def State.wheelEnable (s : State) (w base : Nat) : State × Status × Nat :=
  if s.bit (R.TW_W_CTRL w) 0 then (s, ST.OK, s.regN (R.TW_W_BASE w))
  else if base < s.now + 10000 ∨ s.now + 2 ^ 31 ≤ base then (s, ST.TIME_RANGE, 0)
  else if s.bankPeriod w (s.activeBank w) = 0 then (s, ST.WHEEL_PERIOD, 0)
  else
    let s := ((s.setRegN (R.TW_W_BASE w) base).setBit (R.TW_W_CTRL w) 0 true).setRegN (R.TW_W_NEXT w) base
    let s := (s.setRegN (R.TW_W_PERIODS w) 0).modWheel w fun x =>
      { x with origin := base, sum := 0, start := base, inPeriod := false, taken := [] }
    (s.showAny, ST.OK, base)

/-- A disable (R51): at the wheel's next boundary; a disabled wheel or one whose disable is pending stays as it is. -/
def State.wheelDisable (s : State) (w : Nat) : State × Status × Nat :=
  if !(s.bit (R.TW_W_CTRL w) 0) then (s, ST.OK, s.now)
  else
    match (s.wheel w).disableAt with
    | some b => (s, ST.OK, b)
    | none =>
      let b := s.regN (R.TW_W_NEXT w)
      (s.modWheel w fun x => { x with disableAt := some b }, ST.OK, b)

/-- A swap request (R50): at once on a disabled wheel, else at the first boundary at least 10 µs on; when the wheel's disable
comes first, at that boundary (R51). -/
def State.wheelSwap (s : State) (w : Nat) : State × Status × Nat :=
  if (s.wheel w).swapAt.isSome then (s, ST.WHEEL_BANK_BUSY, 0)
  else if s.bankPeriod w (1 - s.activeBank w) = 0 then (s, ST.WHEEL_PERIOD, 0)
  else if !(s.bit (R.TW_W_CTRL w) 0) then (s.swapBank w, ST.OK, s.now)
  else
    let x := s.wheel w
    let b := boundaryFrom x.origin x.sum (s.bankPeriod w (s.activeBank w)) (s.now + 10000) 16
    let b := match x.disableAt with | some d => min d b | none => b
    ((s.setBit (R.TW_W_CTRL w) 1 true).modWheel w fun x => { x with swapAt := some b }, ST.OK, b)

/-- The behaviour of a write of `TW_Wn_CTRL` (R69, R49 to R51): `ENABLE` set or cleared is an enable at `TW_Wn_BASE` or a
disable, `SWAP_REQ` set is a swap request; the first that is refused gives the code. -/
def actWheelCtrl (w : Nat) (s : State) (v : Nat) : State × Option Status :=
  let (s1, c1, _) := if v % 2 = 1 then s.wheelEnable w (s.regN (R.TW_W_BASE w)) else s.wheelDisable w
  if c1 ≠ ST.OK then refuse s c1
  else if v / 2 % 2 = 1 ∧ !(s1.bit (R.TW_W_CTRL w) 1) then
    match s1.wheelSwap w with
    | (s2, c2, _) => if c2 ≠ ST.OK then (s1, some c2) else accept s2
  else accept s1

/-! ### Entries of the time unit -/

/-- WHEEL_NOP: a NOP entry takes effect and does nothing (R52). -/
def execWheelNop (w e edge : Nat) (s : State) : Host.Outcome State Fault Refusal :=
  ok (s.onEntry w e edge 0x00 launchOffset fun s _ => s)

/-- NOTIFY: the host interrupt line of `INDEX` is raised (R52). -/
def execNotify (w e edge : Nat) (s : State) : Host.Outcome State Fault Refusal :=
  ok (s.onEntry w e edge 0x0D launchOffset fun s d =>
    { s with hostIrq := s.hostIrq ||| (1#64 <<< (d.entry.index % 64)) })

/-- FREEZE: a freeze is requested at the entry's due time (R582). -/
def execFreeze (w e edge : Nat) (s : State) : Host.Outcome State Fault Refusal :=
  ok (s.onEntry w e edge 0x0C 0 fun s d => s.freezeReq 1 (some 1) d.due)

/-- What a DEADLINE entry does (R468, R471): it arms its stream, unless the stream is armed and its deadline has not passed. -/
def State.armDeadline (s : State) (d : Due) : State :=
  let st := d.entry.index % 256
  if s.bit (R.TW_OS_STATUS st) 0 ∧ d.due < s.regN (R.TW_OS_DEADLINE st) then
    s.postC ST.SAFE_DEADLINE_OVERLAP 0x02 st
  else (s.setRegN (R.TW_OS_DEADLINE st) (d.due + d.entry.arg)).setBit (R.TW_OS_STATUS st) 0 true

/-- DEADLINE: a DEADLINE entry falls due (R468). -/
def execDeadline (w e edge : Nat) (s : State) : Host.Outcome State Fault Refusal :=
  ok (s.onEntry w e edge 0x0B 0 fun s d => s.armDeadline d)

/-- The delay t_FS of a frame-sync edge: 7 to 9 ns (R70), which of them is free (log entry 4). -/
def fsyncDelay (n : Nat) : Nat := 7 + Config.freeNat n % 3

/-- One pulse on pin `f` (R383, R384): active until `till`, or until the later end when a pulse is still active, with a record. -/
def State.pulse (s : State) (f from_ till : Nat) : State :=
  if s.fld (R.CAM_FSYNC_CFG f) 0 2 ≠ 1 then s
  else
    match s.fsync.lookup f with
    | some e =>
      if from_ < e then ({ s with fsync := minsert s.fsync f (max e till) }).postC ST.CAM_FSYNC_OVERLAP 0x19 f
      else { s with fsync := minsert s.fsync f till }
    | none => { s with fsync := minsert s.fsync f till }

/-- What an FSYNC entry does (R383): a pulse of `ARG` ns on each named pin that is an output. -/
def State.fireFsync (s : State) (d : Due) : State :=
  let t := s.ageOf d.due + fsyncDelay s.fresh
  s.draw.2.each ((List.range 16).filter fun f => d.entry.index / 2 ^ f % 2 = 1) fun s f => s.pulse f t (t + d.entry.arg)

/-- FSYNC: an FSYNC entry falls due (R383). -/
def execFsync (w e edge : Nat) (s : State) : Host.Outcome State Fault Refusal :=
  ok (s.onEntry w e edge 0x05 0 fun s d => s.ifPowered 0x19 fun s => s.fireFsync d)

/-- FSYNC_PULSE_END: the pulse on pin `f` has lasted its width (R383). -/
def execFsyncPulseEnd (f : Nat) (s : State) : Host.Outcome State Fault Refusal :=
  match s.fsync.lookup f with
  | some e => if e ≤ s.age then ok { s with fsync := merase s.fsync f } else ok s
  | none => ok s

/-! ### HANDOFF (R56, R60 to R62, R66, R67, R571, R598, R620) -/

/-- The recorded outcome of a handoff in a replay (R598): the record of descriptor `i` and H among those loaded. -/
def State.replayHandoff (s : State) (i h : Nat) : Option RecItem :=
  if s.fld R.REPLAY_STATUS 0 2 = 2 then
    s.recorder.loaded.find? fun r => decide (r.typ = 7 ∧ leNat (r.data.take 2) = i ∧ leNat ((r.data.drop 2).take 8) = h)
  else none

/-- The bench slot for a recorded delivery against the recorded CRC-32C (R598): another value, or no slot with the recorded sequence
number, is a divergence. -/
def State.slotMatches (s : State) (i : Nat) (k : Option Nat) (r : RecItem) : State :=
  let want := leNat ((r.data.drop 15).take 4)
  match k with
  | none => s.diverge r.seq want 0 0
  | some k =>
    let ws := s.slotWords (slotAddr (s.ho i).desc k) ((s.ho i).desc.slotBytes / 64)
    let got := (crc32c (ws.flatMap fun v => leBytes v.data.toNat 64)).toNat
    if got = want then s else s.diverge r.seq want got 0

/-- A window opened for a recorded outcome (R598): a recorded delivery takes the recorded data, or the bench slot with the
recorded sequence number; a recorded stale handoff copies nothing. -/
def State.openRecorded (s : State) (i h : Nat) (r : RecItem) : State :=
  let seq := leNat ((r.data.drop 10).take 4)
  let flags := leNat ((r.data.drop 14).take 1)
  let data := r.data.drop 19
  if flags % 2 = 1 then s.openWindow i h none
  else
    let k := (List.range 3).find? fun k => decide (mget 0 (s.ho i).pubSeq k = seq)
    let s := if data.isEmpty then s.slotMatches i k r else s
    let s := s.openWindow i h k
    { s with windows := mmod {} s.windows i fun w =>
        { w with slot := some (k.getD 0), seq := seq, data := if data.isEmpty then none else some data } }

/-- A handoff whose consumer partition is running (R67): no window opens, it counts as stale and writes its record. -/
def State.destBusy (s : State) (i : Nat) : State := (s.bumpStale i).postC ST.HANDOFF_DEST_BUSY 0x02 i

/-- What a HANDOFF entry does at H with its margin. -/
def State.fireHandoff (s : State) (d : Due) : State :=
  let i := d.entry.index % 1024
  let desc := (s.ho i).desc
  if !(s.hoExists i) then s.targetGone d
  else if desc.dstKind = 0 then s
  else if desc.dstKind = 1 ∧ !(s.hoLists desc) then s.targetGone d
  else if s.windowOpen i then s.postC ST.HANDOFF_OVERLAP 0x02 i
  else if desc.dstKind = 1 ∧ (s.hoParts desc).any s.partBusy then s.destBusy i
  else
    match s.replayHandoff i d.due with
    | some r => s.openRecorded i d.due r
    | none => s.openWindow i d.due (s.freshPick i d.due d.entry.arg)

/-- HANDOFF: a HANDOFF entry falls due at H (R60). -/
def execHandoff (w e edge : Nat) (s : State) : Host.Outcome State Fault Refusal :=
  ok (s.onEntry w e edge 0x04 0 fun s d =>
    let desc := (s.ho (d.entry.index % 1024)).desc
    if s.hoExists (d.entry.index % 1024) ∧ desc.dstKind = 2 then s.ifPowered desc.dstUnit fun s => s.fireHandoff d
    else s.fireHandoff d)

end Sys2Proof.Machine
end

