-- ==== Sys2Proof/Machine/JobOps.lean ====
section
/-! DEFINITION. Job instances and the tiles under them: launch checks and prologue (R322, R105, R117, R82, R185), completion (R108, R186, R335), abort and the zeroing pass (R514, R118 to R120), retirements (R141 to R145), self-test chunks and golden slots as launches meet them (R476, R481 to R484). -/

namespace Sys2Proof.Machine

/-! ### Registers of tiles, descriptors and partitions -/

/-- `CDn_Tt_STATUS` of a logical tile. -/
def tStatus (t : Nat) : Nat := R.CD_T_STATUS (t / 512) (t % 512)
/-- `CDn_Tt_CYCLE`. -/
def tCycle (t : Nat) : Nat := R.CD_T_CYCLE (t / 512) (t % 512)
/-- `CDn_Tt_EXPEND`. -/
def tExpend (t : Nat) : Nat := R.CD_T_EXPEND (t / 512) (t % 512)
/-- `CDn_Tt_NUMFLAGS`. -/
def tNum (t : Nat) : Nat := R.CD_T_NUMFLAGS (t / 512) (t % 512)
/-- `CDn_Tt_CHKFLAGS`. -/
def tChk (t : Nat) : Nat := R.CD_T_CHKFLAGS (t / 512) (t % 512)
/-- `CDn_Tt_MEMCFG`. -/
def tMemcfg (t : Nat) : Nat := R.CD_T_MEMCFG (t / 512) (t % 512)
/-- `CDn_Tt_BEAT`. -/
def tBeat (t : Nat) : Nat := R.CD_T_BEAT (t / 512) (t % 512)
/-- `CDn_Tt_SCRUB`. -/
def tScrub (t : Nat) : Nat := R.CD_T_SCRUB (t / 512) (t % 512)
/-- The source unit ID of a tile's die (R109). -/
def dieUnit (t : Nat) : Nat := 0x10 + t / 512

/-- The Reed–Solomon strength t of a tile's channel (R150). -/
def State.rsOf (s : State) (t : Nat) : Nat := 4 * (s.fld (tMemcfg t) 0 2 + 1)
/-- The BCH strength of a tile's scratchpad (R150). -/
def State.bchOf (s : State) (t : Nat) : Nat := 1 + s.fld (tMemcfg t) 4 1

/-- `STATE` of a tile changed (R96). -/
def State.setTileState (s : State) (t k : Nat) : State := s.setFld (tStatus t) 0 3 k

/-- The logical tiles of a list of blocks. -/
def blocksTiles (l : List Nat) : List Nat := l.flatMap blockTiles
/-- The tiles of a descriptor's placement. -/
def State.jobTiles (s : State) (p j : Nat) : List Nat := blocksTiles (s.job p j).blocks

/-- `ACC_Pp_JOBj`. -/
def jobReg (p j : Nat) : Nat := R.ACC_P_JOB (64 * p + j)
/-- A descriptor's state: 0 free, 1 admitted, 2 running, 3 pre-empted. -/
def State.jobState (s : State) (p j : Nat) : Nat := s.fld (jobReg p j) 0 2
/-- A descriptor's slice. -/
def State.jobSlice (s : State) (p j : Nat) : Nat := s.fld (jobReg p j) 6 3
/-- A descriptor's client. -/
def State.jobClient (s : State) (p j : Nat) : Nat := s.fld (jobReg p j) 16 8
/-- A descriptor's instance number. -/
def State.jobInst (s : State) (p j : Nat) : Nat := s.fld (jobReg p j) 32 32
/-- The `OWNER` under which a descriptor's handles stand: its instance, or, before its first launch, a mark of its own that no
instance number equals. -/
def State.ownerTag (s : State) (p j : Nat) : Nat := if s.jobInst p j = 0 then 2 ^ 32 + 64 * p + j else s.jobInst p j
/-- A descriptor's state changed. -/
def State.setJobState (s : State) (p j k : Nat) : State := s.setFld (jobReg p j) 0 2 k

/-- A partition's state: 0 free, 1 creating, 2 ready, 3 destroying. -/
def State.partState (s : State) (p : Nat) : Nat := s.fld (R.ACC_P_STATUS p) 0 2
/-- A partition's generation (R317). -/
def State.partGen (s : State) (p : Nat) : Nat := s.fld (R.ACC_P_STATUS p) 2 4
/-- A partition's current slice. -/
def State.curSlice (s : State) (p : Nat) : Nat := s.fld (R.ACC_P_STATUS p) 6 3
/-- Whether a partition is shed (R339). -/
def State.isShed (s : State) (p : Nat) : Bool := s.bit (R.ACC_P_STATUS p) 12
/-- Whether a slice switch of a partition is in progress. -/
def State.inSwitch (s : State) (p : Nat) : Bool := s.bit (R.ACC_P_STATUS p) 11
/-- Whether a partition is held after its third reset (R520). -/
def State.isHeld (s : State) (p : Nat) : Bool := s.bit (R.ERR_P_RESETS p) 4
/-- The blocks of a partition. -/
def State.partBlocks (s : State) (p : Nat) : List Nat := (List.range 64).filter fun b => s.bit (R.ACC_P_BLOCKS p) b

/-- The entry of a slice in a partition's active bank: valid and colour (R326). -/
def State.sliceEntry (s : State) (p k : Nat) : Bool × Nat :=
  let q := s.part p
  (if s.bit (R.ACC_P_STATUS p) 9 then q.bankB else q.bankA).getD k (false, 0)
/-- The colour of a slice. -/
def State.colourOf (s : State) (p k : Nat) : Nat := (s.sliceEntry p k).2

/-- The next generation of a partition (R317). -/
def State.bumpGen (s : State) (p : Nat) : State :=
  (s.setFld (R.ACC_P_STATUS p) 2 4 (s.partGen p + 1)).modPart p fun q => { q with genDrop := false }

/-- A request or report with a stale generation is dropped (R522). -/
def State.genDropped (s : State) (p : Nat) : State :=
  let s := s.incReg R.ERR_GEN_DROP_CNT
  if (s.part p).genDrop then s
  else (s.modPart p fun q => { q with genDrop := true }).post ((mkRec ST.ERR_GEN_DROP 0x05 p).withPart s p)

/-- A client counter of R335: 48 bits, saturating. -/
def State.incClient (s : State) (a : Nat) : State := s.setRegN a (min (s.regN a + 1) (2 ^ 48 - 1))

/-- A record of a tile: its die as source, the tile, the instance and its partition. -/
def State.postTile (s : State) (c : Status) (t : Nat) (syn : Nat) : State :=
  match (s.tile t).job with
  | some (p, j) => s.post (({ mkRec c (dieUnit t) t with context := s.jobInst p j, syndrome := syn }).withPart s p)
  | none => s.post { mkRec c (dieUnit t) t with syndrome := syn }

/-! ### Scratchpad regions (R114 to R118) -/

/-- Whether word `w` of a scratchpad lies in a handle's region (R114). -/
def inRegion (h : Handle) (w : Nat) : Bool :=
  decide (h.base ≤ w) &&
    (if h.rows = 0 then decide (w - h.base ≤ h.cols)
     else decide ((w - h.base) / h.stride ≤ h.rows) && decide ((w - h.base) % h.stride ≤ h.cols))

/-- The words of a handle's region. -/
def regionOf (h : Handle) : List Nat :=
  (List.range (h.rows + 1)).flatMap fun r => (List.range (h.cols + 1)).map fun c => h.base + r * h.stride + c

/-- The handles of a tile that a job instance owns as slice-private or scratch (R114). -/
def ownHandles (x : Tile) (inst : Nat) : List Handle :=
  x.handles.filterMap fun y => if (y.2.cls = 2 ∨ y.2.cls = 3) ∧ y.2.owner = inst then some y.2 else none

/-- The defined bits of a region cleared (R117). -/
def undefine (x : Tile) (h : Handle) : Tile :=
  { x with undef := (regionOf h).foldl (fun m w => minsert m w true) x.undef }

/-- Every word of a tile's scratchpad that no resident region holds becomes a zero word (R119). -/
def State.zeroSpad (s : State) (t : Nat) : State :=
  let keep := fun w => (s.tile t).handles.any fun y => decide (y.2.cls = 1) && inRegion y.2 w
  let lo := spadAddr t 0
  let hi := lo + 0x100000
  let gone := fun a => decide (lo ≤ a) && decide (a < hi) && !(keep ((a - lo) / 64))
  { s with
    mem := s.mem.filter fun c => !(gone c.1)
    poison := s.poison.filter fun c => !(gone (64 * c.1)) }

/-- What the zeroing pass leaves of a tile (R119): the accumulator buffer, the instruction buffer, the loop table, the
address-generator contexts and the weight shadow are clear, and so are the tile's waits and transfers. -/
def clearTile (x : Tile) : Tile :=
  { x with
    acc := []
    ibuf := []
    loops := []
    ctxs := []
    shadow := {}
    undef := x.undef.filter fun w => x.handles.any fun y => decide (y.2.cls = 1) && inRegion y.2 w.1
    stack := []
    waiting := none
    events := (0, 0)
    recvs := []
    flits := []
    dmaR := []
    dmaW := []
    lineBuf := []
    banks := []
    ended := false
    hung := false }

/-! ### Retired pages (R141 to R145) -/

/-- A retirement entry in force (R141, R144): valid and not pending. -/
def retInForce (v : Nat) : Bool := decide (bitsOf v 63 1 = 1 ∧ bitsOf v 40 1 = 0)

/-- Whether a retirement in force of die `d`'s table (15 the host stack's) covers page `page` of tile or channel `t`: a page entry
or a bank entry. -/
def State.retired (s : State) (d t page : Nat) : Bool :=
  s.regs.any fun x =>
    let v := x.2.toNat
    (decide (R.CD_RETP d 0 ≤ x.1) && decide (x.1 < R.CD_RETP d 256) && retInForce v &&
      decide (bitsOf v 0 18 = page ∧ bitsOf v 18 11 = t)) ||
    (decide (R.CD_RETB d 0 ≤ x.1) && decide (x.1 < R.CD_RETB d 32) && retInForce v &&
      decide (bitsOf v 0 4 = page % 16 ∧ bitsOf v 4 2 = page / 16 % 4 ∧ bitsOf v 16 11 = t))

/-- A page retirement in force for a page of a tile. -/
def State.pageRetired (s : State) (t page : Nat) : Bool := s.retired (t / 512) t page

/-- A footprint's pages (R144): the image's DRAM footprint per tile as a range of byte offsets. -/
def inFootprint (i : Image) (page : Nat) : Bool := decide (i.footLo < page * 1024 + 1024 ∧ page * 1024 < i.footHi)

/-- Whether a page of a tile lies in the footprint of a running or pre-empted job (R144). -/
def State.pageInUse (s : State) (t page : Nat) : Bool :=
  s.parts.any fun x => x.2.jobs.any fun y =>
    decide (y.2.phase ≠ .idle) && y.2.blocks.contains (blockOf t) && inFootprint y.2.image page

/-- Whether a bank of a tile holds a page of the footprint of a running or pre-empted job. -/
def State.bankInUse (s : State) (t bank layer : Nat) : Bool :=
  (List.range 512).any fun row => s.pageInUse t (row * 64 + layer * 16 + bank)

/-- `RETIRED` of a die's CET entries brought up to date (R138), the entries of retired pages. -/
def State.markRetired (s : State) (d : Nat) : State :=
  s.each (List.range 64) fun s e =>
    let a := R.CD_CET d e
    if s.bit a 46 ∧ s.retired d (s.fld a 18 11) (s.fld a 0 18) then s.setBit a 45 true else s

/-- Retirements that waited for a job take effect when no running or pre-empted job holds their pages (R144). -/
def State.takeRetirements (s : State) : State :=
  s.each (List.range 4) fun s d =>
    let s := s.each (List.range 256) fun s i =>
      let v := s.regN (R.CD_RETP d i)
      if bitsOf v 63 1 = 1 ∧ bitsOf v 40 1 = 1 ∧ !(s.pageInUse (bitsOf v 18 11) (bitsOf v 0 18)) then
        s.setBit (R.CD_RETP d i) 40 false
      else s
    let s := s.each (List.range 32) fun s i =>
      let v := s.regN (R.CD_RETB d i)
      if bitsOf v 63 1 = 1 ∧ bitsOf v 40 1 = 1 ∧ !(s.bankInUse (bitsOf v 16 11) (bitsOf v 0 4) (bitsOf v 4 2)) then
        s.setBit (R.CD_RETB d i) 40 false
      else s
    s.markRetired d

/-! ### Semaphores and credits (R331, R332) -/

/-- The units and credits a job holds returned (R332): counts raised, credits freed. -/
def State.returnUnits (s : State) (p j : Nat) : State :=
  let x := s.job p j
  let s := s.modPart p fun q =>
    { q with
      sems := x.sems.foldl (fun m k => mmod {} m k fun (y : Semaphore) => { y with count := y.count + 1 }) q.sems
      credits := x.credits.foldl (fun m k => mmod {} m k fun (y : Credit) => { y with holder := none }) q.credits }
  s.modJob p j fun x => { x with sems := [], credits := [] }

/-! ### Shedding (R339) -/

/-- The partition is shed. -/
def State.shedNow (s : State) (p : Nat) : State :=
  let s := (s.modPart p fun q => { q with shedWait := false }).setBit (R.ACC_P_STATUS p) 12 true
  (s.post ((mkRec ST.PART_SHED 0x03 0).withPart s p)).setAmber 3 true

/-- Whether a wheel entry of an enabled wheel's active bank is a SLICE of a partition. -/
def State.hasSlice (s : State) (p : Nat) : Bool :=
  (List.range 8).any fun w =>
    s.bit (R.TW_W_CTRL w) 0 && (Wheel.bank (s.wheel w) (s.activeBank w)).any fun e => decide (e.action = 3 ∧ e.index % 32 = p)

/-- Whether a job of a partition is running. -/
def State.anyRunning (s : State) (p : Nat) : Bool :=
  (s.part p).jobs.any fun x => decide (x.2.phase ≠ .idle ∧ x.2.phase ≠ .preempted)

/-- A partition that waits to be shed and holds no SLICE entry is shed when its running jobs have completed (R339). -/
def State.shedCheck (s : State) (p : Nat) : State :=
  if (s.part p).shedWait ∧ !(s.hasSlice p) ∧ !(s.anyRunning p) then s.shedNow p else s

/-! ### Power (R337) -/

/-- The share of one block of a job: ceil(P_J / n_J) with P_J = E_c × 1.8 mW. -/
def powerShare (i : Image) : Nat := (i.energy * 18 + 10 * (i.width * i.height) - 1) / (10 * (i.width * i.height))

/-- The demand D of a set of (blocks, share) pairs over a partition's blocks. -/
def demandOf (jobs : List (List Nat × Nat)) : Nat :=
  ((List.range 64).map fun b => jobs.foldl (fun m x => if b ∈ x.1 then max m x.2 else m) 0).foldl (· + ·) 0

/-- The admitted jobs of a partition as (blocks, share). -/
def State.powerList (s : State) (p : Nat) : List (List Nat × Nat) :=
  (s.part p).jobs.map fun x => (x.2.blocks, powerShare x.2.image)

/-- `PMU_Pp_DEMAND` brought up to date. -/
def State.showDemand (s : State) (p : Nat) : State := s.setRegN (R.PMU_P_DEMAND p) (demandOf (s.powerList p))

/-! ### Self-test chunks (R476) -/

/-- A block's self-test changed. -/
def State.modTest (s : State) (b : Nat) (f : SelfTest → SelfTest) : State := { s with selfTests := mmod {} s.selfTests b f }
/-- A block's self-test. -/
def State.test (s : State) (b : Nat) : SelfTest := mget {} s.selfTests b

/-- The running chunk of a block is aborted (R476); one aborted by a launch or a slice writes a record. -/
def State.chunkAbort (s : State) (b : Nat) (byLaunch : Bool) : State :=
  if (s.test b).chunk then
    let s := s.modTest b fun x => { x with chunk := false }
    if byLaunch then s.postC ST.SAFE_TEST_PREEMPTED 0x06 b else s
  else s

/-! ### Suspects (R445 cause 2) -/

/-- Whether some copy or block is suspect. -/
def State.anySuspect (s : State) : Bool :=
  ((List.range 256).any fun i => s.bit (R.TW_OS_STATUS i) 1 || s.bit (R.TW_OS_STATUS i) 2) ||
    ((List.range 64).any fun b => s.bit (R.SNAP_ST_STATE b) 8)

/-- Amber cause 2 brought up to date. -/
def State.suspectCheck (s : State) : State := s.setAmber 2 s.anySuspect

/-- The copies of a partition are suspect no longer (R483): it was reset or destroyed. -/
def State.clearSuspects (s : State) (p : Nat) : State :=
  let s := s.each (List.range 256) fun s i =>
    let s := if s.bit (R.TW_OS_STATUS i) 1 ∧ s.osPart i false = p then s.setBit (R.TW_OS_STATUS i) 1 false else s
    if s.bit (R.TW_OS_STATUS i) 2 ∧ s.osPart i true = p then s.setBit (R.TW_OS_STATUS i) 2 false else s
  s.suspectCheck

/-! ### Launch (R322, R105, R117, R82, R185, R335) -/

/-- One coordinate of a placement (R99, R324). -/
def alignedAt (o e cut : Nat) : Bool :=
  if 0 < cut then decide (o + cut = 4) else decide (o % 4 % e = 0) && decide (o % 4 + e ≤ 4)

/-- The block column of a block. -/
def blockCol (b : Nat) : Nat := 4 * (b / 16 % 2) + b % 4
/-- The block row of a block. -/
def blockRow (b : Nat) : Nat := 4 * (b / 16 / 2) + b % 16 / 4
/-- The block at a block column and row. -/
def blockAt (x y : Nat) : Nat := 16 * (2 * (y / 4) + x / 4) + 4 * (y % 4) + x % 4

/-- The blocks of a rectangle, by rows. -/
def rectBlocks (bx by_ w h : Nat) : List Nat :=
  (List.range h).flatMap fun r => (List.range w).map fun c => blockAt (bx + c) (by_ + r)

/-- The place of a tile in its job's rectangle, by rows. -/
def relTile (origin width t : Nat) : Nat :=
  (meshRow t - 4 * blockRow origin) * (8 * width) + (meshCol t - 8 * blockCol origin)

/-- Whether a placement's die boundaries fall where the image records them (R99). -/
def placeOk (i : Image) (origin : Nat) : Bool :=
  alignedAt (blockCol origin) i.width i.xcut && alignedAt (blockRow origin) i.height i.ycut

/-- Whether a tile saves, restores or zeroes. -/
def State.tileBusy (s : State) (t : Nat) : Bool :=
  (s.tile t).busySave || (s.tile t).busyRest || decide (s.tileState t = 4) || decide (s.tileState t = 5)

/-- The status of a launch refused under R322; R99 guards the placement. -/
def State.launchCheck (s : State) (p j slice : Nat) : Option Status :=
  if slice ≠ s.jobSlice p j ∨ s.jobSlice p j ≠ s.curSlice p then some ST.JOB_SLICE
  else if s.jobState p j = 2 ∨ s.jobState p j = 3 then some ST.JOB_OVERRUN
  else if (s.jobTiles p j).any s.tileBusy then some ST.LAUNCH_IN_SWITCH
  else if !(placeOk (s.job p j).image ((s.job p j).blocks.headD 0)) then some ST.IMG_DIE_PATTERN
  else none

/-- A list as a table from 0 on. -/
def tableFrom {β : Type} [DecidableEq β] (d : β) (l : List β) : SMap β := (enumFrom 0 l).foldl (fun m x => mset d m x.1 x.2) []

/-- A tile at the launch of an instance (R105, R117): the handles of the previous instance belong to the new one, their defined
bits are clear, the tables of the image are in place and nothing is in flight. -/
def launchTile (x : Tile) (p j old inst : Nat) (i : Image) (rect : Nat × Nat × Nat × Nat) : Tile :=
  let hs := x.handles.map fun y =>
    if (y.2.cls = 2 ∨ y.2.cls = 3) ∧ y.2.owner = old ∧ y.2.partition = p then (y.1, { y.2 with owner := inst }) else y
  let x := { x with handles := hs }
  let x := (ownHandles x inst).foldl undefine x
  { x with
    loops := tableFrom {} i.loops
    qdescs := tableFrom 0#64 i.qdescs
    qrecips := []
    convs := tableFrom 0#256 i.convs
    atts := tableFrom 0#128 i.atts
    stack := []
    waiting := none
    events := (0, 0)
    recvs := []
    flits := []
    dmaR := []
    dmaW := []
    lineBuf := []
    banks := []
    job := some (p, j)
    rect := rect
    ended := false
    hung := false
    ifBusy := false
    lastCommit := 0 }

/-- The registers of a tile at the launch edge (R96, R82, R185, R453). -/
def State.launchRegs (s : State) (t p expend : Nat) : State :=
  let s := s.setRegN (tStatus t) (putBits (putBits 0 0 3 2) 24 5 p)
  (((s.setRegN (tCycle t) 0).setRegN (tExpend t) expend).setRegN (tNum t) 0).setRegN (tChk t) 0

/-- A job instance starts on its launch edge (R319, R105). -/
def State.startJob (s : State) (p j : Nat) (golden : Bool) : State :=
  let b := s.job p j
  let i := b.image
  let o := b.blocks.headD 0
  let old := s.ownerTag p j
  let inst := s.nextInst
  let rect := (4 * blockRow o, 8 * blockCol o, 4 * (blockRow o + i.height) - 1, 8 * (blockCol o + i.width) - 1)
  let s := { s with nextInst := if inst + 1 < 2 ^ 32 then inst + 1 else 1 }
  let s := s.each b.blocks fun s k => s.chunkAbort k (!golden)
  let s := s.each (blocksTiles b.blocks) fun s t =>
    (s.modTile t fun x => launchTile x p j old inst i rect).launchRegs t p (i.cycles.getD (relTile o i.width t) 0)
  let s := s.modJob p j fun x => { x with phase := .running, checked := false, launched := s.now, golden := golden, sems := [], credits := [] }
  let s := (s.setJobState p j 2).setFld (jobReg p j) 32 32 inst
  (s.incClient (R.ACC_C_SUBMIT (s.jobClient p j))).kvLaunch p j

/-! ### Ends of an instance -/

/-- The state of a tile that no instance occupies (R96): pre-empted, loaded or idle. -/
def State.restState (s : State) (t : Nat) : Nat :=
  let has := fun (f : Job → Bool) => s.parts.any fun x => x.2.jobs.any fun y => y.2.blocks.contains (blockOf t) && f y.2
  if has fun y => decide (y.phase = .preempted) then 3 else if has fun _ => true then 1 else 0

/-- A tile is released by its instance. -/
def State.freeTile (s : State) (t : Nat) : State :=
  let s := s.modTile t fun x => { x with job := none, busySave := false, busyRest := false }
  s.setTileState t (s.restState t)

/-- The OR of a register of a job's tiles. -/
def State.orTiles (s : State) (f : Nat → Nat) (l : List Nat) : Nat := l.foldl (fun n t => n ||| s.regN (f t)) 0

/-- A golden run is checked at its completion (R483): the CRC of the output region and the check flags. -/
def State.goldenCheck (s : State) (p chk : Nat) : State :=
  match s.goldens.lookup p with
  | none => s
  | some g =>
    let s := { s with goldens := minsert s.goldens p { g with ran := true } }
    let a := R.TW_OS_GOLD g.stream
    let s1 := s.setFld a (if g.isB then 12 else 8) 4 0
    let readable := (s.outRegion p (s.osList g.stream)).isSome
    if readable ∧ s.copyCrc g.stream g.isB = s.fld a 32 32 ∧ chk = 0 then s1
    else
      let s2 := s1.setBit (R.TW_OS_STATUS g.stream) (if g.isB then 2 else 1) true
      (s2.post ((mkRec ST.SAFE_GOLDEN_FAIL 0x02 g.stream).withPart s2 p)).suspectCheck

/-- The number-flag record of a completed job (R186). -/
def State.numReport (s : State) (p j num : Nat) : State :=
  let i := (s.job p j).image
  if num &&& i.reportMask.toNat = 0 then s
  else
    let t := (s.jobTiles p j).headD 0
    s.post (({ mkRec ST.NUM_EXCEPTION (dieUnit t) t with context := s.jobInst p j, syndrome := num }).withPart s p)

/-- A job instance completes: the last of its tiles has retired `END` (R108). -/
def State.jobDone (s : State) (p j : Nat) : State :=
  let ts := s.jobTiles p j
  let chk := s.orTiles tChk ts
  let num := s.orTiles tNum ts
  let cycles := ts.foldl (fun n t => max n (s.regN (tCycle t))) 0
  let golden := (s.job p j).golden
  let s := s.numReport p j num
  let s := s.incClient (R.ACC_C_DONE (s.jobClient p j))
  let s := (s.modJob p j fun x => { x with phase := .idle }).setJobState p j 1
  let s := s.each ts State.freeTile
  let s := if golden then s.goldenCheck p chk else s.reportJob p j (.done s.now chk cycles)
  ((s.kvJobEnds p j 1).takeRetirements).shedCheck p

/-- A descriptor is freed (R321): its slice-private and scratch handles leave the tiles, its blocks and power are released. -/
def State.freeJob (s : State) (p j : Nat) : State :=
  let inst := s.ownerTag p j
  let ts := s.jobTiles p j
  let s := s.each ts fun s t => s.modTile t fun x =>
    { x with handles := x.handles.filter fun y => !(decide (y.2.cls ≠ 1) && decide (y.2.owner = inst) && decide (y.2.partition = p)) }
  let s := (s.modPart p fun q => { q with jobs := merase q.jobs j }).setRegN (jobReg p j) 0
  let s := s.each ts fun s t => if (s.tile t).job.isNone ∧ s.tileState t ≤ 3 then s.setTileState t (s.restState t) else s
  s.showDemand p

/-- An abort completes with the end of the zeroing pass (R514): it is counted and reported, the descriptor is admitted again or
freed (R321). -/
def State.abortDone (s : State) (p j : Nat) : State :=
  let x := s.job p j
  let s := s.incClient (R.ACC_C_ABORT (s.jobClient p j))
  let s := (s.modJob p j fun y => { y with phase := .idle }).setJobState p j 1
  let s := if x.golden then s else s.reportJob p j (.missing s.now)
  let s := (s.kvJobEnds p j 2).takeRetirements
  let s := if x.retire then s.freeJob p j else s
  s.shedCheck p

/-- The tiles of an instance, or of a placement no other instance occupies, on which its zeroing pass runs. -/
def State.abortTiles (s : State) (p j : Nat) : List Nat :=
  (s.jobTiles p j).filter fun t => decide ((s.tile t).job = some (p, j) ∨ (s.tile t).job = none)

/-- A job instance is aborted (R514, R118): issue stops on every tile, its flits are discarded, its units and credits return, and
the zeroing pass runs; a hung tile may not stop, and shows state 4 until its pass ends. -/
def State.abortJob (s : State) (p j : Nat) : State :=
  let x := s.job p j
  if x.phase = .idle ∨ x.phase = .aborting then s
  else
    let ts := s.abortTiles p j
    let s := s.returnUnits p j
    let s := s.modJob p j fun y => { y with phase := .aborting }
    let s := s.each (s.jobTiles p j) fun s t => s.modTile t fun y => { y with save := merase y.save (64 * p + j) }
    let s := s.each ts fun s t =>
      (s.modTile t fun y => { y with job := some (p, j), flits := [], busySave := false, busyRest := false }).setTileState t
        (if (s.tile t).hung then 4 else 5)
    if ts.isEmpty then s.abortDone p j else s

/-- The context abort of the job of a tile, with the record of what raised it. -/
def State.tileAbort (s : State) (t : Nat) (c : Status) (syn : Nat) : State :=
  let s := s.postTile c t syn
  match (s.tile t).job with
  | some (p, j) => s.abortJob p j
  | none => s

end Sys2Proof.Machine
end

