-- ==== Sys2Proof/Machine/MemOps.lean ====
section
/-! DEFINITION. Compute and host DRAM as their channels serve them: decoding of code pages and the Correctable Error Table (R126 to R131, R138 to R140), retired pages (R143), refresh and scrub beats (R101, R124, R125). -/

namespace Sys2Proof.Machine

/-! ### The Correctable Error Table (R138 to R140); die 15 stands for the host stack's -/

/-- A CET entry as a 256-bit number. -/
def State.cet (s : State) (d e : Nat) : Nat :=
  let a := R.CD_CET d e
  s.regN a + s.regN (a + 8) * 2 ^ 64 + s.regN (a + 16) * 2 ^ 128 + s.regN (a + 24) * 2 ^ 192

/-- A CET entry written. -/
def State.setCet (s : State) (d e v : Nat) : State :=
  s.setPieces (R.CD_CET d e) [bitsOf v 0 64, bitsOf v 64 64, bitsOf v 128 64, bitsOf v 192 64]

/-- `VALID`. -/
def cetValid (v : Nat) : Bool := decide (bitsOf v 46 1 = 1)
/-- `UE`. -/
def cetUe (v : Nat) : Bool := decide (bitsOf v 43 1 = 1)
/-- `RETIRED`. -/
def cetRetired (v : Nat) : Bool := decide (bitsOf v 45 1 = 1)
/-- `COUNT`. -/
def cetCount (v : Nat) : Nat := bitsOf v 64 32

/-- A decode that corrects or fails: the table's die, page, tile or channel, physical column, symbols corrected, whether it
failed, and whether the scrubber found it. -/
structure MemEvent where
  die   : Nat := 0
  page  : Nat := 0
  tile  : Nat := 0
  pcol  : Nat := 0
  syms  : Nat := 0
  ue    : Bool := false
  scrub : Bool := false
deriving DecidableEq, Repr, Inhabited

/-- The entry that holds the event's page and tile. -/
def State.cetFind (s : State) (x : MemEvent) : Option Nat :=
  (List.range 64).find? fun e =>
    let v := s.cet x.die e
    cetValid v && decide (bitsOf v 0 18 = x.page ∧ bitsOf v 18 11 = x.tile)

/-- The entry with the smallest `COUNT` among those with `UE` and `RETIRED` 0, the lowest index winning a tie. -/
def State.cetVictim (s : State) (d : Nat) : Option Nat :=
  (List.range 64).foldl (fun m e =>
    let v := s.cet d e
    if cetUe v ∨ cetRetired v then m
    else match m with
      | none => some e
      | some k => if cetCount v < cetCount (s.cet d k) then some e else m) none

/-- The entry the event fills: the lowest-numbered invalid one, else the victim. -/
def State.cetPlace (s : State) (d : Nat) : Option Nat :=
  match (List.range 64).find? fun e => !(cetValid (s.cet d e)) with
  | some e => some e
  | none => s.cetVictim d

/-- A new entry for an event at time `t`. -/
def cetNew (x : MemEvent) (t : Nat) : Nat :=
  x.page + x.tile * 2 ^ 18 + x.pcol * 2 ^ 32 + (if x.ue then 0 else min x.syms 31) * 2 ^ 38 + b2n x.ue * 2 ^ 43 +
    b2n x.scrub * 2 ^ 44 + 2 ^ 46 + 2 ^ 64 + t * 2 ^ 96 + t * 2 ^ 160

/-- An existing entry updated by an event at time `t`. -/
def cetUpdate (v : Nat) (x : MemEvent) (t : Nat) : Nat :=
  let v := putBits v 64 32 (min (cetCount v + 1) (2 ^ 32 - 1))
  let v := putBits v 160 64 t
  if x.ue then putBits v 43 1 1 else putBits v 38 5 (max (bitsOf v 38 5) (min x.syms 31))

/-- The device address of a page. -/
def MemEvent.address (x : MemEvent) : Nat :=
  if x.die = 15 then hostBase + (x.page * 64 + x.tile) * 1024 else dramAddr x.tile (x.page * 1024)

/-- A record of R140. -/
def State.postMem (s : State) (c : Status) (x : MemEvent) : State :=
  s.post { mkRec c (if x.die = 15 then 0x1F else 0x10 + x.die) x.tile with address := x.address, syndrome := x.syms }

/-- The record for a filled entry or a first failure. -/
def MemEvent.code (x : MemEvent) : Status :=
  if x.ue then (if x.scrub then ST.MEM_UE_SCRUB else ST.MEM_UE) else ST.MEM_CORRECTED

/-- An entry whose `COUNT` reaches `CDn_CET_THRESH` writes one record (R140). -/
def State.cetRepeat (s : State) (x : MemEvent) (v : Nat) : State :=
  if cetCount v = s.regN (R.CD_CET_THRESH x.die) then s.postMem ST.MEM_CE_REPEAT x else s

/-- A decode of a page that has the entry `e` (R140). -/
def State.cetAgain (s : State) (x : MemEvent) (e : Nat) : State :=
  let v := s.cet x.die e
  let v' := cetUpdate v x s.now
  let s := s.setCet x.die e v'
  let s := if x.ue ∧ !(cetUe v) then s.postMem x.code x else s
  s.cetRepeat x v'

/-- A decode of a page that has no entry, with the entry it may take (R140). -/
def State.cetFirst (s : State) (x : MemEvent) (o : Option Nat) : State :=
  match o with
  | some e =>
    let v := cetNew x s.now
    ((s.setCet x.die e v).postMem x.code x).cetRepeat x v
  | none => s.incReg (R.CD_CET_LOST x.die)

/-- A decode that corrects or fails, with the entry found for its page. -/
def State.cetNote (s : State) (x : MemEvent) (o : Option Nat) : State :=
  match o with
  | some e => s.cetAgain x e
  | none => s.cetFirst x (s.cetPlace x.die)

/-- A decode that corrects or fails (R139, R140) and the die's counters. -/
def State.memEvent (s : State) (x : MemEvent) : State :=
  let s := s.incReg (if x.ue then R.CD_UE_CNT x.die else R.CD_CE_CNT x.die)
  s.cetNote x (s.cetFind x)

/-- The physical column that holds a logical tile (R91). -/
def State.physCol (s : State) (t : Nat) : Nat :=
  let c := t % 32
  if c < s.fld (R.CD_ROW_MAP (t / 512) (t / 32 % 16)) 40 6 then c else c + 1

/-- The decode of a tile's code page with `n` symbol errors (R129): up to t are corrected; more are uncorrectable, or, with a
probability below 2^−40, miscorrected, which is a free choice. -/
def State.decodePage (s : State) (t page n : Nat) (scrub : Bool) : Decoded × State :=
  let x : MemEvent := { die := t / 512, page := page, tile := t, pcol := s.physCol t, syms := n, scrub := scrub }
  if n = 0 then (.good, s)
  else if n ≤ s.rsOf t then (.good, s.memEvent x)
  else if Config.freeNat s.fresh % 2 ^ 40 = 0 then
    (.wrong, s.draw.2.memEvent { x with syms := 1 + Config.freeNat (s.fresh + 1) % s.rsOf t })
  else (.failed, s.draw.2.memEvent { x with ue := true })

/-! ### Retired pages (R143) -/

/-- An access to a retired page: the first after the retirement writes one record. -/
def State.touchRetired (s : State) (t page : Nat) : State :=
  let k := t * 32768 + page
  if mget false s.retiredHit k then s
  else
    ({ s with retiredHit := mset false s.retiredHit k true }).post
      { mkRec ST.MEM_RETIRED_ACCESS (dieUnit t) t with address := dramAddr t (page * 1024) }

/-- A 64-byte word of a tile's channel as a read delivers it (R135, R143): zero with poison from a retired page, a free word
with poison from an uncorrectable page, a free word from a miscorrected one. -/
def State.dramWord (s : State) (t off : Nat) (d : Decoded) : VReg × State :=
  if s.pageRetired t (off / 1024) then ({ data := 0#512, poison := true }, s.touchRetired t (off / 1024))
  else
    match d with
    | .good => (s.line (dramAddr t off), s)
    | .failed => ({ data := BitVec.ofNat 512 (Config.freeNat s.fresh), poison := true }, s.draw.2)
    | .wrong => ({ data := BitVec.ofNat 512 (Config.freeNat s.fresh) }, s.draw.2)

/-- A 64-byte word written to a tile's channel; one to a retired page is discarded (R143). -/
def State.dramPut (s : State) (t off : Nat) (v : VReg) : State :=
  if s.pageRetired t (off / 1024) then s.touchRetired t (off / 1024) else s.setLine (dramAddr t off) v

/-! ### Beats (R124, R125) -/

/-- `CDn_SCRUB_PASSES` counts a walk once every in-service channel of the die has completed it. -/
def State.countPass (s : State) (t : Nat) : State :=
  let d := t / 512
  let s := s.modTile t fun x => { x with scrubDone := true }
  let ts := ((List.range 512).map fun k => d * 512 + k).filter fun k => s.inService (blockOf k)
  if ts.all fun k => (s.tile k).scrubDone then
    (s.each ts fun s k => s.modTile k fun x => { x with scrubDone := false }).incReg (R.CD_SCRUB_PASSES d)
  else s

/-- The next page of a tile's scrub walk (R125): a retired page uses its beat, with no access; a decode that corrects leaves the
data it would deliver, an uncorrectable page is left unchanged. -/
def State.scrubPage (s : State) (t syms : Nat) : State :=
  if !(s.bit (R.CD_MEM_CTRL (t / 512)) 0) then s
  else
    let page := s.fld (tScrub t) 0 15
    let s := if s.pageRetired t page then s else (s.decodePage t page syms true).2
    let s := s.setFld (tScrub t) 0 15 (page + 1)
    if page = 32767 then s.countPass t else s

/-- One beat of a tile's channel (R124): a scrub beat when the count modulo 16 is 15, else a refresh of the next of 8,192
groups. -/
def State.beat (s : State) (t syms : Nat) : State :=
  let n := s.fld (tBeat t) 0 16
  let s := s.setFld (tBeat t) 0 16 (n + 1)
  if n % 16 = 15 then s.scrubPage t syms
  else s.setFld (tBeat t) 16 13 (s.fld (tBeat t) 16 13 + 1)

/-- REFRESH_BEAT: a beat of a tile's channel, with the symbol errors of the page a scrub beat reads (R124, R125). -/
def execRefreshBeat (t symErrs : Nat) (s : State) : Host.Outcome State Fault Refusal :=
  if s.inService (blockOf (t % 2048)) then ok (s.beat (t % 2048) symErrs) else ok s

end Sys2Proof.Machine
end

