-- ==== Sys2Proof/Machine/Operands.lean ====
section
/-! DEFINITION. What every tile instruction shares: when a word issues (R77 to R79, R105), handles and the regions they reach (R114, R116), address-generator walks (R76), banks (R111 to R113), scratchpad words with their defined bits, codes and poison (R117, R134, R135), vector registers and accumulator rows, elements packed in words (R156). -/

namespace Sys2Proof.Machine

/-! ### Issue -/

/-- Where the job instance of a tile stands. -/
def State.phaseAt (s : State) (t : Nat) : JobPhase :=
  match (s.tile t).job with
  | some (p, j) => (s.job p j).phase
  | none => .idle

/-- Whether the event a tile waits for has happened by a job cycle (R77, R78): the shadow is full, or the counted transfers or
flits have arrived; a semaphore or a credit is handed over by its `RELEASE`. -/
def waitOver (x : Tile) (cyc : Nat) : Bool :=
  match x.waiting with
  | none => true
  | some (.internal .weights _) => decide (x.shadow.ready ≤ cyc)
  | some (.internal .vector _) => true
  | some (.internal .dma n) => decide (n ≤ x.events.1)
  | some (.internal .flits n) => decide (n ≤ x.events.2)
  | some (.semaphore _) => false
  | some (.credit _) => false

/-- The counted events that a wait takes with it. -/
def takeEvents (x : Tile) : Tile :=
  match x.waiting with
  | some (.internal .dma n) => { x with waiting := none, events := (x.events.1 - n, x.events.2) }
  | some (.internal .flits n) => { x with waiting := none, events := (x.events.1, x.events.2 - n) }
  | _ => { x with waiting := none }

/-- Whether the tile issues an instruction on a job cycle: its instance runs, it has neither ended nor hung, the prologue is over,
the cycle is not behind its counter, its wait is over, and the device is not halted (R78, R105, R586). -/
def State.canIssue (s : State) (c : TCtl) : Bool :=
  let x := s.tile c.tile
  decide (s.phaseAt c.tile = .running) && decide (s.tileState c.tile = 2) && !x.ended && !x.hung &&
    decide (64 ≤ c.cyc) && decide (s.regN (tCycle c.tile) ≤ c.cyc) && waitOver x c.cyc && !(s.bit R.SNAP_FRZ_CTRL 3)

/-- Check flags raised on a tile (R453): sticky; the first of a job instance writes one record (R457). -/
def State.raiseChecks (s : State) (t : Nat) (f : BitVec 5) : State :=
  if f = 0#5 then s
  else
    let s := s.setRegN (tChk t) (s.regN (tChk t) ||| f.toNat)
    match (s.tile t).job with
    | some (p, j) =>
      if (s.job p j).checked then s
      else (s.modJob p j fun x => { x with checked := true }).postTile ST.SAFE_CHECK t (s.regN (tChk t))
    | none => s

/-- Number flags raised on a tile (R185): sticky. -/
def State.raiseNum (s : State) (t : Nat) (f : NumFlags) : State := s.setRegN (tNum t) (s.regN (tNum t) ||| f)

/-- The tile at the issue of a word (R96): its cycle counter and word index show it, a wait that is over is taken, and the check
flags of the instruction are raised. -/
def State.enter (s : State) (c : TCtl) : State :=
  let s := s.modTile c.tile takeEvents
  let s := (s.setRegN (tCycle c.tile) (c.cyc % 2 ^ 48)).setFld (tStatus c.tile) 4 12 c.word
  s.raiseChecks c.tile c.chk

/-- Whether the tile passes over a loop body of count 0 (R80). -/
def skipping (x : Tile) : Bool := x.stack.any fun f => f.skip

/-- Whether the instruction word itself, as `IFETCH` brought it, is poisoned (R135). -/
def State.fetchPoison (s : State) (c : TCtl) : Bool :=
  (mget {} (s.tile c.tile).ibuf (512 * s.fld (tStatus c.tile) 16 1 + c.word / 4 % 512) : VReg).poison

/-- The context abort of a tile's job for a control value that is poisoned (R136). -/
def State.bite (s : State) (t : Nat) : State := s.tileAbort t ST.MEM_POISON_CONSUMED 0

/-- The issue of a word whose check of poison comes first (R136). -/
def State.fetched (s : State) (c : TCtl) (f : State → State) : State :=
  if s.fetchPoison c then (s.enter c).bite c.tile else f (s.enter c)

/-- An instruction's effect where it issues; nothing where it does not, or where a loop of count 0 passes over it. -/
def State.issue (s : State) (c : TCtl) (f : State → State) : State :=
  if s.canIssue c ∧ !(skipping (s.tile c.tile)) then s.fetched c f else s

/-- A result, or the status code that aborts the job. -/
abbrev Try (α : Type) := Sum Status α

/-- Going on with a result, or the context abort of the tile's job. -/
def State.try' {α : Type} (s : State) (t : Nat) (r : Try α) (f : α → State) : State :=
  match r with
  | .inl c => s.tileAbort t c 0
  | .inr a => f a

/-- All results of a list, or its first code. -/
def allOk {α : Type} : List (Try α) → Try (List α)
  | [] => .inr []
  | .inl c :: _ => .inl c
  | .inr a :: r =>
    match allOk r with
    | .inl c => .inl c
    | .inr l => .inr (a :: l)

/-! ### Handles and walks -/

/-- A handle of a tile; one of class 0 reaches nothing (R114). -/
def Tile.handle (x : Tile) (h : Nat) : Handle := mget {} x.handles (h % 64)

/-- The word at a row and column of a handle's region (R116). -/
def Tile.cellAt (x : Tile) (h row col : Nat) : Try Nat :=
  let d := x.handle h
  if d.cls ≠ 0 ∧ row ≤ d.rows ∧ col ≤ d.cols then .inr (d.base + row * d.stride + col) else .inl ST.SPAD_HANDLE_BOUNDS

/-- The word at an offset of a handle's region, counted row by row (R116). -/
def Tile.wordAt (x : Tile) (h off : Nat) : Try Nat :=
  let d := x.handle h
  x.cellAt h (off / (d.cols + 1)) (off % (d.cols + 1))

/-- `n` words from an offset of a handle's region. -/
def Tile.wordsAt (x : Tile) (h off n : Nat) : Try (List Nat) := allOk ((List.range n).map fun i => x.wordAt h (off + i))

/-- The displacement of address number `k` of a walk, innermost dimension first (R76). -/
def walkOffset : List AgDim → Nat → Int
  | [], _ => 0
  | d :: r, k => (k % d.count : Nat) * d.stride + walkOffset r (k / d.count)

/-- Address number `k` of a context (R76, R116). -/
def Tile.walkAt (x : Tile) (a : AgCtx) (k : Nat) : Try Nat :=
  let d := x.handle a.handle
  let w : Int := (d.base + a.start : Nat) + walkOffset (a.dims.take 4) k
  if d.cls ≠ 0 ∧ 0 ≤ w ∧ inRegion d w.toNat then .inr w.toNat else .inl ST.SPAD_HANDLE_BOUNDS

/-- A tile's address-generator context. -/
def Tile.ctx (x : Tile) (k : Nat) : AgCtx := mget {} x.ctxs (k % 8)

/-- A context after `n` more addresses. -/
def State.walkOn (s : State) (t k n : Nat) : State :=
  s.modTile t fun x => { x with ctxs := mmod {} x.ctxs (k % 8) fun a => { a with step := a.step + n } }

/-! ### Banks (R111 to R113) -/

/-- The bank of a word: (i + j) mod 32. -/
def bankOf (w : Nat) : Nat := (w / 32 % 32 + w % 32) % 32

/-- Accesses as (cycle, word), taken one after another: none of them may meet the bank of another in one cycle. -/
def claimBanks : List (Nat × Nat) → List (Nat × Nat) → Option (List (Nat × Nat))
  | held, [] => some held
  | held, (cyc, w) :: r => if (cyc, bankOf w) ∈ held then none else claimBanks ((cyc, bankOf w) :: held) r

/-- The accesses of an operation claimed on a tile's banks; those of past cycles are forgotten. -/
def State.claim (s : State) (t : Nat) (l : List (Nat × Nat)) (f : State → State) : State :=
  let now := s.regN (tCycle t)
  match claimBanks ((s.tile t).banks.filter fun y => decide (now ≤ y.1)) l with
  | none => s.tileAbort t ST.SPAD_BANK_CONFLICT 0
  | some held => f (s.modTile t fun x => { x with banks := held })

/-! ### Scratchpad words -/

/-- A corrected scratchpad error (R134): counted, and recorded at the tile's first and at every 256th after it. -/
def State.spadCorrected (s : State) (t : Nat) : State :=
  let n := (s.tile t).corrected
  let s := (s.modTile t fun x => { x with corrected := n + 1 }).incReg (R.CD_SPAD_CE_CNT (t / 512))
  if n % 256 = 0 then s.postTile ST.SPAD_CORRECTED t 0 else s

/-- A scratchpad word as a read delivers it (R117, R134, R135): zero where it is undefined; with `errs` bit errors it is
corrected, or delivered with poison; more errors than the code detects leave word and poison free. -/
def State.padRead (s : State) (t w errs : Nat) : VReg × State :=
  let v : VReg := if mget false (s.tile t).undef w then {} else s.line (spadAddr t (64 * w))
  if errs = 0 then (v, s)
  else if errs ≤ s.bchOf t then (v, s.spadCorrected t)
  else
    let bad : VReg := { data := BitVec.ofNat 512 (Config.freeNat s.fresh),
                        poison := decide (errs = s.bchOf t + 1) || decide (Config.freeNat (s.fresh + 1) % 2 = 0) }
    (bad, if bad.poison then s.draw.2.draw.2.postTile ST.SPAD_UE t 0 else s.draw.2.draw.2)

/-- A scratchpad word written with its poison; the write defines it (R117). -/
def State.padWrite (s : State) (t w : Nat) (v : VReg) : State :=
  (s.setLine (spadAddr t (64 * w)) v).modTile t fun x => { x with undef := merase x.undef w }

/-- Scratchpad words read in order; the bit errors meet the first. -/
def State.padReads (s : State) (t : Nat) : List Nat → Nat → List VReg × State
  | [], _ => ([], s)
  | w :: r, errs =>
    let (v, s) := s.padRead t w errs
    let (l, s) := State.padReads s t r 0
    (v :: l, s)

/-- Scratchpad words written in order. -/
def State.padWrites (s : State) (t : Nat) : List (Nat × VReg) → State
  | [] => s
  | (w, v) :: r => (s.padWrite t w v).padWrites t r

/-! ### Registers and accumulator rows -/

/-- A vector register. -/
def Tile.vreg (x : Tile) (k : Nat) : VReg := mget {} x.vregs (k % 16)
/-- A vector register written. -/
def State.setVreg (s : State) (t k : Nat) (v : VReg) : State :=
  s.modTile t fun x => { x with vregs := mset {} x.vregs (k % 16) v }
/-- An accumulator row. -/
def Tile.accRow (x : Tile) (k : Nat) : VReg := mget {} x.acc (k % 1024)
/-- An accumulator row written: its poison stays until `ACLR` (R135). -/
def State.setAcc (s : State) (t k : Nat) (v : VReg) : State :=
  s.modTile t fun x => { x with acc := mset {} x.acc (k % 1024) { v with poison := v.poison || (x.accRow k).poison } }

/-- The words of a place as (scratchpad word or accumulator row). -/
def Tile.placeWords (x : Tile) (a : Place) (n : Nat) : Try (List (Sum Nat Nat)) :=
  match a with
  | .pad h off =>
    match x.wordsAt h off n with
    | .inl c => .inl c
    | .inr l => .inr (l.map .inl)
  | .acc row => .inr ((List.range n).map fun i => .inr ((row + i) % 1024))

/-- The scratchpad accesses of a list of places, one a cycle from a cycle on. -/
def padCycles : Nat → List (Sum Nat Nat) → List (Nat × Nat)
  | _, [] => []
  | c, .inl w :: r => (c, w) :: padCycles (c + 1) r
  | c, .inr _ :: r => padCycles (c + 1) r

/-- Words read from their places in order; the bit errors meet the first. -/
def State.placeReads (s : State) (t : Nat) : List (Sum Nat Nat) → Nat → List VReg × State
  | [], _ => ([], s)
  | .inl w :: r, errs =>
    let (v, s) := s.padRead t w errs
    let (l, s) := State.placeReads s t r 0
    (v :: l, s)
  | .inr k :: r, errs =>
    let (l, s) := State.placeReads s t r errs
    ((s.tile t).accRow k :: l, s)

/-- A word written to its place. -/
def State.placeWrite (s : State) (t : Nat) (a : Sum Nat Nat) (v : VReg) : State :=
  match a with
  | .inl w => s.padWrite t w v
  | .inr k => s.setAcc t k v

/-! ### Elements (R156) -/

/-- The bit string of consecutive words, the first lowest. -/
def joinWords (l : List VReg) : Nat := packBits 512 (l.map fun v => v.data.toNat)

/-- Whether a word of a list is poisoned. -/
def anyPois (l : List VReg) : Bool := l.any fun v => v.poison

/-- The words that hold elements `e` to `e + n - 1` of width `w` in a row, as word columns. -/
def spanWords (w e n : Nat) : List Nat := if n = 0 then [] else (List.range ((w * (e + n) + 511) / 512 - w * e / 512)).map fun i => w * e / 512 + i

/-- Elements `e` to `e + n - 1` of width `w` of a handle's row with their poison (R156, R189). -/
def State.getSpan (s : State) (t h row w e n : Nat) : Try (List Nat × Bool) :=
  match allOk ((spanWords w e n).map fun k => (s.tile t).cellAt h row k) with
  | .inl c => .inl c
  | .inr ws =>
    let l := ws.map fun k => (s.padRead t k 0).1
    let v := joinWords l
    let o := w * e % 512
    .inr ((List.range n).map fun i => bitsOf v (o + w * i) w, anyPois l)

/-- Elements written over a handle's row from element `e` on; each word they meet takes their poison, or, where they cover it in
part, also keeps its own (R609). -/
def State.putSpan (s : State) (t h row w e : Nat) (v : List Nat) (p : Bool) (k : State → State) : State :=
  s.try' t (allOk ((spanWords w e v.length).map fun k => (s.tile t).cellAt h row k)) fun ws =>
    let old := ws.map fun k => (s.padRead t k 0).1
    let o := w * e % 512
    let new := putBits (joinWords old) o (w * v.length) (packBits w v)
    let whole := fun i => decide (o ≤ 512 * i ∧ 512 * i + 512 ≤ o + w * v.length)
    let out := (enumFrom 0 (ws.zip old)).map fun y =>
      (y.2.1, ({ data := BitVec.ofNat 512 (bitsOf new (512 * y.1) 512), poison := p || (y.2.2.poison && !(whole y.1)) } : VReg))
    k (s.padWrites t out)

end Sys2Proof.Machine
end

