-- ==== Sys2Proof/Machine/Flags.lean ====
section
/-! DEFINITION. The flags a tile's operations set: number flags from operands and results (R159, R161, R185), and the comparison of the array's checksum cell (R453, R454). -/

namespace Sys2Proof.Machine

/-- `NUMFLAGS` bits by name (R185). -/
def NF.ovfSat : NumFlags := 1
/-- A conversion produced infinity or NaN. -/
def NF.ovfSpecial : NumFlags := 2
/-- A NaN was consumed. -/
def NF.nanIn : NumFlags := 4
/-- Arithmetic produced a NaN from non-NaN operands. -/
def NF.nanGen : NumFlags := 8
/-- Arithmetic produced an infinity from finite operands. -/
def NF.infGen : NumFlags := 16
/-- A NaN became zero. -/
def NF.nanDrop : NumFlags := 32
/-- A scale was derived from an infinite statistic. -/
def NF.statNonfinite : NumFlags := 64

/-- `CHKFLAGS` bits by number (R453): `ABFT_INT`. -/
def CF.abftInt : BitVec 5 := 1#5
/-- `ABFT_FP`. -/
def CF.abftFp : BitVec 5 := 2#5

/-- The OR of flags. -/
def orFlags (l : List NumFlags) : NumFlags := l.foldl (· ||| ·) 0

/-- The flags of an FP32 operation over lanes: operand patterns and result of each lane. -/
def laneFlags (l : List (List Nat × Nat)) : NumFlags := orFlags (l.map fun y => arithFlags (y.1.map f32) y.2)

/-- Whether the floating-point checksum comparison fires (R454): |S − C| > 2^−19 × M, or exactly one of S and C is not finite. -/
def abftFires (s c m : Nat) : Bool :=
  let x := f32 s
  let y := f32 c
  if isFin x && isFin y then
    fpLt (fpMul (f32 m) (.fin false 1 (-19))) (fpAbs (fpAdd x (fpNeg y)))
  else (isFin x || isFin y)

end Sys2Proof.Machine
end

