-- ==== Sys2Proof/Machine/Window.lean ====
section
/-! DEFINITION. Windows of a convolution or pooling: the descriptor of R196, output size (R197, R198), the window walk (R190, R191), grouped, transposed and space-to-depth views (R207, R210, R211), pad values and scales (R194, R204). -/

namespace Sys2Proof.Machine

/-! ### The descriptor's fields (R196) -/

/-- A convolution descriptor. -/
abbrev Conv := BitVec 256

/-- A field of a descriptor. -/
def Conv.f (d : Conv) (lo w : Nat) : Nat := bitsOf d.toNat lo w
/-- `IN_H`. -/
def Conv.inH (d : Conv) : Nat := Conv.f d 0 16
/-- `IN_W`. -/
def Conv.inW (d : Conv) : Nat := Conv.f d 16 16
/-- `C_IN`. -/
def Conv.cIn (d : Conv) : Nat := Conv.f d 32 16
/-- `C_OUT`. -/
def Conv.cOut (d : Conv) : Nat := Conv.f d 48 16
/-- Kernel height. -/
def Conv.kh (d : Conv) : Nat := Conv.f d 64 4 + 1
/-- Kernel width. -/
def Conv.kw (d : Conv) : Nat := Conv.f d 68 4 + 1
/-- Vertical stride, or insertion factor. -/
def Conv.sh (d : Conv) : Nat := Conv.f d 72 4 + 1
/-- Horizontal stride, or insertion factor. -/
def Conv.sw (d : Conv) : Nat := Conv.f d 76 4 + 1
/-- Vertical dilation. -/
def Conv.dh (d : Conv) : Nat := Conv.f d 80 4 + 1
/-- Horizontal dilation. -/
def Conv.dw (d : Conv) : Nat := Conv.f d 84 4 + 1
/-- `PAD_T`. -/
def Conv.padT (d : Conv) : Nat := Conv.f d 88 4
/-- `PAD_B`. -/
def Conv.padB (d : Conv) : Nat := Conv.f d 92 4
/-- `PAD_L`. -/
def Conv.padL (d : Conv) : Nat := Conv.f d 96 4
/-- `PAD_R`. -/
def Conv.padR (d : Conv) : Nat := Conv.f d 100 4
/-- `PAD_MODE`. -/
def Conv.padMode (d : Conv) : Nat := Conv.f d 104 2
/-- `OP`. -/
def Conv.op (d : Conv) : Nat := Conv.f d 106 2
/-- `AVG_DIV`. -/
def Conv.avgDiv (d : Conv) : Nat := Conv.f d 108 1
/-- `BIAS_EN`. -/
def Conv.biasEn (d : Conv) : Nat := Conv.f d 109 1
/-- The space-to-depth code. -/
def Conv.s2d (d : Conv) : Nat := Conv.f d 110 2
/-- The space-to-depth factor; 1 for none. -/
def Conv.factor (d : Conv) : Nat := 2 ^ Conv.s2d d
/-- `GROUPS`. -/
def Conv.groups (d : Conv) : Nat := Conv.f d 112 16
/-- `IN_FMT`. -/
def Conv.inFmt (d : Conv) : Nat := Conv.f d 128 4
/-- `W_FMT`. -/
def Conv.wFmt (d : Conv) : Nat := Conv.f d 132 4
/-- `IN_HDL`. -/
def Conv.inHdl (d : Conv) : Nat := Conv.f d 136 6
/-- `W_HDL`. -/
def Conv.wHdl (d : Conv) : Nat := Conv.f d 142 6
/-- `B_HDL`. -/
def Conv.bHdl (d : Conv) : Nat := Conv.f d 148 6
/-- `PV_HDL`. -/
def Conv.pvHdl (d : Conv) : Nat := Conv.f d 154 6
/-- `OUT_HDL`. -/
def Conv.outHdl (d : Conv) : Nat := Conv.f d 160 6

/-! ### Sizes -/

/-- One output dimension (R198), floor toward minus infinity. -/
def outDim (i before after dil k stride : Nat) : Int := ((i + before + after : Nat) - (dil * (k - 1) : Nat) - 1 : Int) / (stride : Int) + 1

/-- The view's height (R197, R210): source rows over the factor, or the height with inserted rows. -/
def Conv.viewH (d : Conv) : Nat :=
  if Conv.op d = 1 then (Conv.inH d - 1) * Conv.sh d + 1 else Conv.inH d / Conv.factor d
/-- The view's width. -/
def Conv.viewW (d : Conv) : Nat :=
  if Conv.op d = 1 then (Conv.inW d - 1) * Conv.sw d + 1 else Conv.inW d / Conv.factor d
/-- The vertical step of output positions. -/
def Conv.stepY (d : Conv) : Nat := if Conv.op d = 1 then 1 else Conv.sh d
/-- The horizontal step of output positions. -/
def Conv.stepX (d : Conv) : Nat := if Conv.op d = 1 then 1 else Conv.sw d
/-- OUT_H. -/
def Conv.outH (d : Conv) : Int := outDim (Conv.viewH d) (Conv.padT d) (Conv.padB d) (Conv.dh d) (Conv.kh d) (Conv.stepY d)
/-- OUT_W. -/
def Conv.outW (d : Conv) : Int := outDim (Conv.viewW d) (Conv.padL d) (Conv.padR d) (Conv.dw d) (Conv.kw d) (Conv.stepX d)
/-- Channels of one group as the array sees them: Cg, or C_IN × f² under a view (R191, R211). -/
def Conv.cg (d : Conv) : Nat := if Conv.s2d d = 0 then Conv.cIn d / Conv.groups d else Conv.cIn d * Conv.factor d ^ 2

/-! ### The walk -/

/-- One coordinate of a window element: the input position, or none for a pad or inserted position (R190, R210). -/
def coordAt (o step pad k dil ext insert : Nat) : Option Nat :=
  let y : Int := (o * step + k * dil : Nat) - (pad : Int)
  if 0 ≤ y ∧ y < (ext : Int) ∧ y.toNat % insert = 0 then some (y.toNat / insert) else none

/-- The input position of window element (ky, kx) of output position number `p` (R190). -/
def Conv.sourceOf (d : Conv) (p ky kx : Nat) : Option (Nat × Nat) :=
  let ow := (Conv.outW d).toNat
  let ins := fun k => if Conv.op d = 1 then k else 1
  match coordAt (p / ow) (Conv.stepY d) (Conv.padT d) ky (Conv.dh d) (Conv.viewH d) (ins (Conv.sh d)),
        coordAt (p % ow) (Conv.stepX d) (Conv.padL d) kx (Conv.dw d) (Conv.viewW d) (ins (Conv.sw d)) with
  | some y, some x => some (y, x)
  | _, _ => none

/-- The handle row and element of view element (y, x, c) (R189, R211). -/
def Conv.cell (d : Conv) (y x c : Nat) : Nat × Nat :=
  if Conv.s2d d = 0 then (y * Conv.inW d + x, c)
  else
    let f := Conv.factor d
    let dy := c / Conv.cIn d / f
    let dx := c / Conv.cIn d % f
    (f * y + dy, (f * x + dx) * Conv.cIn d + c % Conv.cIn d)

/-- The source channel of view channel `c`, of group `g` (R207). -/
def Conv.channel (d : Conv) (g c : Nat) : Nat := if Conv.s2d d = 0 then g * Conv.cg d + c else c % Conv.cIn d

/-- Elements of one handle row. -/
def Conv.rowElems (d : Conv) : Nat := if Conv.s2d d = 0 then Conv.cIn d else Conv.inW d * Conv.cIn d

/-- One element of an activation row: its handle row and element, or the pad value of a channel. -/
inductive Source where
  | cell (row e : Nat)
  | pad (ch : Nat)
deriving DecidableEq, Repr, Inhabited

/-- Element `e` of the K elements of an output position in a group (R191). -/
def Conv.elementAt (d : Conv) (p g e : Nat) : Source :=
  let cg := Conv.cg d
  let c := e % cg
  match Conv.sourceOf d p (e / cg / Conv.kw d) (e / cg % Conv.kw d) with
  | some (y, x) =>
    let q := if Conv.s2d d = 0 then Conv.cell d y x (g * cg + c) else Conv.cell d y x c
    .cell q.1 q.2
  | none => .pad (Conv.channel d g c)

/-- The activation row of weight block `j` at an output position: `w` elements (R191, R192). -/
def Conv.rowAt (d : Conv) (p g j w : Nat) : List Source := (List.range w).map fun i => Conv.elementAt d p g (w * j + i)

/-- The cycles an activation row occupies the array beyond the format's (R212). -/
def Conv.rowCycles (d : Conv) (w : Nat) : Nat :=
  if Conv.s2d d = 0 then 1 else max 1 (w / (Conv.factor d * Conv.cIn d))

/-! ### Values -/

/-- The code of a channel's pad value with the poison of its word (R190, R204). -/
def State.padValue (s : State) (t : Nat) (d : Conv) (ch : Nat) : Try (Nat × Bool) :=
  if Conv.padMode d = 1 then
    match s.getSpan t (Conv.pvHdl d) 0 (widthOf (Conv.inFmt d)) ch 1 with
    | .inl c => .inl c
    | .inr (l, p) => .inr (l.headD 0, p)
  else .inr (0, false)

/-- The code and poison of one element of a window. -/
def State.sourceValue (s : State) (t : Nat) (d : Conv) : Source → Try (Nat × Bool)
  | .pad ch => s.padValue t d ch
  | .cell row e =>
    match s.getSpan t (Conv.inHdl d) row (widthOf (Conv.inFmt d)) e 1 with
    | .inl c => .inl c
    | .inr (l, p) => .inr (l.headD 0, p)

/-- The scratchpad words an activation row touches, each once, as (handle row, word of the row). -/
def sourceCells (w : Nat) (l : List Source) : List (Nat × Nat) :=
  l.foldl (fun m x =>
    match x with
    | .cell row e => (spanWords w e 1).foldl (fun m k => if (row, k) ∈ m then m else m ++ [(row, k)]) m
    | .pad _ => m) []

/-- An E8M0 scale byte, by its number in a scale handle (R157). -/
def State.scaleByte (s : State) (t h b : Nat) : Try (Nat × Bool) :=
  match (s.tile t).wordAt h (b / 64) with
  | .inl c => .inl c
  | .inr w =>
    let v := (s.padRead t w 0).1
    .inr (bitsOf v.data.toNat (8 * (b % 64)) 8, v.poison)

end Sys2Proof.Machine
end

