-- ==== Sys2Proof/Machine/Spad.lean ====
section
/-! DEFINITION. The memory slot (R76, R77, R112, R116, R117, R134): `AGSET`, `SLD`, `SST`. -/

namespace Sys2Proof.Machine

/-- `AGSET`: a context is programmed and its walk begins (R76). -/
def execAgset (c : TCtl) (ctx : Nat) (v : AgCtx) (s : State) : Host.Outcome State Fault Refusal :=
  ok (s.issue c fun s =>
    s.modTile c.tile fun x => { x with ctxs := mset {} x.ctxs (ctx % 8) { v with step := 0 } })

/-- The 32 words of a row of a panel (R111, R112). -/
def panelRow (p i : Nat) : List Nat := (List.range 32).map fun j => 1024 * (p % 16) + 32 * (i % 32) + j
/-- The 32 words of a column of a panel. -/
def panelColumn (p j : Nat) : List Nat := (List.range 32).map fun i => 1024 * (p % 16) + 32 * i + j % 32

/-- The words of a line access, all in the handle's region (R116). -/
def Tile.lineWords (x : Tile) (ctx : Nat) (l : List Nat) : Try (List Nat) :=
  let d := x.handle (x.ctx ctx).handle
  if d.cls ≠ 0 ∧ l.all (inRegion d) then .inr l else .inl ST.SPAD_HANDLE_BOUNDS

/-- The words of a window a vector walk takes in turn: for each output position its elements in ky, kx order, each of them whole
words (R190, R205, R206, R209). Answers the element's place, or none for a pad position, and the word of it. -/
def Conv.wordAt (d : Conv) (k : Nat) : Option (Nat × Nat) × Nat :=
  let words := (widthOf (Conv.inFmt d) * Conv.cIn d + 511) / 512
  let e := k / words
  let kk := Conv.kh d * Conv.kw d
  (Conv.sourceOf d (e / kk) (e % kk / Conv.kw d) (e % Conv.kw d), k % words)

/-- The word the address generator supplies at a pad position: its channels' pad values (R190). -/
def State.padWord (s : State) (t : Nat) (d : Conv) (k : Nat) : Try VReg :=
  if Conv.padMode d = 1 then
    match (s.tile t).cellAt (Conv.pvHdl d) 0 k with
    | .inl c => .inl c
    | .inr w => .inr (s.padRead t w 0).1
  else .inr {}

/-- One word loaded under a context that names a convolution descriptor. -/
def State.loadWindow (s : State) (c : TCtl) (ctx vreg : Nat) (d : Conv) : State :=
  let t := c.tile
  let a := (s.tile t).ctx ctx
  let (src, k) := Conv.wordAt d (a.extra.position + a.step)
  let s := s.walkOn t ctx 1
  match src with
  | none => s.try' t (s.padWord t d k) fun v => s.setVreg t vreg v
  | some (y, x) =>
    s.try' t ((s.tile t).cellAt (Conv.inHdl d) (y * Conv.inW d + x) k) fun w =>
      s.claim t [(c.cyc, w)] fun s =>
        let (v, s) := s.padRead t w c.errs
        s.setVreg t vreg v

/-- A line read into the tile's line buffer (R112). -/
def State.loadLine (s : State) (c : TCtl) (ctx : Nat) (l : List Nat) : State :=
  s.try' c.tile ((s.tile c.tile).lineWords ctx l) fun ws =>
    s.claim c.tile (ws.map fun w => (c.cyc, w)) fun s =>
      let (vs, s) := s.padReads c.tile ws c.errs
      s.modTile c.tile fun x => { x with lineBuf := vs }

/-- A line written from the tile's line buffer (R112). -/
def State.storeLine (s : State) (c : TCtl) (ctx : Nat) (l : List Nat) : State :=
  s.try' c.tile ((s.tile c.tile).lineWords ctx l) fun ws =>
    s.claim c.tile (ws.map fun w => (c.cyc, w)) fun s =>
      s.padWrites c.tile ((enumFrom 0 ws).map fun y => (y.2, (s.tile c.tile).lineBuf.getD y.1 {}))

/-- One word loaded at the next address of a context (R76). -/
def State.loadWord (s : State) (c : TCtl) (ctx vreg : Nat) : State :=
  let t := c.tile
  let a := (s.tile t).ctx ctx
  match a.extra.conv with
  | some k => s.loadWindow c ctx vreg (mget 0#256 (s.tile t).convs (k % 16))
  | none =>
    s.try' t ((s.tile t).walkAt a a.step) fun w =>
      s.claim t [(c.cyc, w)] fun s =>
        let (v, s) := s.padRead t w c.errs
        (s.walkOn t ctx 1).setVreg t vreg v

/-- `SLD`. -/
def execSld (c : TCtl) (ctx : Nat) (form : SpadForm) (s : State) : Host.Outcome State Fault Refusal :=
  ok (s.issue c fun s =>
    match form with
    | .word v => s.loadWord c ctx v
    | .row p i => s.loadLine c ctx (panelRow p i)
    | .column p j => s.loadLine c ctx (panelColumn p j))

/-- One word stored at the next address of a context; a word written under a poisoned predicate is poisoned (R135). -/
def State.storeWord (s : State) (c : TCtl) (ctx vreg : Nat) : State :=
  let t := c.tile
  let a := (s.tile t).ctx ctx
  s.try' t ((s.tile t).walkAt a a.step) fun w =>
    s.claim t [(c.cyc, w)] fun s => (s.walkOn t ctx 1).padWrite t w ((s.tile t).vreg vreg)

/-- `SST`. -/
def execSst (c : TCtl) (ctx : Nat) (form : SpadForm) (s : State) : Host.Outcome State Fault Refusal :=
  ok (s.issue c fun s =>
    match form with
    | .word v => s.storeWord c ctx v
    | .row p i => s.storeLine c ctx (panelRow p i)
    | .column p j => s.storeLine c ctx (panelColumn p j))

end Sys2Proof.Machine
end

