-- ==== Sys2Proof/Machine/Array.lean ====
section
/-! DEFINITION. The array slot (R71 to R74, R164 to R167, R181, R192 to R195, R454): `WLOAD`, `MSTREAM`, `ACLR`. -/

namespace Sys2Proof.Machine

/-! ### Weights -/

/-- Elements in an activation row, and K of a weight block (R71). -/
def rowWidth (fmt : Nat) : Nat := if fmt = 6 ∨ fmt = 11 then 32 else 16

/-- The words of a weight block: K × 16 elements, packed (R71, R156). -/
def blockWords (fmt : Nat) : Nat := (widthOf fmt * rowWidth fmt * 16 + 511) / 512

/-- The code of weight (k, n) in a block; K is the innermost axis (R157). -/
def weightAt (b : WBlock) (fmt k n : Nat) : Nat :=
  bitsOf (packBits 512 (b.words.map (·.toNat))) (widthOf fmt * (n * rowWidth fmt + k)) (widthOf fmt)

/-- `WLOAD`: the shadow takes a weight block and is complete 16 cycles on (R72). -/
def execWload (c : TCtl) (h off fmt : Nat) (s : State) : Host.Outcome State Fault Refusal :=
  ok (s.issue c fun s =>
    let t := c.tile
    s.try' t ((s.tile t).wordsAt h off (blockWords fmt)) fun ws =>
      s.claim t ((enumFrom c.cyc ws).map fun y => (y.1, y.2)) fun s =>
        let (vs, s) := s.padReads t ws c.errs
        s.modTile t fun x =>
          { x with shadow := { words := vs.map (·.data), poison := anyPois vs, ready := c.cyc + 16 } })

/-! ### One activation row -/

/-- A sum with its flags. -/
abbrev Sum32 := Nat × NumFlags

/-- FP32 addition with flags. -/
def addF (a b : Sum32) : Sum32 :=
  let r := add32 a.1 b.1
  (r, a.2 ||| b.2 ||| arithFlags [f32 a.1, f32 b.1] r)

/-- Addition modulo 2^32 (R74). -/
def addI (a b : Nat) : Nat := (a + b) % 2 ^ 32

/-- A product as the cells form it (R165), with its flags. -/
def mulF (a b : Fp) : Sum32 :=
  let r := round32 (fpMul a b)
  (r, arithFlags [a, b] r)

/-- The levels of the tree over a row (R166). -/
def treeDepth (w : Nat) : Nat := if w = 32 then 5 else 4

/-- The integer row sum of a column (R74, R166). -/
def rowSumI (aFmt wFmt : Nat) (a w : List Nat) : Nat :=
  tree 0 addI (treeDepth a.length)
    ((a.zip w).map fun y => ofSigned 32 (toSigned (widthOf aFmt) y.1 * toSigned (widthOf wFmt) y.2))

/-- The FP32 row sum of a column (R165, R166). -/
def rowSumF (aFmt wFmt : Nat) (a w : List Nat) : Sum32 :=
  tree (0, 0) addF (treeDepth a.length) ((a.zip w).map fun y => mulF (elemValue aFmt y.1) (elemValue wFmt y.2))

/-- An MX row sum under its two scale bytes (R167). -/
def mxScale (v : Sum32) (ka kb : Nat) : Sum32 :=
  if ka = 255 ∨ kb = 255 then (0x7FC00000, v.2 ||| 4)
  else
    let x := fpMul (f32 v.1) (.fin false 1 ((ka : Int) + kb - 254))
    (round32 x, v.2 ||| arithFlags [f32 v.1] (round32 x))

/-- The checksum comparison of a floating-point row (R454): the row sums before scaling, and the cell's own path. -/
def abftRow (aFmt wFmt : Nat) (a : List Nat) (w : Nat → List Nat) (sums : List Nat) : Bool :=
  let add := fun (x y : Nat) => add32 x y
  let d := treeDepth a.length
  let val := fun (x : Nat) => round32 (elemValue wFmt x)
  let colsum := fun (k : Nat) => tree 0 add 4 ((w k).map val)
  let colabs := fun (k : Nat) => tree 0 add 4 ((w k).map fun x => abs32 (val x))
  let act := fun (x : Nat) => round32 (elemValue aFmt x)
  let s := tree 0 add 4 sums
  let c := tree 0 add d ((enumFrom 0 a).map fun y => mul32 (act y.2) (colsum y.1))
  let m := tree 0 add d ((enumFrom 0 a).map fun y => mul32 (abs32 (act y.2)) (colabs y.1))
  abftFires s c m

/-- What feeds the array for one row: codes, scale byte, poison. -/
structure ActRow where
  codes  : List Nat := []
  scale  : Nat := 127
  poison : Bool := false
deriving DecidableEq, Repr, Inhabited

/-- The activation row of a plain walk: `w` elements from the context's first element on, within the words at its address. -/
def State.plainRow (s : State) (t : Nat) (a : AgCtx) (k m : Nat) : Try (ActRow × List Nat) :=
  let w := rowWidth a.extra.aFmt
  let b := widthOf a.extra.aFmt
  match (s.tile t).walkAt a k with
  | .inl c => .inl c
  | .inr w0 =>
    let l := (spanWords b a.extra.elem w).map fun i => w0 + i
    let d := (s.tile t).handle a.handle
    if !(l.all (inRegion d)) then .inl ST.SPAD_HANDLE_BOUNDS
    else
      let vs := l.map fun y => (s.padRead t y 0).1
      let o := b * a.extra.elem % 512
      let codes := (List.range w).map fun i => bitsOf (joinWords vs) (o + b * i) b
      if !(isMx a.extra.aFmt) then .inr ({ codes := codes, poison := anyPois vs }, l)
      else
        match s.scaleByte t a.extra.aScaleH (a.extra.aScaleOff + m * a.extra.aScaleBy) with
        | .inl c => .inl c
        | .inr (e, p) => .inr ({ codes := codes, scale := e, poison := anyPois vs || p }, l)

/-- The scale byte of a window's activation row (R157, R194): 127 at a pad position. -/
def State.windowScale (s : State) (t : Nat) (a : AgCtx) (d : Conv) (x : Source) : Try (Nat × Bool) :=
  match x with
  | .pad _ => .inr (127, false)
  | .cell row e => s.scaleByte t a.extra.aScaleH (a.extra.aScaleOff + (row * Conv.rowElems d + e) / 32)

/-- The activation row of a convolution at output position `p` (R190, R191, R194, R204). -/
def State.windowRow (s : State) (t : Nat) (a : AgCtx) (d : Conv) (p : Nat) : Try (ActRow × List Nat) :=
  let w := rowWidth (Conv.inFmt d)
  let src := Conv.rowAt d p a.extra.group a.extra.block w
  match allOk (src.map (s.sourceValue t d)),
        allOk ((sourceCells (widthOf (Conv.inFmt d)) src).map fun y => (s.tile t).cellAt (Conv.inHdl d) y.1 y.2) with
  | .inr vs, .inr ws =>
    let r : ActRow := { codes := vs.map Prod.fst, poison := vs.any Prod.snd }
    if !(isMx (Conv.inFmt d)) then .inr (r, ws)
    else
      match s.windowScale t a d (src.headD (.pad 0)) with
      | .inl c => .inl c
      | .inr (e, q) => .inr ({ r with scale := e, poison := r.poison || q }, ws)
  | .inl c, _ => .inl c
  | _, .inl c => .inl c

/-- The activation row number `m` of an `MSTREAM`. -/
def State.actRow (s : State) (t : Nat) (a : AgCtx) (m : Nat) : Try (ActRow × List Nat) :=
  match a.extra.conv with
  | some k => s.windowRow t a (mget 0#256 (s.tile t).convs (k % 16)) (a.extra.position + a.step + m)
  | none => s.plainRow t a (a.step + m) m

/-! ### The outlier lane (R181) -/

/-- A slot of an outlier entry: the channel's offset when it is valid (R179). -/
def outlierSlots (v : Nat) (k : Nat) : List Bool := (List.range 8).map fun i => decide (bitsOf v (128 * (k % 4) + 16 * i + 15) 1 = 1)

/-- One step of the lane's chain: BF16 value and weight of a valid slot. -/
def outlierStep (o : Sum32) (a w : Nat) : Sum32 :=
  let x := fpValue bf16 a
  let y := fpValue bf16 w
  let r := round32 (fpAdd (fpMul x y) (f32 o.1))
  (r, o.2 ||| arithFlags [x, y, f32 o.1] r)

/-- The lane's sum O for row `m` and column `n`, over the valid slots of its group in order, with the sources' poison. -/
def State.outlierSum (s : State) (t : Nat) (e : AgExtra) (m n : Nat) : Try (Sum32 × Bool) :=
  match (s.tile t).wordAt e.oListH (e.oGroup / 4) with
  | .inl c => .inl c
  | .inr w =>
    let v := (s.padRead t w 0).1
    let ks := (enumFrom 0 (outlierSlots v.data.toNat e.oGroup)).filterMap fun y => if y.2 then some y.1 else none
    match allOk (ks.map fun k => s.getSpan t e.oValH (e.position + m) 16 (8 * e.oGroup + k) 1),
          allOk (ks.map fun k => s.getSpan t e.oWgtH (8 * e.oGroup + k) 16 n 1) with
    | .inr a, .inr b =>
      .inr ((a.zip b).foldl (fun o y => outlierStep o (y.1.1.headD 0) (y.2.1.headD 0)) (0, 0),
        v.poison || a.any Prod.snd || b.any Prod.snd)
    | .inl c, _ => .inl c
    | _, .inl c => .inl c

/-! ### MSTREAM -/

/-- The bias of the 16 output columns, when a convolution adds one (R193). -/
def State.biasOf (s : State) (t : Nat) (a : AgCtx) : Try (Option (List Nat × Bool)) :=
  match a.extra.conv with
  | none => .inr none
  | some k =>
    let d := mget 0#256 (s.tile t).convs (k % 16)
    if a.extra.block ≠ 0 then .inr none
    else if Conv.biasEn d = 0 then .inr (some (List.replicate 16 0, false))
    else
      match s.getSpan t (Conv.bHdl d) 0 32 a.extra.outCh 16 with
      | .inl c => .inl c
      | .inr x => .inr (some x)

/-- The weight scale bytes of the 16 columns (R157, R167). -/
def State.weightScales (s : State) (t : Nat) (e : AgExtra) (wFmt : Nat) : Try (List (Nat × Bool)) :=
  if isMx wFmt then allOk ((List.range 16).map fun n => s.scaleByte t e.wScaleH (e.wScaleOff + n))
  else .inr (List.replicate 16 (127, false))

/-- The formats of an `MSTREAM`: the context's, or its convolution's. -/
def Tile.pairOf (x : Tile) (a : AgCtx) : Nat × Nat :=
  match a.extra.conv with
  | some k => let d := mget 0#256 x.convs (k % 16); (Conv.inFmt d, Conv.wFmt d)
  | none => (a.extra.aFmt, a.extra.wFmt)

/-- The outlier sums of a row's 16 columns, when the lane adds them here (R181). -/
def State.outlierRow (s : State) (t : Nat) (e : AgExtra) (m : Nat) : Try (Option (List (Sum32 × Bool))) :=
  if e.outlier ∧ e.last then
    match allOk ((List.range 16).map fun n => s.outlierSum t e m n) with
    | .inl c => .inl c
    | .inr l => .inr (some l)
  else .inr none

/-- The 16 row sums of an integer pair added to a base (R166, R74). -/
def intRow (aFmt wFmt : Nat) (b : WBlock) (r : ActRow) (base : List Nat) : List Nat :=
  (List.range 16).map fun n =>
    addI (base.getD n 0) (rowSumI aFmt wFmt r.codes ((List.range r.codes.length).map fun k => weightAt b wFmt k n))

/-- The 16 row sums of a floating-point pair before scaling. -/
def sumsRow (aFmt wFmt : Nat) (b : WBlock) (r : ActRow) : List Sum32 :=
  (List.range 16).map fun n =>
    rowSumF aFmt wFmt r.codes ((List.range r.codes.length).map fun k => weightAt b wFmt k n)

/-- The accumulator lanes of a floating-point pair: base + v, then + O (R166, R167, R181). -/
def floatRow (aFmt : Nat) (sums : List Sum32) (r : ActRow) (ws : List (Nat × Bool)) (base : List Nat)
    (o : Option (List (Sum32 × Bool))) : List Sum32 :=
  (List.range 16).map fun n =>
    let v := sums.getD n (0, 0)
    let v := if isMx aFmt then mxScale v r.scale (ws.getD n (127, false)).1 else v
    let x := addF (base.getD n 0, 0) v
    match o with
    | none => x
    | some l => addF x (l.getD n ((0, 0), false)).1

/-- One activation row accumulated into its row (R73, R135, R166, R193). -/
def State.accumulate (s : State) (t : Nat) (aFmt wFmt row : Nat) (r : ActRow) (ws : List (Nat × Bool))
    (bias : Option (List Nat × Bool)) (o : Option (List (Sum32 × Bool))) : State :=
  let x := s.tile t
  let b := x.active
  let old := x.accRow row
  let base := match bias with
    | some y => y.1
    | none => lanes old.data
  let pois := r.poison || b.poison || ws.any Prod.snd || (match bias with | some y => y.2 | none => false) ||
    (match o with | some l => l.any Prod.snd | none => false)
  if isInt aFmt then s.setAcc t row { data := ofLanes (intRow aFmt wFmt b r base), poison := pois }
  else
    let sums := sumsRow aFmt wFmt b r
    let out := floatRow aFmt sums r ws base o
    let s := s.setAcc t row { data := ofLanes (out.map Prod.fst), poison := pois }
    let s := s.raiseNum t (orFlags (out.map Prod.snd))
    if abftRow aFmt wFmt r.codes (fun k => (List.range 16).map fun n => weightAt b wFmt k n) (sums.map Prod.fst) then
      s.raiseChecks t CF.abftFp
    else s

/-- Cycles a row of a format occupies the array (R71, R212). -/
def rowCycles (x : Tile) (a : AgCtx) : Nat :=
  match a.extra.conv with
  | some k =>
    let d := mget 0#256 x.convs (k % 16)
    Conv.rowCycles d (rowWidth (Conv.inFmt d)) * (if widthOf (Conv.inFmt d) = 16 then 4 else 1)
  | none => if widthOf a.extra.aFmt = 16 then 4 else 1

/-- Rows `m` to `m + n - 1` of an `MSTREAM`, the first entering the array on cycle `cyc`; a row that aborts the job ends it. -/
def State.streamRows (s : State) (t : Nat) (a : AgCtx) (cyc row : Nat) (bias : Option (List Nat × Bool))
    (ws : List (Nat × Bool)) (m : Nat) : Nat → State
  | 0 => s
  | n + 1 =>
    let x := s.tile t
    let (fa, fw) := x.pairOf a
    match s.actRow t a m, s.outlierRow t a.extra m with
    | .inl c, _ => s.tileAbort t c 0
    | _, .inl c => s.tileAbort t c 0
    | .inr (r, l), .inr o =>
      let used := l.map fun w => (cyc + m * rowCycles x a, w)
      match claimBanks x.banks used with
      | none => s.tileAbort t ST.SPAD_BANK_CONFLICT 0
      | some held =>
        let s := (s.modTile t fun y => { y with banks := held }).accumulate t fa fw (row + m) r ws bias o
        s.streamRows t a cyc row bias ws (m + 1) n

/-- A full shadow becomes the active block (R72). -/
def takeShadow (x : Tile) : Tile := if x.shadow.words = [] then x else { x with active := x.shadow, shadow := {} }

/-- `MSTREAM`: 1 to 1,024 activation rows stream through the array, from the cycle after a `WLOAD` still running (R72, R77). -/
def execMstream (c : TCtl) (n ctx row : Nat) (s : State) : Host.Outcome State Fault Refusal :=
  ok (s.issue c fun s =>
    let t := c.tile
    let start := max c.cyc (s.tile t).shadow.ready
    let now := s.regN (tCycle t)
    let s := s.modTile t fun x => { takeShadow x with banks := x.banks.filter fun y => decide (now ≤ y.1) }
    let a := (s.tile t).ctx ctx
    match s.biasOf t a, s.weightScales t a.extra ((s.tile t).pairOf a).2 with
    | .inl e, _ => s.tileAbort t e 0
    | _, .inl e => s.tileAbort t e 0
    | .inr bias, .inr ws => (s.streamRows t a start row bias ws 0 (min (max n 1) 1024)).walkOn t ctx (min (max n 1) 1024))

/-- `ACLR`: accumulator rows cleared with their poison (R77, R135). -/
def execAclr (c : TCtl) (row n : Nat) (s : State) : Host.Outcome State Fault Refusal :=
  ok (s.issue c fun s =>
    s.modTile c.tile fun x =>
      { x with acc := (List.range (min n 1024)).foldl (fun m i => merase m ((row + i) % 1024)) x.acc })

end Sys2Proof.Machine
end

