-- ==== Sys2Proof/Machine/Bamset.lean ====
section
/-! DEFINITION. The Bamset fabric (R421 to R442): links, hellos, discovery and routes, fabric time, mirror channels and twin bindings. -/

namespace Sys2Proof.Machine

/-! ### Links (R421 to R424) -/

/-- A Bamset port. -/
def State.bam (s : State) (p : Nat) : BamPort := mget {} s.bamPorts p
/-- A Bamset port changed. -/
def State.modBam (s : State) (p : Nat) (f : BamPort → BamPort) : State := { s with bamPorts := mmod {} s.bamPorts p f }

/-- State of a link: 0 down, 1 training, 2 up on 4 lanes, 3 up on 2 lanes. -/
def State.linkState (s : State) (p : Nat) : Nat := s.fld (R.BAM_P_STATUS p) 0 2
/-- Whether a link is up. -/
def State.linkUp (s : State) (p : Nat) : Bool := decide (2 ≤ s.linkState p)
/-- Whether a link carries more than hellos: it is up and its neighbour is accepted (R425). -/
def State.linkOpen (s : State) (p : Nat) : Bool := s.linkUp p && s.bit (R.BAM_P_STATUS p) 9

/-- A link begins to train on some lanes (R422). -/
def State.linkTrain (s : State) (p lanes : Nat) : State :=
  (s.setRegN (R.BAM_P_STATUS p) 1).modBam p fun b => { b with lanes := lanes, hello := none, notMember := false }

/-- A link is down: what it held of its neighbour is gone (R423). -/
def State.linkDown (s : State) (p : Nat) : State :=
  let s := (s.setRegN (R.BAM_P_STATUS p) 0).setRegN (R.BAM_P_NBR_FP p) 0
  s.modBam p fun b => { b with hello := none, notMember := false, out := [] }

/-- A write of `BAM_Pp_CFG` (R422): `EN` set starts training, cleared takes the link down. -/
def State.bamCfgWrite (s : State) (p v : Nat) : State × Option Status :=
  let was := s.bit (R.BAM_P_CFG p) 0
  let s := s.setRegN (R.BAM_P_CFG p) (v % 4)
  if v % 2 = 0 then accept (if was then s.linkDown p else s)
  else if was then accept s
  else accept (s.linkTrain p 4)

/-- BAM_PORT_ENABLE: a master writes a port's configuration with `EN` 1. -/
def execBamPortEnable (m p : Nat) (v : Dword) (s : State) : Host.Outcome State Fault Refusal :=
  ok (s.regBus m (R.BAM_P_CFG (p % 6)) 4 fun s => s.bamCfgWrite (p % 6) (putBits v.toNat 0 1 1))

/-- TRAINING_DONE: training ends with a measured latency in ns, or fails (R422). -/
def execTrainingDone (p lat : Nat) (good : Bool) (s : State) : Host.Outcome State Fault Refusal :=
  let p := p % 6
  if s.linkState p ≠ 1 ∨ !(s.domainOn 13) ∨ !s.power.sdsRefOk then ok s
  else if !good then ok ((s.linkDown p).postC ST.BAM_LINK_DOWN 0x1C p)
  else if 1000 < lat then ok ((s.linkDown p).postC ST.BAM_LINK_LATENCY 0x1C p)
  else
    let s := s.setRegN (R.BAM_P_LAT p) ((lat + 7) / 8 * 8)
    ok (s.setRegN (R.BAM_P_STATUS p) (if (s.bam p).lanes = 4 then 2 else 3))

/-- A link goes down while up (R423): with `NARROW` it retrains on 2 lanes. -/
def State.linkLost (s : State) (p : Nat) : State :=
  let s := (s.linkDown p).postC ST.BAM_LINK_DOWN 0x1C p
  if s.bit (R.BAM_P_CFG p) 1 then (s.linkTrain p 2).postC ST.BAM_LINK_DEGRADED 0x1C p else s

/-- LANE_LOSS: a link that is up loses a lane. -/
def execLaneLoss (p : Nat) (s : State) : Host.Outcome State Fault Refusal :=
  ok (if s.linkUp (p % 6) then s.linkLost (p % 6) else s)

/-- A flit resent on a port (R424): counted, with a record at the first retry and every 256th after it. -/
def State.flitRetry (s : State) (p : Nat) : State :=
  let n := s.regN (R.BAM_P_RETRY_CNT p)
  let s := s.incReg (R.BAM_P_RETRY_CNT p)
  if n % 256 = 0 then s.postC ST.BAM_RETRY 0x1C p else s

/-! ### Hellos and membership (R425) -/

/-- The device's own identity fingerprint. -/
def State.fingerprint (s : State) : Nat := s.boot.env.fingerprint

/-- Whether a fingerprint is in the membership list, or the list is empty (R425). -/
def State.isMember (s : State) (fp : Nat) : Bool := s.boot.manifest.members.isEmpty || s.boot.manifest.members.contains fp

/-- The device's own hello on a port. -/
def State.ownHello (s : State) (p : Nat) : Hello :=
  { fp := s.fingerprint, port := p, req := s.fld R.BAM_NODE_REQ 0 8, timeCap := decide (s.fld R.TW_SRC 0 2 ≠ 2),
    nbrs := (List.range 6).filterMap fun i =>
      match s.linkUp i, (s.bam i).hello with
      | true, some h => some (i, h.fp)
      | _, _ => none }

/-- HELLO: every 10 µs each up link carries the device's hello and those to be flooded. -/
def execHello (p : Nat) (s : State) : Host.Outcome State Fault Refusal :=
  let p := p % 6
  let due := match (s.bam p).sentAt with
    | some t => decide (t + 10000 ≤ s.age)
    | none => true
  if s.linkUp p && due then
    ok (s.modBam p fun b => { b with sent := s.ownHello p :: b.out, out := [], sentAt := some s.age })
  else ok s

/-- Two hellos can be of one device: no port of theirs has two neighbours. -/
def sameDevice (a b : Hello) : Bool :=
  decide (a.fp = b.fp) && a.nbrs.all fun x => b.nbrs.all fun y => decide (x.1 ≠ y.1 ∨ x.2 = y.2)

/-- What a device knows of another, apart from the port of the hello. -/
def sameNews (a b : Hello) : Bool :=
  decide (a.fp = b.fp ∧ a.req = b.req ∧ a.timeCap = b.timeCap ∧ a.nbrs = b.nbrs)

/-- A hello taken into what is known of the fabric (R426): it replaces an older one of the same device. -/
def learn (l : List Hello) (h : Hello) : List Hello :=
  if l.any (sameDevice h) then l.map fun x => if sameDevice h x then h else x else l ++ [h]

/-- The neighbour of a port makes itself known (R425). -/
def State.meet (s : State) (p : Nat) (h : Hello) : State :=
  let good := s.isMember h.fp
  let node := s.discovery.assigned.find? fun x => decide (x.1 = h.fp)
  let s := s.setRegN (R.BAM_P_NBR_FP p) h.fp
  let v := s.linkState p + (match node with | some x => x.2 * 4 + 256 | none => 0) + b2n good * 2 ^ 9 + h.port * 2 ^ 12
  let s := s.setRegN (R.BAM_P_STATUS p) v
  let first := !good && !(s.bam p).notMember
  let s := s.modBam p fun b => { b with hello := some h, notMember := !good }
  if first then s.postC ST.BAM_NOT_MEMBER 0x1C p else s

/-- HELLO_RECEIVE: a hello arrives on port `p`, the neighbour's own or one that it floods (R425, R426); what is new is flooded on. -/
def execHelloReceive (p : Nat) (direct : Bool) (h : Hello) (s : State) : Host.Outcome State Fault Refusal :=
  let p := p % 6
  if !(s.linkUp p) then ok s
  else
    let s := if direct then s.meet p h else s
    if s.discovery.hellos.any (sameNews h) then ok s
    else
      let s := { s with discovery := { s.discovery with hellos := learn s.discovery.hellos h, lastNew := s.age } }
      ok (s.each ((List.range 6).filter fun q => decide (q ≠ p) && s.linkUp q) fun s q =>
        s.modBam q fun b => { b with out := b.out ++ [h] })

/-! ### Discovery (R426 to R429) -/

/-- A run begins. -/
def State.startDiscovery (s : State) : State :=
  let s := (s.setBit R.BAM_CTRL 1 true).setBit R.BAM_STATUS 9 true
  { s with discovery := { s.discovery with lastNew := s.age, result := none, sentTo := [], acks := [], sentAt := none, commit := false } }

/-- A run ends. -/
def State.endDiscovery (s : State) : State :=
  let s := (s.setBit R.BAM_CTRL 1 false).setBit R.BAM_STATUS 9 false
  { s with discovery := { s.discovery with result := none, sentTo := [], acks := [], sentAt := none, commit := false } }

/-- A write of `BAM_CTRL`: `DISCOVER` 1 starts a run. -/
def State.bamCtrlWrite (s : State) (v : Nat) : State × Option Status :=
  let s := s.setBit R.BAM_CTRL 0 (decide (v % 2 = 1))
  if bitsOf v 1 1 = 1 ∧ v % 2 = 1 then accept s.startDiscovery else accept s

/-- DISCOVER: a master writes `BAM_CTRL` (R426). -/
def execDiscover (m : Nat) (v : Dword) (s : State) : Host.Outcome State Fault Refusal :=
  ok (s.regBus m R.BAM_CTRL 4 fun s => s.bamCtrlWrite v.toNat)

/-- DISCOVERY_RUN: 100 ms after the BAM domain has left reset, or when another device starts one, a run begins (R426). -/
def execDiscoveryRun (s : State) : Host.Outcome State Fault Refusal :=
  if s.domainOn 13 ∧ s.bit R.BAM_CTRL 0 ∧ !(s.bit R.BAM_STATUS 9) then ok s.startDiscovery else ok s

/-- A device placed by ascending fingerprint. -/
def insertHello (h : Hello) : List Hello → List Hello
  | [] => [h]
  | x :: r => if h.fp < x.fp then h :: x :: r else x :: insertHello h r

/-- The accepted devices in ascending fingerprint: this one and those whose hellos arrived (R425, R426). -/
def State.devices (s : State) : List Hello :=
  (s.ownHello 0 :: (s.discovery.hellos.filter fun h => s.isMember h.fp && !(sameDevice h (s.ownHello 0)))).foldl
    (fun l h => insertHello h l) []

/-- Two devices with one fingerprint (R427). -/
def dupFp : List Hello → Bool
  | a :: b :: r => decide (a.fp = b.fp) || dupFp (b :: r)
  | _ => false

/-- Requested numbers first (R426): the numbers given as (fingerprint, node), and the fingerprints whose request was taken. -/
def assignRequested : List Hello → List (Nat × Nat) → List Nat → List (Nat × Nat) × List Nat
  | [], t, bad => (t, bad)
  | h :: r, t, bad =>
    if 63 < h.req then assignRequested r t bad
    else if t.any fun x => decide (x.2 = h.req) then assignRequested r t (bad ++ [h.fp])
    else assignRequested r (t ++ [(h.fp, h.req)]) bad

/-- Then the lowest free numbers, still in ascending fingerprint. -/
def assignRest : List Hello → List (Nat × Nat) → List (Nat × Nat)
  | [], t => t
  | h :: r, t =>
    if t.any fun x => decide (x.1 = h.fp) then assignRest r t
    else
      match (List.range 64).find? fun k => !(t.any fun x => decide (x.2 = k)) with
      | some k => assignRest r (t ++ [(h.fp, k)])
      | none => assignRest r t

/-- The node number of a fingerprint. -/
def nodeOf (t : List (Nat × Nat)) (fp : Nat) : Nat :=
  match t.find? fun x => decide (x.1 = fp) with
  | some x => x.2
  | none => 64

/-- The links of a device to devices of the run: port and neighbour. -/
def edgesOf (ds : List Hello) (fp : Nat) : List (Nat × Nat) :=
  match ds.find? fun h => decide (h.fp = fp) with
  | some h => h.nbrs.filter fun x => ds.any fun y => decide (y.fp = x.2)
  | none => []

/-- The devices by their hop count to a destination (R428), those of each count a list; `avoid` is left out. -/
def hopLayers (ds : List Hello) (avoid : Option Nat) : Nat → List Nat → List Nat → List (List Nat)
  | 0, _, _ => []
  | k + 1, seen, front =>
    let next := (ds.map fun h => h.fp).filter fun x =>
      !(seen.contains x) && decide (some x ≠ avoid) && (edgesOf ds x).any fun e => front.contains e.2
    front :: (if next.isEmpty then [] else hopLayers ds avoid k (seen ++ next) next)

/-- Hops from a device to a destination, when there is a route. -/
def hopsTo (ds : List Hello) (avoid : Option Nat) (from_ dest : Nat) : Option Nat :=
  let l := hopLayers ds avoid 65 [dest] [dest]
  (enumFrom 0 l).findSome? fun x => if x.2.contains from_ then some x.1 else none

/-- The smaller pair: lower first, then lower second. -/
def pairMin (a b : Nat × Nat) : Nat × Nat := if b.1 < a.1 ∨ (b.1 = a.1 ∧ b.2 < a.2) then b else a

/-- The primary port of a device towards a destination (R428): of the neighbours on shortest routes the lowest node number, then
the lowest port. -/
def primaryPort (ds : List Hello) (t : List (Nat × Nat)) (d dest : Nat) : Option (Nat × Nat) :=
  match hopsTo ds none d dest with
  | none => none
  | some k =>
    let c := ((edgesOf ds d).filter fun e => decide (hopsTo ds none e.2 dest = some (k - 1) ∧ 0 < k)).map fun e => (nodeOf t e.2, e.1)
    match c with
    | [] => none
    | x :: r => some ((r.foldl pairMin x).2, k)

/-- The alternate port of an entry (R428); 7 when there is none. -/
def alternatePort (ds : List Hello) (d dest primary ingress : Nat) : Nat :=
  ((edgesOf ds d).filter fun e =>
      decide (e.1 ≠ primary ∧ e.1 ≠ ingress) && (hopsTo ds (some d) e.2 dest).isSome).foldl (fun m e => min m e.1) 7

/-- The routing tables of a device (R428, R440): tables 0 to 5 by ingress port and table 6 for its own packets. -/
def routesOf (ds : List Hello) (t : List (Nat × Nat)) (d : Nat) : List Route :=
  (List.range 7).flatMap fun q => ds.filterMap fun h =>
    if h.fp = d then some { table := q, node := nodeOf t d, primary := 7, alt := 7, hops := 0, loc := true }
    else
      (primaryPort ds t d h.fp).map fun x =>
        { table := q, node := nodeOf t h.fp, primary := x.1, alt := alternatePort ds d h.fp x.1 q, hops := x.2, loc := false }

/-- The time root: of the time-capable devices the one with the lowest node number (R433). -/
def timeRootOf (ds : List Hello) (t : List (Nat × Nat)) : Option Nat :=
  match (ds.filter fun h => h.timeCap).map fun h => (nodeOf t h.fp, h.fp) with
  | [] => none
  | x :: r => some (r.foldl pairMin x).2

/-- The result for one device (R429, R433). -/
def resultFor (ds : List Hello) (t : List (Nat × Nat)) (root d : Nat) : DiscResult :=
  let tr := timeRootOf ds t
  { node := nodeOf t d, root := decide (d = root), timeRoot := decide (tr = some d)
    timePort := match tr with
      | some x => if x = d then 7 else ((primaryPort ds t d x).map Prod.fst).getD 7
      | none => 7
    noRoot := tr.isNone
    members := ds.map fun h => nodeOf t h.fp
    routes := routesOf ds t d }

/-- The root computes the result and sends it (R426 to R429); alone, it commits at once. -/
def State.computeResult (s : State) (ds : List Hello) : State :=
  let (req, bad) := assignRequested ds [] []
  let t := assignRest ds req
  let s := s.each bad fun s fp => s.post { mkRec ST.BAM_NODE_CONFLICT 0x1C 0 with syndrome := fp }
  let me := s.fingerprint
  let others := (ds.map fun h => h.fp).filter fun x => decide (x ≠ me)
  { s with discovery := { s.discovery with
      assigned := t
      result := some (resultFor ds t me me)
      sentTo := others.map fun x => (x, resultFor ds t me x)
      acks := []
      sentAt := some s.age
      commit := others.isEmpty } }

/-- DISCOVERY_QUIET: no hello has brought new information for 1 ms (R426); the root decides, the others wait for it. -/
def execDiscoveryQuiet (s : State) : Host.Outcome State Fault Refusal :=
  if !(s.bit R.BAM_STATUS 9) ∨ s.age < s.discovery.lastNew + 1000000 ∨ s.discovery.sentAt.isSome then ok s
  else
    let ds := s.devices
    if dupFp ds then ok ((s.postC ST.BAM_FP_DUP 0x1C 0).endDiscovery)
    else if 64 < ds.length then ok ((s.postC ST.BAM_TOO_MANY 0x1C 0).endDiscovery)
    else
      match ds with
      | h :: _ => if h.fp = s.fingerprint then ok (s.computeResult ds) else ok s
      | [] => ok s

/-- DISCOVERY_RESULT_RECEIVE: the root's result arrives and is acknowledged (R429). -/
def execDiscoveryResultReceive (r : DiscResult) (s : State) : Host.Outcome State Fault Refusal :=
  if s.bit R.BAM_STATUS 9 ∧ s.discovery.sentAt.isNone then
    ok { s with discovery := { s.discovery with result := some r, acks := [s.fingerprint] } }
  else ok s

/-- DISCOVERY_ACKNOWLEDGEMENT: a device has acknowledged the result; once all have, the root sends the commit (R429). -/
def execDiscoveryAcknowledgement (fp : Nat) (s : State) : Host.Outcome State Fault Refusal :=
  let d := s.discovery
  if d.sentAt.isSome ∧ d.sentTo.any fun x => decide (x.1 = fp) then
    let acks := if d.acks.contains fp then d.acks else d.acks ++ [fp]
    ok { s with discovery := { d with acks := acks, commit := d.sentTo.all fun x => acks.contains x.1 } }
  else ok s

/-- A routing-table entry as a register shows it (R440). -/
def routeBits (r : Route) : Nat := r.primary + r.alt * 8 + 64 + b2n r.loc * 128 + r.hops * 256

/-- A result comes into force (R429, R434). -/
def State.commitResult (s : State) (r : DiscResult) : State :=
  let s := s.resetRegs (R.BAM_RT 0 0) (R.BAM_RT 6 63 + 8)
  let s := s.each r.routes fun s x => s.setRegN (R.BAM_RT x.table x.node) (routeBits x)
  let st := r.node + 64 + b2n r.root * 2 ^ 7 + b2n r.timeRoot * 2 ^ 8 + (s.fld R.BAM_STATUS 16 8 + 1) % 256 * 2 ^ 16 +
    r.members.length % 128 * 2 ^ 24
  let s := (s.setRegN R.BAM_STATUS st).setRegN R.BAM_MEMBERS (r.members.foldl (fun m k => m + 2 ^ k) 0)
  let s := (s.setRegN R.BAM_TIME_PORT r.timePort).postC ST.BAM_DISCOVERED 0x1C 0
  let first := r.noRoot && !s.bamFlags.2.2
  let s := { s with bamFlags := (false, [], r.noRoot) }
  let s := if first then s.postC ST.BAM_NO_TIME_ROOT 0x1C 0 else s
  let s := s.each ((List.range 6).filter fun p => s.linkUp p) fun s p =>
    match (s.bam p).hello with
    | some h => match s.discovery.assigned.find? fun x => decide (x.1 = h.fp) with
      | some x => s.setFld (R.BAM_P_STATUS p) 2 7 (x.2 + 64)
      | none => s
    | none => s
  s.endDiscovery

/-- DISCOVERY_COMMIT: the root's commit takes effect on this device (R429). -/
def execDiscoveryCommit (s : State) : Host.Outcome State Fault Refusal :=
  match s.discovery.result with
  | some r => if s.discovery.sentAt.isSome ∧ !s.discovery.commit then ok s else ok (s.commitResult r)
  | none => ok s

/-- ACK_TIMEOUT: a device has not acknowledged within 10 ms and the run fails (R429). -/
def execAckTimeout (s : State) : Host.Outcome State Fault Refusal :=
  match s.discovery.sentAt with
  | none => ok s
  | some t =>
    match s.discovery.sentTo.find? fun x => !(s.discovery.acks.contains x.1) with
    | some x =>
      if s.age < t + 10000000 then ok s
      else ok ((s.post { mkRec ST.BAM_TOO_MANY 0x1C 0 with syndrome := x.1 }).endDiscovery)
    | none => ok s

/-! ### Routing (R431) -/

/-- The port of a packet for a node: table `q`'s primary when its link is up, else its alternate. -/
def State.routePort (s : State) (q node : Nat) : Option Nat :=
  let v := s.regN (R.BAM_RT q node)
  if bitsOf v 6 1 = 0 then none
  else if bitsOf v 0 3 < 6 ∧ s.linkOpen (bitsOf v 0 3) then some (bitsOf v 0 3)
  else if bitsOf v 3 3 < 6 ∧ s.linkOpen (bitsOf v 3 3) then some (bitsOf v 3 3)
  else none

/-- A packet sent on its route, or dropped with one record for its destination until a route returns (R431). -/
def State.sendPacket (s : State) (q : Nat) (k : BamPacket) : State :=
  let gone := s.bamFlags.2.1
  match s.routePort q (k.dest % 64) with
  | some p =>
    let s := { s with bamFlags := (s.bamFlags.1, gone.filter (fun x => decide (x ≠ k.dest % 64)), s.bamFlags.2.2) }
    s.modBam p fun b => { b with last := some k }
  | none =>
    if gone.contains (k.dest % 64) then s
    else
      ({ s with bamFlags := (s.bamFlags.1, gone ++ [k.dest % 64], s.bamFlags.2.2) }).post
        { mkRec ST.BAM_NO_ROUTE 0x1C 0 with syndrome := k.dest % 64 }

/-! ### Fabric time (R433, R434) -/

/-- Whether port `p` is due its next time message: up, and none sent for 125 µs (R433). -/
def State.timeDue (s : State) (p : Nat) : Bool :=
  s.linkOpen p && (match (s.bam p).timeAt with | some t => decide (t + 125000 ≤ s.age) | none => true)

/-- TIME_MESSAGE_SEND: every 125 µs the time root sends its device time on every up port. -/
def execTimeMessageSend (s : State) : Host.Outcome State Fault Refusal :=
  if !(s.bit R.BAM_STATUS 8) ∨ !(s.domainOn 13) then ok s
  else
    ok (s.each ((List.range 6).filter s.timeDue) fun s p =>
      s.modBam p fun b => { b with timeSent := some s.now, timeAt := some s.age })

/-- TIME_MESSAGE_RECEIVE: a time message arrives on port `p` with the time it carries; it is forwarded with the residence time and the
ingress port's latency added, and a device that takes fabric time slews by the difference (R433, R434). -/
def execTimeMessageReceive (p t residence : Nat) (retried : Bool) (s : State) : Host.Outcome State Fault Refusal :=
  let p := p % 6
  if !(s.linkOpen p) ∨ s.fld R.TW_SRC 0 2 ≠ 2 ∨ s.fld R.BAM_TIME_PORT 0 3 ≠ p then ok s
  else if retried then ok (s.flitRetry p)
  else
    let lat := s.regN (R.BAM_P_LAT p)
    let s := s.each ((List.range 6).filter fun q => decide (q ≠ p) && s.linkOpen q) fun s q =>
      s.modBam q fun b => { b with timeSent := some (t + residence + lat), timeAt := some s.age }
    ok (s.servoTo ((s.now : Int) - (t + lat : Nat)))

/-! ### Mirror channels (R435 to R437) -/

/-- A write of `BAM_MIRc_CFG` (R435): an enable is checked against the local descriptor and the remote descriptor's producer. -/
def State.mirrorWrite (s : State) (c v producer : Nat) : State × Option Status :=
  let i := bitsOf v 1 10
  if v % 2 = 1 ∧ (!(s.hoExists i) ∨ (s.ho i).desc.dstKind ≠ 0 ∨ producer ≠ 0x300 + s.fld R.BAM_STATUS 0 6) then
    refuse s ST.BAM_MIRROR
  else
    let s := s.setRegN (R.BAM_MIR_CFG c) (v % 2 ^ 27)
    if v % 2 = 0 ∧ s.mirroring c then
      let s := { s with mirrors := merase s.mirrors c }
      accept ((s.setBit (R.BAM_MIR_STATE c) 48 false).setHoD i 3)
    else accept s

/-- MIRROR_ENABLE: a master writes a channel's configuration; `producer` is what the remote descriptor reads as. -/
def execMirrorEnable (m c : Nat) (v : Dword) (producer : Nat) (s : State) : Host.Outcome State Fault Refusal :=
  ok (s.regBus m (R.BAM_MIR_CFG (c % 32)) 4 fun s => s.mirrorWrite (c % 32) v.toNat producer)

/-- MIRROR_COPY_DONE: the remote publish of a copy has been accepted, or an access of it failed (R436, R437). -/
def execMirrorCopyDone (c : Nat) (good : Bool) (s : State) : Host.Outcome State Fault Refusal :=
  let c := c % 32
  if !(s.mirroring c) then ok s
  else
    let x := mget {} s.mirrors c
    let i := s.fld (R.BAM_MIR_CFG c) 1 10
    let d := (s.ho i).desc
    let s := ({ s with mirrors := merase s.mirrors c }).setHoD i 3
    let s := s.setBit (R.BAM_MIR_STATE c) 48 false
    let may := d.slotBytes = 0 || s.admits 0x038 .read (slotAddr d x.slot) d.slotBytes
    if !(good && may) then
      let s := if may then s else s.refuseAccess 0x038 .read (slotAddr d x.slot) d.slotBytes
      ok (s.postC ST.BAM_MIRROR 0x1C c)
    else
      let s := s.setFld (R.BAM_MIR_STATE c) 0 32 x.seq
      match x.newer with
      | some (k, seq) => ok (s.mirrorStart c i k seq)
      | none => ok s

/-! ### Twin bindings (R438) -/

/-- A write of `BAM_TWINk_CFG` (R438): both devices must report equal `TILES`, and the stream's image the same hash. -/
def State.twinWrite (s : State) (k v tiles : Nat) (hash : Dword) : State × Option Status :=
  let i := bitsOf v 17 8
  let p := bitsOf v 1 5
  if v % 2 = 1 ∧ (tiles ≠ s.tileCount ∨ hash ≠ (s.job p (s.osJob i)).image.hash) then
    refuse s ST.BAM_TWIN_MISMATCH
  else
    let s := (s.setRegN (R.BAM_TWIN_CFG k) (v % 2 ^ 25)).setBit (R.BAM_TWIN_STATE k) 0 (decide (v % 2 = 1))
    accept (if v % 2 = 0 then { s with twins := merase s.twins k } else s)

/-- TWIN_BINDING_ENABLE: a master writes a binding's configuration; `tiles` and `hash` are what the partner reports. -/
def execTwinBindingEnable (m k : Nat) (v : Dword) (tiles : Nat) (hash : Dword) (s : State) : Host.Outcome State Fault Refusal :=
  ok (s.regBus m (R.BAM_TWIN_CFG (k % 16)) 4 fun s => s.twinWrite (k % 16) v.toNat tiles hash)

/-- A port of the fabric is reset (R515): its link goes down and, while enabled, trains again. -/
def State.bamPortReset (s : State) (p : Nat) : State :=
  let s := s.linkDown p
  if s.bit (R.BAM_P_CFG p) 0 then s.linkTrain p 4 else s

end Sys2Proof.Machine
end

