-- ==== Sys2Proof/Machine/Memory.lean ====
section
/-! DEFINITION. The vote and sweep of TMR words (R147 to R149) and the clearing of the Correctable Error Table (R140, R150). -/

namespace Sys2Proof.Machine

/-! ### TMR (R147 to R149) -/

/-- What the three copies of a register hold. -/
def State.copies (s : State) (a : Nat) : Dword × Dword × Dword :=
  let v := s.reg a
  let d := mget (0#64, 0#64, 0#64) s.tmr a
  (v ^^^ d.1, v ^^^ d.2.1, v ^^^ d.2.2)

/-- The bitwise majority. -/
def majority (a b c : Dword) : Dword := (a &&& b) ||| (a &&& c) ||| (b &&& c)

/-- The record of a vote (R148): the register's unit as source, its address. -/
def voteRec (c : Status) (a : Nat) : ErrRecord := { mkRec c (unitOf a) 0 with address := a }

/-- A read of a TMR word votes (R148): the majority goes into all copies; one copy outvoted, or three that differ pairwise, write a
record. -/
def State.vote (s : State) (a : Nat) : State :=
  let (x, y, z) := s.copies a
  if x = y ∧ y = z then s
  else
    let m := majority x y z
    (s.setReg a m).post (voteRec (if x = y ∨ y = z ∨ x = z then ST.TMR_CORRECTED else ST.TMR_NO_MAJORITY) a)

/-- Whether an address is that of a TMR word among the registers (R147). -/
def isTmr (a : Nat) : Bool := match regAt a with
  | some (r, b) => r.tmr && decide ((a - b) % 8 = 0)
  | none => false

/-- An upset of a TMR word: each copy changes by its difference. -/
def State.upset (s : State) (u : Upset) : State :=
  if !(isTmr u.reg) then s
  else { s with tmr := mmod (0#64, 0#64, 0#64) s.tmr u.reg fun d => (d.1 ^^^ u.d0, d.2.1 ^^^ u.d1, d.2.2 ^^^ u.d2) }

/-- The supervisor's sweep (R149) votes on every word; `upsets` are those that strike after it, for the next read to find. -/
def execTmrSweep (upsets : List Upset) (s : State) : Host.Outcome State Fault Refusal :=
  ok ((s.each (s.tmr.map Prod.fst) State.vote).each upsets State.upset)

/-! ### Clearing the table -/

/-- One entry, or with bit 8 every entry, of a die's table cleared; die 15 stands for the host stack's. -/
def State.clearCet (s : State) (d v : Nat) : State :=
  s.each (if bitsOf v 8 1 = 1 then List.range 64 else [bitsOf v 0 6]) fun s e => s.setCet d e 0

/-- A write of `CDn_CET_CLR` (R96, R150). -/
def execCdnCetClr (m n : Nat) (v : Dword) (s : State) : Host.Outcome State Fault Refusal :=
  ok (s.regBus m (R.CD_CET_CLR n) 4 fun s => accept (s.clearCet n v.toNat))

end Sys2Proof.Machine
end

