-- ==== Sys2Proof/Machine/Launch.lean ====
section
/-! DEFINITION. Wheel entries that start jobs: LAUNCH, TWIN_LAUNCH with its copy B, and golden slots (R322, R323, R44, R56, R67, R480 to R484). -/

namespace Sys2Proof.Machine

/-- Whether a partition and a descriptor are there to launch (R56). -/
def State.launchable (s : State) (p j : Nat) : Bool := decide (s.partState p = 2) && decide (s.jobState p j ≠ 0)

/-- A launch of descriptor `j` of partition `p` in a slice (R56, R67, R520, R322): the job starts, or the launch has no effect,
writes its record, and its copy of a stream is missing (R460). The answer is whether the job started. -/
def State.tryLaunch (s : State) (d : Due) (p j slice : Nat) (golden : Bool) : Bool × State :=
  let refuse := fun (s : State) => (false, if golden then s else s.reportRefused p j)
  if !(s.launchable p j) then refuse (s.targetGoneIn d p)
  else if s.windowInto p ∨ s.commitInto p then refuse (s.post (refusedRec s ST.LAUNCH_IN_WINDOW d p j))
  else if s.isHeld p then refuse s
  else
    match s.launchCheck p j slice with
    | some c => refuse (s.post (refusedRec s c d p j))
    | none => if s.isShed p then refuse (s.incReg R.ACC_SHED_SKIP_CNT) else (true, s.startJob p j golden)

/-- LAUNCH: a LAUNCH entry falls due; `INDEX` holds partition and slice, `ARG` the descriptor (R52, R322). -/
def execLaunch (w e edge : Nat) (s : State) : Host.Outcome State Fault Refusal :=
  ok (s.onEntry w e edge 0x01 launchOffset fun s d =>
    (s.tryLaunch d (d.entry.index % 32) (d.entry.arg % 64) (bitsOf d.entry.index 8 3) false).2)

/-- The dies that hold blocks of a partition. -/
def State.partDies (s : State) (p : Nat) : List Nat :=
  (List.range 4).filter fun k => (s.partBlocks p).any fun b => decide (b / 16 = k)

/-- Two partitions lie on paired dies (R618). -/
def State.pairedDies (s : State) (p q : Nat) : Bool :=
  (s.partDies p).all (fun k => !((s.partDies q).contains k)) &&
    (s.partDies p).all (fun k => (s.partDies q).contains ((k + 2) % 4)) &&
    (s.partDies q).all (fun k => (s.partDies p).contains ((k + 2) % 4))

/-- The golden slot that withholds a copy of a twin launch of descriptor `j` in partition `p` (R482). -/
def State.withheld (s : State) (p j : Nat) : Option Nat :=
  match s.goldens.lookup p with
  | some g => if s.osJob g.stream = j ∧ s.now < g.ends then some g.stream else none
  | none => none

/-- A copy withheld by a golden frame: its frame finds it missing (R482). -/
def State.withhold (s : State) (p j i : Nat) : State := (s.modStream i fun x => { x with golden := true }).reportRefused p j

/-- Copy A of a twin launch on its own edge; copy B is set to start 2,048 cycles later (R323, R44). -/
def State.fireTwin (s : State) (d : Due) : State :=
  let pa := d.entry.index % 32
  let pb := d.entry.arg2 % 32
  let j := d.entry.arg % 64
  if s.partState pa = 2 ∧ s.partState pb = 2 ∧ !(s.pairedDies pa pb) then s.targetGone d
  else
    let s := match s.withheld pa j with
      | some i => s.withhold pa j i
      | none => (s.tryLaunch d pa j (s.jobSlice pa j) false).2
    match s.withheld pb j with
    | some i => s.withhold pb j i
    | none => { s with copyB := s.copyB ++ [(d, pb, j)] }

/-- TWIN_LAUNCH: a TWIN_LAUNCH entry falls due (R323). -/
def execTwinLaunch (w e edge : Nat) (s : State) : Host.Outcome State Fault Refusal :=
  ok (s.onEntry w e edge 0x02 launchOffset fun s d => s.fireTwin d)

/-- COPY_B_LAUNCH: 2,048 FCLK cycles after copy A's edge, copy B of a twin launch into partition `p` (R44, R323). -/
def execCopyBLaunch (p : Nat) (s : State) : Host.Outcome State Fault Refusal :=
  match s.copyB.find? fun x => decide (x.2.1 = p % 32) with
  | some x =>
    let s := { s with copyB := s.copyB.erase x }
    ok (s.tryLaunch x.1 x.2.1 x.2.2 (s.jobSlice x.2.1 x.2.2) false).2
  | none => ok s

/-! ### Golden slots (R480 to R484) -/

/-- The one enabled stream with `SAFETY` 1 that names a partition, and which copy runs there. -/
def State.goldenStream (s : State) (p : Nat) : Option (Nat × Bool) :=
  match (List.range 256).find? fun i =>
      s.osEn i && s.osSafety i && (decide (s.osPart i false = p) || (s.osTwin i && decide (s.osPart i true = p))) with
  | some i => some (i, decide (s.osPart i false ≠ p))
  | none => none

/-- A golden frame yields (R481). -/
def State.goldenDefer (s : State) (i : Nat) (isB : Bool) : State :=
  (s.incFld (R.TW_OS_GOLD i) (if isB then 12 else 8) 4).post
    ((mkRec ST.SAFE_GOLDEN_DEFERRED 0x02 i).withPart s (s.osPart i isB))

/-- Whether the stream's job is running or pre-empted in either copy (R481 a). -/
def State.streamBusy (s : State) (i : Nat) : Bool :=
  decide ((s.job (s.osPart i false) (s.osJob i)).phase ≠ .idle) ||
    (s.osTwin i && decide ((s.job (s.osPart i true) (s.osJob i)).phase ≠ .idle))

/-- What a GOLDEN_SLOT entry does in partition `p` (R480, R481). -/
def State.fireGolden (s : State) (d : Due) : State :=
  let p := d.entry.index % 32
  match s.goldenStream p with
  | none => s.targetGone d
  | some (i, isB) =>
    let cnt := s.fld (R.TW_OS_GOLD i) (if isB then 12 else 8) 4
    let waits := (s.stream i).trigger && decide (s.fld (R.TW_OS_CFG i) 30 10 ≠ 0x3FF)
    if s.streamBusy i ∨ (waits ∧ cnt < 8) then s.goldenDefer i isB
    else
      let j := s.fld (R.TW_OS_GOLD i) 0 6
      match s.tryLaunch d p j (s.jobSlice p j) true with
      | (true, s') => { s' with goldens := minsert s'.goldens p { stream := i, isB := isB, ends := d.due + d.entry.arg } }
      | (false, s') => s'.goldenDefer i isB

/-- GOLDEN_SLOT: a GOLDEN_SLOT entry falls due (R481). -/
def execGoldenSlot (w e edge : Nat) (s : State) : Host.Outcome State Fault Refusal :=
  ok (s.onEntry w e edge 0x0A launchOffset fun s d => s.fireGolden d)

/-- GOLDEN_SLOT_END: device time reaches the end of the golden slot of partition `p` (R484): an unfinished golden job is
aborted. -/
def execGoldenSlotEnd (p : Nat) (s : State) : Host.Outcome State Fault Refusal :=
  match s.goldens.lookup (p % 32) with
  | none => ok s
  | some g =>
    if s.now < g.ends then ok s
    else
      let j := s.fld (R.TW_OS_GOLD g.stream) 0 6
      let s := { s with goldens := merase s.goldens (p % 32) }
      if g.ran then ok s
      else ok ((s.post ((mkRec ST.SAFE_GOLDEN_OVERRUN 0x02 g.stream).withPart s (p % 32))).abortJob (p % 32) j)

end Sys2Proof.Machine
end

