-- ==== Sys2Proof/Machine/HubMem.lean ====
section
/-! DEFINITION. Compute and host DRAM as masters outside the fabric reach them: retired pages (R141, R143), poison (R135, R609), and accesses of the hub's own masters through the access tables (R28, R343). -/

namespace Sys2Proof.Machine

/-- The retirement table, channel and page of a DRAM address (R122, R123, R141): die, tile or channel, page within it. -/
def pageOf (a : Nat) : Nat × Nat × Nat :=
  if a < hostBase then (a / 0x2000000 / 512, a / 0x2000000, a % 0x2000000 / 1024)
  else (15, (a - hostBase) / 1024 % 64, (a - hostBase) / 65536)

/-- Whether the DRAM page of an address is retired. -/
def State.pageGone (s : State) (a : Nat) : Bool := s.retired (pageOf a).1 (pageOf a).2.1 (pageOf a).2.2

/-- The key of a page among those whose first access has been recorded. -/
def pageKey (a : Nat) : Nat :=
  if a < hostBase then (pageOf a).2.1 * 32768 + (pageOf a).2.2 else 2048 * 32768 + (a - hostBase) / 1024

/-- An access to the retired page of an address (R143): the first after the retirement writes one record. -/
def State.touchPage (s : State) (a : Nat) : State :=
  if mget false s.retiredHit (pageKey a) then s
  else
    ({ s with retiredHit := mset false s.retiredHit (pageKey a) true }).post
      { mkRec ST.MEM_RETIRED_ACCESS (if a < hostBase then 0x10 + (pageOf a).1 else 0x1F) (pageOf a).2.1 with
        address := a / 1024 * 1024 }

/-- The 1 KiB pieces of a byte range: address and length of each. -/
def pagesIn (a : Nat) : Nat → Nat → List (Nat × Nat)
  | 0, _ => []
  | k + 1, n =>
    let m := min n (1024 - a % 1024)
    if n = 0 then [] else (a, m) :: pagesIn (a + m) k (n - m)

/-- Bytes of DRAM as its channels deliver them, with the poison of the words read: a retired page reads as zero with poison. -/
def State.dramGet (s : State) (a n : Nat) : List Byte × Bool × State :=
  (pagesIn a (n / 1024 + 2) n).foldl (fun (x : List Byte × Bool × State) y =>
    let (d, p, s) := x
    if s.pageGone y.1 then (d ++ List.replicate y.2 0#8, true, s.touchPage y.1)
    else (d ++ s.bytes y.1 y.2, p || s.anyPoison y.1 y.2, s)) ([], false, s)

/-- Bytes written to DRAM with the poison of their data; those for a retired page are discarded. -/
def State.dramSet (s : State) (a : Nat) (d : List Byte) (p : Bool) : State :=
  ((pagesIn a (d.length / 1024 + 2) d.length).foldl (fun (x : List Byte × State) y =>
    let (d, s) := x
    (d.drop y.2, if s.pageGone y.1 then s.touchPage y.1 else s.store y.1 (d.take y.2) p)) (d, s)).2

/-- A read of DRAM by a hub master (R28): one that no entry admits is denied and returns zeros (R343). -/
def State.hubGet (s : State) (m a n : Nat) : List Byte × Bool × State :=
  if n = 0 then ([], false, s)
  else if s.admits m .read a n then s.dramGet a n
  else (List.replicate n 0#8, false, s.refuseAccess m .read a n)

/-- A write of DRAM by a hub master; a denied one writes nothing. -/
def State.hubSet (s : State) (m a : Nat) (d : List Byte) (p : Bool) : State :=
  if d.isEmpty then s
  else if s.admits m .write a d.length then s.dramSet a d p
  else s.refuseAccess m .write a d.length

/-- The record of poison consumed as a control value by a unit (R136). -/
def State.poisonBites (s : State) (u sub ctx : Nat) : State :=
  s.post { mkRec ST.MEM_POISON_CONSUMED u sub with context := ctx }

end Sys2Proof.Machine
end

