-- ==== Sys2Proof/Machine/Mailbox.lean ====
section
/-! DEFINITION. The mailboxes (R349 to R363): request layout, the sequence protocol, the service round, the checks in their order, locks, and the completion of a command. -/

namespace Sys2Proof.Machine

/-! ### The command table (R351, R352, R364) -/

/-- An argument: an unsigned number of some bytes, a device address, or a block of N bytes. -/
inductive Item where
  | u (bytes : Nat)
  | addr
  | blk (bytes : Nat)
deriving DecidableEq, Repr, Inhabited

/-- The bytes of an item. -/
def Item.size : Item → Nat
  | .u n => n
  | .addr => 8
  | .blk n => n

/-- The alignment of an item (R352). -/
def Item.align : Item → Nat
  | .u n => n
  | .addr => 8
  | .blk _ => 16

/-- The next multiple of `k`. -/
def roundUp (x k : Nat) : Nat := (x + k - 1) / k * k

/-- Places of items from an offset on (R352): offset and item. -/
def placesFrom : Nat → List Item → List (Nat × Item)
  | _, [] => []
  | o, i :: r => (roundUp o i.align, i) :: placesFrom (roundUp o i.align + i.size) r

/-- The length of items: to the end of the last. -/
def itemsLen (l : List Item) : Nat := (placesFrom 0 l).foldl (fun _ x => x.1 + x.2.size) 0

/-- A row of the command table: number, group, arguments. -/
structure Cmd where
  code  : Nat := 0
  group : Nat := 0
  items : List Item := []
deriving DecidableEq, Repr, Inhabited

/-- The command table (R364). -/
def cmdTable : List Cmd :=
  [⟨0x0000, 0, []⟩, ⟨0x0001, 0, []⟩, ⟨0x0002, 0, []⟩, ⟨0x0003, 1, [.u 1, .u 2, .u 2, .u 2, .u 4]⟩,
   ⟨0x0004, 0, [.u 1, .u 1, .u 2, .u 1]⟩, ⟨0x0005, 10, [.u 1, .u 1, .u 2, .u 8]⟩, ⟨0x0006, 0, [.u 4, .u 1]⟩,
   ⟨0x0100, 2, [.u 1, .u 2, .u 8, .addr]⟩, ⟨0x0101, 2, [.u 1, .u 1, .u 8]⟩, ⟨0x0102, 2, [.u 8]⟩,
   ⟨0x0103, 2, [.u 1, .u 1, .u 2, .u 2, .addr]⟩, ⟨0x0104, 2, [.u 2, .blk 32]⟩, ⟨0x0105, 2, [.u 2]⟩] ++
  [⟨0x0200, 3, [.u 1, .u 1, .u 1, .u 1, .u 4, .u 8]⟩, ⟨0x0201, 3, [.u 1]⟩, ⟨0x0202, 4, [.u 1, .u 1, .u 4, .addr]⟩,
   ⟨0x0203, 4, [.u 1, .u 1]⟩, ⟨0x0204, 4, [.u 1, .u 1, .u 1, .u 1, .u 1]⟩, ⟨0x0205, 4, [.u 1, .u 1]⟩,
   ⟨0x0206, 4, [.u 1, .u 1, .u 1, .u 1, .u 1, .u 1, .u 1, .u 1, .u 1]⟩, ⟨0x0207, 4, [.u 1, .addr]⟩] ++
  [⟨0x0300, 5, [.u 2, .u 1, .blk 16]⟩, ⟨0x0301, 0, [.u 2, .u 1, .u 1]⟩, ⟨0x0302, 5, [.u 1, .u 1, .u 1]⟩,
   ⟨0x0303, 5, [.u 1, .u 1, .u 1, .u 4]⟩, ⟨0x0304, 5, [.u 1, .u 1, .u 1, .u 1, .u 1]⟩, ⟨0x0305, 5, [.u 2, .addr]⟩] ++
  [⟨0x0400, 6, [.u 1, .u 1, .u 1, .u 1, .u 2, .u 1, .u 1, .u 1, .u 1, .u 4, .u 4, .u 4]⟩, ⟨0x0401, 6, [.u 1]⟩,
   ⟨0x0402, 6, [.u 2, .u 1]⟩, ⟨0x0403, 6, [.u 1, .u 2, .u 2, .addr]⟩, ⟨0x0404, 6, [.u 1, .u 2, .u 2, .u 4]⟩,
   ⟨0x0405, 6, [.u 1]⟩] ++
  [⟨0x0500, 7, [.u 1, .u 4, .addr]⟩, ⟨0x0501, 7, [.u 1, .u 8]⟩, ⟨0x0502, 7, [.u 1]⟩, ⟨0x0600, 8, [.u 1, .blk 128]⟩,
   ⟨0x0601, 8, [.u 1]⟩, ⟨0x0602, 8, [.u 4, .u 4, .addr]⟩, ⟨0x0700, 9, [.u 1, .blk 64]⟩, ⟨0x0800, 11, [.u 8]⟩,
   ⟨0x0801, 11, [.u 1, .u 8, .u 8]⟩, ⟨0x0802, 11, [.u 1, .u 8, .u 8]⟩, ⟨0x0900, 12, [.u 1, .u 1, .u 1, .u 4]⟩]

/-- The row of a command number. -/
def cmdOf (code : Nat) : Option Cmd := cmdTable.find? fun c => decide (c.code = code)

/-! ### The request in place (R351, R353) -/

/-- The 256 bytes of a mailbox's request buffer. -/
def State.request (s : State) (n : Nat) : List Byte := s.regBytes (R.SUP_MB_REQ n) 32

/-- A number in a list of bytes. -/
def numAt (l : List Byte) (o n : Nat) : Nat := leNat ((l.drop o).take n)

/-- Argument `k` of the request in a mailbox. -/
def State.arg (s : State) (n k : Nat) : Nat :=
  let r := s.request n
  match cmdOf (numAt r 0 2) with
  | some c =>
    match (placesFrom 16 c.items)[k]? with
    | some (o, i) => numAt r o i.size
    | none => 0
  | none => 0

/-- The command number of the request in a mailbox. -/
def State.reqCode (s : State) (n : Nat) : Nat := numAt (s.request n) 0 2

/-- The owner of a mailbox. -/
def State.mbOwner (s : State) (n : Nat) : Nat := s.fld (R.SUP_MB_OWNER n) 0 10

/-- Bytes of a request that lie in no item and must be zero: the rest of the header, gaps, and everything after the last item. -/
def paddingZero (r : List Byte) (c : Cmd) : Bool :=
  let used := (placesFrom 16 c.items).map fun x => (x.1, x.1 + x.2.size)
  (enumFrom 0 r).all fun x => decide (x.1 < 8) || decide (x.2 = 0#8) || used.any fun y => decide (y.1 ≤ x.1 ∧ x.1 < y.2)

/-- Address arguments have bits 63:48 zero (R352). -/
def addrsOk (r : List Byte) (c : Cmd) : Bool :=
  (placesFrom 16 c.items).all fun x => match x.2 with
    | .addr => decide (numAt r x.1 8 < 2 ^ 48)
    | _ => true

/-- The ranges that argument values must keep to name anything: partitions, slots, wheels, operations, counts (R364). -/
def State.rangesOk (s : State) (n code : Nat) : Bool :=
  let a := s.arg n
  match code with
  | 0x0003 => decide (a 0 < 16 ∧ a 1 < 1024 ∧ a 2 < 1024 ∧ a 3 < 8192)
  | 0x0004 => decide ((a 1 = 4 ∨ a 1 = 8) ∧ 1 ≤ a 3 ∧ a 3 ≤ 28)
  | 0x0005 => decide (a 1 = 8 ∨ (a 1 = 4 ∧ a 3 < 2 ^ 32))
  | 0x0006 => decide (1 ≤ a 1 ∧ a 1 ≤ 3)
  | 0x0100 => decide (a 0 < 8 ∧ a 1 ≤ 4096)
  | 0x0101 => decide (a 0 < 8 ∧ a 1 ≤ 2)
  | 0x0103 => decide (a 0 < 32 ∧ a 1 < 4 ∧ 1 ≤ a 3 ∧ a 3 ≤ 1024)
  | 0x0104 => decide (a 0 < 1024)
  | 0x0105 => decide (a 0 < 1024)
  | 0x0200 => decide (a 0 < 32 ∧ a 1 ≤ 3 ∧ 1 ≤ a 2 ∧ a 2 ≤ 2 ∧ a 3 < 32)
  | 0x0201 => decide (a 0 < 32)
  | 0x0202 => decide (a 0 < 32 ∧ a 1 < 16)
  | 0x0203 => decide (a 0 < 32 ∧ a 1 < 16)
  | 0x0204 => decide (a 0 < 32 ∧ a 1 < 64 ∧ a 2 < 16 ∧ a 3 < 8)
  | 0x0205 => decide (a 0 < 32 ∧ a 1 < 64)
  | 0x0206 => decide (a 0 < 32) && (List.range 8).all fun k => decide (bitsOf (a (k + 1)) 2 5 = 0)
  | 0x0207 => decide (a 0 < 32)
  | 0x0301 => decide (1 ≤ a 2 ∧ a 2 ≤ 14)
  | 0x0302 => decide (a 0 ≤ 4 ∧ a 1 < 64 ∧ a 2 ≤ 1)
  | 0x0303 => if a 0 = 4 then decide (a 1 = 0 ∧ a 2 < 64 ∧ a 3 < 262144) else decide (a 0 < 4 ∧ a 1 < 16 ∧ a 2 < 33 ∧ a 3 < 32768)
  | 0x0304 =>
    (if a 0 = 4 then decide (a 1 = 0 ∧ a 2 < 64) else decide (a 0 < 4 ∧ a 1 < 16 ∧ a 2 < 33)) && decide (a 3 < 4 ∧ a 4 < 16)
  | 0x0305 => decide (1 ≤ a 0 ∧ a 0 ≤ 512)
  | 0x0400 => decide (a 0 < 32 ∧ a 1 < 32 ∧ (a 2 < 32 ∨ a 2 = 255) ∧ a 3 ≤ 3)
  | 0x0401 => decide (a 0 < 32)
  | 0x0402 => decide (a 1 < 32)
  | 0x0403 => decide (a 0 < 32 ∧ 1 ≤ a 1 ∧ a 1 ≤ 4096 ∧ a 2 < 1024)
  | 0x0404 => decide (a 0 < 32)
  | 0x0405 => decide (a 0 < 32)
  | 0x0500 => decide (a 0 < 8)
  | 0x0501 => decide (a 0 < 8)
  | 0x0502 => decide (a 0 < 8)
  | 0x0600 => decide (a 0 < 8)
  | 0x0601 => decide (a 0 < 8)
  | 0x0602 => decide (a 0 + a 1 ≤ 65536)
  | 0x0801 => decide (a 0 ≤ 3)
  | 0x0802 => decide (a 0 ≤ 4)
  | 0x0900 => decide (a 0 ≤ 4)
  | _ => true

/-- The unit a command addresses, for check 4 of R362. -/
def State.cmdUnit (s : State) (n code : Nat) : Option Nat :=
  if code = 0x0004 ∨ code = 0x0005 then some (s.arg n 0)
  else if code = 0x0900 ∧ s.arg n 0 ≤ 2 then some (s.arg n 1)
  else if 0x0500 ≤ code ∧ code < 0x0600 then some 0x1D
  else none

/-- The partitions a command names, for check 6 (R362): its partition argument, the partition of a table 0x120 + p, the consumer of a
kind-1 handoff descriptor. -/
def State.cmdParts (s : State) (n code : Nat) : List Nat :=
  let a := s.arg n
  if code = 0x0103 ∨ (0x0200 ≤ code ∧ code ≤ 0x0207) then [a 0]
  else if code = 0x0104 then
    (if bitsOf (a 1) 80 4 = 1 ∧ 0x200 ≤ bitsOf (a 1) 160 10 ∧ bitsOf (a 1) 160 10 < 0x220 then [bitsOf (a 1) 160 10 - 0x200] else [])
  else if (code = 0x0300 ∨ code = 0x0301) ∧ 0x120 ≤ a 0 ∧ a 0 < 0x140 then [a 0 - 0x120]
  else if code = 0x0400 then a 1 :: (if a 2 = 255 then [] else [a 2])
  else if code = 0x0900 ∧ a 0 ≤ 2 ∧ (a 1 = 0 ∨ (0x10 ≤ a 1 ∧ a 1 ≤ 0x13)) ∧ a 2 < 32 then [a 2]
  else []

/-- The objects a command locks (R360), as kind and number: 0 partition, 1 image slot, 2 job descriptor, 3 wheel, 4 handoff descriptor,
5 landing list, 6 pool, 7 context, 8 solver slot, 9 channel, 10 pixel program, 11 access table, 12 mailbox. -/
def State.cmdLocks (s : State) (n code : Nat) : List (Nat × Nat) :=
  let a := s.arg n
  match code with
  | 0x0003 => [(12, a 0)]
  | 0x0100 => [(3, a 0)]
  | 0x0101 => [(3, a 0)]
  | 0x0103 => [(0, a 0), (5, a 1 * 65536 + a 2)]
  | 0x0104 => [(4, a 0)]
  | 0x0105 => [(4, a 0)]
  | 0x0200 => [(0, a 0)]
  | 0x0201 => [(0, a 0)]
  | 0x0202 => [(0, a 0), (1, a 0 * 16 + a 1)]
  | 0x0203 => [(0, a 0), (1, a 0 * 16 + a 1)]
  | 0x0204 => [(0, a 0), (2, a 0 * 64 + a 1), (1, a 0 * 16 + a 2)]
  | 0x0205 => [(0, a 0), (2, a 0 * 64 + a 1)]
  | 0x0206 => [(0, a 0)]
  | 0x0207 => [(0, a 0)]
  | 0x0300 => [(11, a 0)]
  | 0x0301 => [(11, a 0)]
  | 0x0400 => (6, a 0) :: (0, a 1) :: (if a 2 = 255 then [] else [(0, a 2)])
  | 0x0401 => [(6, a 0)]
  | 0x0402 => [(7, a 0), (6, a 1)]
  | 0x0403 => [(6, a 0), (4, a 2)]
  | 0x0404 => [(6, a 0), (7, a 1)]
  | 0x0405 => [(6, a 0)]
  | 0x0500 => [(8, a 0)]
  | 0x0501 => [(8, a 0)]
  | 0x0502 => [(8, a 0)]
  | 0x0600 => [(9, a 0)]
  | 0x0601 => [(9, a 0)]
  | 0x0700 => [(10, a 0)]
  | _ => (s.cmdParts n code).map fun p => (0, p)

/-- The address argument of a command with the bytes it names and whether the command writes there (R365). -/
def State.cmdAddr (s : State) (n code : Nat) : Option (Nat × Nat × Bool) :=
  let a := s.arg n
  match code with
  | 0x0100 => some (a 3, 16 * a 1, false)
  | 0x0103 => some (a 4, 16 * a 3, false)
  | 0x0202 => some (a 3, a 2, false)
  | 0x0207 => some (a 1, 576, false)
  | 0x0305 => some (a 1, 8 * a 0, false)
  | 0x0403 => some (a 3, 16 * a 1, false)
  | 0x0500 => some (a 2, a 1, false)
  | 0x0602 => some (a 2, 16 * a 1, true)
  | _ => none

/-! ### Completion (R355, R363) -/

/-- The locks of a mailbox's command released. -/
def State.unlock (s : State) (n : Nat) : State := { s with locks := s.locks.filter fun l => decide (l.mailbox ≠ n) }

/-- Bytes written over a register window in 8-byte pieces. -/
def State.setRegBytes (s : State) (a : Nat) (l : List Byte) : State :=
  s.setPieces a ((List.range ((l.length + 7) / 8)).map fun i => numAt l (8 * i) 8)

/-- The record of R363: a command that completed with a status other than `ST_OK`. -/
def State.cmdRecord (s : State) (n : Nat) (c : Status) (r : List Byte) : State :=
  s.post { mkRec c (stUnit c) 0 with context := n, syndrome := numAt r 0 2 + numAt r 4 4 * 65536 }

/-- The payload of a `COMMAND` record (R590): mailbox, status, acceptance round, request buffer, and the SHA-384 of the bytes at an
address argument, with the bytes when they are at most `REC_CMD_MAX`. -/
def State.cmdPayload (s : State) (n : Nat) (c : Status) (round : Nat) (r : List Byte) : List Byte :=
  let extra := match s.cmdAddr n (numAt r 0 2) with
    | some (a, len, false) =>
      let d := s.bytes a len
      leBytes (Config.sha384 d).toNat 48 ++ (if len ≤ s.regN R.REC_CMD_MAX then d else [])
    | _ => []
  leBytes n 1 ++ leBytes 0 1 ++ leBytes c.toNat 2 ++ leBytes round 4 ++ r ++ extra

/-- The bindings over which a mailbox is served (R400). -/
def State.boundTo (s : State) (n : Nat) : List Nat :=
  (List.range 4).filter fun b => s.bit (R.ETH_MB_CFG b) 0 && decide (s.fld (R.ETH_MB_CFG b) 1 4 = n)

/-- A command completes (R355, R363): the response buffer, then `RSP_SEQ`, the counters, the one record of a refusal, the recorder's
record, and a response frame for a mailbox served over Ethernet (R400). -/
def State.respond (s : State) (n : Nat) (c : Status) (ret : List Byte) : State :=
  let r := s.request n
  let seq := s.regN (R.SUP_MB_REQ_SEQ n)
  let round := (s.mbox n).accepted.getD 0
  let head := r.take 2 ++ leBytes c.toNat 2 ++ (r.drop 4).take 4 ++ leBytes seq 4 ++ leBytes ret.length 2 ++ leBytes 0 2
  let s := s.setRegBytes (R.SUP_MB_RSP n) ((head ++ ret ++ List.replicate 256 0#8).take 256)
  let s := (s.setRegN (R.SUP_MB_RSP_SEQ n) seq).setFld (R.SUP_MB_STATE n) 0 1 0
  let s := (s.setFld (R.SUP_MB_STATE n) 8 8 0).incReg R.SUP_CMD_CNT
  let s := if c = ST.OK then s else (s.incReg R.SUP_REFUSE_CNT).cmdRecord n c r
  let group : Nat := ((cmdOf (numAt r 0 2)).map fun x => x.group).getD 0
  let s := if c = ST.OK ∧ 2 ≤ group ∧ group ≤ 10 then { s with recorder := { s.recorder with clean := false } } else s
  let s := s.tap 0x08 (some 6) 0x01 n s.now (s.cmdPayload n c round r)
  let s := (s.unlock n).modMbox n fun m => { m with accepted := none, waiting := false }
  { s with ethRsp := s.ethRsp ++ s.boundTo n }

/-! ### The sequence protocol (R353) -/

/-- Bytes written into a request buffer at an offset: not while the mailbox is busy. -/
def State.writeRequest (s : State) (n off : Nat) (data : List Byte) : State × Option Status :=
  if s.bit (R.SUP_MB_STATE n) 0 then refuse s ST.MB_BUSY
  else
    let r := s.request n
    accept (s.setRegBytes (R.SUP_MB_REQ n) ((r.take off ++ data ++ r.drop (off + data.length)).take 256))

/-- A write of `REQ_SEQ` (R353): the next number makes the mailbox busy. -/
def State.submit (s : State) (n seq : Nat) : State × Option Status :=
  if s.bit (R.SUP_MB_STATE n) 0 then refuse s ST.MB_BUSY
  else if seq ≠ (s.regN (R.SUP_MB_RSP_SEQ n) + 1) % 2 ^ 32 then refuse s ST.MB_SEQ
  else
    let s := (s.setRegN (R.SUP_MB_REQ_SEQ n) seq).setFld (R.SUP_MB_STATE n) 0 1 1
    accept (s.modMbox n fun _ => { landed := s.age })

/-- SUP_MBN_REQ_SEQ: a client writes the sequence number of a request. -/
def execSupMbnReqSeq (m n : Nat) (v : Dword) (s : State) : Host.Outcome State Fault Refusal :=
  ok (s.regBus m (R.SUP_MB_REQ_SEQ (n % 16)) 4 fun s => s.submit (n % 16) (v.toNat % 2 ^ 32))

/-! ### The service round (R357 to R362) -/

/-- Groups served in Grey (R362, check 5). -/
def greyGroup (g : Nat) : Bool := g ∈ [0, 1, 2, 5, 10, 11, 12]

/-- Whether a named partition is being created or destroyed (R318, R360). -/
def State.partMoving (s : State) (p : Nat) : Bool :=
  decide (s.fld (R.ACC_P_STATUS p) 0 2 = 1 ∨ s.fld (R.ACC_P_STATUS p) 0 2 = 3)

/-- Whether an address argument passes its target's table for the owner (R362, check 8), each part of it on its own (R610); the
record of a denial. -/
def State.argAccess (s : State) (n : Nat) (x : Option (Nat × Nat × Bool)) : Option State :=
  match x with
  | none => none
  | some (a, len, wr) =>
    let k : AccessKind := if wr then .write else .read
    if len = 0 then none
    else
      match (splitRange a len 4096).find? fun x => !(s.admits (s.mbOwner n) k x.1 x.2) with
      | none => none
      | some (a, len) =>
        match s.windowCheck (s.mbOwner n) a len with
        | .inl _ => some s
        | .inr _ => some (s.refuseAccess (s.mbOwner n) k a len)

/-- Checks 1 to 8 of R362 in their order: the code of the first that fails, with the record that check 8 adds. -/
def State.mbCheck (s : State) (n : Nat) : Option (Status × State) :=
  let r := s.request n
  let code := numAt r 0 2
  match cmdOf code with
  | none => some (ST.MB_CMD, s)
  | some c =>
    if !(s.bit (R.SUP_MB_RIGHTS n) c.group) then some (ST.MB_RIGHTS, s)
    else if numAt r 2 2 ≠ itemsLen c.items ∨ !(paddingZero r c) ∨ !(addrsOk r c) ∨ !(s.rangesOk n code) then some (ST.MB_ARG, s)
    else if (s.cmdUnit n code).any s.unitAbsent then some (ST.UNIT_ABSENT, s)
    else if s.fld R.CFG_SAFE_STATE 0 2 = 0 ∧ code = 0x0200 then some (ST.PART_GREY, s)
    else if s.fld R.CFG_SAFE_STATE 0 2 = 0 ∧ !(greyGroup c.group) then some (ST.SUP_GREY, s)
    else if (s.cmdParts n code).any fun p => !(s.bit (R.SUP_MB_SCOPE n) p) then some (ST.MB_SCOPE, s)
    else if (s.cmdParts n code).any s.partMoving then some (ST.PART_STATE, s)
    else if s.locks.any fun l => decide (l.mailbox ≠ n) && (s.cmdLocks n code).contains (l.kind, l.id) then
      some (ST.MB_OBJECT_BUSY, s)
    else (s.argAccess n (s.cmdAddr n code)).map fun t => (ST.MB_ARG_ACCESS, t)

/-- A request accepted in its slot (R358 to R362): it takes its locks, or completes with the first check that fails. A refused
`REG_READ` of an absent unit returns zeros (R371). -/
def State.acceptReq (s : State) (n round : Nat) : State :=
  let s := s.modMbox n fun m => { m with accepted := some round }
  match s.mbCheck n with
  | some (c, s) =>
    let zeros := if c = ST.UNIT_ABSENT ∧ s.reqCode n = 0x0004 then List.replicate (8 * s.arg n 3) 0#8 else []
    s.respond n c zeros
  | none =>
    { s with locks := s.locks ++ (s.cmdLocks n (s.reqCode n)).map fun x => { kind := x.1, id := x.2, mailbox := n } }

/-! ### Commands of a replay (R597) -/

/-- The group of a command number; an unknown number has none. -/
def groupOf (code : Nat) : Option Nat := (cmdOf code).map fun c => c.group

/-- A request of a client in its slot: while a replay runs only groups QUERY and DEBUG are served. -/
def State.takeReq (s : State) (n round : Nat) : State :=
  if s.replaying ∧ groupOf (s.reqCode n) ≠ some 0 ∧ groupOf (s.reqCode n) ≠ some 11 then
    (s.modMbox n fun m => { m with accepted := some round }).respond n ST.REPLAY_ACTIVE []
  else s.acceptReq n round

/-- The next `COMMAND` record of a mailbox in the loaded recording. -/
def State.nextCommand (s : State) (n : Nat) : Option RecItem :=
  (s.recorder.loaded.filter fun r => decide (r.typ = 8 ∧ numAt r.data 0 1 = n))[mget 0 s.recorder.issued n]?

/-- The bytes of an address argument: from the record when it holds them, else from the blob area, matched by SHA-384. -/
def State.argBytes (s : State) (extra : List Byte) (len : Nat) : Option (List Byte) :=
  let hash := leNat (extra.take 48)
  let kept := (extra.drop 48).take len
  if kept.length = len then some kept
  else
    let d := s.bytes (s.recorder.blobs + Config.blobPlace (BitVec.ofNat 384 hash)) len
    if s.recorder.blobs ≠ 0 ∧ (Config.sha384 d).toNat = hash then some d else none

/-- A recorded request stands again in its mailbox, with the bytes of its address argument in place; none when a blob is missing. -/
def State.restoreRequest (s : State) (n : Nat) (r : RecItem) : Option State :=
  let s := s.setRegBytes (R.SUP_MB_REQ n) ((r.data.drop 8).take 256)
  let s := s.setRegN (R.SUP_MB_REQ_SEQ n) ((s.regN (R.SUP_MB_RSP_SEQ n) + 1) % 2 ^ 32)
  let s := (s.setFld (R.SUP_MB_STATE n) 0 1 1).modMbox n fun _ => { landed := s.age }
  match s.cmdAddr n (s.reqCode n) with
  | some (a, len, false) => (s.argBytes (r.data.drop 264) len).map fun d => s.store a d false
  | _ => some s

/-- In a replay, the recorded command of a free mailbox whose round has come is reissued. -/
def State.reissue (s : State) (n round : Nat) : State :=
  if !s.replaying ∨ s.bit (R.SUP_MB_STATE n) 0 then s
  else
    match s.nextCommand n with
    | none => s
    | some r =>
      if (round + 2 ^ 32 - numAt r.data 4 4) % 2 ^ 32 < 2 ^ 31 then
        let s := { s with recorder := { s.recorder with issued := mmod 0 s.recorder.issued n fun k => k + 1 } }
        match s.restoreRequest n r with
        | some t => t.acceptReq n round
        | none => (s.postC ST.REPLAY_BLOB 0x07 0).replayStop
      else s

/-- One mailbox's slot of the round that began at `t0` (R357, R358). -/
def State.slotOf (s : State) (t0 round n : Nat) : State :=
  if s.bit (R.SUP_MB_STATE n) 0 then
    match (s.mbox n).accepted with
    | some _ => s.incFld (R.SUP_MB_STATE n) 8 8
    | none => (if s.timeOf (s.mbox n).landed ≤ t0 + 200 * n then s.takeReq n round else s).reissue n round
  else s.reissue n round

/-- SERVICE_ROUND: the slots of the round at hand, mailboxes in ascending order, once the last slot has begun (R357); service begins when
the supervisor firmware runs (R540, step 8). -/
def execServiceRound (s : State) : Host.Outcome State Fault Refusal :=
  if s.now < s.roundNext + 3000 ∨ s.boot.phase ≠ .done then ok s
  else
    let t0 := s.roundNext
    let s := s.wrapReg R.SUP_ROUND_CNT
    let s := s.each (List.range 16) fun s n => s.slotOf t0 (t0 / 4000 % 2 ^ 32) n
    ok { s with roundNext := t0 + 4000 }

/-! ### Running a command -/

/-- What a command's own rules make of it: a status with return values, or work that hardware still does. -/
inductive Done where
  | now (c : Status) (ret : List Byte)
  | later
deriving DecidableEq, Repr, Inhabited

/-- A command that succeeds without return values. -/
def okay (s : State) : State × Done := (s, .now ST.OK [])

/-- A command that succeeds with return values. -/
def giving (s : State) (l : List Byte) : State × Done := (s, .now ST.OK l)

/-- A command refused with a code, without further effect. -/
def denied (s : State) (c : Status) : State × Done := (s, .now c [])

/-- The command of mailbox `n`, accepted in an earlier slot, does its work and completes, or waits for hardware; a row whose command the
mailbox does not hold has no effect. `pick` tells apart the operations that share a number. -/
def State.runCmd (s : State) (n code : Nat) (pick : Bool) (f : State → State × Done) : State :=
  if (s.mbox n).accepted.isSome ∧ !(s.mbox n).waiting ∧ s.reqCode n = code ∧ pick then
    match f s with
    | (s, .now c ret) => s.respond n c ret
    | (s, .later) => s.modMbox n fun m => { m with waiting := true }
  else s

/-- The hardware of a waiting command has finished (R359). -/
def State.finish (s : State) (n : Nat) (c : Status) (ret : List Byte) : State :=
  if (s.mbox n).waiting then s.respond n c ret else s

/-- The commands in progress that act on a named object complete with `ST_MB_RESET` (R356), but for the mailbox that asked. -/
def State.overtake (s : State) (kind id : Nat) (but_ : Option Nat) : State :=
  s.each (distinct ((s.locks.filter fun l => decide (l.kind = kind ∧ l.id = id ∧ some l.mailbox ≠ but_)).map fun l => l.mailbox))
    fun s n => s.respond n ST.MB_RESET []

end Sys2Proof.Machine
end

