-- ==== Sys2Proof/Machine/Safe.lean ====
section
/-! DEFINITION. Events of the safety state: leaving Grey (R444), the supervisor watchdog (R446), HEALTH (R449), the ends of Amber and Crimson causes (R445 to R447), and the enabling of an output stream (R458). -/

namespace Sys2Proof.Machine

/-- Whether everything R444 asks for holds: the checker classes that are not spare-able are proven, every repair map is locked, the
token check has passed, the supervisor watchdog runs, and no S4 record has been written since the start. -/
def State.mayLeaveGrey (s : State) : Bool :=
  s.bit R.CFG_INJ_RESULT 31 && decide (s.fld R.CFG_INJ_RESULT 8 8 = 255) &&
    ((List.range 4).all fun d => s.bit (R.CD_CTRL d) 0) && s.boot.comboOk && s.safety.watchdog && !s.safety.expired &&
    !s.safety.s4Seen && !s.safety.notProven && s.chipReset.isNone

/-- The device leaves Grey as soon as R444 holds. -/
def State.leaveGrey (s : State) : State :=
  if s.safeState = 0 ∧ s.mayLeaveGrey then s.moveTo s.wantState s.now false else s

/-- The supervisor watchdog has expired (R446 cause 5): latched Crimson and an S4 record,
whose syndrome holds the missed time and the latest kick (R492). -/
def State.watchdogExpires (s : State) : State :=
  let s := s.modSafety fun y => { y with expired := true }
  (s.crimson 5 none 0).post
    { mkRec ST.SAFE_KICK_MISSING 0x00 0 with syndrome := s.timeOf (s.safety.kickAt + 1000000) + s.safety.kickTime * 2 ^ 64 }

/-- Whether 1 ms has passed since the latest kick. -/
def State.kickOverdue (s : State) : Bool :=
  s.safety.watchdog && !s.safety.expired && decide (s.safety.kickAt + 1000000 ≤ s.age)

/-- CFG_SAFE_KICK: any write restarts the watchdog (R446, R486); the first starts it. -/
def actKick (s : State) : State :=
  let s := if s.kickOverdue then s.watchdogExpires else s
  (s.modSafety fun y => { y with kickAt := s.age, kickTime := s.now, watchdog := true }).leaveGrey

/-- CFG_SAFE_KICK. -/
def execCfgSafeKick (m : Nat) (s : State) : Host.Outcome State Fault Refusal :=
  ok (s.regBus m R.CFG_SAFE_KICK 4 fun s => accept (actKick s))

/-- SUPERVISOR_WATCHDOG: 1 ms without a kick. -/
def execSupervisorWatchdog (s : State) : Host.Outcome State Fault Refusal :=
  ok (if s.kickOverdue then s.watchdogExpires else s)

/-- HEALTH_TOGGLE: a multiple of 50,000 ns in Ivory or Amber (R449). -/
def execHealthToggle (s : State) : Host.Outcome State Fault Refusal :=
  ok (if (s.safeState = 1 ∨ s.safeState = 2) ∧ s.safety.healthEnd ≠ some (s.now / 50000) then
    let s := s.modSafety fun y => { y with healthEnd := some (s.now / 50000) }
    s.setBit R.CFG_HEALTH 0 (!(s.bit R.CFG_HEALTH 0))
  else s)

/-- AMBER_HOLD_END: the hold of cause 0, 1 or 8 has passed (R445). -/
def execAmberHoldEnd (cause : Nat) (s : State) : Host.Outcome State Fault Refusal :=
  ok (match s.safety.amberEnd.lookup cause with
    | some t =>
      if t ≤ s.age then
        (s.modSafety fun y => { y with amberEnd := merase y.amberEnd cause }).setAmber cause false
      else s
    | none => s)

/-- HOLDOVER_AMBER: holdover has lasted longer than `CFG_HOLDOVER_AMBER` (R445 cause 4). -/
def execHoldoverAmber (s : State) : Host.Outcome State Fault Refusal :=
  ok (match s.servo.since with
    | some t =>
      if t + ms (s.regN R.CFG_HOLDOVER_AMBER) < s.age ∧ !(s.safety.amberOn.getLsbD 4) then
        (s.postC ST.SAFE_HOLDOVER_LONG 0x00 0).setAmber 4 true
      else s
    | none => s)

/-- SAFE_REQUEST_RELEASE: the safe-state request has been inactive for `CFG_SAFE_REL` (R446 cause 3). -/
def execSafeRequestRelease (s : State) : Host.Outcome State Fault Refusal :=
  ok (match s.safety.safeLow with
    | some t =>
      if s.safety.latched.getLsbD 3 ∧ t + ms (s.regN R.CFG_SAFE_REL) ≤ s.age then s.unlatch 3 else s
    | none => s)

/-- THERMAL_CRIMSON_EXIT: the hottest sensor has stayed below `PMU_TSHED` − `PMU_THYST` for 100 ms (R446 cause 6). -/
def execThermalCrimsonExit (s : State) : Host.Outcome State Fault Refusal :=
  ok (match s.power.coolSince with
    | some t => if s.safety.latched.getLsbD 6 ∧ t + 100000000 ≤ s.age then s.unlatch 6 else s
    | none => s)

/-! ### Stream enable (R458) -/

/-- The dies whose hub links a stream's commit reads use. -/
def State.streamDies (s : State) (cfg : Nat) : List Nat :=
  let list := bitsOf cfg 40 16
  let die := fun p => (List.range 4).filter fun d => s.hasLanding d list && decide ((s.landing d list).partition = p)
  (die (bitsOf cfg 4 5)).take 1 ++ (if bitsOf cfg 1 1 = 1 then (die (bitsOf cfg 9 5)).take 1 else [])

/-- The lanes in use on a die's hub link (R58): kind-1 descriptors and the enabled output streams but `i`. -/
def State.linkLanes (s : State) (d i : Nat) : Nat :=
  (s.handoffs.map fun x => if x.2.desc.dstKind = 1 ∧ x.2.desc.linkMask / 2 ^ d % 2 = 1 then x.2.desc.lanes else 0).foldl (· + ·) 0 +
  ((List.range 256).map fun k =>
    if k ≠ i ∧ s.osEn k ∧ d ∈ s.streamDies (s.regN (R.TW_OS_CFG k)) then s.osLanes k else 0).foldl (· + ·) 0

/-- The total length of a copy's landing list. -/
def State.regionLen (s : State) (p list : Nat) : Nat :=
  match s.outRegion p list with
  | some l => landingBytes l
  | none => 0

/-- The code that refuses the enabling of stream `i` with a configuration (R458). -/
def State.streamRefusal (s : State) (i cfg : Nat) : Option Status :=
  let pa := bitsOf cfg 4 5
  let pb := bitsOf cfg 9 5
  let twin := decide (bitsOf cfg 1 1 = 1)
  let len := s.regionLen pa (bitsOf cfg 40 16)
  let out := (s.ho (bitsOf cfg 20 10)).desc
  let other := (List.range 256).any fun k =>
    decide (k ≠ i) && s.osEn k && s.osSafety k &&
      (decide (s.osPart k false = pa) || (twin && decide (s.osPart k false = pb)) ||
        (s.osTwin k && (decide (s.osPart k true = pa) || (twin && decide (s.osPart k true = pb)))))
  if twin ∧ !(s.pairedDies pa pb) then some ST.SAFE_STREAM_CONFIG
  else if twin ∧ len ≠ s.regionLen pb (bitsOf cfg 40 16) then some ST.SAFE_STREAM_CONFIG
  else if out.producer ≠ 0x036 ∨ out.slotBytes < 64 + len then some ST.SAFE_STREAM_CONFIG
  else if other then some ST.SAFE_STREAM_CONFIG
  else if (s.streamDies cfg).any fun d => decide (16 < s.linkLanes d i + bitsOf cfg 56 5) then some ST.HANDOFF_LANES
  else none

/-- Debug rights 1 and 3 end when a safety stream is enabled (R602). -/
def State.revokeDebug (s : State) : State :=
  if s.bit R.SNAP_DBG_STATE 1 ∨ s.bit R.SNAP_DBG_STATE 3 then
    ((s.setBit R.SNAP_DBG_STATE 1 false).setBit R.SNAP_DBG_STATE 3 false).postC ST.DBG_UNLOCK_SAFETY 0x06 0
  else s

/-- A write of `TW_OSs_CFG` (R458, R486): while `EN` is 1 only `EN` itself changes. Enabling a stream with
`SAFETY` 1 revokes the debug rights Access and Halt (R602). -/
def actStream (i : Nat) (s : State) (v : Nat) : State × Option Status :=
  let a := R.TW_OS_CFG i
  if s.osEn i then accept (s.setBit a 0 (decide (v % 2 = 1)))
  else if v % 2 = 0 then accept (s.setRegN a (v % 2 ^ 62))
  else
    match s.streamRefusal i v with
    | some c => refuse s c
    | none =>
      let s := s.setRegN a (v % 2 ^ 62)
      accept (if bitsOf v 2 1 = 1 then s.revokeDebug else s)

/-- STREAM_ENABLE: the supervisor writes `TW_OSs_CFG`. -/
def execStreamEnable (m st : Nat) (v : Dword) (s : State) : Host.Outcome State Fault Refusal :=
  ok (s.regBus m (R.TW_OS_CFG (st % 256)) 8 fun s => actStream (st % 256) s v.toNat)

end Sys2Proof.Machine
end

