-- ==== Sys2Proof/Machine/TimeCmd.lean ====
section
/-! DEFINITION. The mailbox commands of the time unit: wheels (R46 to R53), the time step (R35), landing lists and handoff descriptors (R57, R58, R615, R617). -/

namespace Sys2Proof.Machine

/-! ### Data at addr arguments (R362) -/

/-- Bytes the supervisor moves in from an addr argument; retired pages read as zero (R143). -/
def State.supRead (s : State) (a n : Nat) : List Byte × State :=
  if a + n ≤ hostBase + 0x400000000 then
    let (d, _, s) := s.dramGet a n
    (d, s)
  else (s.bytes a n, s)

/-- Bytes the supervisor moves out to an addr argument. -/
def State.supWrite (s : State) (a : Nat) (d : List Byte) : State :=
  if a + d.length ≤ hostBase + 0x400000000 then s.dramSet a d false else s.store a d false

/-- Bytes cut into pieces of `k`. -/
def chunks (k : Nat) (l : List Byte) : Nat → List Nat
  | 0 => []
  | n + 1 => leNat (l.take k) :: chunks k (l.drop k) n

/-! ### Wheel banks (R46, R47, R52, R53, R468) -/

/-- A wheel entry from its 128 bits (R52). -/
def entryOf (v : Nat) : WheelEntry :=
  { offset := bitsOf v 0 30, action := bitsOf v 32 8, unit := bitsOf v 40 8, index := bitsOf v 48 16,
    arg := bitsOf v 64 32, arg2 := bitsOf v 96 16, safety := decide (bitsOf v 112 1 = 1) }

/-- The unit an action code names (R52). -/
def actionUnit (a : Nat) : Nat :=
  match a with
  | 5 => 0x19
  | 6 => 0x1E
  | 7 => 0x1D
  | 8 => 0x18
  | 9 => 0x06
  | 12 => 0x06
  | 13 => 0x1F
  | _ => 0x02

/-- The ranges of `INDEX`, `ARG` and `ARG2` for each action (R52, R53, R468). -/
def entryArgs (e : WheelEntry) : Bool :=
  match e.action with
  | 0 => decide (e.index = 0 ∧ e.arg = 0 ∧ e.arg2 = 0)
  | 1 => decide (bitsOf e.index 5 3 = 0 ∧ e.index < 2048 ∧ e.arg < 64 ∧ e.arg2 = 0)
  | 2 => decide (e.index < 32 ∧ e.arg < 64 ∧ e.arg2 < 32)
  | 3 => decide (e.index < 32 ∧ e.arg < 8 ∧ e.arg2 = 0)
  | 4 => decide (e.index < 1024 ∧ 64 ≤ e.arg ∧ e.arg < 2 ^ 31 ∧ e.arg2 = 0)
  | 5 => decide (100 ≤ e.arg ∧ e.arg ≤ 1000000 ∧ e.arg2 = 0)
  | 6 => decide (e.index < 256 ∧ e.arg = 0 ∧ e.arg2 = 0)
  | 7 => decide (e.index < 8 ∧ e.arg2 = 0)
  | 8 => decide (e.index < 256 ∧ e.arg = 0 ∧ e.arg2 = 0)
  | 9 => decide (e.index < 64 ∧ e.arg2 = 0)
  | 10 => decide (e.index < 32 ∧ e.arg2 = 0)
  | 11 => decide (e.index < 256 ∧ 0 < e.arg ∧ e.arg < 2 ^ 31 ∧ e.arg2 = 0)
  | 12 => decide (e.index = 0 ∧ e.arg = 0 ∧ e.arg2 = 0)
  | 13 => decide (e.index < 64 ∧ e.arg = 0 ∧ e.arg2 = 0)
  | _ => false

/-- Whether the 128 bits of an entry keep R52 in a bank whose period is `period` whole nanoseconds. -/
def entryBits (v period : Nat) : Bool :=
  let e := entryOf v
  decide (bitsOf v 30 2 = 0 ∧ bitsOf v 113 15 = 0) && decide (e.offset < period) && decide (e.unit = actionUnit e.action) && entryArgs e

/-- Whether offsets never fall. -/
def risingOffsets : List WheelEntry → Bool
  | a :: b :: r => decide (a.offset ≤ b.offset) && risingOffsets (b :: r)
  | _ => true

/-- Whether 17 entries lie within 18 ns (R53). -/
def tooDense (l : List WheelEntry) : Bool :=
  (l.zip (l.drop 16)).any fun x => decide (x.2.offset - x.1.offset < 18)

/-- The partitions that a LAUNCH, TWIN_LAUNCH or SLICE falls into. -/
def fallsInto (e : WheelEntry) : List Nat :=
  match e.action with
  | 1 => [e.index % 32]
  | 2 => [e.index % 32, e.arg2 % 32]
  | 3 => [e.index % 32]
  | _ => []

/-- The kind-1 windows of a bank as (offset, length, partitions), from the descriptors in force (R53). -/
def State.bankWindows (s : State) (l : List WheelEntry) : List (Nat × Nat × List Nat) :=
  l.filterMap fun e =>
    let d := (s.ho e.index).desc
    if e.action = 4 ∧ s.hoExists e.index ∧ d.dstKind = 1 then some (e.offset, windowLen d, s.hoParts d) else none

/-- Whether an entry falls into a partition while a window of the bank is open into it, modulo the period (R53). -/
def hitsWindow (period : Nat) (ws : List (Nat × Nat × List Nat)) (e : WheelEntry) : Bool :=
  (fallsInto e).any fun p => ws.any fun w =>
    decide (p ∈ w.2.2) && (decide (period ≤ w.2.1) || decide ((e.offset + period - w.1) % period < w.2.1))

/-- Whether a TWIN_LAUNCH names two existing partitions that do not lie on paired dies (R53). -/
def State.badTwin (s : State) (e : WheelEntry) : Bool :=
  decide (e.action = 2) && decide (s.partState (e.index % 32) ≠ 0) && decide (s.partState (e.arg2 % 32) ≠ 0) &&
    !(s.pairedDies (e.index % 32) (e.arg2 % 32))

/-- The code that refuses a bank (R47, R52, R53, R371). -/
def State.bankRefusal (s : State) (period : Nat) (raw : List Nat) : Option Status :=
  let l := raw.map entryOf
  let p := period / 65536
  if period < 1000000 * 65536 ∨ 1000000000 * 65536 < period then some ST.WHEEL_PERIOD
  else if !(raw.all fun v => entryBits v p) ∨ !(risingOffsets l) ∨ tooDense l ∨ l.any s.badTwin ∨
      l.any (hitsWindow p (s.bankWindows l)) then some ST.WHEEL_BAD_ENTRY
  else if l.any fun e => s.unitAbsent e.unit then some ST.UNIT_ABSENT
  else none

/-- A wheel's inactive bank replaced, with its period and count registers (R69). -/
def State.putBank (s : State) (w period : Nat) (l : List WheelEntry) : State :=
  if s.activeBank w = 0 then
    ((s.setRegN (R.TW_W_PERIOD_B w) period).setFld (R.TW_W_COUNT w) 16 13 l.length).modWheel w fun x =>
      { x with entriesB := l }
  else
    ((s.setRegN (R.TW_W_PERIOD_A w) period).setFld (R.TW_W_COUNT w) 0 13 l.length).modWheel w fun x =>
      { x with entriesA := l }

/-- WHEEL_LOAD: the inactive bank replaced (R46). -/
def execWheelLoad (n : Nat) (s : State) : Host.Outcome State Fault Refusal :=
  ok (s.runCmd n 0x0100 true fun s =>
    let w := s.arg n 0
    let (d, s) := s.supRead (s.arg n 3) (16 * s.arg n 1)
    let raw := chunks 16 d (s.arg n 1)
    if (s.wheel w).swapAt.isSome then denied s ST.WHEEL_BANK_BUSY
    else
      match s.bankRefusal (s.arg n 2) raw with
      | some c => denied s c
      | none => okay (s.putBank w (s.arg n 2) (raw.map entryOf)))

/-- The outcome of a request on a wheel: its status and, when accepted, the device time at which it takes effect. -/
def wheelDone (x : State × Status × Nat) : State × Done :=
  if x.2.1 = ST.OK then giving x.1 (leBytes x.2.2 8) else denied x.1 x.2.1

/-- WHEEL_ENABLE: `WHEEL_CTRL` op 0 (R49). -/
def execWheelEnable (n : Nat) (s : State) : Host.Outcome State Fault Refusal :=
  ok (s.runCmd n 0x0101 (decide (s.arg n 1 = 0)) fun s => wheelDone (s.wheelEnable (s.arg n 0) (s.arg n 2)))

/-- WHEEL_DISABLE: `WHEEL_CTRL` op 1 (R51). -/
def execWheelDisable (n : Nat) (s : State) : Host.Outcome State Fault Refusal :=
  ok (s.runCmd n 0x0101 (decide (s.arg n 1 = 1)) fun s => wheelDone (s.wheelDisable (s.arg n 0)))

/-- WHEEL_SWAP: `WHEEL_CTRL` op 2 (R50). -/
def execWheelSwap (n : Nat) (s : State) : Host.Outcome State Fault Refusal :=
  ok (s.runCmd n 0x0101 (decide (s.arg n 1 = 2)) fun s => wheelDone (s.wheelSwap (s.arg n 0)))

/-- TIME_STEP: device time is set while no wheel is enabled (R35). -/
def execTimeStep (n : Nat) (s : State) : Host.Outcome State Fault Refusal :=
  ok (s.runCmd n 0x0102 true fun s =>
    if s.anyWheel then denied s ST.TIME_STEP_REFUSED else okay (s.stepTime (s.arg n 0)))

/-! ### Handoff descriptors (R57, R58, R617) -/

/-- A handoff descriptor from its 256 bits (R58). -/
def hoDescOf (v : Nat) : HoDesc :=
  { srcBase := bitsOf v 0 48, producer := bitsOf v 48 10, slotBytes := bitsOf v 64 32, dstKind := bitsOf v 96 8,
    dstUnit := bitsOf v 104 8, dstIndex := bitsOf v 112 16, linkMask := bitsOf v 128 4, lanes := bitsOf v 132 5,
    consumer := bitsOf v 137 5 }

/-- Whether a descriptor's fields lie in the ranges of R57 and R58, check 1. -/
def hoFieldsOk (v : Nat) : Bool :=
  let d := hoDescOf v
  decide (bitsOf v 58 6 = 0 ∧ v < 2 ^ 142) && decide (d.srcBase % 4096 = 0) &&
    inHost d.srcBase (2 * slotStride d + d.slotBytes) && decide (d.slotBytes % 64 = 0) &&
    (match d.dstKind with
     | 0 => true
     | 1 => decide (64 ≤ d.slotBytes ∧ d.slotBytes ≤ 268435456 ∧ 1 ≤ d.lanes ∧ d.lanes ≤ 16 ∧ d.linkMask ≠ 0)
     | 2 => decide (64 ≤ d.slotBytes ∧ d.slotBytes ≤ 65536) && decide (d.dstIndex < 16) &&
         decide (d.dstUnit = 0x1D ∨ d.dstUnit = 0x1E ∨ d.dstUnit = 0x18)
     | _ => false)

/-- Whether a kind-1 descriptor's landing lists serve it (R58, check 3). -/
def State.hoDestOk (s : State) (d : HoDesc) : Bool :=
  let dies := maskDies d.linkMask
  dies.all (fun k => s.hasLanding k d.dstIndex) &&
    (match dies.head? with
     | some k => decide ((s.landing k d.dstIndex).partition = d.consumer)
     | none => false) &&
    dies.all fun k =>
      let l := s.landing k d.dstIndex
      decide (2 * d.lanes ≤ (landingTiles l).length) && decide (d.slotBytes + 64 ≤ landingBytes l)

/-- The code that refuses the creation of descriptor `i` (R58, R617, R371). -/
def State.hoRefusal (s : State) (i v : Nat) : Option Status :=
  let d := hoDescOf v
  let others := { s with handoffs := merase s.handoffs i }
  if !(hoFieldsOk v) then some ST.MB_ARG
  else if d.dstKind = 2 ∧ s.unitAbsent d.dstUnit then some ST.UNIT_ABSENT
  else if d.dstKind = 1 ∧ (maskDies d.linkMask).any fun k => decide (16 < others.linkLanes k 256 + d.lanes) then some ST.HANDOFF_LANES
  else if d.dstKind = 1 ∧ !(s.hoDestOk d) then some ST.HANDOFF_DEST
  else if d.dstKind = 2 ∧ d.dstUnit = 0x1E ∧ 32768 < d.slotBytes then some ST.HANDOFF_DEST
  else if s.windowOpen i then some ST.MB_OBJECT_BUSY
  else none

/-- A descriptor starts afresh (R617): L, Q and D none, the write slot 0, the sequence numbers and `STALE_RUN` 0. -/
def State.freshHo (s : State) (i : Nat) : State :=
  (s.setRegN (R.TW_HO_STATE i) (3 * 2 ^ 32 + 3 * 2 ^ 34 + 3 * 2 ^ 38)).setRegN (R.TW_HO_DELIV i) 0

/-- HO_CREATE: a handoff descriptor comes into being, or replaces one. -/
def execHoCreate (n : Nat) (s : State) : Host.Outcome State Fault Refusal :=
  ok (s.runCmd n 0x0104 true fun s =>
    let i := s.arg n 0
    let v := s.arg n 1
    match s.hoRefusal i v with
    | some c => denied s c
    | none => okay (({ s with handoffs := minsert s.handoffs i { desc := hoDescOf v } }).freshHo i))

/-- HO_DESTROY: a descriptor ceases to exist; a window open at that moment finishes unchanged (R617). -/
def execHoDestroy (n : Nat) (s : State) : Host.Outcome State Fault Refusal :=
  ok (s.runCmd n 0x0105 true fun s =>
    let i := s.arg n 0
    let s := { s with handoffs := merase s.handoffs i }
    match s.windows.lookup i with
    | some w => okay ({ s with windows := minsert s.windows i { w with orphan := true } }.freshHo i)
    | none => okay (s.freshHo i))

/-! ### Landing lists (R615, R365) -/

/-- A stripe from its 16 bytes, when its unused bytes are zero. -/
def stripeOf (v : Nat) : Option Stripe :=
  if bitsOf v 16 16 = 0 ∧ bitsOf v 96 32 = 0 then
    some { tile := bitsOf v 0 16, offset := bitsOf v 32 32, length := bitsOf v 64 32 }
  else none

/-- Whether an output-commit read of a landing list is in progress. -/
def State.listRead (s : State) (die l : Nat) : Bool :=
  s.streams.any fun x =>
    (x.2.commit.isSome || x.2.reread.isSome) && decide (s.osList x.1 = l) &&
      (decide (s.osPart x.1 false = (s.landing die l).partition) || (s.osTwin x.1 && decide (s.osPart x.1 true = (s.landing die l).partition)))

/-- Whether an open window writes a landing list. -/
def State.listWritten (s : State) (die l : Nat) : Bool :=
  s.windows.any fun w =>
    decide (w.2.desc.dstKind = 1) && decide (w.2.desc.dstIndex = l) && decide (w.2.desc.linkMask / 2 ^ die % 2 = 1)

/-- A landing list put in place. -/
def State.putLanding (s : State) (die l p : Nat) (st : List Stripe) : State :=
  { s with landings := minsert s.landings (die * 65536 + l) { partition := p, stripes := st } }

/-- The code that refuses a landing list (R615). -/
def State.landingRefusal (s : State) (p die l : Nat) (st : List Stripe) : Option Status :=
  let t := s.putLanding die l p st
  if !(st.all fun x => decide (x.tile < 2048) && decide (x.tile / 512 = die) && s.bit (R.ACC_P_BLOCKS p) (blockOf x.tile)) then
    some ST.HANDOFF_DEST
  else if !(st.all fun x => decide (x.offset + x.length ≤ 0x2000000)) then some ST.HANDOFF_DEST
  else if (st.headD {}).length < 64 then some ST.HANDOFF_DEST
  else if s.hasLanding die l ∧ s.handoffs.any fun x =>
      decide (x.2.desc.dstKind = 1) && decide (x.2.desc.dstIndex = l) && decide (x.2.desc.linkMask / 2 ^ die % 2 = 1) &&
        !(t.hoDestOk x.2.desc) then some ST.HANDOFF_DEST
  else if s.listWritten die l ∨ s.listRead die l then some ST.MB_OBJECT_BUSY
  else none

/-- HO_LANDING: a landing list is written for a partition. -/
def execHoLanding (n : Nat) (s : State) : Host.Outcome State Fault Refusal :=
  ok (s.runCmd n 0x0103 true fun s =>
    let p := s.arg n 0
    let (d, s) := s.supRead (s.arg n 4) (16 * s.arg n 3)
    let l := (chunks 16 d (s.arg n 3)).map stripeOf
    if l.any Option.isNone then denied s ST.MB_ARG
    else
      match s.landingRefusal p (s.arg n 1) (s.arg n 2) (l.filterMap id) with
      | some c => denied s c
      | none => okay (s.putLanding (s.arg n 1) (s.arg n 2) p (l.filterMap id)))

end Sys2Proof.Machine
end

