-- ==== Sys2Proof/Machine/MemCmd.lean ====
section
/-! DEFINITION. The mailbox commands of access tables (R341 to R344, R350), the Correctable Error Table (R140) and retirements (R141 to R144, R365). -/

namespace Sys2Proof.Machine

/-! ### Access tables -/

/-- Whether a table number is one of those R341 lists. -/
def accTable (t : Nat) : Bool := decide (t ≤ 0x101) || (decide (0x120 ≤ t) && decide (t ≤ 0x140))

/-- An access table entry from its 128 bits (R341). -/
def accEntryOf (v : Nat) : AccEntry :=
  { master := bitsOf v 0 10, mask := bitsOf v 16 10, r := decide (bitsOf v 26 1 = 1), w := decide (bitsOf v 27 1 = 1),
    x := decide (bitsOf v 28 1 = 1), valid := decide (bitsOf v 31 1 = 1), base := bitsOf v 32 48, limit := bitsOf v 80 48 }

/-- The 16 bytes of an entry. -/
def accEntryBytes (e : AccEntry) : List Byte :=
  leBytes (e.master + e.mask * 2 ^ 16 + b2n e.r * 2 ^ 26 + b2n e.w * 2 ^ 27 + b2n e.x * 2 ^ 28 + b2n e.valid * 2 ^ 31 +
    e.base * 2 ^ 32 + e.limit * 2 ^ 80) 16

/-- Whether an entry's bits keep the rules of R344. -/
def accEntryOk (v : Nat) : Bool :=
  let e := accEntryOf v
  decide (bitsOf v 10 6 = 0 ∧ bitsOf v 29 2 = 0) &&
    (!e.valid || decide (e.base % 64 = 0 ∧ e.limit % 64 = 63 ∧ e.base + 63 ≤ e.limit))

/-- ACC_WRITE: one entry of a table. -/
def execAccWrite (n : Nat) (s : State) : Host.Outcome State Fault Refusal :=
  ok (s.runCmd n 0x0300 true fun s =>
    let t := s.arg n 0
    let e := s.arg n 1
    let v := s.arg n 2
    if !(accTable t) ∨ 63 < e ∨ fixedNumber t e ∨ !(accEntryOk v) then denied s ST.ACC_TABLE
    else okay { s with access := mset {} s.access (t * 64 + e) (accEntryOf v) })

/-- ACC_READ: entries of a table. -/
def execAccRead (n : Nat) (s : State) : Host.Outcome State Fault Refusal :=
  ok (s.runCmd n 0x0301 true fun s =>
    let t := s.arg n 0
    let first := s.arg n 1
    let count := s.arg n 2
    if !(accTable t) ∨ 64 < first + count then denied s ST.ACC_TABLE
    else giving s ((List.range count).flatMap fun k => accEntryBytes (s.accEntry t (first + k))))

/-! ### The Correctable Error Table -/

/-- The table number of a die argument: 4 is the host stack's. -/
def stackOf (d : Nat) : Nat := if d = 4 then 15 else d

/-- MEM_CET_CLEAR: one entry, or all, of a die's table. -/
def execMemCetClear (n : Nat) (s : State) : Host.Outcome State Fault Refusal :=
  ok (s.runCmd n 0x0302 true fun s => okay (s.clearCet (stackOf (s.arg n 0)) (s.arg n 1 + 256 * s.arg n 2)))

/-! ### Retirements -/

/-- A retirement: stack, row, physical column or channel, and a page, or a layer and bank. -/
structure Retirement where
  die   : Nat := 0
  row   : Nat := 0
  pcol  : Nat := 0
  bank  : Bool := false
  page  : Nat := 0
  layer : Nat := 0
  num   : Nat := 0
deriving DecidableEq, Repr, Inhabited

/-- The logical tile that a physical channel backs at this start (R91, R141), or the channel of the host stack. A channel that backs
none is recorded against a tile of another die, so that it affects no access. -/
def State.backs (s : State) (x : Retirement) : Nat :=
  if x.die = 4 then x.pcol
  else
    let m := s.fld (R.CD_ROW_MAP x.die x.row) 40 6
    if x.pcol = m then (x.die + 1) % 4 * 512
    else x.die * 512 + x.row * 32 + (if x.pcol < m then x.pcol else x.pcol - 1)

/-- Whether a retirement names a channel, page or bank that exists (R365). -/
def retirementOk (x : Retirement) : Bool :=
  (if x.die = 4 then decide (x.row = 0 ∧ x.pcol < 64) else decide (x.die < 4 ∧ x.row < 16 ∧ x.pcol < 33)) &&
    (if x.bank then decide (x.layer < 4 ∧ x.num < 16) else decide (x.page < (if x.die = 4 then 262144 else 32768)))

/-- `CDn_RETIRE_CNT` brought up to date: pages and banks entered. -/
def State.showRetired (s : State) (d : Nat) : State :=
  let count := fun (f : Nat → Nat) (k : Nat) => ((List.range k).filter fun i => s.bit (f i) 63).length
  s.setRegN (R.CD_RETIRE_CNT d) (count (R.CD_RETP d) 256 + count (R.CD_RETB d) 32 * 2 ^ 16)

/-- The first free entry of a table. -/
def State.freeEntry (s : State) (f : Nat → Nat) (k : Nat) : Option Nat := (List.range k).find? fun i => !(s.bit (f i) 63)

/-- A retirement entered (R141, R144): whether it waits for a job; none when the table is full. -/
def State.retire (s : State) (x : Retirement) : Option (Bool × State) :=
  let d := stackOf x.die
  let t := s.backs x
  if x.bank then
    match s.freeEntry (R.CD_RETB d) 32 with
    | none => none
    | some i =>
      let wait := decide (x.die < 4) && s.bankInUse t x.num x.layer
      let s := s.setRegN (R.CD_RETB d i) (x.num + x.layer * 16 + t * 2 ^ 16 + x.pcol % 64 * 2 ^ 32 + b2n wait * 2 ^ 40 + 2 ^ 63)
      some (wait, (s.showRetired d).markRetired d)
  else
    match s.freeEntry (R.CD_RETP d) 256 with
    | none => none
    | some i =>
      let wait := decide (x.die < 4) && s.pageInUse t x.page
      let s := s.setRegN (R.CD_RETP d i) (x.page + t * 2 ^ 18 + x.pcol % 64 * 2 ^ 32 + b2n wait * 2 ^ 40 + 2 ^ 63)
      some (wait, (s.showRetired d).markRetired d)

/-- The outcome of one retirement as a command's (R141, R144). -/
def State.retireOne (s : State) (x : Retirement) : State × Done :=
  if !(retirementOk x) then denied s ST.MB_ARG
  else
    match s.retire x with
    | none => denied s ST.MEM_RETIRE_FULL
    | some (wait, s) => (s, .now (if wait then ST.MEM_RETIRE_PENDING else ST.OK) [BitVec.ofNat 8 (b2n wait)])

/-- MEM_RETIRE_PAGE. -/
def execMemRetirePage (n : Nat) (s : State) : Host.Outcome State Fault Refusal :=
  ok (s.runCmd n 0x0303 true fun s =>
    s.retireOne { die := s.arg n 0, row := s.arg n 1, pcol := s.arg n 2, page := s.arg n 3 })

/-- MEM_RETIRE_BANK. -/
def execMemRetireBank (n : Nat) (s : State) : Host.Outcome State Fault Refusal :=
  ok (s.runCmd n 0x0304 true fun s =>
    s.retireOne { die := s.arg n 0, row := s.arg n 1, pcol := s.arg n 2, bank := true, layer := s.arg n 3, num := s.arg n 4 })

/-- A retirement from its 8 bytes (R365): die, row, physical column, kind, then a page, or a layer and bank. -/
def retirementOf (v : Nat) : Retirement :=
  { die := bitsOf v 0 8, row := bitsOf v 8 8, pcol := bitsOf v 16 8, bank := decide (bitsOf v 24 8 = 1),
    page := bitsOf v 32 32, layer := bitsOf v 32 8, num := bitsOf v 40 8 }

/-- Retirements entered in order until the table is full: how many were, and whether one waits for a job. -/
def State.retireAllOf (s : State) : List Retirement → Nat → Bool → State × Nat × Bool × Bool
  | [], k, w => (s, k, w, false)
  | x :: r, k, w =>
    match s.retire x with
    | none => (s, k, w, true)
    | some (wait, s) => s.retireAllOf r (k + 1) (w || wait)

/-- MEM_RETIRE_LIST: retirements from a list; the number accepted is returned. -/
def execMemRetireList (n : Nat) (s : State) : Host.Outcome State Fault Refusal :=
  ok (s.runCmd n 0x0305 true fun s =>
    let (d, s) := s.supRead (s.arg n 1) (8 * s.arg n 0)
    let raw := chunks 8 d (s.arg n 0)
    let l := raw.map retirementOf
    if !(l.all retirementOk) ∨ raw.any fun v => decide (1 < bitsOf v 24 8) then denied s ST.MB_ARG
    else
      let (s, k, wait, full) := s.retireAllOf l 0 false
      (s, .now (if full then ST.MEM_RETIRE_FULL else if wait then ST.MEM_RETIRE_PENDING else ST.OK) (leBytes k 2)))

end Sys2Proof.Machine
end

