-- ==== Sys2Proof/Machine/Gpio.lean ====
section
/-! DEFINITION. Hardened inputs (R385, R414 to R417): filter, chatter, stuck latch, the safe-state request and wake signals (R567). -/

namespace Sys2Proof.Machine

/-! ### Wake signals (R567) -/

/-- The power structure changed. -/
def State.modPower (s : State) (f : Power → Power) : State := { s with power := f s.power }

/-- Whether the device is in standby or enters it. -/
def State.standingBy (s : State) : Bool :=
  decide (s.power.phase = .standby) || (decide (s.power.phase = .goingDown) && s.power.downTo)

/-- A wake event with its cause (1 WAKE, 2 CAN, 3 RESET_N) and controller (R567): latched in standby and during its entry, recorded
while the device is up. -/
def State.wakeOn (s : State) (cause ctl : Nat) : State :=
  let enabled := decide (cause = 3) || s.bit R.PMU_SBY_CTRL (if cause = 1 then 1 else 2)
  if !enabled then s
  else if s.standingBy then
    if s.power.wakeWait then s
    else
      let s := (s.setFld R.PMU_WAKE_CAUSE 0 2 cause).setFld R.PMU_WAKE_CAUSE 8 3 (if cause = 2 then ctl else 0)
      s.modPower fun p => { p with wakeWait := true }
  else if s.power.phase = .up ∧ cause ≠ 3 then s.postC ST.PWR_WAKE 0x03 0
  else s

/-! ### The state of a pin -/

/-- `GPIO_PINp_STATE` bit 0: the filtered state, asserted or not. -/
def State.pinOn (s : State) (p : Nat) : Bool := s.bit (R.GPIO_PIN_STATE p) 0
/-- Whether a pin chatters. -/
def State.pinChatter (s : State) (p : Nat) : Bool := s.bit (R.GPIO_PIN_STATE p) 1
/-- `T_GF`. -/
def State.pinGf (s : State) (p : Nat) : Nat := s.fld (R.GPIO_PIN_CFG p) 0 20

/-- Whether a pin is a hardened input: GPIO0 to 31, SAFE_IN0 and 1, WAKE, and an FSYNC pin set as an input (R385). -/
def State.isInput (s : State) (p : Nat) : Bool :=
  decide (p < 35) || (decide (p < 51) && decide (s.fld (R.CAM_FSYNC_CFG (p - 35)) 0 2 = 2))

/-- The record of a filtered change or chatter entry (R385, R590): pin, level, chatter bit, edge time. -/
def State.tapEdge (s : State) (p : Nat) (on chatter : Bool) : State :=
  s.tap 0x06 (some 4) 0x20 p s.now
    (leBytes p 1 ++ leBytes (b2n on) 1 ++ leBytes (b2n chatter) 1 ++ leBytes 0 1 ++ leBytes (s.now - s.pinGf p) 8)

/-- The safe-state request follows the filtered SAFE_IN states (R417, R446 cause 3), with its record (R487). -/
def State.safeRequest (s : State) : State :=
  let a := s.pinOn 32
  let b := s.pinOn 33
  let old := s.bit R.GPIO_SAFE 0
  let s := s.setRegN R.GPIO_SAFE (b2n (a || b) + 2 * b2n a + 4 * b2n b)
  let s := { s with safeDiff := if a = b then (none, false) else (some (s.safeDiff.1.getD s.age), s.safeDiff.2) }
  if (a || b) ∧ !old then
    ((s.modSafety fun y => { y with safeLow := none }).crimson 3 none 0).postC ST.SAFE_REQUEST 0x00 0
  else if !(a || b) ∧ old then s.modSafety fun y => { y with safeLow := some s.age }
  else s

/-- A pin's filtered state takes a value, and what depends on it follows. -/
def State.pinTake (s : State) (p : Nat) (on : Bool) : State :=
  if s.pinOn p = on then s
  else
    let s := (s.setBit (R.GPIO_PIN_STATE p) 0 on).modPin p fun x => { x with heldAt := s.age }
    if p < 32 then s.setBit R.GPIO_IN p on
    else if p < 34 then s.safeRequest
    else if p = 34 ∧ on then s.wakeOn 1 0
    else s

/-- A pin enters chatter (R415): its filtered state is asserted. -/
def State.pinChatters (s : State) (p : Nat) : State :=
  let s := (s.setBit (R.GPIO_PIN_STATE p) 1 true).incFld (R.GPIO_PIN_STATE p) 16 16
  let s := (s.modPin p fun x => { x with rejects := [] }).postC ST.GPIO_CHATTER 0x20 p
  (s.pinTake p true).tapEdge p true true

/-- Two accepted changes lie less than `T_RL` apart (R415). -/
def State.pinTooSoon (s : State) (p : Nat) : Bool :=
  match (s.pin p).changeAt with
  | some t => decide (s.age < t + s.regN (R.GPIO_PIN_RL p))
  | none => false

/-- An accepted change of a pin outside chatter (R414, R415). -/
def State.pinChange (s : State) (p : Nat) (on : Bool) : State :=
  let soon := s.pinTooSoon p
  let s := s.modPin p fun x => { x with changeAt := some s.age }
  if soon then s.pinChatters p else (s.pinTake p on).tapEdge p on false

/-! ### Events. A replay disconnects the inputs (R596). -/

/-- RAW_EXCURSION: a raw excursion shorter than `T_GF` ends and is rejected (R414, R415). -/
def execRawExcursion (pin : Nat) (s : State) : Host.Outcome State Fault Refusal :=
  if !(s.isInput pin) ∨ s.replaying then ok s
  else
    let near := ((s.pin pin).rejects ++ [s.age]).filter fun t => decide (s.age ≤ t + 4 * s.pinGf pin)
    let s := s.modPin pin fun x => { x with since := s.age, rejects := near }
    if 3 ≤ near.length ∧ !(s.pinChatter pin) then ok (s.pinChatters pin) else ok s

/-- FILTERED_CHANGE: the raw input has held a level for `T_GF` (R414); `level` is the electrical level. -/
def execFilteredChange (pin : Nat) (level : Bool) (s : State) : Host.Outcome State Fault Refusal :=
  if !(s.isInput pin) ∨ s.replaying then ok s
  else
    let on := level != s.bit (R.GPIO_PIN_CFG pin) 31
    let s := if (s.pin pin).raw = on then s
      else s.modPin pin fun x => { x with raw := on, since := s.age - s.pinGf pin }
    if s.pinChatter pin ∨ s.pinOn pin = on then ok s else ok (s.pinChange pin on)

/-- CHATTER_CLEAR: the inactive level has been held for `T_CC` (R415): the filtered state becomes inactive, an accepted change. -/
def execChatterClear (pin : Nat) (s : State) : Host.Outcome State Fault Refusal :=
  if s.isInput pin ∧ !s.replaying ∧ s.pinChatter pin ∧ !(s.pin pin).raw ∧ (s.pin pin).since + s.regN (R.GPIO_PIN_CC pin) ≤ s.age then
    ok ((s.setBit (R.GPIO_PIN_STATE pin) 1 false).pinChange pin false)
  else ok s

/-- STUCK_LATCH: the filtered state has been asserted for `T_STUCK` (R416). -/
def execStuckLatch (pin : Nat) (s : State) : Host.Outcome State Fault Refusal :=
  let t := s.regN (R.GPIO_PIN_STUCK pin)
  if s.isInput pin ∧ t ≠ 0 ∧ s.pinOn pin ∧ !(s.bit (R.GPIO_PIN_STATE pin) 2) ∧ (s.pin pin).heldAt + ms t ≤ s.age then
    ok ((s.setBit (R.GPIO_PIN_STATE pin) 2 true).postC ST.GPIO_STUCK 0x20 pin)
  else ok s

/-- STUCK_CLEAR: the filtered state has been inactive for `T_SCLR` (R416). -/
def execStuckClear (pin : Nat) (s : State) : Host.Outcome State Fault Refusal :=
  if s.isInput pin ∧ s.bit (R.GPIO_PIN_STATE pin) 2 ∧ !(s.pinOn pin) ∧
      (s.pin pin).heldAt + ms (s.regN (R.GPIO_PIN_SCLR pin)) ≤ s.age then
    ok ((s.setBit (R.GPIO_PIN_STATE pin) 2 false).postC ST.GPIO_STUCK_CLEAR 0x20 pin)
  else ok s

/-- SAFE_DISCREPANCY: the two filtered SAFE_IN states have differed for longer than `SAFE_DISC` (R417). -/
def execSafeDiscrepancy (s : State) : Host.Outcome State Fault Refusal :=
  match s.safeDiff with
  | (some t, false) =>
    if t + s.regN R.GPIO_SAFE_DISC < s.age then
      ok ({ s with safeDiff := (some t, true) }.postC ST.GPIO_SAFE_DISCREPANCY 0x20 0)
    else ok s
  | _ => ok s

end Sys2Proof.Machine
end

