-- ==== Sys2Proof/Machine/Sensor.lean ====
section
/-! DEFINITION. SENT inputs and SPI controllers (R409 to R412) and the arrivals they form (R413). -/

namespace Sys2Proof.Machine

/-- An arrival at an input source of the control engine (R292, R413): kind 0 SENT, 1 SPI, 2 CAN, 3 Ethernet; stamped now. -/
def State.ctlArrive (s : State) (kind index : Nat) (data : BitVec 512) : State :=
  { s with ctlInputs := mmod {} s.ctlInputs (kind * 256 + index) fun x => { new := some (data, s.now), old := x.new } }

/-- A SENT input. -/
def State.sent (s : State) (i : Nat) : Sent := mget {} s.sents i
/-- A SENT input changed. -/
def State.modSent (s : State) (i : Nat) (f : Sent → Sent) : State := { s with sents := mmod {} s.sents i f }

/-- A number from nibbles, the first most significant. -/
def nibbleNat (l : List Nat) : Nat := l.foldl (fun n x => n * 16 + x % 16) 0

/-- The word of a fast-channel message (R410). -/
def sentWord (status : Nat) (l : List Nat) : Nat := nibbleNat l % 2 ^ 24 + status % 16 * 2 ^ 24 + l.length % 8 * 2 ^ 28

/-- A valid message's word arrives at SENT input `j` (R410, R413). -/
def State.sentWordIn (s : State) (j w : Nat) : State :=
  let s := s.setRegN (R.SENT_LAST j) (w + shortOf s.now * 2 ^ 32)
  let s := s.modSent j fun _ => { validAt := s.age }
  s.ctlArrive 0 j (BitVec.ofNat 512 w)

/-- SENT_MESSAGE: a fast-channel message with the outcome of its calibration, nibble and CRC checks (R409, R410, R413); one with
another nibble count than configured is invalid; a replay disconnects the input (R596). -/
def execSentMessage (i status : Nat) (nibbles : List Nat) (valid : Bool) (s : State) : Host.Outcome State Fault Refusal :=
  let j := i % 8
  let cfg := s.regN (R.SENT_CFG j)
  if bitsOf cfg 0 1 = 0 ∨ s.replaying then ok s
  else if valid ∧ nibbles.length = bitsOf cfg 13 3 then
    let w := sentWord status nibbles
    ok ((s.sentWordIn j w).tap 0x05 (some 3) 0x20 j s.now (leBytes w 4))
  else
    let first := !(s.sent j).errRun
    let s := s.modSent j fun x => { x with errRun := true }
    if first then ok (s.postC ST.SENT_ERROR 0x20 j) else ok s

/-- SENT_SILENT: no valid message for `SILENT_T` (R410). -/
def execSentSilent (i : Nat) (s : State) : Host.Outcome State Fault Refusal :=
  let j := i % 8
  let t := s.regN (R.SENT_SILENT j)
  if s.bit (R.SENT_CFG j) 0 ∧ t ≠ 0 ∧ !(s.sent j).silent ∧ (s.sent j).validAt + 1000 * t ≤ s.age then
    ok ((s.modSent j fun x => { x with silent := true }).postC ST.SENT_SILENT 0x20 j)
  else ok s

/-! ### SPI -/

/-- An SPI controller. -/
def State.spi (s : State) (j : Nat) : Spi := mget {} s.spis j
/-- An SPI controller changed. -/
def State.modSpi (s : State) (j : Nat) (f : Spi → Spi) : State := { s with spis := mmod {} s.spis j f }

/-- The latest instant not after now that lies at `PHASE` modulo `PERIOD` (R411). -/
def lastInstant (now phase period : Nat) : Nat := if now < phase then 0 else now - (now - phase) % period

/-- An input transfer begins; which chip select it drives is not stated: a free value (log entry 4). -/
def State.spiInput (s : State) (j : Nat) : State :=
  let cs := Config.freeNat s.fresh % 4
  s.draw.2.modSpi j fun x => { x with busy := some true, waiting := none, cs := cs }

/-- What an idle controller begins next: output transfers before a waiting input transfer; one whose next instant has come is
skipped (R412). -/
def State.spiNext (s : State) (j : Nat) : State :=
  let x := s.spi j
  let skip := match x.waiting with
    | some d => decide (d + s.regN (R.SPI_PERIOD j) ≤ s.now)
    | none => false
  let s := if skip then (s.modSpi j fun x => { x with waiting := none }).postC ST.SPI_SKIP 0x20 j else s
  if (s.spi j).busy.isSome then s
  else if (s.spi j).outs ≠ [] then s.modSpi j fun x => { x with busy := some false }
  else if (s.spi j).waiting.isSome then s.spiInput j
  else s

/-- SPI_INPUT_DUE: device time reaches `PHASE` modulo `PERIOD` (R411, R412). -/
def execSpiInputDue (j : Nat) (s : State) : Host.Outcome State Fault Refusal :=
  let j := j % 4
  let period := s.regN (R.SPI_PERIOD j)
  if !(s.bit (R.SPI_CFG j) 0) ∨ period = 0 then ok s
  else
    let t := lastInstant s.now (s.regN (R.SPI_PHASE j)) period
    if (s.spi j).lastDue = some t then ok s
    else
      let s := s.spiNext j
      ok ((s.modSpi j fun x => { x with lastDue := some t, waiting := some t }).spiNext j)

/-- A control payload handed to a controller (R411): its first `OUT_LEN` bytes go out. -/
def State.spiSend (s : State) (j : Nat) (payload : List Byte) : State :=
  if s.bit (R.SPI_CFG j) 0 then
    (s.modSpi j fun x => { x with outs := x.outs ++ [payload.take (s.fld (R.SPI_CFG j) 24 8)] }).spiNext j
  else s

/-- A frame read arrives from a controller and chip select (R412, R413). -/
def State.spiFrameIn (s : State) (j cs w : Nat) : State :=
  let s := s.setPieces (R.SPI_LAST j) [bitsOf w 0 64, bitsOf w 64 64, bitsOf w 128 64, bitsOf w 192 64]
  s.ctlArrive 1 (j + 4 * cs) (BitVec.ofNat 512 w)

/-- SPI_TRANSFER_DONE: chip-select deassertion completes the transfer in progress, with the frame read (R412, R413), which a
replay discards (R596). -/
def execSpiTransferDone (j : Nat) (data : List Byte) (s : State) : Host.Outcome State Fault Refusal :=
  let j := j % 4
  match (s.spi j).busy with
  | none => ok s
  | some false => ok ((s.modSpi j fun x => { x with busy := none, outs := x.outs.drop 1 }).spiNext j)
  | some true =>
    let n := s.fld (R.SPI_CFG j) 8 9 + 1
    let w := leNat (data.take 32) % 2 ^ n
    let cs := (s.spi j).cs
    let s := s.modSpi j fun x => { x with busy := none }
    let s := if s.replaying then s
      else (s.spiFrameIn j cs w).tap 0x05 (some 3) 0x20 (8 + j + 4 * cs) s.now (leBytes w ((n + 7) / 8))
    ok (s.spiNext j)

end Sys2Proof.Machine
end

