-- ==== Sys2Proof/Machine/Can.lean ====
section
/-! DEFINITION. CAN controllers (R401 to R408): configuration, transmit attempts, fault confinement, reception, sleep and wake. -/

namespace Sys2Proof.Machine

/-! ### Configuration (R401, R402) -/

/-- The bit time of a timing register in cycles of the 80 MHz base clock: prescaler × (1 + phase 1 + phase 2). -/
def canBitTime (v : Nat) : Nat := bitsOf v 0 10 * (1 + bitsOf v 10 8 + bitsOf v 18 7)

/-- Whether the configuration with which a controller leaves `INIT` is within R401 and R402: nominal rate 125 kbit/s to 1 Mbit/s,
FD 1 to 8 Mbit/s, XL 1 to 20 Mbit/s, and the capacity of the highest format enabled. -/
def State.canOk (s : State) (n c : Nat) : Bool :=
  let q := canBitTime (s.regN (R.CAN_NBT n))
  let d := canBitTime (s.regN (R.CAN_DBT n))
  let x := canBitTime (s.regN (R.CAN_XBT n))
  let cap := if bitsOf c 2 1 = 1 then 2 else if bitsOf c 1 1 = 1 then 1 else 0
  decide (80 ≤ q ∧ q ≤ 640) && (decide (bitsOf c 1 1 = 0) || decide (10 ≤ d ∧ d ≤ 80)) &&
    (decide (bitsOf c 2 1 = 0) || decide (4 ≤ x ∧ x ≤ 80)) && decide (s.fld (R.CAN_RAM_CFG n) 24 2 = cap)

/-- A write of `CANn_RAM_CFG` (R402). -/
def actCanRam (n : Nat) (s : State) (v : Nat) : State × Option Status :=
  let t := bitsOf v 0 6
  let cap := match bitsOf v 24 2 with
    | 0 => 8
    | 1 => 64
    | _ => 2048
  if t = 0 ∨ 32 < t ∨ bitsOf v 24 2 = 3 ∨ 65536 < (t + bitsOf v 8 8 + bitsOf v 16 8) * (16 + cap) + 2048 then
    refuse s ST.CAN_CONFIG
  else accept (s.setRegN (R.CAN_RAM_CFG n) (v % 2 ^ 26 - bitsOf v 6 2 * 64))

/-- `CANn_STATUS.STATE` of an awake controller brought to its error counters (R406). -/
def State.canShow (s : State) (n : Nat) : State :=
  if s.fld (R.CAN_STATUS n) 16 2 = 2 then s
  else
    let passive := decide (127 < s.fld (R.CAN_STATUS n) 0 8) || decide (127 < s.fld (R.CAN_STATUS n) 8 8)
    let first := passive && decide (s.fld (R.CAN_STATUS n) 16 2 ≠ 1)
    let s := s.setFld (R.CAN_STATUS n) 16 2 (b2n passive)
    if first then s.postC ST.CAN_ERR_PASSIVE 0x1B n else s

/-- The controller leaves bus-off with both counters at 0. -/
def State.canBack (s : State) (n : Nat) : State := s.setFld (R.CAN_STATUS n) 0 18 0

/-- The controller falls asleep once no frame is in transmission (R408). -/
def State.canRest (s : State) (n : Nat) : State :=
  if s.bit (R.CAN_CTRL n) 6 ∧ (s.can n).sending.isNone then s.setFld (R.CAN_STATUS n) 16 2 3 else s

/-- A write of `CANn_CTRL` (R401, R406, R408): leaving `INIT` checks the configuration and ends bus-off; entering it ends
transmission and empties the receive FIFOs; `SLEEP` idles the controller. -/
def actCanCtrl (n : Nat) (s : State) (v : Nat) : State × Option Status :=
  let old := s.regN (R.CAN_CTRL n)
  if v % 2 = 0 ∧ old % 2 = 1 ∧ !(s.canOk n v) then refuse s ST.CAN_CONFIG
  else
    let s := s.setRegN (R.CAN_CTRL n) (v % 2 ^ 10)
    let s := if v % 2 = 0 ∧ old % 2 = 1 then s.canBack n else s
    let s := if v % 2 = 1 then s.modCan n fun c => { c with sending := none, fifo0 := 0, fifo1 := 0, overrun := false } else s
    let s := if bitsOf v 6 1 = 0 ∧ s.fld (R.CAN_STATUS n) 16 2 = 3 then (s.setFld (R.CAN_STATUS n) 16 2 0).canShow n else s
    accept ((s.canRest n).canPick n)

/-- CAN_INIT_CLEAR: the supervisor writes `CANn_CTRL`, clearing `INIT` (R406). -/
def execCanInitClear (m n : Nat) (v : Dword) (s : State) : Host.Outcome State Fault Refusal :=
  ok (s.regBus m (R.CAN_CTRL (n % 8)) 4 fun s => actCanCtrl (n % 8) s v.toNat)

/-- CAN_SLEEP: the supervisor writes `CANn_CTRL`, setting `SLEEP` (R408). -/
def execCanSleep (m n : Nat) (v : Dword) (s : State) : Host.Outcome State Fault Refusal :=
  ok (s.regBus m (R.CAN_CTRL (n % 8)) 4 fun s => actCanCtrl (n % 8) s v.toNat)

/-! ### Transmission (R403 to R406) -/

/-- A write of `CANn_TX_REQ` (R403): a bit set makes a buffer of the layout pending. -/
def actCanTx (n : Nat) (s : State) (v : Nat) : State × Option Status :=
  let t := min 32 (s.fld (R.CAN_RAM_CFG n) 0 6)
  accept ((s.setRegN (R.CAN_TX_REQ n) (s.regN (R.CAN_TX_REQ n) ||| v % 2 ^ t)).canPick n)

/-- CANN_TX_REQ: the supervisor writes `CANn_TX_REQ`. -/
def execCannTxReq (m n : Nat) (v : Dword) (s : State) : Host.Outcome State Fault Refusal :=
  ok (s.regBus m (R.CAN_TX_REQ (n % 8)) 4 fun s => actCanTx (n % 8) s v.toNat)

/-- A buffer leaves transmission, sent or aborted (R403 to R405): it is pending no more, and a payload that waited for it becomes
pending; the next frame is chosen unless the controller falls asleep. -/
def State.canLeave (s : State) (n i : Nat) : State :=
  let next := (mget {} (s.can n).tx i).next
  let s := s.setBit (R.CAN_TX_REQ n) i false
  let s := s.modCan n fun c => { c with sending := none, tx := mset {} c.tx i {} }
  let s := match next with
    | some d => s.canLoad n i d
    | none => s
  (s.canRest n).canPick n

/-- CAN_FRAME_TRANSMITTED: the frame in transmission has been sent (R403); the transmit error counter falls (ISO 11898-1). -/
def execCanFrameTransmitted (n : Nat) (s : State) : Host.Outcome State Fault Refusal :=
  let n := n % 8
  match (s.can n).sending with
  | some i => ok (((s.setFld (R.CAN_STATUS n) 0 8 (s.fld (R.CAN_STATUS n) 0 8 - 1)).canShow n).canLeave n i)
  | none => ok s

/-- An attempt of the buffer in transmission counts (R404): beyond 1 + `RETRY` without `UNLIMITED` the buffer is aborted. -/
def State.canAttempt (s : State) (n i : Nat) : State :=
  let k := (mget {} (s.can n).tx i).attempts + 1
  if 1 + s.fld (R.CAN_RETRY n) 0 4 < k ∧ !(s.bit (R.CAN_RETRY n) 4) then (s.postC ST.CAN_TX_ABORT 0x1B n).canLeave n i
  else
    let s := s.modCan n fun c => { c with sending := none, tx := mmod {} c.tx i fun t => { t with attempts := k } }
    (s.canRest n).canPick n

/-- CAN_ARBITRATION_LOST: the frame in transmission lost arbitration (R404). -/
def execCanArbitrationLost (n : Nat) (s : State) : Host.Outcome State Fault Refusal :=
  let n := n % 8
  match (s.can n).sending with
  | some i => ok (s.canAttempt n i)
  | none => ok s

/-- The transmit error counter exceeds 255 (R406): bus-off; without `AUTO_REC` until `INIT` is cleared. -/
def State.canOff (s : State) (n : Nat) : State :=
  let s := (s.setFld (R.CAN_STATUS n) 0 8 255).setFld (R.CAN_STATUS n) 16 2 2
  let s := s.modCan n fun c => { c with sending := none }
  let s := if s.bit (R.CAN_CTRL n) 3 then s else s.setBit (R.CAN_CTRL n) 0 true
  s.postC ST.CAN_BUS_OFF 0x1B n

/-- CAN_BUS_ERROR: an error while transmitting raises the transmit error counter by 8 and counts an attempt, one while receiving
raises the receive error counter by 1 (ISO 11898-1, R404, R406). -/
def execCanBusError (n : Nat) (tx : Bool) (s : State) : Host.Outcome State Fault Refusal :=
  let n := n % 8
  let st := R.CAN_STATUS n
  if s.bit (R.CAN_CTRL n) 0 ∨ 2 ≤ s.fld st 16 2 then ok s
  else if tx then
    match (s.can n).sending with
    | none => ok s
    | some i =>
      if 255 < s.fld st 0 8 + 8 then ok (s.canOff n)
      else ok (((s.setFld st 0 8 (s.fld st 0 8 + 8)).canShow n).canAttempt n i)
  else ok ((s.setFld st 8 8 (min 255 (s.fld st 8 8 + 1))).canShow n)

/-- CAN_RECOVERED: 128 occurrences of 11 recessive bits with `AUTO_REC` 1 (R406). -/
def execCanRecovered (n : Nat) (s : State) : Host.Outcome State Fault Refusal :=
  let n := n % 8
  if s.fld (R.CAN_STATUS n) 16 2 = 2 ∧ s.bit (R.CAN_CTRL n) 3 then
    ok (((s.canBack n).postC ST.CAN_RECOVERED 0x1B n).canPick n)
  else ok s

/-! ### Reception (R402, R407) -/

/-- The format of a frame: 0 CC, 1 FD, 2 XL. -/
def canFmt (f : CanFrame) : Nat := if f.xl then 2 else if f.fd then 1 else 0

/-- The first filter element that matches, with what it does (R402). -/
def State.canMatch (s : State) (n : Nat) (f : CanFrame) : Option (Nat × Nat) :=
  (List.range 128).findSome? fun k =>
    let a := Config.canFilter (s.canRam n (16 * k) 16) f.id (canFmt f)
    if a < 4 then some (k, a) else none

/-- The FIFO element of a frame received now: its header carries the stamp (R407), then the data. -/
def State.canElement (s : State) (f : CanFrame) : List Byte :=
  let h := Config.canHeader f.id (canFmt f) f.data.length s.now
  (h ++ List.replicate 16 0#8).take 16 ++ f.data

/-- A frame stored in FIFO 0 or 1, or discarded because it is full (R407). -/
def State.canStore (s : State) (n : Nat) (second : Bool) (f : CanFrame) : State :=
  let cfg := s.regN (R.CAN_RAM_CFG n)
  let f0 := bitsOf cfg 8 8
  let cap := if second then bitsOf cfg 16 8 else f0
  let k := if second then (s.can n).fifo1 else (s.can n).fifo0
  if cap ≤ k then
    let first := !(s.can n).overrun
    let s := s.modCan n fun c => { c with overrun := true }
    if first then s.postC ST.CAN_RX_OVERRUN 0x1B n else s
  else
    let a := s.canTxBase n (bitsOf cfg 0 6 + (if second then f0 else 0) + k)
    let e := (s.canElement f).take (16 + s.canCap n)
    s.modCan n fun c =>
      { c with
        overrun := false
        ram := canRamSet c.ram a e
        fifo0 := if second then c.fifo0 else k + 1
        fifo1 := if second then k + 1 else c.fifo1 }

/-- A frame that element `k` sends to destination `a`: FIFO 0 or 1, or the control engine (R402, R407, R413). -/
def State.canDeliver (s : State) (n k a : Nat) (f : CanFrame) : State :=
  if a = 3 then (if k < 32 then s.ctlArrive 2 (n + 8 * k) (BitVec.ofNat 512 (leNat (f.data.take 64))) else s)
  else s.canStore n (decide (a = 2)) f

/-- CAN_FRAME_RECEIVE: a frame on the bus becomes valid (R402, R407, R413); the receive error counter falls (ISO 11898-1). A replay
disconnects reception (R596). -/
def execCanFrameReceive (n : Nat) (frame : CanFrame) (s : State) : Host.Outcome State Fault Refusal :=
  let n := n % 8
  let c := s.regN (R.CAN_CTRL n)
  if bitsOf c 0 1 = 1 ∨ 2 ≤ s.fld (R.CAN_STATUS n) 16 2 ∨ (frame.fd ∧ bitsOf c 1 1 = 0) ∨ (frame.xl ∧ bitsOf c 2 1 = 0) ∨
      s.replaying then ok s
  else
    let rec_ := s.fld (R.CAN_STATUS n) 8 8
    let s := (s.setFld (R.CAN_STATUS n) 8 8 (if 127 < rec_ then 127 else rec_ - 1)).canShow n
    match s.canMatch n frame with
    | none => ok s
    | some (k, a) =>
      if a = 0 then ok s
      else
        let s := s.tap 0x04 (some 2) 0x1B n s.now (leBytes n 1 ++ s.canElement frame)
        ok (s.canDeliver n k a frame)

/-- CAN_WAKE: the wake detector of a sleeping controller sees a wake pattern or frame under `WAKE_MODE` (R408, R567). -/
def execCanWake (n : Nat) (s : State) : Host.Outcome State Fault Refusal :=
  let n := n % 8
  let mode := s.fld (R.CAN_CTRL n) 7 2
  if s.bit (R.CAN_CTRL n) 6 ∧ (mode = 1 ∨ mode = 2) then ok ((s.postC ST.CAN_WAKE 0x1B n).wakeOn 2 n) else ok s

end Sys2Proof.Machine
end

