-- ==== Sys2Proof/Machine/SolverOps.lean ====
section
/-! DEFINITION. The arithmetic of the solver engine (R268 to R274): compensated dot products, the matrix K and its factor, one ADMM iteration, residuals, and the symbolic factorisation. Numbers are FP32 patterns. -/

namespace Sys2Proof.Machine

/-- FP32 1. -/
def one32 : Nat := 0x3F800000
/-- FP32 subtraction, rounded once. -/
def sub32 (a b : Nat) : Nat := add32 a (neg32 b)

/-- The sign of a value applied to another. -/
def fpSignWith (s : Bool) : Fp → Fp
  | .nan => .nan
  | .inf t => .inf (s ^^ t)
  | .fin t m e => .fin (s ^^ t) m e

/-- FP32 division, rounded once. -/
def div32 (a b : Nat) : Nat :=
  match f32 a, f32 b with
  | .nan, _ => 0x7FC00000
  | _, .nan => 0x7FC00000
  | .inf _, .inf _ => 0x7FC00000
  | .inf s, .fin t _ _ => withSign fp32 (s ^^ t) 0x7F800000
  | .fin s _ _, .inf t => withSign fp32 (s ^^ t) 0
  | .fin s m e, .fin t n d =>
    if n = 0 then (if m = 0 then 0x7FC00000 else withSign fp32 (s ^^ t) 0x7F800000)
    else round32 (fpSignWith (s ^^ t) (ratio m n (e - d)))

/-- TwoProduct with one FMA (R270). -/
def twoProduct (a b : Nat) : Nat × Nat := (mul32 a b, fma32 a b (neg32 (mul32 a b)))

/-- TwoSum: the rounded sum and its error (R270). -/
def twoSum (a b : Nat) : Nat × Nat :=
  let s := add32 a b
  let t := sub32 s a
  (s, add32 (sub32 a (sub32 s t)) (sub32 b t))

/-- The running sum and correction of a compensated dot product. -/
def cdotFrom (s c : Nat) : List (Nat × Nat) → Nat
  | [] => add32 s c
  | (a, b) :: r =>
    let (p, e) := twoProduct a b
    let (s, f) := twoSum s p
    cdotFrom s (add32 c (add32 e f)) r

/-- A compensated dot product of terms in their order (R270). -/
def cdot (l : List (Nat × Nat)) : Nat := cdotFrom 0 0 l

/-! ### Sparse matrices -/

/-- A term placed by its index. -/
def insertTerm (x : Nat × Nat) : List (Nat × Nat) → List (Nat × Nat)
  | [] => [x]
  | y :: r => if x.1 < y.1 then x :: y :: r else y :: insertTerm x r

/-- Terms in ascending index order. -/
def sortTerms (l : List (Nat × Nat)) : List (Nat × Nat) := l.foldl (fun a x => insertTerm x a) []

/-- The entries (row, column, value) of a column-compressed matrix, from column `c` on (R272). -/
def cscFrom : Nat → List Nat → List (Nat × Nat) → List (Nat × Nat × Nat)
  | c, a :: b :: r, l => ((l.take (b - a)).map fun x => (x.1, c, x.2)) ++ cscFrom (c + 1) (b :: r) (l.drop (b - a))
  | _, _, _ => []

/-- FP32 patterns of words. -/
def pats (l : List Word) : List Nat := l.map BitVec.toNat
/-- Words of patterns. -/
def words (l : List Nat) : List Word := l.map (BitVec.ofNat 32)

/-- The entries of A. -/
def SolSlot.aEntries (x : SolSlot) (v : SolMats) : List (Nat × Nat × Nat) := cscFrom 0 x.aPtr (x.aIdx.zip (pats v.a))

/-- The entries of P's upper triangle. -/
def SolSlot.pUpper (x : SolSlot) (v : SolMats) : List (Nat × Nat × Nat) := cscFrom 0 x.pPtr (x.pIdx.zip (pats v.p))

/-- The entries of the whole of P. -/
def SolSlot.pEntries (x : SolSlot) (v : SolMats) : List (Nat × Nat × Nat) :=
  (x.pUpper v).flatMap fun e => if e.1 = e.2.1 then [e] else [e, (e.2.1, e.1, e.2.2)]

/-- Row `i` of a matrix as terms. -/
def rowOf (l : List (Nat × Nat × Nat)) (i : Nat) : List (Nat × Nat) :=
  sortTerms (l.filterMap fun e => if e.1 = i then some e.2 else none)

/-- The transpose. -/
def flipped (l : List (Nat × Nat × Nat)) : List (Nat × Nat × Nat) := l.map fun e => (e.2.1, e.1, e.2.2)

/-- A matrix of `k` rows applied to a vector, each row one compensated dot product. -/
def matVec (l : List (Nat × Nat × Nat)) (k : Nat) (x : List Nat) : List Nat :=
  (List.range k).map fun i => cdot ((rowOf l i).map fun t => (t.2, x.getD t.1 0))

/-! ### K and its factor (R269, R271) -/

/-- The place of an unknown in the elimination order. -/
def placeOf (perm : List Nat) (u : Nat) : Nat := perm.idxOf u

/-- The value of P's diagonal at a variable. -/
def diagP (l : List (Nat × Nat × Nat)) (j : Nat) : Nat :=
  match l.find? fun e => decide (e.1 = j ∧ e.2.1 = j) with
  | some e => e.2.2
  | none => 0

/-- The entries of K's lower triangle in the unknowns' own numbers: P + σI, A, and −ρ⁻¹. -/
def SolSlot.kEntries (x : SolSlot) (v : SolMats) : List (Nat × Nat × Nat) :=
  let p := x.pUpper v
  (p.filter fun e => decide (e.1 ≠ e.2.1)) ++
    ((List.range x.n).map fun j => (j, j, add32 (diagP p j) v.sigma.toNat)) ++
    ((x.aEntries v).map fun e => (x.n + e.1, e.2.1, e.2.2)) ++
    (enumFrom 0 (pats v.rho)).map fun y => (x.n + y.1, x.n + y.1, neg32 (rcp32 y.2))

/-- The lower triangle of the permuted K. -/
def SolSlot.kLower (x : SolSlot) (v : SolMats) : List (Nat × Nat × Word) :=
  (x.kEntries v).map fun e =>
    let a := placeOf x.perm e.1
    let b := placeOf x.perm e.2.1
    (max a b, min a b, BitVec.ofNat 32 e.2.2)

/-- A number placed in a rising list without repeats. -/
def insertNat (k : Nat) : List Nat → List Nat
  | [] => [k]
  | y :: r => if k < y then k :: y :: r else if k = y then y :: r else y :: insertNat k r

/-- The columns of L from those of K below the diagonal (the symbolic factorisation of R272): a column passes what lies below its
first row on to that row's column. -/
def symbolicFrom : Nat → Nat → List (List Nat) → List (List Nat)
  | 0, _, _ => []
  | _, _, [] => []
  | k + 1, j, c :: r =>
    match c with
    | [] => [] :: symbolicFrom k (j + 1) r
    | p :: rest => (p :: rest) :: symbolicFrom k (j + 1) (r.modify (p - (j + 1)) fun l => rest.foldl (fun a x => insertNat x a) l)

/-- The pattern of L as columns of row numbers. -/
def symbolic (size : Nat) (k : List (Nat × Nat)) : List (List Nat) :=
  symbolicFrom size 0 ((List.range size).map fun j =>
    (k.filterMap fun e => if e.2 = j ∧ e.1 ≠ j then some e.1 else none).foldl (fun a x => insertNat x a) [])

/-- The columns of L of a slot. -/
def SolSlot.lColumns (x : SolSlot) : List (List Nat) :=
  symbolic (x.n + x.m) ((x.kLower x.mats).map fun e => (e.1, e.2.1))

/-- Non-zeros of L below its unit diagonal. -/
def nnzOf (c : List (List Nat)) : Nat := c.foldl (fun k x => k + x.length) 0

/-- W_F: one FMA for every entry of the lower triangle that a column's elimination changes. -/
def fmaCount (c : List (List Nat)) : Nat := c.foldl (fun k x => k + x.length * (x.length + 1) / 2) 0

/-- The pattern of L as (row, column). -/
def patternOf (c : List (List Nat)) : List (Nat × Nat) := (enumFrom 0 c).flatMap fun x => x.2.map fun r => (r, x.1)

/-- Whether a pivot is accepted (R271): finite, of magnitude 2^−60 at least, positive for a variable, negative for a constraint. -/
def pivotOk (isVar : Bool) (d : Nat) : Bool :=
  isFin (f32 d) && !(fpLt (fpAbs (f32 d)) (.fin false 1 (-60))) && (fpSign (f32 d) != isVar)

/-- A numeric factorisation of a slot with given matrix values; none when it fails (R271). -/
def SolSlot.factorise (x : SolSlot) (v : SolMats) : Option Factor :=
  let pat := patternOf x.lColumns
  let (l, d) := Config.factor (x.kLower v) pat
  let diag := (List.range (x.n + x.m)).map fun i => d.getD i 0#32
  if (enumFrom 0 diag).all fun y => pivotOk (decide (x.perm.getD y.1 0 < x.n)) y.2.toNat then
    some { low := (enumFrom 0 pat).map (fun y => (y.2.1, y.2.2, l.getD y.1 0#32)), diag := diag }
  else none

/-- Forward substitution with L from row `i` on: each row is one compensated dot product, its unit diagonal last. -/
def forwardFrom (low : List (Nat × Nat × Nat)) : Nat → List Nat → List Nat → List Nat
  | _, z, [] => z
  | i, z, b :: r =>
    let t := (rowOf low i).map fun y => (neg32 y.2, z.getD y.1 0)
    forwardFrom low (i + 1) (z ++ [cdot (t ++ [(one32, b)])]) r

/-- Backward substitution with Lᵀ, rows from the last: `z` holds the values already found, of row `i` and above. -/
def backwardFrom (up : List (Nat × Nat × Nat)) : Nat → List Nat → List Nat → List Nat
  | 0, z, _ => z
  | i + 1, z, b =>
    let t := (rowOf up i).map fun y => (neg32 y.2, z.getD (y.1 - (i + 1)) 0)
    backwardFrom up i (cdot ((one32, b.getD i 0) :: t) :: z) b

/-- A solve with K (R269): the right-hand side in the unknowns' own order. -/
def SolSlot.kSolve (x : SolSlot) (f : Factor) (b : List Nat) : List Nat :=
  let low := f.low.map fun e => (e.1, e.2.1, e.2.2.toNat)
  let c := x.perm.map fun u => b.getD u 0
  let z := forwardFrom low 0 [] c
  let z := (z.zip (pats f.diag)).map fun y => div32 y.1 y.2
  let w := backwardFrom (flipped low) (x.n + x.m) [] z
  (List.range (x.n + x.m)).map fun u => w.getD (placeOf x.perm u) 0

/-! ### The iteration (R268) -/

/-- The iterate or warm start of the running solve, as patterns. -/
structure Iter where
  x : List Nat := []
  z : List Nat := []
  y : List Nat := []
deriving DecidableEq, Repr, Inhabited

/-- Patterns of a result vector. -/
def SolVec.pat (v : SolVec) : Iter := ⟨pats v.x, pats v.z, pats v.y⟩
/-- A result vector of patterns. -/
def Iter.vec (v : Iter) : SolVec := ⟨words v.x, words v.z, words v.y⟩

/-- Two vectors combined element by element. -/
def map2 (f : Nat → Nat → Nat) (a b : List Nat) : List Nat := (a.zip b).map fun x => f x.1 x.2

/-- One ADMM iteration in its stated order, every operation rounded once (R268). -/
def SolSlot.iterate (s : SolSlot) (f : Factor) (v : Iter) : Iter :=
  let sigma := s.mats.sigma.toNat
  let alpha := s.alpha.toNat
  let beta := sub32 one32 alpha
  let rho := pats s.mats.rho
  let rinv := rho.map rcp32
  let rhs := map2 (fun x q => sub32 (mul32 sigma x) q) v.x (pats s.q) ++ map2 sub32 v.z (map2 mul32 rinv v.y)
  let sol := s.kSolve f rhs
  let xt := sol.take s.n
  let nu := sol.drop s.n
  let zt := map2 add32 v.z (map2 mul32 rinv (map2 sub32 nu v.y))
  let x := map2 add32 (xt.map (mul32 alpha)) (v.x.map (mul32 beta))
  let w := map2 add32 (zt.map (mul32 alpha)) (v.z.map (mul32 beta))
  let zn := map2 min32 (map2 max32 (map2 add32 w (map2 mul32 rinv v.y)) (pats s.l)) (pats s.u)
  let y := map2 add32 v.y (map2 mul32 rho (map2 sub32 w zn))
  ⟨x, zn, y⟩

/-- The largest magnitude of a vector; a NaN gives NaN. -/
def maxAbs (l : List Nat) : Nat := l.foldl (fun m x => max32 m (abs32 x)) 0

/-- The primal residual r_p (R268). -/
def SolSlot.primal (s : SolSlot) (v : Iter) : Nat :=
  maxAbs (map2 (fun a z => cdot [(a, one32), (z, neg32 one32)]) (matVec (s.aEntries s.mats) s.m v.x) v.z)

/-- The dual residual r_d (R268). -/
def SolSlot.dual (s : SolSlot) (v : Iter) : Nat :=
  let px := matVec (s.pEntries s.mats) s.n v.x
  let ay := matVec (flipped (s.aEntries s.mats)) s.n v.y
  maxAbs ((px.zip ((pats s.q).zip ay)).map fun t => cdot [(t.1, one32), (t.2.1, one32), (t.2.2, one32)])

/-- c = max(r_p, r_d), a NaN counting as +infinity (R268). -/
def worst (rp rd : Nat) : Nat := if isNan (f32 rp) ∨ isNan (f32 rd) then 0x7F800000 else max32 rp rd

/-! ### Warm starts (R279, R280) -/

/-- A warm-start record: hash, vectors, tags. -/
structure WarmRec where
  hash : Nat := 0
  v    : Iter := {}
  vt   : List Nat := []
  ct   : List Nat := []
deriving DecidableEq, Repr, Inhabited

/-- Whether two elements carry the same non-zero tag (R280). -/
def dupTags : List Nat → Bool
  | [] => false
  | t :: r => (decide (t ≠ 0) && r.contains t) || dupTags r

/-- Whether any tag is non-zero. -/
def hasTags (l : List Nat) : Bool := l.any fun t => decide (t ≠ 0)

/-- The place in a record's tags that a tag matches, the first winning. -/
def tagMatch (t : Nat) (l : List Nat) : Option Nat := if t = 0 then none else if l.contains t then some (l.idxOf t) else none

/-- Values carried by tags: 0 where no tag matches. -/
def carried (tags rtags vals : List Nat) : List Nat :=
  tags.map fun t => match tagMatch t rtags with
    | some i => vals.getD i 0
    | none => 0

/-- Elements matched. -/
def matched (tags rtags : List Nat) : Nat := (tags.filter fun t => (tagMatch t rtags).isSome).length

/-- A vector of a length, by index. -/
def sized (k : Nat) (l : List Nat) : List Nat := (List.range k).map fun i => l.getD i 0

/-- The warm start of R279: vector, case, elements carried. -/
def SolSlot.warm (s : SolSlot) (hash : Nat) (r : Option WarmRec) : Iter × Nat × Nat :=
  let vt := pats s.vtags
  let ct := pats s.ctags
  let dup := dupTags vt || dupTags ct
  let zero : Iter := ⟨List.replicate s.n 0, List.replicate s.m 0, List.replicate s.m 0⟩
  match r with
  | none => (zero, 3, 0)
  | some r =>
    if (hasTags r.vt ∨ hasTags r.ct) ∧ (hasTags vt ∨ hasTags ct) ∧ !dup then
      (⟨carried vt r.vt r.v.x, carried ct r.ct r.v.z, carried ct r.ct r.v.y⟩, 1, matched vt r.vt + matched ct r.ct)
    else if r.hash = hash then (⟨sized s.n r.v.x, sized s.m r.v.z, sized s.m r.v.y⟩, 2, 0)
    else (zero, 3, 0)

/-! ### Delta lists (R275, R276) -/

/-- One delta entry: array, element, value. -/
structure Delta where
  arr : Nat := 0
  el  : Nat := 0
  v   : Nat := 0
deriving DecidableEq, Repr, Inhabited

/-- An entry from its 64 bits (R275). -/
def deltaOf (x : Nat) : Delta := { arr := bitsOf x 28 4, el := bitsOf x 0 28, v := bitsOf x 32 32 }

/-- Elements of an array (R275). -/
def SolSlot.arrayLen (s : SolSlot) : Nat → Nat
  | 0 => s.mats.p.length
  | 1 => s.mats.a.length
  | 2 => s.n
  | 3 => s.m
  | 4 => s.m
  | 5 => s.m
  | 6 => s.n
  | 7 => s.m
  | 8 => 2
  | _ => 0

/-- Whether a value is above zero. -/
def positive (v : Nat) : Bool := fpLt (.fin false 0 0) (f32 v)
/-- Whether α lies between 0 and 2. -/
def alphaOk (v : Nat) : Bool := positive v && fpLt (f32 v) (.fin false 2 0)

/-- Whether an entry alone keeps R276. -/
def SolSlot.deltaOk (s : SolSlot) (d : Delta) : Bool :=
  decide (d.el < s.arrayLen d.arr) && (decide (d.arr = 6 ∨ d.arr = 7) || isFin (f32 d.v)) &&
    (!(decide (d.arr = 5 ∨ (d.arr = 8 ∧ d.el = 0))) || positive d.v) && (!(decide (d.arr = 8 ∧ d.el = 1)) || alphaOk d.v)

/-- An entry applied: matrix values, ρ and σ are staged, the rest takes effect at once (R277). -/
def SolSlot.applyDelta (s : SolSlot) (d : Delta) : SolSlot :=
  let w := BitVec.ofNat 32 d.v
  match d.arr with
  | 0 => { s with staged := { s.staged with p := s.staged.p.set d.el w }, pend := true }
  | 1 => { s with staged := { s.staged with a := s.staged.a.set d.el w }, pend := true }
  | 2 => { s with q := s.q.set d.el w }
  | 3 => { s with l := s.l.set d.el w }
  | 4 => { s with u := s.u.set d.el w }
  | 5 => { s with staged := { s.staged with rho := s.staged.rho.set d.el w }, pend := true }
  | 6 => { s with vtags := s.vtags.set d.el w }
  | 7 => { s with ctags := s.ctags.set d.el w }
  | _ => if d.el = 0 then { s with staged := { s.staged with sigma := w }, pend := true } else { s with alpha := w }

/-- Whether some l exceeds its u. -/
def SolSlot.crossed (s : SolSlot) : Bool := (s.l.zip s.u).any fun x => fpLt (f32 x.2.toNat) (f32 x.1.toNat)

/-- A delta list checked whole and applied in order, or rejected (R276). -/
def SolSlot.applyList (s : SolSlot) (l : List Delta) : Option SolSlot :=
  let t := l.foldl SolSlot.applyDelta s
  if l.all s.deltaOk ∧ !t.crossed then some t else none

end Sys2Proof.Machine
end

