-- ==== Sys2Proof/Machine/ControlEngine.lean ====
section
/-! DEFINITION. The control engine (R291 to R313, R616, R621): samples, input selection, set-point schedules, the control law, coefficient banks, outputs, the test generator and the capture memory. -/

namespace Sys2Proof.Machine

/-! ### Registers of a channel (R311) -/

/-- State of a channel: 0 off, 1 armed, 2 soft-start, 3 run, 4 fault. -/
def State.chState (s : State) (c : Nat) : Nat := s.fld (R.CTL_CH_STATE c) 1 3
/-- The state of a channel written. -/
def State.setChState (s : State) (c x : Nat) : State := s.setFld (R.CTL_CH_STATE c) 1 3 x
/-- Whether bank B is in force. -/
def State.chBankB (s : State) (c : Nat) : Bool := s.bit (R.CTL_CH_STATE c) 0
/-- The bank in force. -/
def State.chBank (s : State) (c : Nat) : BitVec 1024 := if s.chBankB c then (s.chan c).bankB else (s.chan c).bankA
/-- A field of a channel's configuration. -/
def State.chCfg (s : State) (c lo w : Nat) : Nat := s.fld (R.CTL_CH_CFG c) lo w
/-- The sample counter of a channel. -/
def State.chCount (s : State) (c : Nat) : Nat := s.regN (R.CTL_CH_COUNT c)

/-- A record of the control engine: channel and sample counter. -/
def State.postCtl (s : State) (code : Status) (c n : Nat) : State :=
  s.post { mkRec code 0x1E c with context := n }

/-- `CTL_STATUS` brought up to date: the pending mask. -/
def State.showCtl (s : State) : State :=
  s.setRegN R.CTL_STATUS
    (((List.range 8).filter fun c => (s.chan c).pendAt.isSome).foldl (fun m c => m + 2 ^ (8 + c)) 0)

/-! ### Samples (R291, R303, R304) -/

/-- A sample of one channel at instant `t`. -/
def State.sampleOne (s : State) (t c : Nat) : State :=
  let x := s.chan c
  let tooSoon := match x.instant with
    | some p => decide ((2 ^ 32 + shortOf t - shortOf p) % 2 ^ 32 < 10000)
    | none => false
  if s.chState c = 0 then s
  else if !(s.bit R.CTL_CTRL 0) || tooSoon then
    (s.incReg R.CTL_OVERRUN_CNT).postCtl ST.CTL_RATE c (s.chCount c)
  else
    let s := if x.pendAt.isSome then (s.incReg R.CTL_OVERRUN_CNT).postCtl ST.CTL_OVERRUN c (s.chCount c) else s
    let s := s.wrapReg (R.CTL_CH_COUNT c)
    s.modChan c fun x => { x with instant := some t, pendAt := some t }

/-- CTL_SAMPLE: a CTL_SAMPLE entry makes a sample pending for each channel of its mask (R291, R304). -/
def execCtlSample (w e edge : Nat) (s : State) : Host.Outcome State Fault Refusal :=
  ok (s.onEntry w e edge 0x06 0 fun s d => s.ifPowered 0x1E fun s =>
    (s.each ((List.range 8).filter fun c => d.entry.index / 2 ^ c % 2 = 1) fun s c => s.sampleOne d.due c).showCtl)

/-! ### Inputs (R292 to R294, R616, R621) -/

/-- A CTL input port as a sample at `t` sees it (R293): bytes, status word, close, poisoned words. -/
def portAt (p : Port) (t : Nat) : Option (List Byte × StatusWord × Nat × List Nat) :=
  let a := (p.bytesA, p.statusA, p.closedA, p.poisonA)
  let b := (p.bytesB, p.statusB, p.closedB, p.poisonB)
  let (x, y) := if p.cur then (b, a) else (a, b)
  let pick := fun (z : List Byte × StatusWord × Option Nat × List Nat) =>
    match z.2.2.1 with
    | some k => if shortLe k t then some (z.1, z.2.1, k, z.2.2.2) else none
    | none => none
  (pick x).orElse fun _ => pick y

/-- The measurement selected for a sample (R292): data as a number, its stamp, and whether a port word it lies in is poisoned. -/
def State.ctlInput (s : State) (c t : Nat) : Option (Nat × Nat × Bool) :=
  let kind := s.chCfg c 1 3
  let i := s.chCfg c 4 8
  if kind = 4 then
    (portAt (s.port 0x1E (i % 16)) t).map fun x => (numAt x.1 0 4, x.2.2.1, x.2.2.2.contains 0)
  else
    let y := mget {} s.ctlInputs (kind * 256 + i)
    let pick := fun (z : Option (BitVec 512 × Nat)) =>
      match z with
      | some (d, p) => if shortLe p t then some (d.toNat, p, false) else none
      | none => none
    (pick y.new).orElse fun _ => pick y.old

/-- The measured value as FP32 (R621). -/
def State.ctlValue (s : State) (c data : Nat) : Nat :=
  let w := s.chCfg c 20 6
  let v := bitsOf data (s.chCfg c 12 8) w
  if s.chCfg c 27 1 = 1 then v
  else if s.chCfg c 26 1 = 1 then round32 (ofInt (toSigned w v) 0)
  else round32 (ofInt v 0)

/-- A target: its value, whether `SP_STALE` is set, whether a poisoned word was read, and whether the port never received a buffer. -/
structure SetPoint where
  v      : Nat := 0
  stale  : Bool := false
  poison : Bool := false
  none_  : Bool := false
deriving DecidableEq, Repr, Inhabited

/-- The target of a sample (R295). -/
def State.ctlTarget (s : State) (c t : Nat) : SetPoint :=
  if s.chCfg c 32 1 = 0 then { v := s.regN (R.CTL_CH_TARGET c) % 2 ^ 32 }
  else
    match portAt (s.port 0x1E (s.chCfg c 28 4)) t with
    | none => { none_ := true }
    | some (d, st, _, bad) =>
      if st.empty then { none_ := true }
      else
        let sp := s.regN (R.CTL_CH_SP c)
        let w0 := bitsOf sp 56 8
        let diff := toSigned 32 (2 ^ 32 + shortOf t - numAt d (4 * w0) 4)
        let j := if diff < 0 then 0 else min (diff.toNat / (1000 * bitsOf sp 32 24)) (bitsOf sp 24 8 - 1)
        let w := bitsOf sp 0 14 + j * bitsOf sp 14 10
        { v := numAt d (4 * w) 4, stale := st.stale, poison := bad.contains (w0 / 16) || bad.contains (w / 16) }

/-! ### The test signal (R307, R308) -/

/-- sin(πa / 2,048) for a of 0 to 1,024 with 160 fraction bits: the terms of its series from `term` on. -/
def sineSeries (x2 : Nat) : Nat → Nat → Int → Int → Int
  | 0, _, _, acc => acc
  | k + 1, n, term, acc => sineSeries x2 k (n + 2) (-(term * x2 / 2 ^ 160 / ((n + 1) * (n + 2)))) (acc + term)

/-- π with 160 fraction bits. -/
def piFix : Nat := 4591442807048218921384805199743311128454155024418

/-- S[k], the FP32 value nearest sin(2πk / 4,096) (R308). -/
def sineEntry (k : Nat) : Nat :=
  let r := k % 1024
  let a := if k / 1024 % 2 = 0 then r else 1024 - r
  let x := piFix * a / 2048
  let v := sineSeries (x * x / 2 ^ 160) 24 1 x 0
  if a = 0 then 0 else if a = 1024 then withSign fp32 (decide (2048 ≤ k)) one32
  else round32 (.fin (decide (2048 ≤ k)) v.toNat (-160))

/-- sinT(φ) (R308). -/
def sinT (phi : Nat) : Nat :=
  let k := phi / 2 ^ 20 % 4096
  let f := round32 (.fin false (phi % 2 ^ 20) (-20))
  let s0 := sineEntry k
  let s1 := sineEntry ((k + 1) % 4096)
  add32 s0 (mul32 f (sub32 s1 s0))

/-- Whether the generator supplies channel `c` now. -/
def State.tgOn (s : State) (c : Nat) : Bool :=
  s.bit R.CTL_TG_CFG 9 && decide (s.fld R.CTL_TG_CFG 0 3 = c) && decide (s.testGen.n < s.regN R.CTL_TG_LEN)

/-- s at the evaluation at hand (R308). -/
def State.tgValue (s : State) : Nat :=
  let amp := s.regN R.CTL_TG_AMP % 2 ^ 32
  match s.fld R.CTL_TG_CFG 4 2 with
  | 0 => if s.testGen.reg % 2 = 1 then amp else neg32 amp
  | 2 => amp
  | _ => mul32 amp (sinT s.testGen.phase)

/-- The generator after one evaluation (R308). -/
def State.tgNext (s : State) : State :=
  let g := s.testGen
  let hold := s.fld R.CTL_TG_CFG 16 16
  let reg := if hold ≠ 0 ∧ (g.n + 1) % hold = 0 then (g.reg * 2 + (g.reg / 2 ^ 30 + g.reg / 2 ^ 27) % 2) % 2 ^ 31 else g.reg
  let delta := if s.fld R.CTL_TG_CFG 4 2 = 1 then (g.delta + s.regN R.CTL_TG_DDPHI) % 2 ^ 32 else g.delta
  { s with testGen := { g with n := g.n + 1, reg := reg, phase := (g.phase + g.delta) % 2 ^ 32, delta := delta } }

/-- The generator stops early for a channel that faults or is disabled (R307). -/
def State.tgStop (s : State) (c : Nat) : State :=
  if s.bit R.CTL_TG_CFG 9 ∧ s.fld R.CTL_TG_CFG 0 3 = c then s.setBit R.CTL_TG_CFG 9 false else s

/-! ### The control law (R296 to R299) -/

/-- A 32-bit field of a bank. -/
def bankAt (b : BitVec 1024) (lo : Nat) : Nat := bitsOf b.toNat lo 32
/-- A flag of a bank. -/
def bankBit (b : BitVec 1024) (i : Nat) : Bool := decide (bitsOf b.toNat i 1 = 1)

/-- a ≤ b. -/
def fpLe (a b : Nat) : Bool := fpLt (f32 a) (f32 b) || fpEq (f32 a) (f32 b)
/-- A value limited to a range: min(max(v, lo), hi). -/
def limit32 (v lo hi : Nat) : Nat := min32 (max32 v lo) hi

/-- One biquad stage whose coefficients stand at `o` (R297): the output and both states. -/
def biquad (b : BitVec 1024) (o v z1 z2 : Nat) : Nat × Nat × Nat :=
  let w := add32 (mul32 (bankAt b o) v) z1
  let n1 := add32 (sub32 (mul32 (bankAt b (o + 32)) v) (mul32 (bankAt b (o + 96)) w)) z2
  let n2 := sub32 (mul32 (bankAt b (o + 64)) v) (mul32 (bankAt b (o + 128)) w)
  (w, n1, n2)

/-- What one evaluation of the chain gives: the channel after it, the quantities of R309, q, and the payload flags it sets. -/
structure Chain where
  ch    : Channel := {}
  x     : Nat := 0
  m     : Nat := 0
  r     : Nat := 0
  e     : Nat := 0
  p     : Nat := 0
  f     : Nat := 0
  u     : Nat := 0
  y     : Nat := 0
  q     : Nat := 0
  bad   : Bool := false
  flags : Nat := 0
deriving DecidableEq, Repr, Inhabited

/-- A value in the output format (R298): 0 FP32, 1 INT16, 2 INT32. -/
def outConvert (fmt v : Nat) : Nat :=
  match fmt with
  | 1 => (toInt 16 0 (f32 v)).1
  | 2 => (toInt 32 0 (f32 v)).1
  | _ => v

/-- Step 1 of R296: the conditioned measurement and whether it is plausible. -/
def conditioned (b : BitVec 1024) (x : Nat) : Nat × Bool :=
  let m := mul32 (sub32 x (bankAt b 0)) (bankAt b 32)
  (m, !(isNan (f32 m)) && !(fpLt (f32 m) (f32 (bankAt b 64))) && !(fpLt (f32 (bankAt b 96)) (f32 m)))

/-- Step 2 of R296: the set-point and whether soft-start goes on. -/
def setPoint (b : BitVec 1024) (soft : Bool) (target rPrev : Nat) : Nat × Bool :=
  let ramp := bankAt b 128
  let d := sub32 target rPrev
  if soft then
    if fpLe (abs32 d) ramp then (target, bankBit b 930) else (add32 rPrev (limit32 d (neg32 ramp) ramp), true)
  else (target, false)

/-- Steps 3 to 10 of R296 from the plausible or held measurement `m` on. -/
def chainFrom (b : BitVec 1024) (ch : Channel) (x m target se so fmt : Nat) : Chain :=
  let mPrev := ch.mPrev.toNat
  let rPrev := ch.rPrev.toNat
  let (r, soft) := setPoint b ch.soft target rPrev
  let e := add32 (sub32 r m) se
  let p := mul32 (bankAt b 160) e
  let d := sub32 (mul32 (bankAt b 288) ch.d.toNat) (mul32 (bankAt b 320) (sub32 m mPrev))
  let v := add32 (add32 p ch.i.toNat) d
  let (v, z11, z12) := if bankBit b 928 then biquad b 416 v ch.z11.toNat ch.z12.toNat else (v, ch.z11.toNat, ch.z12.toNat)
  let (v, z21, z22) := if bankBit b 929 then biquad b 576 v ch.z21.toNat ch.z22.toNat else (v, ch.z21.toNat, ch.z22.toNat)
  let f := add32 (mul32 (bankAt b 352) r) (mul32 (bankAt b 384) (sub32 r rPrev))
  let u := add32 v f
  let umin := bankAt b 736
  let umax := bankAt b 768
  let usat := limit32 u umin umax
  let g := mul32 (bankAt b 192) e
  let high := fpLt (f32 umax) (f32 u)
  let low := fpLt (f32 u) (f32 umin)
  let hold := (high && fpLt (f32 0) (f32 g)) || (low && fpLt (f32 g) (f32 0))
  let i := if hold then ch.i.toNat else limit32 (add32 ch.i.toNat g) (bankAt b 224) (bankAt b 256)
  let dumax := bankAt b 800
  let step := sub32 usat ch.yPrev.toNat
  let lim := limit32 step (neg32 dumax) dumax
  let y := add32 ch.yPrev.toNat lim
  let q := outConvert fmt (fma32 (add32 y so) (bankAt b 832) (bankAt b 864))
  let w := BitVec.ofNat 32
  { ch := { ch with mPrev := w m, rPrev := w r, i := w i, d := w d, yPrev := w y, z11 := w z11, z12 := w z12,
                    z21 := w z21, z22 := w z22, soft := soft }
    x := x, m := m, r := r, e := e, p := p, f := f, u := u, y := y, q := q
    bad := !(isFin (f32 u) && isFin (f32 usat) && isFin (f32 y))
    flags := 16 * b2n high + 32 * b2n low + 64 * b2n (decide (lim ≠ step)) + 256 * b2n ch.soft }

/-- The chain's initial values for a first sample with measurement `m` (R299). -/
def initChannel (b : BitVec 1024) (ch : Channel) (m : Nat) : Channel :=
  { ch with mPrev := BitVec.ofNat 32 m, rPrev := BitVec.ofNat 32 m, i := BitVec.ofNat 32 (limit32 0 (bankAt b 224) (bankAt b 256)),
            d := 0#32, z11 := 0#32, z12 := 0#32, z21 := 0#32, z22 := 0#32,
            yPrev := BitVec.ofNat 32 (limit32 0 (bankAt b 736) (bankAt b 768)), soft := true }

/-! ### Outputs (R305, R306, R450) -/

/-- The payload of an evaluation (R305). -/
def ctlPayload (c q n t flags : Nat) : List Byte :=
  sealed [] (leBytes q 4 ++ leBytes n 4 ++ leBytes (shortOf t) 4 ++ leBytes flags 2 ++ leBytes c 1 ++ List.replicate 13 0#8)

/-- A payload handed to the channel's destination (R305, R306, R393, R405, R411). -/
def State.ctlEmit (s : State) (c : Nat) (payload : List Byte) (n flags : Nat) : State :=
  let k := s.chCfg c 36 8
  match s.chCfg c 33 3 with
  | 1 => s.express (k % 64) payload false
  | 2 => s.canSend (k % 8) (k / 8) payload n (flags % 256)
  | 3 => s.spiSend (k % 4) payload
  | _ => s

/-- The output of a sample: under a latched Crimson cause q is `SAFE_OUT` with `FAULT` and `INVALID` (R450); the payload is sealed,
handed over, recorded and compared (R590, R599). -/
def State.ctlOut (s : State) (c t q flags : Nat) : State :=
  let latched := decide (s.safety.latched ≠ 0#8)
  let safe := outConvert (s.chCfg c 44 2) (bankAt (s.chBank c) 896)
  let q := if latched then safe else q
  let q := if s.chCfg c 44 2 = 1 then q % 65536 else q
  let flags := if latched then flags ||| 0x401 else flags
  let n := s.chCount c
  let p := ctlPayload c q n t flags
  let s := s.setFld (R.CTL_CH_LAST c) 32 16 flags
  if s.chCfg c 33 3 = 0 then s
  else
    let s := s.ctlEmit c p n flags
    let mark := leBytes c 1 ++ leBytes n 4 ++ p.drop 28
    (s.tap 0x0C (some 9) 0x1E c s.now mark).replayCheck 0x0C 5 mark (fun a b => decide (a = b)) (fun a => numAt a 5 4) 0

/-- The output of a channel in the fault state (R300). -/
def State.ctlFaultOut (s : State) (c t : Nat) : State :=
  s.ctlOut c t (outConvert (s.chCfg c 44 2) (bankAt (s.chBank c) 896)) (1 + 512 * b2n (s.chBankB c))

/-- A channel enters the fault state (R300, R307), and the sample at hand emits `SAFE_OUT`. -/
def State.ctlFault (s : State) (c t : Nat) : State :=
  (((s.setChState c 4).postCtl ST.CTL_CHANNEL_FAULT c (s.chCount c)).tgStop c).ctlFaultOut c t

/-! ### Capture (R309) -/

/-- A selected quantity of an evaluation. -/
def Chain.sel (k : Chain) (se t : Nat) : Nat → Nat
  | 1 => k.x
  | 2 => k.m
  | 3 => k.r
  | 4 => k.e
  | 5 => se
  | 6 => k.p
  | 7 => k.ch.i.toNat
  | 8 => k.ch.d.toNat
  | 9 => k.f
  | 10 => k.u
  | 11 => k.y
  | 12 => shortOf t
  | _ => 0

/-- An entry stored at the capture buffer's next place (R309). -/
def State.capturePut (s : State) (v : BitVec 128) : State :=
  { s with capture := mset 0#128 s.capture s.testGen.next v, testGen := { s.testGen with next := (s.testGen.next + 1) % 65536 } }

/-- The count of entries one higher, up to the buffer's 65,536; a one-shot capture ends there (R309). -/
def State.captureCount (s : State) (mode : Nat) : State :=
  let n := s.fld R.CTL_CAP_COUNT 0 17
  let s := if n < 65536 then s.setFld R.CTL_CAP_COUNT 0 17 (n + 1) else s
  if mode = 1 ∧ 65535 ≤ n then s.setBit R.CTL_CAP_COUNT 31 true else s

/-- One capture entry (R309). -/
def State.captureOne (s : State) (c t sig : Nat) (k : Chain) : State :=
  let mode := s.fld R.CTL_CAP_CFG 3 2
  if s.fld R.CTL_CAP_CFG 0 3 ≠ c ∨ mode = 0 ∨ mode = 3 ∨ s.bit R.CTL_CAP_COUNT 31 then s
  else
    (s.capturePut (BitVec.ofNat 128 (packBits 32 ((List.range 4).map fun i => k.sel sig t (s.fld R.CTL_CAP_CFG (8 + 4 * i) 4))))).captureCount mode

/-! ### Evaluation (R292 to R300, R302, R303) -/

/-- Whether a pending swap takes effect at a sample (R302); in a replay, at the recorded sample (R598). -/
def State.swapNow (s : State) (c t : Nat) : Bool :=
  match (s.chan c).swapAt with
  | none => false
  | some a =>
    if s.replaying then
      s.recorder.loaded.any fun r => decide (r.typ = 0x0A ∧ numAt r.data 0 1 = c ∧ numAt r.data 1 4 = s.chCount c)
    else !(shortLe t a)

/-- A swap takes effect. -/
def State.ctlSwap (s : State) (c t : Nat) : State :=
  if s.swapNow c t then
    let s := (s.setBit (R.CTL_CH_STATE c) 0 (!(s.chBankB c))).setBit (R.CTL_CH_STATE c) 4 false
    let s := s.modChan c fun x => { x with swapAt := none }
    s.tap 0x0A (some 8) 0x1E c t (leBytes c 1 ++ leBytes (s.chCount c) 4)
  else s

/-- The poison run of a channel's samples (R616): the first of a run writes one record. -/
def State.ctlPoison (s : State) (c : Nat) (p : Bool) : State :=
  if p then
    let s := if (s.chan c).poisRun then s else s.poisonBites 0x1E c (s.chCount c)
    s.modChan c fun x => { x with poisRun := true }
  else s.modChan c fun x => { x with poisRun := false }

/-- The stale run after a sample (R294). -/
def State.ctlStale (s : State) (c : Nat) (stale : Bool) : State :=
  if stale then
    let s := if s.fld (R.CTL_CH_STATE c) 8 8 = 0 then s.postCtl ST.CTL_INPUT_STALE c (s.chCount c) else s
    s.incFld (R.CTL_CH_STATE c) 8 8
  else s.setFld (R.CTL_CH_STATE c) 8 8 0

/-- The implausible run after a sample (R296, R300). -/
def State.ctlImpl (s : State) (c : Nat) (good : Bool) : State :=
  if good then s.setFld (R.CTL_CH_STATE c) 16 8 0 else s.incFld (R.CTL_CH_STATE c) 16 8

/-- The evaluated chain takes effect: state variables, capture, payload; or the channel faults on a value that is not finite
(R298). -/
def State.ctlApply (s : State) (c t sig : Nat) (test : Bool) (flags : Nat) (k : Chain) : State :=
  let s := s.captureOne c t sig k
  let s := if test then s.tgNext else s
  if k.bad then (s.postCtl ST.CTL_NONFINITE c (s.chCount c)).ctlFault c t
  else
    let s := s.modChan c fun _ => k.ch
    let s := (s.setChState c (if k.ch.soft then 2 else 3)).setFld (R.CTL_CH_LAST c) 0 32 k.y
    s.ctlOut c t k.q (flags + k.flags + 128 * b2n test + 512 * b2n (s.chBankB c))

/-- The chain of a running or just initialised channel (R296) with a measurement `x`, held when it is implausible. -/
def State.ctlChain (s : State) (c t x m : Nat) (good stale : Bool) (g : SetPoint) : State :=
  let ch := s.chan c
  let m := if good then m else ch.mPrev.toNat
  let v := if g.poison then (ch.target.getD 0#32).toNat else g.v
  let s := s.modChan c fun y => { y with target := some (BitVec.ofNat 32 v), lastX := some (BitVec.ofNat 32 x) }
  let test := s.tgOn c
  let sig := if test then s.tgValue else 0
  let atOut := s.bit R.CTL_TG_CFG 3
  let k := chainFrom (s.chBank c) (s.chan c) x m v (if atOut then 0 else sig) (if atOut then sig else 0) (s.chCfg c 44 2)
  s.ctlApply c t sig test (2 * b2n stale + 4 * b2n (!good) + 8 * b2n (g.stale || g.poison)) k

/-- A sample of a channel that is not in the fault state (R292 to R300, R616). -/
def State.ctlLive (s : State) (c t : Nat) : State :=
  let armed := decide (s.chState c = 1)
  let inp := s.ctlInput c t
  let stale := match inp with
    | some (_, p, _) => decide (s.regN (R.CTL_CH_AGE c) < (2 ^ 32 + shortOf t - shortOf p) % 2 ^ 32)
    | none => true
  let x := match inp with
    | some (d, _, _) => s.ctlValue c d
    | none => ((s.chan c).lastX.getD 0#32).toNat
  let badX := match inp with
    | some (_, _, b) => b
    | none => false
  let g := s.ctlTarget c t
  let s := s.ctlPoison c (badX || g.poison)
  let s := s.ctlStale c stale
  let (m, good) := conditioned (s.chBank c) x
  let good := good && !badX
  let s := s.ctlImpl c good
  if armed then
    if stale ∨ !good then s
    else if g.none_ ∨ g.poison then s.ctlFault c t
    else (s.modChan c fun ch => initChannel (s.chBank c) ch m).ctlChain c t x m true false g
  else if s.chCfg c 48 8 ≤ s.fld (R.CTL_CH_STATE c) 8 8 ∨ s.chCfg c 56 8 ≤ s.fld (R.CTL_CH_STATE c) 16 8 ∨ g.none_ then
    s.ctlFault c t
  else s.ctlChain c t x m good stale g

/-- CTL_EVALUATION: the engine evaluates the pending sample of the lowest-numbered channel (R303). -/
def execCtlEvaluation (s : State) : Host.Outcome State Fault Refusal :=
  match (List.range 8).find? fun c => (s.chan c).pendAt.isSome with
  | none => ok s
  | some c =>
    let t := (s.chan c).pendAt.getD 0
    let s := (s.modChan c fun x => { x with pendAt := none }).showCtl
    let s := s.ctlSwap c t
    ok (if s.chState c = 0 then s else if s.chState c = 4 then s.ctlFaultOut c t else s.ctlLive c t)

/-- TEST_GENERATOR_END: the generator has supplied `LEN` evaluations (R307). -/
def execTestGeneratorEnd (s : State) : Host.Outcome State Fault Refusal :=
  if s.bit R.CTL_TG_CFG 9 ∧ s.regN R.CTL_TG_LEN ≤ s.testGen.n then ok (s.setBit R.CTL_TG_CFG 9 false) else ok s

/-! ### Configuration writes (R299, R307, R311) -/

/-- A test start (R307): `CTL_TG_CFG` written with `START` 1; without it the fields are stored. -/
def State.tgWrite (s : State) (v : Nat) : State × Option Status :=
  let s' := s.setRegN R.CTL_TG_CFG (bitsOf v 0 6 + s.fld R.CTL_TG_CFG 9 1 * 2 ^ 9 + bitsOf v 16 16 * 2 ^ 16)
  if bitsOf v 8 1 = 0 then accept s'
  else if s.bit R.CTL_TG_CFG 9 ∨ s.chState (bitsOf v 0 3) ≠ 3 then refuse s ST.CTL_TEST
  else
    accept { s'.setBit R.CTL_TG_CFG 9 true with
      testGen := { s.testGen with n := 0, reg := s.regN R.CTL_TG_SEED % 2 ^ 31, phase := 0, delta := s.regN R.CTL_TG_DPHI } }

/-- CTL_TG_START: a master writes `CTL_TG_CFG`. -/
def execCtlTgStart (m : Nat) (v : Dword) (s : State) : Host.Outcome State Fault Refusal :=
  ok (s.regBus m R.CTL_TG_CFG 4 fun s => s.tgWrite v.toNat)

/-- Whether a channel configuration names a present source, a field within bits 31:0 and a fitting form (R311, R621). -/
def chCfgOk (v : Nat) : Bool :=
  let kind := bitsOf v 1 3
  let i := bitsOf v 4 8
  decide (kind ≤ 4) && (decide (kind ≠ 0) || decide (i < 8)) && (decide (kind = 0 ∨ kind = 2) || decide (i < 16)) &&
    decide (bitsOf v 12 8 + bitsOf v 20 6 ≤ 32) && !(decide (bitsOf v 27 1 = 1) && decide (bitsOf v 20 6 ≠ 32 ∨ bitsOf v 26 1 = 1))

/-- The ranges of a configuration that is enabled (R311). -/
def chRangesOk (v sp : Nat) : Bool :=
  decide (1 ≤ bitsOf v 20 6 ∧ bitsOf v 20 6 ≤ 32 ∧ bitsOf v 33 3 ≤ 3 ∧ bitsOf v 44 2 ≤ 2 ∧ 1 ≤ bitsOf v 48 8 ∧ 1 ≤ bitsOf v 56 8) &&
    (decide (bitsOf v 32 1 = 0) || decide (1 ≤ bitsOf sp 24 8 ∧ 1 ≤ bitsOf sp 32 24)) &&
    (decide (bitsOf v 33 3 ≠ 1) || decide (bitsOf v 36 8 < 64)) && (decide (bitsOf v 33 3 ≠ 3) || decide (bitsOf v 36 8 < 4))

/-- A channel stops (R299): nothing pending is evaluated any more. -/
def State.chDisable (s : State) (c : Nat) : State :=
  let s := (s.setBit (R.CTL_CH_CFG c) 0 false).setChState c 0
  ((s.modChan c fun x => { x with pendAt := none }).tgStop c).showCtl

/-- A channel is armed (R299). -/
def State.chArm (s : State) (c : Nat) : State :=
  let s := (s.setFld (R.CTL_CH_STATE c) 8 16 0).setChState c 1
  s.modChan c fun x => { x with poisRun := false, target := none, lastX := none }

/-- A write of `CTL_CHc_CFG` (R299, R311). -/
def State.chCfgWrite (s : State) (c v : Nat) : State × Option Status :=
  let old := s.regN (R.CTL_CH_CFG c)
  if bitsOf old 0 1 = 1 then
    if old / 2 ≠ v / 2 then refuse s ST.CTL_CONFIG
    else if bitsOf v 0 1 = 0 then accept (s.chDisable c)
    else accept s
  else if !(chCfgOk v) ∨ (bitsOf v 0 1 = 1 ∧ !(chRangesOk v (s.regN (R.CTL_CH_SP c)))) then refuse s ST.CTL_CONFIG
  else
    let s := s.setRegN (R.CTL_CH_CFG c) v
    if bitsOf v 0 1 = 1 then accept (s.chArm c) else accept s

/-- A write of `CTL_CHc_SP` or `CTL_CHc_AGE`: only while the channel is disabled (R311). -/
def State.chOffWrite (s : State) (c a v : Nat) : State × Option Status :=
  if s.bit (R.CTL_CH_CFG c) 0 then refuse s ST.CTL_CONFIG else accept (s.setRegN a v)

/-- A write of `CTL_CAP_CFG`: capture starts anew. -/
def State.capWrite (s : State) (v : Nat) : State × Option Status :=
  let s := (s.setRegN R.CTL_CAP_CFG (bitsOf v 0 5 + bitsOf v 8 16 * 2 ^ 8)).setRegN R.CTL_CAP_COUNT 0
  accept { s with testGen := { s.testGen with next := 0 } }

/-- CHANNEL_ENABLE: a master writes a channel's configuration with `ENABLE` 1. -/
def execChannelEnable (m ch : Nat) (v : Dword) (s : State) : Host.Outcome State Fault Refusal :=
  ok (s.regBus m (R.CTL_CH_CFG (ch % 8)) 8 fun s => s.chCfgWrite (ch % 8) (putBits v.toNat 0 1 1))

/-- CHANNEL_DISABLE: a master writes a channel's configuration with `ENABLE` 0. -/
def execChannelDisable (m ch : Nat) (v : Dword) (s : State) : Host.Outcome State Fault Refusal :=
  ok (s.regBus m (R.CTL_CH_CFG (ch % 8)) 8 fun s => s.chCfgWrite (ch % 8) (putBits v.toNat 0 1 0))

/-! ### Banks and capture reads (R301, R302, R309) -/

/-- a < b, false for NaN. -/
def fpBelow (a b : Nat) : Bool := fpLt (f32 a) (f32 b)

/-- Whether a bank keeps the Meaning column of its table (R301). -/
def bankOk (b : BitVec 1024) : Bool :=
  let g := bankAt b
  let fin := fun o => isFin (f32 (g o))
  let posn := fun o => fpBelow 0 (g o)
  [0, 32, 160, 192, 224, 256, 320, 352, 384, 736, 768, 832, 864, 896].all fin &&
    (List.range 10).all (fun i => fin (416 + 32 * i)) &&
    !(isNan (f32 (g 64))) && !(isNan (f32 (g 96))) && fpLe (g 64) (g 96) && decide (f32 (g 64) ≠ .inf false) &&
    decide (f32 (g 96) ≠ .inf true) && posn 128 && fpLe (g 224) (g 256) && fpLe 0 (g 288) && fpBelow (g 288) one32 &&
    fpBelow (g 736) (g 768) && posn 800

/-- CTL_WRITE_BANK: the inactive bank of a channel is written (R301). -/
def execCtlWriteBank (n : Nat) (s : State) : Host.Outcome State Fault Refusal :=
  ok (s.runCmd n 0x0600 true fun s =>
    let c := s.arg n 0
    let b := BitVec.ofNat 1024 (s.arg n 1)
    if (s.chan c).swapAt.isSome then denied s ST.CTL_BANK_BUSY
    else if !(bankOk b) then denied s ST.CTL_BANK
    else okay (s.modChan c fun x => if s.chBankB c then { x with bankA := b } else { x with bankB := b }))

/-- CTL_BANK_SWAP: a swap is accepted at the device time it returns (R302). -/
def execCtlBankSwap (n : Nat) (s : State) : Host.Outcome State Fault Refusal :=
  ok (s.runCmd n 0x0601 true fun s =>
    let c := s.arg n 0
    if (s.chan c).swapAt.isSome then denied s ST.CTL_BANK_BUSY
    else
      let s := (s.modChan c fun x => { x with swapAt := some s.now }).setBit (R.CTL_CH_STATE c) 4 true
      giving s (leBytes s.now 8))

/-- CTL_CAPTURE_READ: entries of the capture memory are written to memory (R309). -/
def execCtlCaptureRead (n : Nat) (s : State) : Host.Outcome State Fault Refusal :=
  ok (s.runCmd n 0x0602 true fun s =>
    let k := s.arg n 1
    let d := (List.range k).flatMap fun i => leBytes (mget 0#128 s.capture (s.arg n 0 + i)).toNat 16
    giving (s.supWrite (s.arg n 2) d) (leBytes k 4))

/-! ### Resets (R310, R514) -/

/-- An engine reset (R310). -/
def State.ctlReset (s : State) : State :=
  let s := s.each (List.range 8) fun s c => s.chDisable c
  (s.setBit R.CTL_TG_CFG 9 false).setFld R.CTL_CAP_CFG 3 2 0

/-- A context abort of a channel (R514): its sample is discarded and the channel enters the fault state; one that is off stays off. -/
def State.ctlAbort (s : State) (c : Nat) : State :=
  let s := (s.modChan c fun x => { x with pendAt := none }).showCtl
  if s.chState c = 0 ∨ s.chState c = 4 then s
  else ((s.setChState c 4).postCtl ST.CTL_CHANNEL_FAULT c (s.chCount c)).tgStop c

end Sys2Proof.Machine
end

