-- ==== Sys2Proof/Machine/Net.lean ====
section
/-! DEFINITION. Ethernet (R386 to R400, R418): reception and its stamp, forwarding, bound streams, the host rings, transmission and one-step Sync, gate banks, the indirect tables, and mailbox frames. -/

namespace Sys2Proof.Machine

/-! ### Ports and stamps (R386, R390) -/

/-- Whether a frame can move on external port `p`: the domain and the unit are on and the link is up. -/
def State.ethUp (s : State) (p : Nat) : Bool :=
  decide (p < 4) && s.domainOn 11 && s.bit R.ETH_CTRL 0 && s.bit (R.ETH_P_STATUS p) 0

/-- A discarded frame is counted on its port. -/
def State.ethDrop (s : State) (p : Nat) : State := if p < 4 then s.incReg (R.ETH_P_DROP_CNT p) else s

/-- The fixed receive and transmit corrections of a port's speed, in ps (R390). -/
def fixedCorr (speed : Nat) : Nat × Nat :=
  match speed with
  | 0 => (25600, 38400)
  | 1 => (12800, 19200)
  | _ => (6400, 9600)

/-- The receive stamp now on a port, in units of 2^-16 ns (R390). -/
def State.rxStamp (s : State) (p : Nat) : Nat :=
  (s.now * 1000 - (fixedCorr (s.fld (R.ETH_P_CFG p) 0 2)).1 - s.regN (R.ETH_P_RX_PHY_LAT p)) * 65536 / 1000

/-- The transmit stamp now on a port, in units of 2^-16 ns (R390). -/
def State.txStamp (s : State) (p : Nat) : Nat :=
  (s.now * 1000 + (fixedCorr (s.fld (R.ETH_P_CFG p) 0 2)).2 + s.regN (R.ETH_P_TX_PHY_LAT p)) * 65536 / 1000

/-! ### Forwarding (R387) -/

/-- The ports of a frame: those of the forwarding-database entry of its VLAN and destination, else the VLAN's members where it
floods; never the port it came in by. Entries of all zeros are unwritten. -/
def State.ethRoute (s : State) (f : EthFrame) (ingress : Nat) : List Nat :=
  let hit := s.ethTables.find? fun x => decide (x.1 < 4096) && Config.fdbMatch x.2 f.vlan f.dmac
  let v := mget 0#1024 s.ethTables (ethKey 1 0 (f.vlan - 1))
  let mask := match hit with
    | some x => Config.fdbPorts x.2
    | none => if 1 ≤ f.vlan ∧ f.vlan ≤ 4094 ∧ v ≠ 0#1024 ∧ Config.vlanFlood v then Config.vlanPorts v else 0
  (List.range 5).filter fun p => decide (p ≠ ingress) && decide (mask / 2 ^ p % 2 = 1)

/-! ### Host rings (R398) -/

/-- The address of the next descriptor of a host ring. -/
def State.ringDesc (s : State) (tx : Bool) (r : Nat) : Nat :=
  Config.ringBase tx r + 32 * mget 0 s.ethRings (r + (if tx then 16 else 0))

/-- The ring advances to its next descriptor. -/
def State.ringStep (s : State) (tx : Bool) (r : Nat) : State :=
  let k := r + (if tx then 16 else 0)
  { s with ethRings := mset 0 s.ethRings k ((mget 0 s.ethRings k + 1) % max 1 (Config.ringSize tx r)) }

/-- A descriptor handed back (R398): its stamp first, `OWN` cleared last. -/
def State.handBack (s : State) (a : Nat) (stamp : Option Nat) : State :=
  let (d, _, s) := s.hubGet 0x032 a 16
  let s := match stamp with
    | some t => s.hubSet 0x032 (a + 16) (leBytes (t / 65536) 8) false
    | none => s
  s.hubSet 0x032 a (leBytes (putBits (leNat d) 64 1 0) 16) false

/-- A frame for port 4 with its receive stamp: into the buffer of the next receive descriptor, which is written back with the length,
`EOP`, `ERR` when the buffer was too short, the class and the stamp. A ring without a descriptor discards the frame. -/
def State.hostReceive (s : State) (f : EthFrame) (ingress stamp : Nat) : State :=
  let r := Config.ringOf f.bytes % 16
  let a := s.ringDesc false r
  let (d, _, s) := s.hubGet 0x032 a 32
  let v := leNat d
  if bitsOf v 64 1 = 0 then s.ethDrop ingress
  else
    let fit := f.bytes.take (bitsOf v 48 16)
    let s := s.hubSet 0x032 (bitsOf v 0 48) fit false
    let v := putBits (putBits (putBits v 48 16 fit.length) 65 1 1) 67 1 (b2n (decide (fit.length < f.bytes.length)))
    let v := putBits (putBits v 68 4 (Config.trafficClass f.bytes)) 128 64 (stamp / 65536)
    ((s.hubSet 0x032 a (leBytes v 32) false).handBack a (some stamp)).ringStep false r

/-! ### Into the switch -/

/-- A frame queued on an external port, or discarded while its link is down. -/
def State.ethQueue (s : State) (p : Nat) (f : EthFrame) : State :=
  if s.ethUp p then s.modEth p fun e => { e with queue := e.queue ++ [f] } else s.ethDrop p

/-- A frame forwarded to its ports; a descriptor to hand back goes with the first copy, or back at once when no port sends it. -/
def State.ethForward (s : State) (f : EthFrame) (ingress stamp : Nat) : State :=
  let ports := s.ethRoute f ingress
  let outs := ports.filter fun p => decide (p < 4)
  let s := if ports = [] then s.ethDrop ingress else s
  let s := match f.back with
    | some a => if (outs.head?.any s.ethUp) then s else s.handBack a none
    | none => s
  let s := s.each (enumFrom 0 outs) fun s x => s.ethQueue x.2 (if x.1 = 0 then f else { f with back := none })
  if 4 ∈ ports then s.hostReceive f ingress stamp else s

/-- A frame of a stream bound to a handoff descriptor (R397): header and frame go to the write slot and are published. -/
def State.ethBound (s : State) (i p : Nat) (f : EthFrame) (stamp : Nat) : State :=
  let d := (s.ho i).desc
  if d.slotBytes < 64 + f.bytes.length then s.ethDrop p
  else
    let k := s.hoW i
    let h := leBytes (stamp / 65536) 8 ++ leBytes f.bytes.length 2 ++ leBytes p 1 ++ List.replicate 53 0#8
    let s := if s.hoExists i then s.hubSet 0x032 (slotAddr d k) (h ++ f.bytes) false else s
    s.publish 0x032 i k

/-- The payload of a frame that reaches the control engine: what follows its addresses, its VLAN tag and its EtherType. -/
def ethPayload (f : EthFrame) : List Byte := f.bytes.drop (if f.vlan = 0 then 14 else 18)

/-- The arrivals of an identified stream (R397, R413). -/
def State.ethStream (s : State) (p : Nat) (f : EthFrame) (stamp : Nat) : State :=
  match f.stream with
  | none => s
  | some e =>
    let v := mget 0#1024 s.ethTables (ethKey 4 0 (e % 1024))
    if v = 0#1024 then s
    else
      let s := match Config.filterHandoff v with
        | some i => s.ethBound (i % 1024) p f stamp
        | none => s
      match Config.filterControl v with
      | some i => s.ctlArrive 3 (i % 16) (BitVec.ofNat 512 (leNat ((ethPayload f).take 64)))
      | none => s

/-- A frame accepted on an external port with its receive stamp: recorded, delivered to what its stream is bound to, forwarded. -/
def State.ethAccept (s : State) (p : Nat) (f : EthFrame) (stamp : Nat) : State :=
  let s := if f.ptp then s else s.tap 0x03 (some 1) 0x1A p s.now (leBytes (stamp / 65536) 8 ++ leBytes p 1 ++ f.bytes)
  let s := s.ethStream p f stamp
  s.ethForward { f with rx := some stamp, back := none, cls := none } p stamp

/-- ETH_FRAME_RECEIVE: a frame arrives on an external port (R386, R387, R390); while a replay runs, ports outside `PORTS` hear
nothing (R596). -/
def execEthFrameReceive (port : Nat) (frame : EthFrame) (s : State) : Host.Outcome State Fault Refusal :=
  if !(s.ethUp port) ∨ (s.replaying ∧ port ∉ s.recPorts) then ok s
  else if frame.bytes.length + 4 < 64 ∨ 9216 < frame.bytes.length + 4 ∨ !frame.fcsOk then ok (s.ethDrop port)
  else if port ∈ s.recPorts ∧ frame.bytes.take 5 = sinkMark then ok (s.streamIn frame.bytes)
  else ok (s.ethAccept port frame (s.rxStamp port))

/-! ### Transmission (R388 to R392, R398) -/

/-- The traffic class of a frame (R392: 7 for PTP event messages). -/
def ethClass (f : EthFrame) : Nat := if f.ptp then 7 else (f.cls.getD (Config.trafficClass f.bytes)) % 8

/-- The entries of a port's gate-control bank (tables 2 and 3). -/
def State.gateList (s : State) (p : Nat) (b : Bool) : List (Nat × BitVec 1024) :=
  s.ethTables.filter fun x =>
    decide (ethKey (if b then 3 else 2) p 0 ≤ x.1) && decide (x.1 < ethKey (if b then 3 else 2) p 256)

/-- The place of the frame that a port sends next: of the classes that may send, the highest, and in it the oldest (R388). -/
def State.ethNext (s : State) (p : Nat) : Option Nat :=
  let g := s.gateList p (s.eth p).activeB
  ((enumFrom 0 (s.eth p).queue).foldl (fun (m : Option (Nat × Nat)) x =>
    let c := ethClass x.2
    if !(Config.classOpen g c s.now) then m
    else match m with
      | none => some (x.1, c)
      | some (i, d) => if d < c then some (x.1, c) else some (i, d)) none).map fun x => x.1

/-- A big-endian number written over bytes at an offset. -/
def patchBE (l : List Byte) (o n v : Nat) : List Byte := patch l o (leBytes v n).reverse

/-- A big-endian number in bytes. -/
def beAt (l : List Byte) (o n : Nat) : Nat := leNat ((l.drop o).take n).reverse

/-- A Sync as it leaves with its transmit stamp (R391): the PTP header stands at `o`, with correctionField at 8 and originTimestamp
at 34. A relayed Sync has its residence time added to correctionField instead. -/
def syncLeaves (f : EthFrame) (o tx : Nat) : List Byte :=
  let corr := beAt f.bytes (o + 8) 8
  let b := match f.rx with
    | some rx => patchBE f.bytes (o + 8) 8 ((corr + (tx - rx)) % 2 ^ 64)
    | none =>
      let b := patchBE f.bytes (o + 34) 6 (tx / 65536 / 1000000000)
      let b := patchBE b (o + 40) 4 (tx / 65536 % 1000000000)
      patchBE b (o + 8) 8 ((corr + tx % 65536) % 2 ^ 64)
  match f.udp with
  | none => b
  | some (u, keep) =>
    if keep ∧ beAt f.bytes u 2 = 0 then b else patchBE b u 2 (Config.udpChecksum b u).toNat

/-- A frame leaves the MAC of an external port (R390, R391, R398). -/
def State.ethLeave (s : State) (p : Nat) (f : EthFrame) : State :=
  let tx := s.txStamp p
  let b := match f.sync with
    | some o => if s.bit (R.ETH_P_CFG p) 3 then syncLeaves f o tx else f.bytes
    | none => f.bytes
  let s := s.modEth p fun e => { e with sent := b, sentAt := tx }
  match f.back with
  | some a =>
    let (d, _, s) := s.hubGet 0x032 a 16
    s.handBack a (if bitsOf (leNat d) 66 1 = 1 then some tx else none)
  | none => s

/-- The buffers of a frame in a transmit ring, up to the descriptor with `EOP`: its bytes and its last descriptor. Every earlier
descriptor is handed back. None when the ring has no whole frame. -/
def State.ringTake (s : State) (r : Nat) : Nat → List Byte → Option (List Byte × Nat × State)
  | 0, _ => none
  | k + 1, acc =>
    let a := s.ringDesc true r
    let (d, _, s) := s.hubGet 0x032 a 16
    let v := leNat d
    if bitsOf v 64 1 = 0 then none
    else
      let (b, _, s) := s.hubGet 0x032 (bitsOf v 0 48) (bitsOf v 48 16)
      let s := s.ringStep true r
      if bitsOf v 65 1 = 1 then some (acc ++ b, a, s) else (s.handBack a none).ringTake r k (acc ++ b)

/-- The next frame of a transmit ring enters the switch at port 4. -/
def State.hostSend (s : State) (r : Nat) : State :=
  match s.ringTake r (Config.ringSize true r) [] with
  | none => s
  | some (b, a, s) =>
    let (dmac, vlan, ptp, sync, udp) := Config.frameHead b
    let f : EthFrame := { dmac := dmac, vlan := vlan, ptp := ptp, sync := sync, udp := udp, bytes := b, back := some a }
    s.ethForward f 4 (s.now * 65536)

/-- FRAME_TRANSMIT: the next frame of an external port leaves its MAC; on port 4, the next frame of a host transmit ring does. -/
def execFrameTransmit (port ring : Nat) (s : State) : Host.Outcome State Fault Refusal :=
  if port = 4 then ok (if s.domainOn 11 ∧ s.bit R.ETH_CTRL 0 then s.hostSend (ring % 16) else s)
  else if !(s.ethUp port) then ok s
  else
    match s.ethNext port with
    | none => ok s
    | some k =>
      match (s.eth port).queue[k]? with
      | none => ok s
      | some f => ok ((s.modEth port fun e => { e with queue := e.queue.eraseIdx k }).ethLeave port f)

/-- EXPRESS_TRANSMIT: the first frame of a port's express queue begins transmission (R394, R395). -/
def execExpressTransmit (port : Nat) (s : State) : Host.Outcome State Fault Refusal :=
  if !(s.ethUp port) then ok s
  else
    match (s.eth port).express with
    | [] => ok s
    | x :: r => ok (s.modEth port fun e => { e with express := r, sent := x.payload, sentAt := s.txStamp port })

/-- A port's link goes down; its express frames are discarded and counted (R396). -/
def State.ethDown (s : State) (p : Nat) : State :=
  if !(s.bit (R.ETH_P_STATUS p) 0) then s
  else
    let n := (s.eth p).express.length
    let s := (s.setBit (R.ETH_P_STATUS p) 0 false).addReg (R.ETH_P_DROP_CNT p) n
    let s := s.modEth p fun e => { e with express := [], wasUp := true, dropRun := decide (0 < n) }
    if n = 0 then s else s.postC ST.ETH_EXPRESS_DROP 0x1A p

/-- ETH_LINK_DOWN. -/
def execEthLinkDown (port : Nat) (s : State) : Host.Outcome State Fault Refusal := ok (s.ethDown (port % 4))

/-- A port's link shown up; the spec names the verify state and the preemption bit of `ETH_Pp_STATUS` and gives their values
nowhere, so they take a free value (log entry 4). -/
def State.ethShowUp (s : State) (p : Nat) : State :=
  s.draw.2.setFld (R.ETH_P_STATUS p) 0 5 (1 + 2 * (Config.freeNat s.fresh % 16))

/-- ETH_LINK_UP: a port's link comes up; the next loss writes a new record (R396). -/
def execEthLinkUp (port : Nat) (s : State) : Host.Outcome State Fault Refusal :=
  let p := port % 4
  if !(s.domainOn 11) ∨ !s.power.sdsRefOk then ok s
  else ok ((s.ethShowUp p).modEth p fun e => { e with dropRun := false, wasUp := true })

/-! ### Gate banks and tables (R389, R418) -/

/-- The sum of a gate list's intervals. -/
def gateSum (l : List (Nat × BitVec 1024)) : Nat := l.foldl (fun n x => n + Config.gateInterval x.2) 0

/-- GATE_BANK_SWAP: a cycle boundary with a swap requested at `req` (R389); a list of a wrong length is refused. -/
def execGateBankSwap (port req : Nat) (s : State) : Host.Outcome State Fault Refusal :=
  let p := port % 4
  let sum := gateSum (s.gateList p (!(s.eth p).activeB))
  if !(s.domainOn 11) then ok s
  else if sum < 1000 ∨ 1000000000 < sum then ok (s.postC ST.ETH_GCL 0x1A p)
  else if s.now < req + 10000 then ok s
  else ok (s.modEth p fun e => { e with activeB := !e.activeB })

/-- The entries of an indirect table (R387 to R389, R393); 0 for an absent one. -/
def ethTableSize (t : Nat) : Nat :=
  match t with
  | 0 => 4096
  | 1 => 4094
  | 2 => 256
  | 3 => 256
  | 4 => 1024
  | 5 => 256
  | 6 => 256
  | 7 => 128
  | 8 => 64
  | _ => 0

/-- The entry that `ETH_TBL_SEL` names; none for an absent table, port or entry. -/
def State.ethSel (s : State) : Option (Nat × Nat × Nat) :=
  let t := s.fld R.ETH_TBL_SEL 0 8
  let p := s.fld R.ETH_TBL_SEL 8 4
  let e := s.fld R.ETH_TBL_SEL 16 12
  let perPort := decide (t = 2 ∨ t = 3)
  if e < ethTableSize t ∧ (!perPort ∨ p < 4) then some (t, if perPort then p else 0, e) else none

/-- Whether external port `p` is in this part (R371). -/
def State.ethPort (s : State) (p : Nat) : Bool := decide (s.boot.part.ethMask / 2 ^ p % 2 = 1)

/-- Whether a template is one of R393. -/
def State.templateOk (s : State) (v : Nat) : Bool :=
  let n := bitsOf v 768 8
  let ports := (List.range 8).filter fun p => decide (bitsOf v (776 + p) 1 = 1)
  decide (14 ≤ n ∧ n ≤ 96) && decide (ports.length ≤ 2) && ports.all fun p => decide (p < 4) && s.ethPort p

/-- An entry as it is stored: a template keeps its `SEQ` and zero bytes (R393). -/
def storedEntry (t old v : Nat) : Nat := if t = 8 then putBits (v % 2 ^ 832) 816 16 (bitsOf old 816 16) else v

/-- A write of `ETH_TBL_CMD`: an indirect write, then an indirect read (R389, R393, R418). -/
def actEthTbl (s : State) (v : Nat) : State × Option Status :=
  if v % 4 = 0 then accept s
  else
    match s.ethSel with
    | none => refuse s ST.ETH_CONFIG
    | some (t, p, e) =>
      let new := leNat (s.regBytes (R.ETH_TBL_DATA 0) 16)
      let key := ethKey t p e
      let old := (mget 0#1024 s.ethTables key).toNat
      if bitsOf v 1 1 = 1 then
        if (t = 2 ∨ t = 3) ∧ ((s.eth p).activeB = decide (t = 3)) then refuse s ST.ETH_CONFIG
        else if t = 8 ∧ !(s.templateOk new) then refuse s ST.ETH_CONFIG
        else accept { s with ethTables := mset 0#1024 s.ethTables key (BitVec.ofNat 1024 (storedEntry t old new)) }
      else accept (s.setRegBytes (R.ETH_TBL_DATA 0) (leBytes old 128))

/-- ETH_TBL_READ: bit 0 of `ETH_TBL_CMD`. -/
def execEthTblRead (m : Nat) (v : Dword) (s : State) : Host.Outcome State Fault Refusal :=
  ok (s.regBus m R.ETH_TBL_CMD 4 fun s => actEthTbl s v.toNat)

/-- ETH_TBL_WRITE: bit 1 of `ETH_TBL_CMD`. -/
def execEthTblWrite (m : Nat) (v : Dword) (s : State) : Host.Outcome State Fault Refusal :=
  ok (s.regBus m R.ETH_TBL_CMD 4 fun s => actEthTbl s v.toNat)

/-! ### Mailbox frames (R399, R400) -/

/-- Whether a request frame matches an enabled binding whose mailbox the Ethernet DMA owns, and its tag holds. -/
def State.mbBound (s : State) (f : MbFrame) : Bool :=
  let c := R.ETH_MB_CFG f.binding
  let n := s.fld c 1 4
  decide (f.binding < 4) && f.bound && f.tagOk && s.bit c 0 && decide (n = f.mailbox) &&
    decide (s.mbOwner n = 0x032) && decide (s.fld (R.SUP_MB_OWNER n) 16 10 = 0x3FF)

/-- The cases of R400 in their order. -/
def State.mbFrame (s : State) (f : MbFrame) : State :=
  let n := s.fld (R.ETH_MB_CFG f.binding) 1 4
  let seq := f.seq.toNat
  let rsp := s.regN (R.SUP_MB_RSP_SEQ n)
  let busy := s.bit (R.SUP_MB_STATE n) 0
  let answer := { s with ethRsp := s.ethRsp ++ [f.binding] }
  if !(s.mbBound f) then s.postC ST.ETH_MB_AUTH 0x1A f.binding
  else if f.startId.toNat ≠ s.regN R.SUP_START_ID then answer.postC ST.ETH_MB_STALE_START 0x1A f.binding
  else if seq = rsp then answer
  else if busy ∧ seq = s.regN (R.SUP_MB_REQ_SEQ n) then s
  else if !busy ∧ seq = (rsp + 1) % 2 ^ 32 then
    ((s.setRegBytes (R.SUP_MB_REQ n) ((f.buffer ++ List.replicate 256 0#8).take 256)).submit n seq).1
  else s.postC ST.MB_SEQ 0x1A f.binding

/-- MAILBOX_FRAME: a mailbox request frame with the outcome of its authentication. -/
def execMailboxFrame (frame : MbFrame) (s : State) : Host.Outcome State Fault Refusal :=
  ok (if s.domainOn 11 ∧ s.bit R.ETH_CTRL 0 then s.mbFrame frame else s)

/-- The response frame of a binding (R399), in network byte order around the buffer. -/
def State.mbResponse (s : State) (b : Nat) : EthFrame :=
  let cfg := s.regN (R.ETH_MB_CFG b)
  let n := bitsOf cfg 1 4
  let start := leBytes (s.regN R.SUP_START_ID) 4
  let seq := leBytes (s.regN (R.SUP_MB_RSP_SEQ n)) 4
  let byte3 : Byte := BitVec.ofNat 8 (n + 128)
  let macs := (leBytes (s.fld (R.ETH_MB_PEER b) 0 48) 6).reverse ++ (leBytes (s.fld (R.ETH_P_MAC (bitsOf cfg 5 2)) 0 48) 6).reverse
  let body := [0x4D#8, 0x42#8, 0x01#8, byte3] ++ seq.reverse ++ start.reverse ++ s.regBytes (R.SUP_MB_RSP n) 32
  let iv := start.reverse ++ [byte3, 0#8, 0#8, 0#8] ++ seq.reverse
  let tag := Config.gcmTag (bitsOf cfg 20 4) iv (macs ++ body)
  let vlan := (leBytes (bitsOf cfg 8 12) 2).reverse
  { vlan := bitsOf cfg 8 12, dmac := s.fld (R.ETH_MB_PEER b) 0 48, cls := some (bitsOf cfg 24 8)
    bytes := macs ++ [0x81#8, 0x00#8] ++ vlan ++ [0x88#8, 0xB5#8] ++ body ++ tag }

/-- MAILBOX_RESPONSE_FRAME: a response of a binding is queued on its port (R400). -/
def execMailboxResponseFrame (b : Nat) (s : State) : Host.Outcome State Fault Refusal :=
  if b ∈ s.ethRsp ∧ s.domainOn 11 ∧ s.bit R.ETH_CTRL 0 then
    ok (({ s with ethRsp := s.ethRsp.erase b }).ethQueue (s.fld (R.ETH_MB_CFG b) 5 2) (s.mbResponse b))
  else ok s

end Sys2Proof.Machine
end

