-- ==== Sys2Proof/Machine/Vector.lean ====
section
/-! DEFINITION. The vector slot (R75, R135, R168 to R173, R185): element-wise operations, comparison and selection, reductions, the exponential class, conversions and dequantisation. A result is visible from the issue on; the latencies of R77 are timing. -/

namespace Sys2Proof.Machine

/-! ### Writing a result -/

/-- A lane result under the predicate of R75: a lane the predicate leaves out keeps its value. -/
def predLanes (x : Tile) (pred : Bool) (old : Line) (out : List Nat) : List Nat :=
  (enumFrom 0 out).map fun y => if pred ∧ x.pred.getLsbD y.1 = false then laneOf old y.1 else y.2

/-- A 64-byte result written to a register (R75, R135, R185): poisoned when a source was, when a poisoned predicate was applied,
or where the predicate keeps lanes of a poisoned word. -/
def State.vecOut (s : State) (t vd : Nat) (pred pois : Bool) (out : List Nat) (flags : NumFlags) : State :=
  let x := s.tile t
  let old := x.vreg vd
  let kept := pred && decide (x.pred ≠ 0xFFFF#16) && old.poison
  (s.setVreg t vd { data := ofLanes (predLanes x pred old.data out), poison := pois || (pred && x.predPois) || kept }).raiseNum t flags

/-- An operation of one operand on every lane. -/
def State.vec1 (s : State) (c : TCtl) (vd va : Nat) (pred : Bool) (f : Nat → Nat) : State :=
  s.issue c fun s =>
    let a := (s.tile c.tile).vreg va
    let r := (lanes a.data).map fun x => ([x], f x)
    s.vecOut c.tile vd pred a.poison (r.map Prod.snd) (laneFlags r)

/-- An operation of two operands on every lane. -/
def State.vec2 (s : State) (c : TCtl) (vd va vb : Nat) (pred : Bool) (f : Nat → Nat → Nat) : State :=
  s.issue c fun s =>
    let a := (s.tile c.tile).vreg va
    let b := (s.tile c.tile).vreg vb
    let r := ((lanes a.data).zip (lanes b.data)).map fun x => ([x.1, x.2], f x.1 x.2)
    s.vecOut c.tile vd pred (a.poison || b.poison) (r.map Prod.snd) (laneFlags r)

/-! ### Element-wise operations (R169, R173) -/

/-- `VADD`. -/
def execVadd (c : TCtl) (vd va vb : Nat) (pred : Bool) (s : State) : Host.Outcome State Fault Refusal :=
  ok (s.vec2 c vd va vb pred add32)

/-- FP32 subtraction. -/
def vsub32 (a b : Nat) : Nat := round32 (fpAdd (f32 a) (fpNeg (f32 b)))

/-- `VSUB`. -/
def execVsub (c : TCtl) (vd va vb : Nat) (pred : Bool) (s : State) : Host.Outcome State Fault Refusal :=
  ok (s.vec2 c vd va vb pred vsub32)

/-- `VMUL`. -/
def execVmul (c : TCtl) (vd va vb : Nat) (pred : Bool) (s : State) : Host.Outcome State Fault Refusal :=
  ok (s.vec2 c vd va vb pred mul32)

/-- `VMAX`. -/
def execVmax (c : TCtl) (vd va vb : Nat) (pred : Bool) (s : State) : Host.Outcome State Fault Refusal :=
  ok (s.vec2 c vd va vb pred max32)

/-- `VMIN`. -/
def execVmin (c : TCtl) (vd va vb : Nat) (pred : Bool) (s : State) : Host.Outcome State Fault Refusal :=
  ok (s.vec2 c vd va vb pred min32)

/-- `VFMA`: VA × VB + VC with one rounding. -/
def execVfma (c : TCtl) (vd va vb vc : Nat) (pred : Bool) (s : State) : Host.Outcome State Fault Refusal :=
  ok (s.issue c fun s =>
    let x := s.tile c.tile
    let r := (List.range 16).map fun i =>
      let a := laneOf (x.vreg va).data i
      let b := laneOf (x.vreg vb).data i
      let d := laneOf (x.vreg vc).data i
      ([a, b, d], fma32 a b d)
    s.vecOut c.tile vd pred ((x.vreg va).poison || (x.vreg vb).poison || (x.vreg vc).poison) (r.map Prod.snd) (laneFlags r))

/-- `VABS`. -/
def execVabs (c : TCtl) (vd va : Nat) (pred : Bool) (s : State) : Host.Outcome State Fault Refusal :=
  ok (s.vec1 c vd va pred abs32)

/-- `VNEG`. -/
def execVneg (c : TCtl) (vd va : Nat) (pred : Bool) (s : State) : Host.Outcome State Fault Refusal :=
  ok (s.vec1 c vd va pred neg32)

/-- The relations of `VCMP` (R173): 0 =, 1 <, 2 ≤, 3 ≠. -/
def relOf (rel : Nat) (a b : Fp) : Bool :=
  match rel with
  | 0 => fpEq a b
  | 1 => fpLt a b
  | 2 => fpLt a b || fpEq a b
  | _ => !(fpEq a b)

/-- The predicate of a comparison, lane by lane. -/
def cmpMask (rel : Nat) (a b : Line) : BitVec 16 :=
  BitVec.ofNat 16 (packBits 1 ((List.range 16).map fun i => b2n (relOf rel (f32 (laneOf a i)) (f32 (laneOf b i)))))

/-- `VCMP`: the lane predicate, poisoned with its sources; another relation is an undefined operation (R80). -/
def execVcmp (c : TCtl) (rel va vb : Nat) (s : State) : Host.Outcome State Fault Refusal :=
  ok (s.issue c fun s =>
    let t := c.tile
    if 3 < rel then s.tileAbort t ST.TILE_ILLEGAL_OP 0
    else
      let a := (s.tile t).vreg va
      let b := (s.tile t).vreg vb
      let nan := ((lanes a.data) ++ (lanes b.data)).any fun x => isNan (f32 x)
      (s.modTile t fun x => { x with pred := cmpMask rel a.data b.data, predPois := a.poison || b.poison }).raiseNum t
        (if nan then NF.nanIn else 0))

/-- `VSEL`: VA where the predicate holds, else VB. -/
def execVsel (c : TCtl) (vd va vb : Nat) (s : State) : Host.Outcome State Fault Refusal :=
  ok (s.issue c fun s =>
    let x := s.tile c.tile
    let a := x.vreg va
    let b := x.vreg vb
    let out := (List.range 16).map fun i => if x.pred.getLsbD i then laneOf a.data i else laneOf b.data i
    s.setVreg c.tile vd { data := ofLanes out, poison := a.poison || b.poison || x.predPois })

/-- `VMOV`. -/
def execVmov (c : TCtl) (vd va : Nat) (pred : Bool) (s : State) : Host.Outcome State Fault Refusal :=
  ok (s.issue c fun s =>
    let a := (s.tile c.tile).vreg va
    s.vecOut c.tile vd pred a.poison (lanes a.data) 0)

/-- `AMOV`: an accumulator row; an uncorrectable one comes with poison (R456). -/
def execAmov (c : TCtl) (vd row : Nat) (pred : Bool) (s : State) : Host.Outcome State Fault Refusal :=
  ok (s.issue c fun s =>
    let a := (s.tile c.tile).accRow row
    s.vecOut c.tile vd pred (a.poison || c.chk.getLsbD 4) (lanes a.data) 0)

/-- A value × 2^k with one rounding; beyond ±1,000 the exponent no longer changes the result. -/
def scl32 (a : Nat) (k : Int) : Nat := round32 (fpMul (f32 a) (.fin false 1 (max (-1000) (min k 1000))))

/-- `VSCL2`. -/
def execVscl2 (c : TCtl) (vd va vb : Nat) (pred : Bool) (s : State) : Host.Outcome State Fault Refusal :=
  ok (s.issue c fun s =>
    let x := s.tile c.tile
    let r := (List.range 16).map fun i =>
      let a := laneOf (x.vreg va).data i
      ([a], scl32 a (toSigned 32 (laneOf (x.vreg vb).data i)))
    s.vecOut c.tile vd pred ((x.vreg va).poison || (x.vreg vb).poison) (r.map Prod.snd) (laneFlags r))

/-! ### Reductions and the exponential class (R170 to R172) -/

/-- A reduction: its result in lane 0, the other lanes 0. -/
def State.vecReduce (s : State) (c : TCtl) (vd va : Nat) (pred : Bool) (f : List Nat → Sum32) : State :=
  s.issue c fun s =>
    let a := (s.tile c.tile).vreg va
    let r := f (lanes a.data)
    s.vecOut c.tile vd pred a.poison (r.1 :: List.replicate 15 0) r.2

/-- The maximum with the NaN flag. -/
def maxF (a b : Sum32) : Sum32 := (max32 a.1 b.1, a.2 ||| b.2 ||| (if isNan (f32 a.1) ∨ isNan (f32 b.1) then NF.nanIn else 0))

/-- `VRSUM`. -/
def execVrsum (c : TCtl) (vd va : Nat) (pred : Bool) (s : State) : Host.Outcome State Fault Refusal :=
  ok (s.vecReduce c vd va pred fun l => tree (0, 0) addF 4 (l.map fun x => (x, 0)))

/-- `VRMAX`. -/
def execVrmax (c : TCtl) (vd va : Nat) (pred : Bool) (s : State) : Host.Outcome State Fault Refusal :=
  ok (s.vecReduce c vd va pred fun l => tree (0, 0) maxF 4 (l.map fun x => (x, 0)))

/-- `VRMAXABS`. -/
def execVrmaxabs (c : TCtl) (vd va : Nat) (pred : Bool) (s : State) : Host.Outcome State Fault Refusal :=
  ok (s.vecReduce c vd va pred fun l => tree (0, 0) maxF 4 (l.map fun x => (abs32 x, if isNan (f32 x) then NF.nanIn else 0)))

/-- `VEXP`. -/
def execVexp (c : TCtl) (vd va : Nat) (pred : Bool) (s : State) : Host.Outcome State Fault Refusal :=
  ok (s.vec1 c vd va pred exp32)

/-- `VRCP`. -/
def execVrcp (c : TCtl) (vd va : Nat) (pred : Bool) (s : State) : Host.Outcome State Fault Refusal :=
  ok (s.vec1 c vd va pred rcp32)

/-- `VRSQRT`. -/
def execVrsqrt (c : TCtl) (vd va : Nat) (pred : Bool) (s : State) : Host.Outcome State Fault Refusal :=
  ok (s.vec1 c vd va pred rsqrt32)

/-! ### Conversions (R158 to R161, R173) -/

/-- How many 16-element parts of a width there are, and over how many registers the string runs (R156). -/
def partCount (w : Nat) : Nat := if w = 6 then 16 else 32 / w

/-- Registers that hold the string a part is in: three for 6-bit elements. -/
def partRegs (w : Nat) : Nat := if w = 6 then 3 else 1

/-- Whether a conversion to or from a format is defined (R80, R153, R160). -/
def cvtDefined (fmt part : Nat) (special widen : Bool) : Bool :=
  (match kindOf fmt with
   | .float f => widen || !special || (!(isMx fmt) && (f.hasInf || f.nan.isSome))
   | .int _ => widen || !special
   | .mxint8 => widen || !special
   | .e8m0 => false
   | .reserved => false) && decide (part < partCount (widthOf fmt))

/-- The string of the registers that hold a part. -/
def Tile.partString (x : Tile) (r w : Nat) : Nat :=
  joinWords ((List.range (partRegs w)).map fun i => x.vreg (r + i))

/-- Whether one of the registers that hold a part is poisoned. -/
def Tile.partPoison (x : Tile) (r w : Nat) : Bool := anyPois ((List.range (partRegs w)).map fun i => x.vreg (r + i))

/-- Narrowing: 16 FP32 lanes into a part of VD; what the part does not cover stays. -/
def State.cvtNarrow (s : State) (t vd va fmt part : Nat) (special pred : Bool) : State :=
  let x := s.tile t
  let w := widthOf fmt
  let a := x.vreg va
  let old := x.partString vd w
  let r := (lanes a.data).map fun y => convertTo fmt special (f32 y)
  let out := (enumFrom 0 r).map fun y =>
    if pred ∧ x.pred.getLsbD y.1 = false then bitsOf old (16 * w * part + w * y.1) w else y.2.1
  let new := putBits old (16 * w * part) (16 * w) (packBits w out)
  let p := a.poison || (pred && x.predPois)
  let hit := fun i => decide (16 * w * part < 512 * (i + 1) ∧ 512 * i < 16 * w * (part + 1))
  let s := s.each (List.range (partRegs w)) fun s i =>
    if hit i then
      s.setVreg t (vd + i)
        { data := BitVec.ofNat 512 (bitsOf new (512 * i) 512)
          poison := p || ((decide (w < 32) || pred) && (x.vreg (vd + i)).poison) }
    else s
  s.raiseNum t (orFlags (r.map Prod.snd))

/-- Widening: a part of VA to FP32 lanes. -/
def State.cvtWiden (s : State) (t vd va fmt part : Nat) (pred : Bool) : State :=
  let x := s.tile t
  let w := widthOf fmt
  let v := x.partString va w
  let r := (List.range 16).map fun i => elemValue fmt (bitsOf v (16 * w * part + w * i) w)
  s.vecOut t vd pred (x.partPoison va w) (r.map round32) (if r.any isNan then NF.nanIn else 0)

/-- `VCVT` in either overflow mode; an undefined conversion aborts the job (R80, R160). -/
def State.vcvt (s : State) (c : TCtl) (vd va fmt part : Nat) (widen special pred : Bool) : State :=
  s.issue c fun s =>
    if !(cvtDefined fmt part special widen) then s.tileAbort c.tile ST.TILE_ILLEGAL_OP 0
    else if widen then s.cvtWiden c.tile vd va fmt part pred
    else s.cvtNarrow c.tile vd va fmt part special pred

/-- `VCVT.S`. -/
def execVcvtS (c : TCtl) (vd va fmt part : Nat) (widen pred : Bool) (s : State) : Host.Outcome State Fault Refusal :=
  ok (s.vcvt c vd va fmt part widen false pred)

/-- `VCVT.N`. -/
def execVcvtN (c : TCtl) (vd va fmt part : Nat) (widen pred : Bool) (s : State) : Host.Outcome State Fault Refusal :=
  ok (s.vcvt c vd va fmt part widen true pred)

/-- FP32 multiplication with flags. -/
def mul32F (a b : Sum32) : Sum32 :=
  let r := mul32 a.1 b.1
  (r, a.2 ||| b.2 ||| arithFlags [f32 a.1, f32 b.1] r)

/-- One dequantised lane of an accumulator value (R168). -/
def dqAcc (acc sa sb : Nat) : Sum32 := mul32F (mul32F (round32 (ofInt (toSigned 32 acc) 0), 0) (sa, 0)) (sb, 0)

/-- One dequantised stored element with its zero point (R168). -/
def dqElem (w q : Nat) (z : Int) (sc : Nat) : Sum32 := mul32F (round32 (ofInt (toSigned w q - z) 0), 0) (sc, 0)

/-- `VDQ`: INT32 lanes of VA under the scales in VB and VC, or a part of stored INT8 or INT4 elements of VA with a zero point
under the scale in VB (R168); another format is an undefined operation. -/
def execVdq (c : TCtl) (vd va vb vc fmt part : Nat) (zero : Int) (pred : Bool) (s : State) : Host.Outcome State Fault Refusal :=
  ok (s.issue c fun s =>
    let x := s.tile c.tile
    let a := x.vreg va
    let b := x.vreg vb
    let d := x.vreg vc
    if fmt = 13 then
      let r := (List.range 16).map fun i => dqAcc (laneOf a.data i) (laneOf b.data i) (laneOf d.data i)
      s.vecOut c.tile vd pred (a.poison || b.poison || d.poison) (r.map Prod.fst) (orFlags (r.map Prod.snd))
    else if isInt fmt ∧ part < partCount (widthOf fmt) then
      let w := widthOf fmt
      let r := (List.range 16).map fun i => dqElem w (bitsOf a.data.toNat (16 * w * part + w * i) w) zero (laneOf b.data i)
      s.vecOut c.tile vd pred (a.poison || b.poison) (r.map Prod.fst) (orFlags (r.map Prod.snd))
    else s.tileAbort c.tile ST.TILE_ILLEGAL_OP 0)

end Sys2Proof.Machine
end

