-- ==== Sys2Proof/Machine/Quant.lean ====
section
/-! DEFINITION. Quantisation (R174 to R180): `QSTAT`, `QSCALE`, `QCONV`. -/

namespace Sys2Proof.Machine

/-! ### The descriptor (R174) -/

/-- A quantisation descriptor of a tile. -/
def Tile.qdesc (x : Tile) (d : Nat) : Nat := (mget 0#64 x.qdescs (d % 16)).toNat
/-- `SRC_FMT`. -/
def qSrc (v : Nat) : Nat := bitsOf v 0 4
/-- `DST_FMT`. -/
def qDst (v : Nat) : Nat := bitsOf v 4 4
/-- `GRAN`. -/
def qGran (v : Nat) : Nat := bitsOf v 8 2
/-- Elements in a block. -/
def qBlock (v : Nat) : Nat := 32 * 2 ^ bitsOf v 10 2
/-- `OVF`. -/
def qOvf (v : Nat) : Bool := decide (bitsOf v 12 1 = 1)
/-- `EXCL`. -/
def qExcl (v : Nat) : Bool := decide (bitsOf v 13 1 = 1)
/-- `SRC_H`. -/
def qSrcH (v : Nat) : Nat := bitsOf v 16 6
/-- `STAT_H`. -/
def qStatH (v : Nat) : Nat := bitsOf v 22 6
/-- `SCALE_H`. -/
def qScaleH (v : Nat) : Nat := bitsOf v 28 6
/-- `DST_H`. -/
def qDstH (v : Nat) : Nat := bitsOf v 34 6
/-- `OLIST_H`. -/
def qOlistH (v : Nat) : Nat := bitsOf v 40 6
/-- `OVAL_H`. -/
def qOvalH (v : Nat) : Nat := bitsOf v 46 6

/-- Elements in a source word (R156). -/
def qPerWord (v : Nat) : Nat := 512 / widthOf (qSrc v)
/-- Elements in a row of the source. -/
def Tile.qRowElems (x : Tile) (v : Nat) : Nat := ((x.handle (qSrcH v)).cols + 1) * qPerWord v
/-- Blocks in a row of the source. -/
def Tile.qRowBlocks (x : Tile) (v : Nat) : Nat := (x.qRowElems v + qBlock v - 1) / qBlock v

/-- The group of element `e` of a row (R174 `GRAN`). -/
def Tile.qGroup (x : Tile) (v row e : Nat) : Nat :=
  match qGran v with
  | 0 => 0
  | 1 => e
  | 2 => row
  | _ => row * x.qRowBlocks v + e / qBlock v

/-- The groups of the source. -/
def Tile.qGroups (x : Tile) (v : Nat) : Nat :=
  match qGran v with
  | 0 => 1
  | 1 => x.qRowElems v
  | 2 => (x.handle (qSrcH v)).rows + 1
  | _ => ((x.handle (qSrcH v)).rows + 1) * x.qRowBlocks v

/-- The slot of a channel in its outlier entry, when it is an outlier channel (R179). -/
def outlierSlot (v ch : Nat) : Option Nat :=
  (List.range 8).find? fun i =>
    let x := bitsOf v (128 * (ch / 256 % 4) + 16 * i) 16
    decide (bitsOf x 15 1 = 1 ∧ bitsOf x 0 8 = ch % 256)

/-- The outlier slot of a channel under a descriptor, with the poison of the list's word. -/
def State.qOutlier (s : State) (t v ch : Nat) : Try (Option Nat × Bool) :=
  if !(qExcl v) then .inr (none, false)
  else
    match (s.tile t).wordAt (qOlistH v) (ch / 1024) with
    | .inl c => .inl c
    | .inr w =>
      let x := (s.padRead t w 0).1
      .inr (outlierSlot x.data.toNat ch, x.poison)

/-! ### QSTAT (R175) -/

/-- The statistics of a pass are +0 at its first word. -/
def State.qClear (s : State) (t v : Nat) (k : State → State) : State :=
  s.try' t ((s.tile t).wordsAt (qStatH v) 0 (((s.tile t).qGroups v + 15) / 16)) fun ws =>
    k (s.padWrites t (ws.map fun w => (w, {})))

/-- The maximum of a statistic and a magnitude; a NaN leaves it. -/
def statMax (st x : Nat) : Nat := if isNan (f32 x) then st else max32 st (abs32 x)

/-- One element examined: its group's statistic in `STAT_H`, with the poison of its source. -/
def State.qStatOne (s : State) (t v g x : Nat) (p : Bool) : State :=
  s.try' t ((s.tile t).wordAt (qStatH v) (g / 16)) fun w =>
    let o := (s.padRead t w 0).1
    let y := statMax (laneOf o.data (g % 16)) x
    s.padWrite t w { data := BitVec.ofNat 512 (putBits o.data.toNat (32 * (g % 16)) 32 y), poison := o.poison || p }

/-- The elements of a source word, widened to FP32, with their places in the row. -/
def qElems (v col : Nat) (l : Line) : List (Nat × Nat) :=
  let w := widthOf (qSrc v)
  (List.range (qPerWord v)).map fun i => (col * qPerWord v + i, round32 (elemValue (qSrc v) (bitsOf l.toNat (w * i) w)))

/-- `QSTAT`'s examination of one source word. -/
def State.qStatWord (s : State) (t v va row col : Nat) : State :=
  let a := (s.tile t).vreg va
  s.each (qElems v col a.data) fun s y =>
    match s.qOutlier t v y.1 with
    | .inl c => s.tileAbort t c 0
    | .inr (some _, _) => s
    | .inr (none, p) =>
      (s.qStatOne t v ((s.tile t).qGroup v row y.1) y.2 (a.poison || p)).raiseNum t (if isNan (f32 y.2) then NF.nanIn else 0)

/-- `QSTAT`: one source word in VA, at word `col` of row `row`; the context marks the pass and its first word is where the
context's walk starts (R175). -/
def execQstat (c : TCtl) (d va ctx row col : Nat) (s : State) : Host.Outcome State Fault Refusal :=
  ok (s.issue c fun s =>
    let t := c.tile
    let v := (s.tile t).qdesc d
    let a := (s.tile t).ctx ctx
    let first := a.extra.first && decide (row * ((s.tile t).handle (qSrcH v)).stride + col = a.start)
    if first then s.qClear t v fun s => s.qStatWord t v va row col else s.qStatWord t v va row col)

/-! ### QSCALE (R177) -/

/-- e_max of an MX element format (R177). -/
def eMax (fmt : Nat) : Int :=
  match fmt with
  | 7 => 8
  | 8 => 15
  | 9 => 2
  | 10 => 4
  | 11 => 2
  | _ => 0

/-- q_max of a destination with FP32 scales (R177). -/
def qMax (fmt : Nat) : Nat :=
  match fmt with
  | 5 => 127
  | 6 => 7
  | 3 => 448
  | _ => 57344

/-- The E8M0 scale byte of a statistic, with its flag (R177). -/
def scaleE8 (fmt a : Nat) : Nat × NumFlags :=
  match f32 a with
  | .fin _ m e => if m = 0 then (0, 0) else ((max (-127) (min ((m.log2 : Int) + e - eMax fmt) 127) + 127).toNat, 0)
  | _ => (0xFE, NF.statNonfinite)

/-- The FP32 scale of a statistic, with its flag (R177). -/
def scaleF (fmt a : Nat) : Nat × NumFlags :=
  match f32 a with
  | .fin _ m e => if m = 0 then (0x3F800000, 0) else (max (round32 (ratio m (qMax fmt) e)) 0x00800000, 0)
  | _ => (0x7F7FFFFF, NF.statNonfinite)

/-- The reciprocals r = `VRCP`(s) of scales kept under keys from `k` on. -/
def keepRecips (m : SMap Word) (k : Nat) : List Nat → SMap Word
  | [] => m
  | x :: r => keepRecips (mset 0#32 m k (BitVec.ofNat 32 (rcp32 x))) (k + 1) r

/-- The 16 scales of a word of statistics written (R177, R135): bytes for MX, a word of FP32 values otherwise, with the
reciprocals kept for `QCONV`. -/
def State.qScales (s : State) (t d v k : Nat) (st : VReg) : State :=
  if isMx (qDst v) then
    let r := (lanes st.data).map (scaleE8 (qDst v))
    s.try' t ((s.tile t).wordAt (qScaleH v) (k / 4)) fun w =>
      let o := (s.padRead t w 0).1
      let n := putBits o.data.toNat (128 * (k % 4)) 128 (packBits 8 (r.map Prod.fst))
      (s.padWrite t w { data := BitVec.ofNat 512 n, poison := st.poison || o.poison }).raiseNum t (orFlags (r.map Prod.snd))
  else
    let r := (lanes st.data).map (scaleF (qDst v))
    s.try' t ((s.tile t).wordAt (qScaleH v) k) fun w =>
      let s := s.padWrite t w { data := ofLanes (r.map Prod.fst), poison := st.poison }
      let s := s.modTile t fun x => { x with qrecips := keepRecips x.qrecips (d % 16 * 2 ^ 20 + 16 * k) (r.map Prod.fst) }
      s.raiseNum t (orFlags (r.map Prod.snd))

/-- `QSCALE`: word `k` of the statistics of a descriptor (R177). -/
def execQscale (c : TCtl) (d k : Nat) (s : State) : Host.Outcome State Fault Refusal :=
  ok (s.issue c fun s =>
    let t := c.tile
    let v := (s.tile t).qdesc d
    s.try' t ((s.tile t).wordAt (qStatH v) k) fun w => s.qScales t d v k (s.padRead t w 0).1)

/-! ### QCONV (R178, R180) -/

/-- The factor that brings an element of a group to the destination, with the poison of its scale (R178). -/
def State.qFactor (s : State) (t d v g : Nat) : Try (Fp × Bool) :=
  if isMx (qDst v) then
    match s.scaleByte t (qScaleH v) g with
    | .inl c => .inl c
    | .inr (k, p) => .inr (if k = 255 then .nan else .fin false 1 (127 - (k : Int)), p)
  else
    match (s.tile t).wordAt (qScaleH v) (g / 16) with
    | .inl c => .inl c
    | .inr w => .inr (f32 (mget 0#32 (s.tile t).qrecips (d % 16 * 2 ^ 20 + g)).toNat, (s.padRead t w 0).1.poison)

/-- What `QCONV` makes of one element: its code, its flags, its poison, and its outlier slot. -/
def State.qConvOne (s : State) (t d v row : Nat) (y : Nat × Nat) : Try (Nat × NumFlags × Bool × Option Nat) :=
  match s.qOutlier t v y.1, s.qFactor t d v ((s.tile t).qGroup v row y.1) with
  | .inr (some k, p), _ => .inr (0, 0, p, some k)
  | .inr (none, p), .inr (f, q) =>
    let r := convertTo (qDst v) (qOvf v) (fpMul (f32 y.2) f)
    .inr (r.1, r.2 ||| (if isNan (f32 y.2) then NF.nanIn else 0), p || q, none)
  | .inl c, _ => .inl c
  | _, .inl c => .inl c

/-- The outlier elements of a word, in BF16, written to `OVAL_H` (R180). -/
def State.qOutliers (s : State) (t v row : Nat) (l : List ((Nat × Nat) × (Nat × NumFlags × Bool × Option Nat))) (p : Bool) : State :=
  s.each l fun s y =>
    match y.2.2.2.2 with
    | none => s
    | some k =>
      let r := convertTo 1 false (f32 y.1.2)
      (s.putSpan t (qOvalH v) row 16 (8 * (y.1.1 / 256) + k) [r.1] (p || y.2.2.2.1) fun s => s).raiseNum t r.2

/-- `QCONV`: one source word in VA, at word `col` of row `row`, converted into the same elements of `DST_H` (R178, R180). -/
def execQconv (c : TCtl) (d va row col : Nat) (s : State) : Host.Outcome State Fault Refusal :=
  ok (s.issue c fun s =>
    let t := c.tile
    let v := (s.tile t).qdesc d
    let a := (s.tile t).vreg va
    let es := qElems v col a.data
    s.try' t (allOk (es.map (s.qConvOne t d v row))) fun rs =>
      let p := a.poison || rs.any fun y => y.2.2.1
      s.putSpan t (qDstH v) row (widthOf (qDst v)) (col * qPerWord v) (rs.map Prod.fst) p fun s =>
        (s.qOutliers t v row (es.zip rs) a.poison).raiseNum t (orFlags (rs.map fun y => y.2.1)))

end Sys2Proof.Machine
end

