-- ==== Sys2Proof/Machine/ImageLoad.lean ====
section
/-! DEFINITION. The load of a Sniette image and the checks it must pass (R4, R128, R153, R164, R174, R179, R196 to R199, R208, R211, R226, R368). -/

namespace Sys2Proof.Machine

/-! ### Formats (R153, R164) -/

/-- The operand pairs of R164, with the outlier lane only beside formats other than integers. -/
def loadPairOk (x : Nat × Nat × Bool) : Bool :=
  let (a, w, lane) := x
  (decide (a = w ∧ (a = 5 ∨ a = 6)) && !lane) ||
    decide (a = w ∧ (a = 1 ∨ a = 2 ∨ a = 11 ∨ a = 12)) ||
    (decide (a = 3 ∨ a = 4) && decide (w = 3 ∨ w = 4)) ||
    (decide (7 ≤ a ∧ a ≤ 10) && decide (7 ≤ w ∧ w ≤ 10))

/-! ### Quantisation descriptors (R174) -/

/-- The fields of a quantisation descriptor. -/
def qdescOk (v : Nat) : Bool :=
  let dst := qDst v
  let blk := bitsOf v 10 2
  decide (qSrc v ≤ 2 ∧ 3 ≤ dst ∧ dst ≤ 12 ∧ blk ≠ 3 ∧ bitsOf v 14 2 = 0 ∧ bitsOf v 52 12 = 0) &&
    (!(isMx dst) || decide (qGran v = 3 ∧ blk = 0)) && !(qExcl v && isInt dst)

/-- A tile as an image's handles describe it: relative tile `r` of the rectangle. -/
def imageTile (i : Image) (r : Nat) : Tile :=
  { handles := i.handles.foldl (fun m x => if x.tile = r then mset {} m x.index x.handle else m) [] }

/-- Whether a statistic handle is large enough for its source's groups on every tile that has the source. -/
def statFits (i : Image) (v : Nat) : Bool :=
  (List.range (32 * i.width * i.height)).all fun r =>
    let x := imageTile i r
    let h := x.handle (qStatH v)
    decide ((x.handle (qSrcH v)).cls = 0) ||
      (decide (h.cls ≠ 0) && decide (x.qGroups v ≤ 16 * (h.rows + 1) * (h.cols + 1)))

/-! ### Outlier lists (R179) -/

/-- An entry's valid slots come first and rise strictly. -/
def outlierEntryOk (l : List (BitVec 16)) : Bool :=
  let valid := fun (x : BitVec 16) => x.getLsbD 15
  let offs := (l.filter valid).map fun x => x.toNat % 256
  decide (l.length ≤ 8) && ((l.dropWhile valid).all fun x => !(valid x)) &&
    (offs.zip (offs.drop 1)).all fun x => decide (x.1 < x.2)

/-! ### Convolution descriptors (R191, R196 to R199, R208, R211) -/

/-- A field of a convolution descriptor that holds a count minus 1. -/
def minus1 (v lo : Nat) : Nat := bitsOf v lo 4 + 1

/-- The space-to-depth factor. -/
def s2dFactor (v : Nat) : Nat := 2 ^ bitsOf v 110 2

/-- The output size of a dimension (R197, R198). -/
def convDim (op inp before after d k stride : Nat) : Int :=
  if op = 1 then (((inp : Int) - 1) * stride + 1 + before + after - d * ((k : Int) - 1) - 1) + 1
  else ((inp : Int) + before + after - d * ((k : Int) - 1) - 1) / stride + 1

/-- OUT_H of a descriptor. -/
def outH (v : Nat) : Int :=
  convDim (bitsOf v 106 2) (bitsOf v 0 16 / s2dFactor v) (bitsOf v 88 4) (bitsOf v 92 4) (minus1 v 80) (minus1 v 64) (minus1 v 72)

/-- OUT_W of a descriptor. -/
def outW (v : Nat) : Int :=
  convDim (bitsOf v 106 2) (bitsOf v 16 16 / s2dFactor v) (bitsOf v 96 4) (bitsOf v 100 4) (minus1 v 84) (minus1 v 68) (minus1 v 76)

/-- The shape rules of a pooling. -/
def poolShape (v : Nat) : Bool :=
  decide (bitsOf v 109 1 = 0 ∧ bitsOf v 48 16 = bitsOf v 32 16 ∧ bitsOf v 112 16 = 1 ∧ bitsOf v 128 4 ≤ 6)

/-- The shape rules of a convolution: its pair of formats, and its channels per group (R191, R208, R211). -/
def convShape (v : Nat) : Bool :=
  let cin := bitsOf v 32 16 * s2dFactor v * s2dFactor v
  let cout := bitsOf v 48 16
  let g := bitsOf v 112 16
  let fmt := bitsOf v 128 4
  let unit_ := if fmt = 6 ∨ isMx fmt then 32 else 16
  loadPairOk (fmt, bitsOf v 132 4, false) &&
    (if cin = g then decide (cout % cin = 0 ∧ 1 ≤ cout / cin ∧ cout / cin ≤ 16) else decide (cin / g % unit_ = 0))

/-- The rules in the Meaning column of R196, with R191, R208 and R211. -/
def convOk (v : Nat) : Bool :=
  let op := bitsOf v 106 2
  let mode := bitsOf v 104 2
  let s2d := bitsOf v 110 2
  let g := bitsOf v 112 16
  let f := s2dFactor v
  decide (bitsOf v 0 16 ≠ 0 ∧ bitsOf v 16 16 ≠ 0 ∧ bitsOf v 32 16 ≠ 0 ∧ bitsOf v 48 16 ≠ 0 ∧ g ≠ 0 ∧ mode ≤ 1 ∧ v < 2 ^ 166) &&
    decide (mode = 0 ∨ !(isMx (bitsOf v 128 4))) && decide (bitsOf v 108 1 = 0 ∨ op = 3) &&
    decide (s2d = 0 ∨ (op = 0 ∧ g = 1 ∧ bitsOf v 0 16 % f = 0 ∧ bitsOf v 16 16 % f = 0)) &&
    decide (bitsOf v 32 16 % g = 0 ∧ bitsOf v 48 16 % g = 0) && (if 2 ≤ op then poolShape v else convShape v)

/-- Whether the input tensor fits its handle on the tiles that have it, and some tile has it (R189, R211). -/
def convFits (i : Image) (v : Nat) : Bool :=
  let s2d := decide (bitsOf v 110 2 ≠ 0)
  let rows := if s2d then bitsOf v 0 16 else bitsOf v 0 16 * bitsOf v 16 16
  let elems := if s2d then bitsOf v 16 16 * bitsOf v 32 16 else bitsOf v 32 16
  let words := (elems * widthOf (bitsOf v 128 4) + 511) / 512
  let hs := i.handles.filter fun x => decide (x.index = bitsOf v 136 6)
  !hs.isEmpty && hs.all fun x => decide (rows ≤ x.handle.rows + 1 ∧ words ≤ x.handle.cols + 1)

/-! ### Attention descriptors (R226) -/

/-- The fields of an attention descriptor. -/
def attOk (v : Nat) : Bool :=
  let qk := bitsOf v 4 4
  let vf := bitsOf v 8 4
  let p := bitsOf v 12 1
  let tau := bitsOf v 16 32
  decide (qk = 1 ∨ qk = 3 ∨ qk = 4) && decide (if p = 0 then vf = 1 else vf = 3 ∨ vf = 4) &&
    decide (bitsOf v 13 1 = 0 ∨ p = 0) && decide (bitsOf v 14 2 ≠ 3) &&
    decide (tau ≠ 0 ∧ bitsOf tau 31 1 = 0 ∧ bitsOf tau 23 8 ≠ 255) && decide (bitsOf v 84 44 = 0)

/-! ### The load -/

/-- The bounds that the table under "Images and job descriptors" gives an image's items. -/
def imageBounds (i : Image) : Bool :=
  i.formatOk && decide (1 ≤ i.width ∧ i.width ≤ 8 ∧ 1 ≤ i.height ∧ i.height ≤ 8 ∧ i.xcut ≤ 3 ∧ i.ycut ≤ 3) &&
    decide (i.quiesce ≤ 8192 ∧ i.wsp ≤ 16384 ∧ i.footLo ≤ i.footHi ∧ i.footHi ≤ 0x2000000) &&
    decide (i.qdescs.length ≤ 16 ∧ i.convs.length ≤ 16 ∧ i.atts.length ≤ 8)

/-- The code that refuses an image, in the order of R368. -/
def State.imageRefusal (s : State) (p : Nat) (i : Image) : Option Status :=
  let qs := i.qdescs.map BitVec.toNat
  let cs := i.convs.map BitVec.toNat
  if !(imageBounds i) then some ST.IMG_FORMAT
  else if i.tileCount ≠ s.tileCount then some ST.IMG_TILE_COUNT
  else if i.rsCode ≠ s.fld (R.ACC_P_STATUS p) 13 2 then some ST.IMG_ECC_STRENGTH
  else if i.formats.any fun f => decide (15 ≤ f) then some ST.NUM_QDESC
  else if !(i.pairs.all loadPairOk) then some ST.NUM_FORMAT_PAIR
  else if !(qs.all fun v => qdescOk v && statFits i v) then some ST.NUM_QDESC
  else if !(i.outliers.all outlierEntryOk) then some ST.NUM_OUTLIER_MAP
  else if !(cs.all convOk) then some ST.CONV_SHAPE
  else if cs.any fun v => decide (outH v < 1 ∨ outW v < 1) then some ST.CONV_EMPTY
  else if !(cs.all (convFits i)) then some ST.CONV_HANDLE
  else if !(i.atts.all fun v => attOk v.toNat) then some ST.ATT_DESC
  else none

/-- Whether an image slot is loaded. -/
def State.imageIn (s : State) (p k : Nat) : Bool := (s.part p).images.any fun x => decide (x.1 = k)

/-- Whether a descriptor of the partition names an image slot. -/
def State.imageInUse (s : State) (p k : Nat) : Bool :=
  (List.range 64).any fun j => decide (s.jobState p j ≠ 0) && decide (s.fld (jobReg p j) 2 4 = k)

/-- The image log after a load (R550). -/
def State.logImage (s : State) (p k : Nat) (i : Image) : State :=
  let old := leBytes s.imageLog.1.toNat 48
  { s with imageLog := (Config.sha384 (old ++ leBytes i.hash.toNat 8 ++ leBytes p 1 ++ leBytes k 1), s.imageLog.2 + 1) }

/-- Words of a tile's scratchpad made zero, without poison. -/
def State.zeroWords (s : State) (t : Nat) (l : List Nat) : State :=
  s.each l fun s w => s.setLine (spadAddr t (64 * w)) {}

/-- The resident handles of an image leave a tile (R118, R320): a tile that no instance holds zeroes them in a zeroing pass; under an
instance their words are zeroed at once. -/
def State.dropResidents (s : State) (p k t : Nat) : State :=
  let mine := fun (h : Handle) => decide (h.cls = 1 ∧ h.partition = p ∧ h.owner = k)
  let gone := (s.tile t).handles.filter fun y => mine y.2
  if gone.isEmpty then s
  else
    let s := s.modTile t fun x => { x with handles := x.handles.filter fun y => !(mine y.2) }
    if (s.tile t).job.isNone ∧ s.tileState t ≤ 3 then s.setTileState t 5
    else s.zeroWords t (gone.flatMap fun y => regionOf y.2)

/-- An image leaves its slot with its resident regions. -/
def State.unloadImage (s : State) (p k : Nat) : State :=
  let s := s.each (blocksTiles (s.partBlocks p)) fun s t => s.dropResidents p k t
  s.modPart p fun q => { q with images := merase q.images k }

/-- IMG_LOAD: an image, as it stands at the address named, goes into a slot of a partition. -/
def execImgLoad (n : Nat) (img : Image) (s : State) : Host.Outcome State Fault Refusal :=
  ok (s.runCmd n 0x0202 true fun s =>
    let p := s.arg n 0
    let k := s.arg n 1
    if s.partState p ≠ 2 then denied s ST.PART_STATE
    else if s.imageInUse p k then denied s ST.IMG_IN_USE
    else
      match s.imageRefusal p img with
      | some c => denied s c
      | none =>
        let i := { img with address := s.arg n 3, bytes := s.arg n 2, digest := Config.sha384 (s.bytes (s.arg n 3) (s.arg n 2)) }
        let s := (s.unloadImage p k).modPart p fun q => { q with images := minsert q.images k i }
        giving (s.logImage p k i) (leBytes i.hash.toNat 8))

end Sys2Proof.Machine
end

