-- ==== Sys2Proof/Machine/Slice.lean ====
section
/-! DEFINITION. Slices: the SLICE entry with its bank swap, credit check, pre-emptions and restores (R327 to R330, R332, R339), quiesce, save and restore of slice-private state (R118, R328), shedding and its end (R338 to R340). -/

namespace Sys2Proof.Machine

/-! ### Save and restore (R118, R328) -/

/-- The words of a region with their poison, by word number. -/
def State.regionData (s : State) (t : Nat) (h : Handle) : List (Nat × VReg) :=
  (regionOf h).map fun w => (w, s.line (spadAddr t (64 * w)))

/-- What a tile saves of its instance (R328): slice-private regions with poison and defined bits, the accumulator buffer and the
state block. -/
def State.captureTile (s : State) (t inst : Nat) : TileSave :=
  let x := s.tile t
  let hs := (ownHandles x inst).filter fun h => decide (h.cls = 2)
  let ws := hs.flatMap (s.regionData t)
  { words := ws.foldl (fun m y => minsert m y.1 y.2) []
    undef := (hs.flatMap regionOf).filter fun w => mget false x.undef w
    acc := x.acc
    ctxs := x.ctxs
    loops := x.loops
    stack := x.stack
    events := x.events
    status := s.reg (tStatus t)
    cycle := s.reg (tCycle t)
    expEnd := s.reg (tExpend t)
    flags := s.reg (tNum t)
    checks := s.reg (tChk t)
    beat := s.reg (tBeat t) }

/-- A tile after its save: its regions are undefined for the pre-empting job, and no instance occupies it (R118). -/
def savedTile (x : Tile) (key inst : Nat) (v : TileSave) : Tile :=
  let x := (ownHandles x inst).foldl undefine x
  { x with save := minsert x.save key v, acc := [], busySave := false, job := none, stack := [], waiting := none }

/-- A tile as its restore leaves it (R117, R118, R328): slice-private data, defined bits, accumulators and the state block as
they were saved, scratch regions undefined. -/
def State.restoreTile (s : State) (t p j : Nat) : State :=
  let inst := s.jobInst p j
  let key := 64 * p + j
  let v := mget {} (s.tile t).save key
  let o := (s.job p j).blocks.headD 0
  let i := (s.job p j).image
  let s := s.each v.words fun s y => s.setLine (spadAddr t (64 * y.1)) y.2
  let s := s.modTile t fun x =>
    let x := (ownHandles x inst).foldl undefine x
    let kept := v.words.foldl (fun m y => merase m y.1) x.undef
    { x with
      undef := v.undef.foldl (fun m w => minsert m w true) kept
      acc := v.acc
      ctxs := v.ctxs
      loops := v.loops
      stack := v.stack
      events := v.events
      save := merase x.save key
      busyRest := false
      qdescs := tableFrom 0#64 i.qdescs
      convs := tableFrom 0#256 i.convs
      atts := tableFrom 0#128 i.atts
      rect := (4 * blockRow o, 8 * blockCol o, 4 * (blockRow o + i.height) - 1, 8 * (blockCol o + i.width) - 1)
      ended := false
      job := some (p, j) }
  let s := ((s.setReg (tStatus t) v.status).setReg (tCycle t) v.cycle).setReg (tExpend t) v.expEnd
  let s := (s.setReg (tNum t) v.flags).setReg (tChk t) v.checks
  (s.setTileState t 2).beat t 0

/-! ### The switch in progress -/

/-- `ACC_Pp_STATUS` bit 11 brought up to date: a job of the partition quiesces, saves or restores. -/
def State.showSwitch (s : State) (p : Nat) : State :=
  s.setBit (R.ACC_P_STATUS p) 11
    ((s.part p).jobs.any fun x => decide (x.2.phase = .quiescing ∨ x.2.phase = .saving ∨ x.2.phase = .restoring))

/-- A job stops issuing at a boundary (R328): its tiles are pre-empted and its counters freeze. -/
def State.preempt (s : State) (p j : Nat) : State :=
  let s := (s.modJob p j fun x => { x with phase := .quiescing }).setJobState p j 3
  s.each (s.jobTiles p j) fun s t => s.setTileState t 3

/-- A restoring job takes a tile that no outgoing save holds (R330). -/
def State.takeTile (s : State) (t p j : Nat) : State :=
  if (s.tile t).job.isNone then s.modTile t fun x => { x with job := some (p, j), busyRest := true } else s

/-- A pre-empted job begins its restore (R330). -/
def State.beginRestore (s : State) (p j : Nat) : State :=
  let s := s.modJob p j fun x => { x with phase := .restoring }
  let s := s.each (s.job p j).blocks fun s b => s.chunkAbort b false
  s.each (s.jobTiles p j) fun s t => s.takeTile t p j

/-! ### SLICE (R327) -/

/-- A pending slice-table swap takes place (R327). -/
def State.sliceSwap (s : State) (p : Nat) : State :=
  if s.bit (R.ACC_P_STATUS p) 10 then
    (s.setBit (R.ACC_P_STATUS p) 9 (!(s.bit (R.ACC_P_STATUS p) 9))).setBit (R.ACC_P_STATUS p) 10 false
  else s

/-- Whether a job holds a unit or a credit of a colour other than its slice's (R332). -/
def State.leaks (s : State) (p j : Nat) : Bool :=
  let c := s.colourOf p (s.jobSlice p j)
  let q := s.part p
  ((s.job p j).sems.any fun k => decide ((mget {} q.sems k).colour ≠ c)) ||
    ((s.job p j).credits.any fun k => decide ((mget {} q.credits k).colour ≠ c))

/-- The descriptor indexes of a partition. -/
def State.jobList (s : State) (p : Nat) : List Nat := (s.part p).jobs.map Prod.fst

/-- The credit check of a boundary (R332). -/
def State.creditCheck (s : State) (p : Nat) : State :=
  s.each (s.jobList p) fun s j =>
    if (s.job p j).phase ≠ .idle ∧ s.leaks p j then
      let t := (s.jobTiles p j).headD 0
      (s.post (({ mkRec ST.CREDIT_LEAK (dieUnit t) t with context := s.jobInst p j }).withPart s p)).abortJob p j
    else s

/-- Whether a running job of another slice holds a block that an admitted job of slice `k` also holds. -/
def State.overlaps (s : State) (p j k : Nat) : Bool :=
  (s.part p).jobs.any fun x =>
    decide (s.jobSlice p x.1 = k) && x.2.blocks.any fun b => (s.job p j).blocks.contains b

/-- The pre-emptions and restores of a boundary into slice `k` (R327, R339): a partition that waits to be shed has every running
job pre-empted and restores none. -/
def State.switchJobs (s : State) (p k : Nat) : State :=
  let shed := (s.part p).shedWait || s.isShed p
  let s := s.each (s.jobList p) fun s j =>
    if (s.job p j).phase = .running ∧ (shed ∨ (s.jobSlice p j ≠ k ∧ s.overlaps p j k)) then s.preempt p j else s
  let s := if (s.part p).shedWait then s.shedNow p else s
  let s := s.each (s.jobList p) fun s j =>
    if (s.job p j).phase = .preempted ∧ s.jobSlice p j = k ∧ !shed then s.beginRestore p j else s
  s.showSwitch p

/-- A SLICE entry for slice `k` of partition `p` takes effect (R327, R67, R520). -/
def State.fireSlice (s : State) (d : Due) : State :=
  let p := d.entry.index % 32
  let k := d.entry.arg % 8
  if s.partState p ≠ 2 then s.targetGone d
  else if s.windowInto p ∨ s.commitInto p then s.post (refusedRec s ST.LAUNCH_IN_WINDOW d p 0)
  else if s.isHeld p then s
  else if s.inSwitch p then s.post (refusedRec s ST.SLICE_BUSY d p 0)
  else
    let s1 := s.sliceSwap p
    if !(s1.sliceEntry p k).1 then s.post (refusedRec s ST.SLICE_TABLE d p 0)
    else
      let s2 := s1.setFld (R.ACC_P_STATUS p) 6 3 k
      let s3 := s2.each (s2.partBlocks p) fun s b => s.chunkAbort b true
      (s3.creditCheck p).switchJobs p k

/-- SLICE: a SLICE entry falls due (R327). -/
def execSlice (w e edge : Nat) (s : State) : Host.Outcome State Fault Refusal :=
  ok (s.onEntry w e edge 0x03 launchOffset fun s d => s.fireSlice d)

/-- QUIESCE_END: Q cycles after the boundary, each tile of the pre-empted job begins its save (R328). -/
def execQuiesceEnd (p j : Nat) (s : State) : Host.Outcome State Fault Refusal :=
  if (s.job p j).phase = .quiescing then
    let s := s.modJob p j fun x => { x with phase := .saving }
    ok (s.each (s.jobTiles p j) fun s t => s.modTile t fun x => { x with busySave := true })
  else ok s

/-- The jobs of a partition that restore onto a tile. -/
def State.restoring (s : State) (p t : Nat) : List Nat :=
  (s.jobList p).filter fun j => decide ((s.job p j).phase = .restoring) && (s.job p j).blocks.contains (blockOf t)

/-- The save of a tile commits (R328, R330): its state stands in the save area and a restoring job's restore begins on it. -/
def State.saveCommit (s : State) (t p j : Nat) : State :=
  let inst := s.jobInst p j
  let v := s.captureTile t inst
  let s := s.modTile t fun x => savedTile x (64 * p + j) inst v
  let s := match s.restoring p t with
    | k :: _ => s.takeTile t p k
    | [] => s
  if (s.jobTiles p j).any fun u => decide ((s.tile u).job = some (p, j)) then s
  else (s.modJob p j fun x => { x with phase := .preempted }).showSwitch p

/-- SAVE_COMMIT: the save of tile `t` commits (R330). -/
def execSaveCommit (t : Nat) (s : State) : Host.Outcome State Fault Refusal :=
  match (s.tile t).job with
  | some (p, j) => if (s.tile t).busySave ∧ (s.job p j).phase = .saving then ok (s.saveCommit t p j) else ok s
  | none => ok s

/-- RESTORE_END: the last restore of job `j` has ended and it resumes on the next launch edge (R330). -/
def execRestoreEnd (p j : Nat) (s : State) : Host.Outcome State Fault Refusal :=
  if (s.job p j).phase = .restoring ∧
      (s.jobTiles p j).all (fun t => decide ((s.tile t).job = some (p, j)) && (s.tile t).busyRest) then
    let s := s.each (s.jobTiles p j) fun s t => s.restoreTile t p j
    let s := (s.modJob p j fun x => { x with phase := .running }).setJobState p j 2
    ok (s.showSwitch p)
  else ok s

/-! ### Shedding (R338 to R340, R336) -/

/-- The partitions in being, by falling shed rank and number, that are not shed and not of rank 0. -/
def State.shedNext (s : State) : Option Nat :=
  (List.range 32).foldl (fun m p =>
    let rank := s.fld (R.ACC_P_STATUS p) 16 5
    if s.partState p = 2 ∧ rank ≠ 0 ∧ !(s.isShed p) ∧ !(s.part p).shedWait then
      match m with
      | some q => if s.fld (R.ACC_P_STATUS q) 16 5 ≤ rank then some p else m
      | none => some p
    else m) none

/-- The shed partition of lowest rank, ties by lowest number (R340). -/
def State.unshedNext (s : State) : Option Nat :=
  (List.range 32).foldl (fun m p =>
    let rank := s.fld (R.ACC_P_STATUS p) 16 5
    if s.isShed p ∨ (s.part p).shedWait then
      match m with
      | some q => if rank < s.fld (R.ACC_P_STATUS q) 16 5 then some p else m
      | none => some p
    else m) none

/-- The instant of the latest partition shed. -/
def State.noteShed (s : State) : State := { s with power := { s.power with lastShed := some s.age } }

/-- The instant of the latest partition brought back. -/
def State.noteUnshed (s : State) : State := { s with power := { s.power with lastUnshed := some s.age } }

/-- PARTITION_SHED: the hottest sensor has stayed at or above `PMU_TSHED` for 1 ms, or for 10 ms since the last shed (R338): the
partition of highest rank is being shed (R339). -/
def execPartitionShed (s : State) : Host.Outcome State Fault Refusal :=
  let long := match s.power.hotSince with
    | some h => decide (h + ms 1 ≤ s.age) && (match s.power.lastShed with | some l => decide (max h l + ms 10 ≤ s.age ∨ l < h) | none => true)
    | none => false
  if !long then ok s
  else
    match s.shedNext with
    | none => ok s
    | some p =>
      let s := s.noteShed
      ok ((s.modPart p fun q => { q with shedWait := true }).shedCheck p)

/-- PARTITION_UNSHED: the hottest sensor has stayed below `PMU_TSHED` − `PMU_THYST` for 100 ms (R340): the shed partition of
lowest rank is restored, and Amber cause 3 ends when none is left. -/
def execPartitionUnshed (s : State) : Host.Outcome State Fault Refusal :=
  match s.power.coolSince, s.unshedNext with
  | some c, some p =>
    if s.age < max c (s.power.lastUnshed.getD 0) + ms 100 then ok s
    else
      let s := s.noteUnshed
      let was := s.isShed p
      let s := (s.modPart p fun q => { q with shedWait := false }).setBit (R.ACC_P_STATUS p) 12 false
      let s := if was then s.post ((mkRec ST.PART_UNSHED 0x03 0).withPart s p) else s
      ok (s.setAmber 3 ((List.range 32).any s.isShed))
  | _, _ => ok s

/-- The behaviour of a write of `PMU_FABRIC_LIMIT` (R336). -/
def actFabricLimit (s : State) (v : Nat) : State × Option Status :=
  if 395000 < v ∨ v < s.regN R.PMU_ALLOC_SUM then refuse s ST.POWER_BUDGET else accept (s.setRegN R.PMU_FABRIC_LIMIT v)

/-- PMU_FABRIC_LIMIT_WRITE: a master writes the fabric limit (R336). -/
def execPmuFabricLimitWrite (m : Nat) (v : Dword) (s : State) : Host.Outcome State Fault Refusal :=
  ok (s.regBus m R.PMU_FABRIC_LIMIT 4 fun s => actFabricLimit s (v.toNat % 2 ^ 32))

end Sys2Proof.Machine
end

