-- ==== Sys2Proof/Machine/PartCmd.lean ====
section
/-! DEFINITION. The mailbox commands of partitions and jobs: creation and destruction (R314 to R318, R345), image unload (R368), admission with its placement, power and handles (R319 to R325, R337, R114, R115), retirement (R321), slice tables (R326), credits (R331), and the ends of zeroing that they wait for (R119, R146). -/

namespace Sys2Proof.Machine

/-! ### Commands that wait for hardware (R359) -/

/-- Whether a tile of a partition runs a zeroing pass or is hung. -/
def State.partZeroing (s : State) (p : Nat) : Bool :=
  (blocksTiles (s.partBlocks p)).any fun t => decide (s.tileState t = 4 ∨ s.tileState t = 5)

/-- Whether the hardware that a waiting command of mailbox `n` started has finished. -/
def State.hardwareDone (s : State) (n : Nat) : Bool :=
  let p := s.arg n 0
  match s.reqCode n with
  | 0x0200 => decide (s.partState p = 2)
  | 0x0201 => decide (s.partState p = 0)
  | 0x0203 => !(s.partZeroing p)
  | 0x0205 => decide (s.jobState p (s.arg n 1) = 0)
  | _ => false

/-- The waiting commands whose hardware has finished complete. -/
def State.finishWaiting (s : State) : State :=
  s.each (List.range 16) fun s n => if s.hardwareDone n then s.finish n ST.OK [] else s

/-- A command that is done when its hardware is. -/
def doneOrLater (s : State) (n : Nat) : State × Done := if s.hardwareDone n then okay s else (s, .later)

/-! ### PART_CREATE (R314 to R317) -/

/-- The code that refuses a creation (R314). -/
def State.createRefusal (s : State) (p alloc mask : Nat) : Option Status :=
  let bad := (List.range 64).any fun b => decide (mask / 2 ^ b % 2 = 1) &&
    (!(s.inService b) || (List.range 32).any fun k => s.bit (R.ACC_P_BLOCKS k) b)
  if s.partState p ≠ 0 then some ST.PART_STATE
  else if mask = 0 ∨ bad then some ST.PART_BLOCKS
  else if s.regN R.PMU_FABRIC_LIMIT < s.regN R.PMU_ALLOC_SUM + alloc then some ST.POWER_BUDGET
  else none

/-- A partition as its creation leaves it: bank A with slice 0 Cyan and valid. -/
def newPart : Part := { bankA := (true, 0) :: List.replicate 7 (false, 0), bankB := List.replicate 8 (false, 0) }

/-- The registers of a partition being created. -/
def State.openPart (s : State) (p rs bch rank alloc mask : Nat) : State :=
  let gen := s.partGen p
  let s := s.setRegN (R.ACC_P_STATUS p) (1 + gen * 4 + rs * 2 ^ 13 + (bch - 1) * 2 ^ 15 + rank * 2 ^ 16)
  let s := (s.setRegN (R.ACC_P_BLOCKS p) mask).setRegN (R.PMU_P_ALLOC p) alloc
  let s := s.setRegN R.PMU_ALLOC_SUM (s.regN R.PMU_ALLOC_SUM + alloc)
  s.modPart p fun _ => newPart

/-- The strengths written to the tiles of a partition (R316). -/
def State.setStrength (s : State) (p rs bch : Nat) : State :=
  s.each (blocksTiles (s.partBlocks p)) fun s t => (s.setFld (tMemcfg t) 0 2 rs).setFld (tMemcfg t) 4 1 (bch - 1)

/-- PART_CREATE: a partition comes into being; channels whose strength changes are rewritten first (R127, R146). -/
def execPartCreate (n : Nat) (s : State) : Host.Outcome State Fault Refusal :=
  ok (s.runCmd n 0x0200 true fun s =>
    let p := s.arg n 0
    let rs := s.arg n 1
    let bch := s.arg n 2
    match s.createRefusal p (s.arg n 4) (s.arg n 5) with
    | some c => denied s c
    | none =>
      let s := s.openPart p rs bch (s.arg n 3) (s.arg n 4) (s.arg n 5)
      let same := (blocksTiles (s.partBlocks p)).all fun t => decide (s.fld (tMemcfg t) 0 2 = rs)
      let s := s.setStrength p rs bch
      if same then okay (s.setFld (R.ACC_P_STATUS p) 0 2 2)
      else (s.modPart p fun q => { q with dramBusy := true }, .later))

/-! ### PART_DESTROY (R318, R345) -/

/-- The access-table entries that name a partition cleared (R345). -/
def State.clearAccess (s : State) (p : Nat) : State :=
  { s with access := s.access.filter fun x =>
      !(decide (x.1 / 64 = 0x120 + p)) && !(decide (x.2.master = 0x200 + p ∧ x.2.mask = 0x3FF)) }

/-- The landing lists of a partition removed (R615). -/
def State.clearLandings (s : State) (p : Nat) : State :=
  { s with landings := s.landings.filter fun x => decide (x.2.partition ≠ p) }

/-- Every job of a partition aborted and retired (R318, steps 1 and 2). -/
def State.retireAll (s : State) (p : Nat) : State :=
  s.each (s.jobList p) fun s j =>
    let s := s.modJob p j fun x => { x with retire := true }
    if (s.job p j).phase = .idle then s.freeJob p j else s.abortJob p j

/-- The zeroing pass on every tile of a partition, no region surviving (R118). -/
def State.zeroAllTiles (s : State) (p : Nat) : State :=
  s.each (blocksTiles (s.partBlocks p)) fun s t =>
    let s := s.modTile t fun x => { x with handles := [] }
    if s.tileState t = 4 then s else s.setTileState t 5

/-- What destruction leaves of a partition when zeroing has finished: its number, allocation and blocks are free, its channels stand
at the strengths of reset (R316), its generation stays (R317). -/
def State.endPart (s : State) (p : Nat) : State :=
  let s := s.each (blocksTiles (s.partBlocks p)) fun s t => s.setRegN (tMemcfg t) (regReset (tMemcfg t)).toNat
  let s := s.setRegN R.PMU_ALLOC_SUM (s.regN R.PMU_ALLOC_SUM - s.regN (R.PMU_P_ALLOC p))
  let s := ((s.setRegN (R.PMU_P_ALLOC p) 0).setRegN (R.PMU_P_DEMAND p) 0).setRegN (R.ACC_P_BLOCKS p) 0
  let s := s.setRegN (R.ACC_P_STATUS p) (4 * s.partGen p)
  { s with parts := merase s.parts p }

/-- A destruction is complete when the DRAM zeroing and every zeroing pass have finished (R146). -/
def State.endCheck (s : State) (p : Nat) : State :=
  if s.partState p = 3 ∧ !(s.part p).dramBusy ∧ !(s.partZeroing p) then s.endPart p else s

/-- A partition is shed no longer when it is destroyed (R445 cause 3). -/
def State.unshedPart (s : State) (p : Nat) : State :=
  if s.isShed p then
    let s := s.setBit (R.ACC_P_STATUS p) 12 false
    s.setAmber 3 ((List.range 32).any s.isShed)
  else s

/-- The register in which the resets of a partition (0 to 31) or of 32 + unit show (R528). -/
def resetReg (k : Nat) : Nat := if k < 32 then R.ERR_P_RESETS k else R.ERR_U_RESETS (k - 32)

/-- The hold of a target ends and its count starts anew (R520). -/
def State.endHold (s : State) (k : Nat) : State :=
  let s := { s with resets := merase s.resets k }
  (s.setBit (resetReg k) 4 false).setFld (resetReg k) 0 2 0

/-- PART_DESTROY: the steps of R318 in order; the command completes when zeroing has finished. -/
def execPartDestroy (n : Nat) (s : State) : Host.Outcome State Fault Refusal :=
  ok (s.runCmd n 0x0201 true fun s =>
    let p := s.arg n 0
    if s.partState p ≠ 2 then denied s ST.PART_STATE
    else
      let s := (s.setFld (R.ACC_P_STATUS p) 0 2 3).retireAll p
      let s := (s.modPart p fun q => { q with images := [], dramBusy := true }).bumpGen p
      let s := ((s.clearAccess p).clearLandings p).zeroAllTiles p
      ((((s.unshedPart p).clearSuspects p).endHold p), .later))

/-- DRAM_ZEROING_DONE: every channel of a partition has been rewritten with zero pages (R127, R146). -/
def execDramZeroingDone (p : Nat) (s : State) : Host.Outcome State Fault Refusal :=
  ok (if (s.part p).dramBusy then
    let s := s.each (blocksTiles (s.partBlocks p)) fun s t => s.zero (dramAddr t 0) (dramAddr t 0x2000000)
    let s := s.modPart p fun q => { q with dramBusy := false }
    let s := if s.partState p = 1 then s.setFld (R.ACC_P_STATUS p) 0 2 2 else s.endCheck p
    s.finishWaiting
  else s)

/-- ZEROING_PASS_DONE: a tile's zeroing pass ends (R119, R120): what it leaves is zero, the tile is free, and the last one of an
aborted instance completes the abort (R514). A hung tile that stopped after all ends its pass with this event too. -/
def execZeroingPassDone (t : Nat) (s : State) : Host.Outcome State Fault Refusal :=
  ok (if s.tileState t = 5 ∨ s.tileState t = 4 then
    let job := (s.tile t).job
    let s := ((s.zeroSpad t).modTile t clearTile).freeTile t
    let s := match job with
      | some (p, j) =>
        if (s.job p j).phase = JobPhase.aborting ∧ !((s.jobTiles p j).any fun k => decide ((s.tile k).job = some (p, j))) then s.abortDone p j
        else s
      | none => s
    (s.each (List.range 32) State.endCheck).finishWaiting
  else s)

/-! ### Images and jobs -/

/-- IMG_UNLOAD: a slot no descriptor names is emptied (R368, R118). -/
def execImgUnload (n : Nat) (s : State) : Host.Outcome State Fault Refusal :=
  ok (s.runCmd n 0x0203 true fun s =>
    let p := s.arg n 0
    if s.partState p ≠ 2 then denied s ST.PART_STATE
    else if s.imageInUse p (s.arg n 1) then denied s ST.IMG_IN_USE
    else doneOrLater (s.unloadImage p (s.arg n 1)) n)

/-- Whether a footprint on some of these tiles meets a retired page or bank (R145). -/
def State.meetsRetired (s : State) (tiles : List Nat) (i : Image) : Bool :=
  s.regs.any fun x =>
    let v := x.2.toNat
    (List.range 4).any fun d =>
      (decide (R.CD_RETP d 0 ≤ x.1) && decide (x.1 < R.CD_RETP d 256) && retInForce v &&
        tiles.contains (bitsOf v 18 11) && inFootprint i (bitsOf v 0 18)) ||
      (decide (R.CD_RETB d 0 ≤ x.1) && decide (x.1 < R.CD_RETB d 32) && retInForce v && tiles.contains (bitsOf v 16 11) &&
        (List.range 512).any fun r => inFootprint i (r * 64 + bitsOf v 4 2 * 16 + bitsOf v 0 4))

/-- Whether two footprints meet. -/
def footMeet (a b : Image) : Bool := decide (a.footLo < b.footHi ∧ b.footLo < a.footHi)

/-- Whether the placement procedure of R324 accepts the rectangle at block `b`, the retired pages of R145 apart. -/
def State.placeFree (s : State) (p : Nat) (i : Image) (slice b : Nat) : Bool :=
  let bx := blockCol b
  let by_ := blockRow b
  let r := rectBlocks bx by_ i.width i.height
  alignedAt bx i.width i.xcut && alignedAt by_ i.height i.ycut && decide (bx + i.width ≤ 8 ∧ by_ + i.height ≤ 8) &&
    r.all (fun k => s.bit (R.ACC_P_BLOCKS p) k && s.inService k) &&
    !((blocksTiles r).any fun t => decide (s.tileState t = 5)) &&
    (s.part p).jobs.all fun x =>
      !(x.2.blocks.any fun k => r.contains k) ||
        (decide (s.colourOf p (s.jobSlice p x.1) ≠ s.colourOf p slice) && !(footMeet i x.2.image))

/-- The placement of R324: the first rectangle accepted, or the code of R325. -/
def State.place (s : State) (p : Nat) (i : Image) (slice : Nat) : Sum Status (List Nat) :=
  let rect := fun b => rectBlocks (blockCol b) (blockRow b) i.width i.height
  let free := (List.range 64).filter fun b => s.placeFree p i slice b
  match free.find? fun b => !(s.meetsRetired (blocksTiles (rect b)) i) with
  | some b => .inr (rect b)
  | none => .inl (if free.isEmpty then ST.PART_NO_PLACE else ST.MEM_RETIRED_FOOTPRINT)

/-- Whether a handle's region fits the scratchpad (R114). -/
def handleFits (h : Handle) : Bool :=
  decide (h.base + h.rows * h.stride + h.cols ≤ 16383) && decide (h.rows = 0 ∨ h.cols + 1 ≤ h.stride)

/-- Whether two regions share a word. -/
def regionsMeet (a b : Handle) : Bool := (regionOf a).any fun w => inRegion b w

/-- A handle of an image created on a tile (R114, R115, R320): a resident one that stands already is left. -/
def State.addHandle (s : State) (t : Nat) (i : Nat) (h : Handle) : Sum Status State :=
  let x := s.tile t
  if h.cls = 1 ∧ x.handles.any fun y => decide (y.1 = i ∧ y.2 = h) then .inr s
  else if !(handleFits h) ∨ h.cls = 0 ∨ 3 < h.cls then .inl ST.SPAD_HANDLE_BOUNDS
  else if 64 ≤ i ∨ x.handles.any fun y => decide (y.1 = i) then .inl ST.SPAD_HANDLE_FULL
  else if x.handles.any fun y => !(decide (y.2.cls = h.cls ∧ y.2.owner = h.owner ∧ y.2.partition = h.partition)) && regionsMeet h y.2 then
    .inl ST.SPAD_HANDLE_OVERLAP
  else .inr (s.modTile t fun x => { x with handles := mset {} x.handles i h })

/-- The handles of an admission created in order, or the first refusal. -/
def State.addHandles (s : State) : List (Nat × Nat × Handle) → Sum Status State
  | [] => .inr s
  | (t, i, h) :: r =>
    match s.addHandle t i h with
    | .inl c => .inl c
    | .inr s => s.addHandles r

/-- The handles of an image at a placement: tile, entry, and the handle with its owner (R114). -/
def State.handlesAt (s : State) (p j k : Nat) (i : Image) (blocks : List Nat) : List (Nat × Nat × Handle) :=
  (blocksTiles blocks).flatMap fun t =>
    (i.handles.filter fun x => decide (x.tile = relTile (blocks.headD 0) i.width t)).map fun x =>
      (t, x.index, { x.handle with partition := p, owner := if x.handle.cls = 1 then k else s.ownerTag p j })

/-- A descriptor as its admission leaves it (R319). -/
def State.admitJob (s : State) (p j k slice client : Nat) (i : Image) (blocks : List Nat) : State :=
  let s := s.setRegN (jobReg p j) (1 + k * 4 + slice * 2 ^ 6 + client * 2 ^ 16 + blocks.headD 0 * 2 ^ 24)
  let s := s.modPart p fun q => { q with jobs := minsert q.jobs j { blocks := blocks, image := i } }
  let s := s.each (blocksTiles blocks) fun s t =>
    if (s.tile t).job.isNone ∧ s.tileState t ≤ 3 then s.setTileState t (s.restState t) else s
  s.showDemand p

/-- JOB_ADMIT: a descriptor is placed, checked for power, given its handles and admitted (R319, R324, R325, R337). -/
def execJobAdmit (n : Nat) (s : State) : Host.Outcome State Fault Refusal :=
  ok (s.runCmd n 0x0204 true fun s =>
    let p := s.arg n 0
    let j := s.arg n 1
    let k := s.arg n 2
    let slice := s.arg n 3
    if s.partState p ≠ 2 then denied s ST.PART_STATE
    else if s.jobState p j ≠ 0 ∨ !(s.imageIn p k) then denied s ST.MB_ARG
    else
      let i := mget {} (s.part p).images k
      match s.place p i slice with
      | .inl c => denied s c
      | .inr blocks =>
        if s.regN (R.PMU_P_ALLOC p) < demandOf ((blocks, powerShare i) :: s.powerList p) then denied s ST.POWER_ADMIT
        else
          match s.addHandles (s.handlesAt p j k i blocks) with
          | .inl c => denied s c
          | .inr t => giving (t.admitJob p j k slice (s.arg n 4) i blocks) (leBytes (blocks.headD 0) 1))

/-- JOB_RETIRE: a descriptor is freed, after the abort of its instance (R321). -/
def execJobRetire (n : Nat) (s : State) : Host.Outcome State Fault Refusal :=
  ok (s.runCmd n 0x0205 true fun s =>
    let p := s.arg n 0
    let j := s.arg n 1
    if s.partState p ≠ 2 then denied s ST.PART_STATE
    else if s.jobState p j = 0 then denied s ST.MB_ARG
    else if (s.job p j).phase = .idle then okay (s.freeJob p j)
    else doneOrLater ((s.modJob p j fun x => { x with retire := true }).abortJob p j) n)

/-- The slice table of a `SLICE_TABLE_LOAD`: entry k has its valid bit in bit 7 and its colour in bits 1:0. -/
def State.tableArg (s : State) (n : Nat) : List (Bool × Nat) :=
  (List.range 8).map fun k => (decide (s.arg n (k + 1) / 128 = 1), s.arg n (k + 1) % 4)

/-- Whether two admitted jobs of one colour hold a common block under a table (R326). -/
def State.tableClash (s : State) (p : Nat) (l : List (Bool × Nat)) : Bool :=
  let col := fun j => (l.getD (s.jobSlice p j) (false, 0)).2
  (s.part p).jobs.any fun x => (s.part p).jobs.any fun y =>
    decide (x.1 ≠ y.1) && decide (col x.1 = col y.1) && x.2.blocks.any fun b => y.2.blocks.contains b

/-- SLICE_TABLE_LOAD: the inactive bank is written and a swap requested (R326). -/
def execSliceTableLoad (n : Nat) (s : State) : Host.Outcome State Fault Refusal :=
  ok (s.runCmd n 0x0206 true fun s =>
    let p := s.arg n 0
    let l := s.tableArg n
    if s.partState p ≠ 2 then denied s ST.PART_STATE
    else if s.bit (R.ACC_P_STATUS p) 10 then denied s ST.SLICE_BUSY
    else if s.tableClash p l then denied s ST.SLICE_TABLE
    else
      let toA := s.bit (R.ACC_P_STATUS p) 9
      let s := s.modPart p fun q => if toA then { q with bankA := l } else { q with bankB := l }
      okay (s.setBit (R.ACC_P_STATUS p) 10 true))

/-- A credit from its 8 bytes (R365). -/
def creditOf (v : Nat) : Credit :=
  { colour := bitsOf v 0 2, first := bitsOf v 8 6, second := bitsOf v 16 6, valid := decide (bitsOf v 63 1 = 1) }

/-- PART_CREDIT_CONFIG: the colours of semaphores and credits, while no job of the partition is admitted. -/
def execPartCreditConfig (n : Nat) (s : State) : Host.Outcome State Fault Refusal :=
  ok (s.runCmd n 0x0207 true fun s =>
    let p := s.arg n 0
    let (d, s) := s.supRead (s.arg n 1) 576
    if s.partState p ≠ 2 ∨ (List.range 64).any fun j => decide (s.jobState p j ≠ 0) then denied s ST.PART_STATE
    else
      let col := leNat (d.take 64)
      let sems := (List.range 256).foldl (fun m k =>
        mmod {} m k fun (y : Semaphore) => { y with colour := bitsOf col (2 * k) 2 }) (s.part p).sems
      let credits := (enumFrom 0 (chunks 8 (d.drop 64) 64)).foldl (fun m x => mset {} m x.1 (creditOf x.2)) []
      okay (s.modPart p fun q => { q with sems := sems, credits := credits }))

end Sys2Proof.Machine
end

