-- ==== Sys2Proof/Machine/Camera.lean ====
section
/-! DEFINITION. Camera ingress (R376 to R382): port enables, frames as their packets build them, and the seal. -/

namespace Sys2Proof.Machine

/-! ### Ports (R376, R377) -/

/-- The lanes or trios a port configuration selects. -/
def camLanes (v : Nat) : Nat :=
  match bitsOf v 2 2 with
  | 0 => 1
  | 1 => 2
  | _ => if bitsOf v 1 1 = 0 then 4 else 3

/-- The link rate of a port configuration in units of 1/7 Mbit/s (R377). -/
def camRate7 (v : Nat) : Nat :=
  if bitsOf v 1 1 = 0 then 7 * camLanes v * bitsOf v 16 16 else 16 * camLanes v * bitsOf v 16 16

/-- Whether the part has camera port `p` (R3, R371). -/
def State.camPort (s : State) (p : Nat) : Bool := decide (p < 12) && decide (s.boot.part.camMask / 2 ^ p % 2 = 1)

/-- Whether a port configuration is one of R376: lanes or trios, and a rate from 80 to 4,500 Mbit/s or 6,000 Msym/s. -/
def camPortOk (v : Nat) : Bool :=
  decide (bitsOf v 2 2 ≠ 3) && decide (80 ≤ bitsOf v 16 16) &&
    decide (bitsOf v 16 16 ≤ if bitsOf v 1 1 = 0 then 4500 else 6000)

/-- The sum of the link rates of the enabled ports but `p`, in units of 1/7 Mbit/s. -/
def State.camUsed7 (s : State) (p : Nat) : Nat :=
  ((List.range 12).map fun k =>
    if k ≠ p ∧ s.bit (R.CAM_PORT_CFG k) 0 then camRate7 (s.regN (R.CAM_PORT_CFG k)) else 0).foldl (· + ·) 0

/-- `CAM_BW_USED` brought up to date: the aggregate in whole Mbit/s, a started one counted. -/
def State.showCamBw (s : State) : State := s.setRegN R.CAM_BW_USED ((s.camUsed7 12 + 6) / 7)

/-- A write of `CAM_PORTp_CFG` (R376, R377): a refused one leaves the port unchanged. -/
def actCamPort (p : Nat) (s : State) (v : Nat) : State × Option Status :=
  let w := putBits (v % 2 ^ 32) 4 12 0
  if v % 2 = 1 ∧ (!(s.camPort p) ∨ !(camPortOk v)) then refuse s ST.CAM_CONFIG
  else if v % 2 = 0 ∧ bitsOf v 2 2 = 3 then refuse s ST.CAM_CONFIG
  else if v % 2 = 1 ∧ 7 * 160000 < s.camUsed7 p + camRate7 v then refuse s ST.CAM_BANDWIDTH
  else accept ((s.setRegN (R.CAM_PORT_CFG p) w).showCamBw)

/-- CAM_PORT_ENABLE: the supervisor writes `CAM_PORTp_CFG`. -/
def execCamPortEnable (m p : Nat) (v : Dword) (s : State) : Host.Outcome State Fault Refusal :=
  ok (s.regBus m (R.CAM_PORT_CFG (p % 12)) 4 fun s => actCamPort (p % 12) s v.toNat)

/-- Whether a stream configuration is one of R376: a RAW data type and a counter of 0 to 4 bytes, on a port of this part. -/
def State.camStrOk (s : State) (v : Nat) : Bool :=
  decide (0x2A ≤ bitsOf v 10 6 ∧ bitsOf v 10 6 ≤ 0x2E) && decide (bitsOf v 16 3 ≤ 4) && s.camPort (bitsOf v 1 4)

/-- A write of `CAM_STRs_CFG` (R376). -/
def actCamStr (i : Nat) (s : State) (v : Nat) : State × Option Status :=
  if v % 2 = 1 ∧ !(s.camStrOk v) then refuse s ST.CAM_CONFIG else accept (s.setRegN (R.CAM_STR_CFG i) (v % 2 ^ 32))

/-! ### Streams (R378 to R382) -/

/-- A camera stream. -/
def State.camStr (s : State) (i : Nat) : CamStream := mget {} s.camStrs i
/-- A camera stream changed. -/
def State.modCamStr (s : State) (i : Nat) (f : CamStream → CamStream) : State := { s with camStrs := mmod {} s.camStrs i f }

/-- The enabled stream of a port and virtual channel, the lowest-numbered. -/
def State.streamOf (s : State) (port vc : Nat) : Option Nat :=
  (List.range 64).find? fun i =>
    s.bit (R.CAM_STR_CFG i) 0 && decide (s.fld (R.CAM_STR_CFG i) 1 4 = port) && decide (s.fld (R.CAM_STR_CFG i) 5 5 = vc)

/-- Whether CAM receives from a port: the domain, the unit and the port are on, and no replay runs (R596). -/
def State.camHears (s : State) (port : Nat) : Bool :=
  decide (port < 12) && s.domainOn (unitDomain 0x19) && s.bit R.CAM_CTRL 0 && s.bit (R.CAM_PORT_CFG port) 0 && !s.replaying

/-- The address of slot `k` of a stream. -/
def State.camSlotAddr (s : State) (i k : Nat) : Nat := s.fld (R.CAM_STR_RING i) 0 48 + k * s.regN (R.CAM_STR_SLOT i)

/-- Whether a pixel-engine lane holds slot `k` of stream `i` (R382). -/
def State.camHeld (s : State) (i k : Nat) : Bool :=
  s.pixRuns.any fun r => r.cams.any fun c => decide (c.stream = some i ∧ c.slot = some k)

/-- The lanes that wait for a frame of stream `i` take the one that has opened in slot `k`. -/
def State.camOpened (s : State) (i k : Nat) : State :=
  { s with pixRuns := s.pixRuns.map fun r =>
      { r with cams := r.cams.map fun c => if c.stream = some i ∧ c.slot = none then { c with slot := some k } else c } }

/-- The lanes that hold slot `k` of stream `i` find its frame sealed. -/
def State.camSealed (s : State) (i k : Nat) : State :=
  { s with pixRuns := s.pixRuns.map fun r =>
      { r with cams := r.cams.map fun c => if c.stream = some i ∧ c.slot = some k then { c with closed := true } else c } }

/-- Flag bits of the seal (R381): `HDR_ERR`, `CRC_ERR`, `GEOMETRY`, `GAP`, `REPEAT`, `TRUNCATED`. -/
def CF.hdr : Nat := 2
/-- `CRC_ERR`. -/
def CF.crc : Nat := 4
/-- `GEOMETRY`. -/
def CF.geometry : Nat := 8
/-- `GAP`. -/
def CF.gap : Nat := 16
/-- `REPEAT`. -/
def CF.rep : Nat := 32
/-- `TRUNCATED`. -/
def CF.cut : Nat := 64

/-- A flag set on the open frame of a stream. -/
def State.camFlag (s : State) (i f : Nat) : State :=
  s.modCamStr i fun x => { x with frame := x.frame.map fun g => { g with flags := g.flags ||| f } }

/-- A packet header of a port that cannot be corrected (R380): every frame open on the port is touched, since the channel of such
a packet cannot be read. -/
def State.camBadHeader (s : State) (port : Nat) : State :=
  let s := s.incFld (R.CAM_PORT_ERR port) 0 16
  s.each ((List.range 64).filter fun i => s.bit (R.CAM_STR_CFG i) 0 && decide (s.fld (R.CAM_STR_CFG i) 1 4 = port))
    fun s i => s.camFlag i CF.hdr

/-- The seal of a frame (R381). -/
def camSeal (g : CamFrame) (cnt src flags : Nat) (data : List Byte) : List Byte :=
  sealed data (leBytes g.capture 8 ++ leBytes cnt 4 ++ leBytes src 2 ++ leBytes flags 2 ++ leBytes g.lines 4 ++
    leBytes g.bytes 4 ++ leBytes 0 4) ++ List.replicate 32 0#8

/-- The counter of a frame: read from embedded data, or counted by CAM when `FC_BYTES` is 0. A frame without its embedded bytes has
no stated counter: a free value. -/
def State.camCounter (s : State) (i : Nat) (g : CamFrame) : Nat × State :=
  let k := s.fld (R.CAM_STR_CFG i) 16 3
  if k = 0 then ((s.camStr i).count, s)
  else
    match g.counter with
    | some c => (c, s)
    | none => (Config.freeNat s.fresh % 2 ^ (8 * k), s.draw.2)

/-- The flags of a counter against that of the previous frame (R380): equal repeats, more than one ahead leaves a gap. -/
def counterFlags (k : Nat) (prev : Option Nat) (c : Nat) : Nat :=
  match prev with
  | none => 0
  | some p => if k = 0 then 0 else if c = p then CF.rep else if c = (p + 1) % 2 ^ (8 * k) then 0 else CF.gap

/-- What a sealed frame leaves behind (R380, R381): the records of a counter gap and of the first invalid frame of a run, the state
register, and the lanes that find it sealed. -/
def State.camBook (s : State) (i slot c : Nat) (gap bad : Bool) : State :=
  let first := bad && !(s.camStr i).invRun
  let s := if gap then s.postC ST.CAM_COUNTER 0x19 i else s
  let s := if first then s.postC ST.CAM_FRAME_INVALID 0x19 i else s
  let n := max 1 (s.fld (R.CAM_STR_RING i) 48 5)
  let s := (s.setFld (R.CAM_STR_STATE i) 0 32 c).setFld (R.CAM_STR_STATE i) 32 4 ((slot + 1) % n)
  let s := if bad then s.incFld (R.CAM_STR_STATE i) 48 16 else s
  let s := s.modCamStr i fun x =>
    { x with frame := none, prev := some c, invRun := bad, count := (x.count + 1) % 2 ^ 32 }
  s.camSealed i slot

/-- The open frame of stream `i` is sealed and closed (R380, R381). -/
def State.camClose (s : State) (i : Nat) (g : CamFrame) : State :=
  let cfg := s.regN (R.CAM_STR_CFG i)
  let geo := if g.lines ≠ s.fld (R.CAM_STR_GEOM i) 0 16 then CF.geometry else 0
  let (c, s) := s.camCounter i g
  let cf := counterFlags (bitsOf cfg 16 3) (s.camStr i).prev c
  let flags := g.flags ||| geo ||| cf
  let bad := decide ((flags &&& (CF.hdr ||| CF.crc ||| CF.geometry ||| CF.rep ||| CF.cut)) ≠ 0)
  let flags := flags ||| b2n bad
  let a := s.camSlotAddr i g.slot
  let data := s.bytes (a + 64) g.bytes
  let seal_ := camSeal g c (bitsOf cfg 5 5 + bitsOf cfg 1 4 * 32) flags data
  let s := s.hubSet 0x031 a seal_ false
  (s.camBook i g.slot c (decide (cf = CF.gap)) bad).tap 0x02 (some 0) 0x19 i s.now (seal_ ++ data)

/-- A frame of stream `i` opens (R379), or is discarded whole because a lane holds the next slot (R382). -/
def State.camOpen (s : State) (i : Nat) : State :=
  let k := s.fld (R.CAM_STR_STATE i) 32 4
  if s.camHeld i k then
    ((s.modCamStr i fun x => { x with frame := none }).incReg R.CAM_DROP_CNT).postC ST.CAM_RING_FULL 0x19 i
  else
    let t := ofSigned 64 ((s.now : Int) - s.regN (R.CAM_STR_CAPOFF i))
    (s.modCamStr i fun x => { x with frame := some { capture := t, slot := k } }).camOpened i k

/-- FRAME_START_PACKET: a frame-start packet of a virtual channel (R379, R380, R382). -/
def execFrameStartPacket (port vc : Nat) (hdrOk : Bool) (s : State) : Host.Outcome State Fault Refusal :=
  if !(s.camHears port) then ok s
  else if !hdrOk then ok (s.camBadHeader port)
  else
    match s.streamOf port (vc % 32) with
    | none => ok (s.incReg R.CAM_DROP_CNT)
    | some i =>
      match (s.camStr i).frame with
      | some g => ok ((s.camClose i { g with flags := g.flags ||| CF.cut }).camOpen i)
      | none => ok (s.camOpen i)

/-- The frame counter in an embedded-data line: `FC_BYTES` bytes, big-endian, at `FC_OFFSET` (R380). -/
def embeddedCounter (cfg : Nat) (data : List Byte) : Option Nat :=
  let k := bitsOf cfg 16 3
  let o := bitsOf cfg 19 13
  if k = 0 ∨ data.length < o + k then none else some (leNat ((data.drop o).take k).reverse)

/-- An image line of the open frame (R379, R380): written as received at its place; data that would pass the end of the slot are
not written. -/
def State.camLine (s : State) (i : Nat) (g : CamFrame) (data : List Byte) : State :=
  let lb := s.fld (R.CAM_STR_GEOM i) 16 16
  let off := g.lines * lb
  let room := s.regN (R.CAM_STR_SLOT i) - (64 + off)
  let keep := data.take room
  let s := s.hubSet 0x031 (s.camSlotAddr i g.slot + 64 + off) keep false
  let f := (if data.length ≠ lb then CF.geometry else 0) ||| (if room < data.length then CF.cut else 0)
  s.modCamStr i fun x =>
    { x with frame := some { g with
        lines := g.lines + 1
        bytes := if keep.isEmpty then g.bytes else max g.bytes (off + keep.length)
        flags := g.flags ||| f } }

/-- What a long packet brings to stream `i`: an image line, the counter in embedded data, or a discard (R378). -/
def State.camData (s : State) (i dt : Nat) (data : List Byte) : State :=
  let cfg := s.regN (R.CAM_STR_CFG i)
  match (s.camStr i).frame with
  | none => if dt = bitsOf cfg 10 6 ∨ dt = 0x12 then s else s.incReg R.CAM_DROP_CNT
  | some g =>
    if dt = bitsOf cfg 10 6 then s.camLine i g data
    else if dt = 0x12 then
      if g.counter.isSome then s
      else s.modCamStr i fun x => { x with frame := some { g with counter := embeddedCounter cfg data } }
    else s.incReg R.CAM_DROP_CNT

/-- LINE_PACKET: a long packet with its data type, payload and the outcomes of its header and CRC-16 checks. -/
def execLinePacket (port vc dt : Nat) (data : List Byte) (hdrOk crcOk : Bool) (s : State) : Host.Outcome State Fault Refusal :=
  if !(s.camHears port) then ok s
  else if !hdrOk then ok (s.camBadHeader port)
  else
    let s := if crcOk then s else s.incFld (R.CAM_PORT_ERR port) 16 16
    match s.streamOf port (vc % 32) with
    | none => ok (s.incReg R.CAM_DROP_CNT)
    | some i => ok ((if crcOk then s else s.camFlag i CF.crc).camData i dt data)

/-- FRAME_END_PACKET: a frame-end packet closes the open frame (R379, R381). -/
def execFrameEndPacket (port vc : Nat) (hdrOk : Bool) (s : State) : Host.Outcome State Fault Refusal :=
  if !(s.camHears port) then ok s
  else if !hdrOk then ok (s.camBadHeader port)
  else
    match s.streamOf port (vc % 32) with
    | none => ok (s.incReg R.CAM_DROP_CNT)
    | some i =>
      match (s.camStr i).frame with
      | some g => ok (s.camClose i g)
      | none => ok s

end Sys2Proof.Machine
end

