-- ==== Sys2Proof/Machine/Pixel.lean ====
section
/-! DEFINITION. The pixel engine (R213 to R222): program checks, arithmetic, lanes, publication. -/

namespace Sys2Proof.Machine

/-! ### Programs (R213) -/

/-- A field of a program header. -/
def pf (v : BitVec 512) (lo w : Nat) : Nat := bitsOf v.toNat lo w

/-- `MODE`. -/
def pixMode (v : BitVec 512) : Nat := pf v 0 2
/-- The camera ports of a program in ascending order (R217). -/
def pixPorts (v : BitVec 512) : List Nat := (List.range 12).filter fun p => pf v (58 + p) 1 = 1
/-- Input channels of the convolution: `CIN` + 1, 4 for a mosaic, `LCIN` + 1 in mode 2 (R213, R214). -/
def pixCin (v : BitVec 512) : Nat :=
  match pixMode v with
  | 0 => pf v 8 2 + 1
  | 1 => 4
  | _ => pf v 10 9 + 1
/-- Output channels. -/
def pixCout (v : BitVec 512) : Nat := pf v 19 6 + 1
/-- Width of the convolution's input: half of `IN_W` in mode 1 (R214). -/
def pixW (v : BitVec 512) : Nat := if pixMode v = 1 then pf v 85 16 / 2 else pf v 85 16
/-- Height of the convolution's input. -/
def pixH (v : BitVec 512) : Nat := if pixMode v = 1 then pf v 101 16 / 2 else pf v 101 16
/-- Output size of one dimension under R198 at dilation 1; at most 0 when the kernel does not fit. -/
def pixOut (n a b k st : Nat) : Int := ((n : Int) + a + b - (k - 1) - 1).fdiv st + 1
/-- Output height. -/
def pixOutH (v : BitVec 512) : Int := pixOut (pixH v) (pf v 37 4) (pf v 41 4) (pf v 25 4) (pf v 33 4)
/-- Output width. -/
def pixOutW (v : BitVec 512) : Int := pixOut (pixW v) (pf v 45 4) (pf v 49 4) (pf v 29 4) (pf v 33 4)

/-- The rules of the Meaning column of R213. -/
def State.pixRules (s : State) (v : BitVec 512) : Bool :=
  let mode := pixMode v
  let fmt := pf v 2 3
  let kmax := if mode = 2 then 3 else 11
  decide (mode ≠ 3) &&
    (decide (mode = 2) || (decide (fmt ≤ 4) && !(decide (mode = 1) && decide (fmt = 0)))) &&
    decide (pf v 10 9 < 512) && (decide (mode ≠ 2) || decide (pixCout v ≤ 8)) &&
    decide (1 ≤ pf v 25 4 ∧ pf v 25 4 ≤ kmax) && decide (1 ≤ pf v 29 4 ∧ pf v 29 4 ≤ kmax) &&
    decide (1 ≤ pf v 33 4 ∧ pf v 33 4 ≤ 8) && (decide (mode ≠ 2) || decide (pf v 33 4 = 1)) &&
    decide (pf v 54 4 ≤ 8) &&
    (decide (mode = 2) || (decide (pf v 58 12 ≠ 0) && (pixPorts v).all s.camPort)) &&
    decide (1 ≤ pf v 85 16 ∧ pf v 85 16 ≤ 8192) && decide (1 ≤ pf v 101 16 ∧ pf v 101 16 ≤ 8192) &&
    (decide (mode ≠ 1) || (decide (pf v 85 16 % 2 = 0) && decide (pf v 101 16 % 2 = 0))) &&
    decide (pf v 128 48 % 4096 = 0) && inHost (pf v 128 48) 1 &&
    decide (1000 ≤ pf v 192 32 ∧ pf v 192 32 ≤ 100000000) &&
    (decide (mode ≠ 2) || inHost (pf v 224 48) 1)

/-- The code that refuses a program at load (R213), if any. -/
def State.pixRefusal (s : State) (slot : Nat) (v : BitVec 512) : Option Status :=
  if !(s.pixRules v) then some ST.PIX_PROGRAM
  else if pixOutH v < 1 ∨ pixOutW v < 1 then some ST.PIX_EMPTY
  else if s.pixRuns.any (fun r => decide (r.prog = slot)) then some ST.PIX_BUSY
  else none

/-- Whether a program is loaded. -/
def State.hasPix (s : State) (k : Nat) : Bool := s.pixProgs.any fun x => decide (x.1 = k)
/-- A program. -/
def State.pixProg (s : State) (k : Nat) : BitVec 512 := mget 0#512 s.pixProgs k

/-! ### Arithmetic (R214, R215) -/

/-- Round half to even of x / 2^k. -/
def rneDiv (x : Int) (k : Nat) : Int := if x < 0 then -((rneShift x.natAbs k : Nat) : Int) else (rneShift x.natAbs k : Nat)

/-- An INT8 saturation. -/
def sat8 (x : Int) : Int := max (-128) (min 127 x)

/-- The signed byte at a place of a list. -/
def byteAt (l : List Byte) (i : Nat) : Int := (l.getD i 0#8).toInt

/-- Pixel `i` of a line under the CSI-2 packing of `INFMT` (R215 step 1): RAW8 one byte; RAW10 and RAW14 four pixels whose high
bytes come first and whose low bits follow; RAW12 two pixels in three bytes; RAW16 high byte first. -/
def unpackPix (fmt : Nat) (l : List Byte) (i : Nat) : Nat :=
  let b := fun k => (l.getD k 0#8).toNat
  match fmt with
  | 0 => b i
  | 1 => b (i / 4 * 5 + i % 4) * 4 + bitsOf (b (i / 4 * 5 + 4)) (2 * (i % 4)) 2
  | 2 => b (i / 2 * 3 + i % 2) * 16 + bitsOf (b (i / 2 * 3 + 2)) (4 * (i % 2)) 4
  | 3 =>
    let low := b (i / 4 * 7 + 4) + b (i / 4 * 7 + 5) * 256 + b (i / 4 * 7 + 6) * 65536
    b (i / 4 * 7 + i % 4) * 64 + bitsOf low (6 * (i % 4)) 6
  | _ => b (2 * i) * 256 + b (2 * i + 1)

/-- Decompanding (R215 step 3) with the 16 knees of the parameter block; a value under no segment has no stated result: `free`. -/
def decompand (knees : List (Nat × Nat × Nat)) (u free : Nat) : Nat :=
  let hit := (List.range 16).find? fun k =>
    decide ((knees.getD k (0, 0, 0)).1 ≤ u) && decide (u < if k = 15 then 65536 else (knees.getD (k + 1) (0, 0, 0)).1)
  match hit with
  | some k =>
    let (x, y, g) := knees.getD k (0, 0, 0)
    min (y + (u - x) * g) (2 ^ 24 - 1)
  | none => free

/-- The parameter block of a program as read (R213). -/
structure PixParams where
  black : List Nat := []
  pad8  : List Int := []
  pad   : List Nat := []
  knees : List (Nat × Nat × Nat) := []
  outs  : List (Int × Nat × Nat) := []
  wgt   : List Byte := []
deriving DecidableEq, Repr, Inhabited

/-- The parameter block in its bytes from `TAB_BASE` on. -/
def pixParams (v : BitVec 512) (l : List Byte) : PixParams :=
  let h := fun o => leNat ((l.drop o).take 2)
  { black := (List.range 4).map fun i => h (2 * i)
    pad := (List.range 4).map fun i => h (0x10 + 2 * i)
    pad8 := (List.range 512).map fun i => byteAt l (0x10 + i)
    knees := (List.range 16).map fun i =>
      let x := leNat ((l.drop (0x220 + 8 * i)).take 8)
      (bitsOf x 0 16, bitsOf x 16 24, bitsOf x 40 12)
    outs := (List.range (pixCout v)).map fun i =>
      let x := leNat ((l.drop (0x2A0 + 8 * i)).take 8)
      (toSigned 32 (bitsOf x 0 32), bitsOf x 32 16, bitsOf x 48 6)
    wgt := l.drop 0x800 }

/-- The bytes of the parameter block that a program uses. -/
def pixParamLen (v : BitVec 512) : Nat := 0x800 + pixCout v * pf v 25 4 * pf v 29 4 * pixCin v

/-- The activation of a raw value of channel `c` (R215 steps 2 to 4). -/
def activation (v : BitVec 512) (p : PixParams) (c u free : Nat) : Nat :=
  let u := u - p.black.getD c 0
  let y := if pf v 7 1 = 1 then decompand p.knees u free else u
  min (rneShift y (pf v 54 4)) 65535

/-- The raw column and row of channel `c` of a mosaic cell (R214): the place of a colour in the 2 × 2 cell is its number with the
phase's bits turned over. -/
def mosaicAt (v : BitVec 512) (y x c : Nat) : Nat × Nat :=
  let k := c ^^^ pf v 5 2
  (2 * y + k / 2, 2 * x + k % 2)

/-- The activation at row `y`, column `x`, channel `c` of the convolution's input; `line` gives the bytes of a raw line. -/
def pixInput (v : BitVec 512) (p : PixParams) (line : Nat → List Byte) (src : List Byte) (free y x c : Nat) : Int :=
  match pixMode v with
  | 0 => (activation v p c (unpackPix (pf v 2 3) (line y) (x * pixCin v + c)) free : Nat)
  | 1 =>
    let (r, k) := mosaicAt v y x c
    (activation v p c (unpackPix (pf v 2 3) (line r) k) free : Nat)
  | _ => byteAt src ((y * pixW v + x) * pixCin v + c)

/-- The pad value of a channel. -/
def pixPad (v : BitVec 512) (p : PixParams) (c : Nat) : Int := if pixMode v = 2 then p.pad8.getD c 0 else (p.pad.getD c 0 : Nat)

/-- One output (R215 steps 6 to 8). -/
def pixOutput (v : BitVec 512) (p : PixParams) (inp : Nat → Nat → Nat → Int) (oy ox oc : Nat) : Byte :=
  let kh := pf v 25 4
  let kw := pf v 29 4
  let ci := pixCin v
  let (bias, m, sh) := p.outs.getD oc (0, 0, 0)
  let at_ := fun (ky kx c : Nat) =>
    let y : Int := (oy * pf v 33 4 + ky : Nat) - (pf v 37 4 : Nat)
    let x : Int := (ox * pf v 33 4 + kx : Nat) - (pf v 45 4 : Nat)
    if 0 ≤ y ∧ y < pixH v ∧ 0 ≤ x ∧ x < pixW v then inp y.toNat x.toNat c else pixPad v p c
  let acc := (List.range kh).foldl (fun a ky => (List.range kw).foldl (fun a kx => (List.range ci).foldl (fun a c =>
    a + at_ ky kx c * byteAt p.wgt (((oc * kh + ky) * kw + kx) * ci + c)) a) a) bias
  let acc := if pf v 53 1 = 1 then max acc 0 else acc
  BitVec.ofInt 8 (sat8 (rneDiv (acc * m) sh))

/-- The outputs in HWC order (R216). -/
def pixOutputs (v : BitVec 512) (p : PixParams) (inp : Nat → Nat → Nat → Int) : List Byte :=
  (List.range (pixOutH v).toNat).flatMap fun y => (List.range (pixOutW v).toNat).flatMap fun x =>
    (List.range (pixCout v)).map fun c => pixOutput v p inp y x c

/-! ### Starts (R217, R221, R222) -/

/-- The lanes a start needs: those of its cameras' ranks, or all four in mode 2. -/
def pixLanes (v : BitVec 512) : List Nat :=
  if pixMode v = 2 then [0, 1, 2, 3] else (List.range 4).filter fun l => l < (pixPorts v).length

/-- Whether a running start occupies lane `l`. -/
def State.laneBusy (s : State) (l : Nat) : Bool :=
  s.pixRuns.any fun r => decide (pixMode (s.pixProg r.prog) = 2) || r.cams.any fun c => decide (c.rank % 4 = l)

/-- Raw pixels of a start (R222). -/
def pixRaw (v : BitVec 512) : Nat := if pixMode v = 2 then 0 else (pixPorts v).length * (pf v 85 16 * pf v 101 16)

/-- Raw pixels accepted in the 100 ms before now. -/
def State.pixRecent (s : State) : Nat :=
  s.pixWindow.foldl (fun n x => if s.age < x.1 + 100000000 then n + x.2 else n) 0

/-- `PIX_STATUS` and `PIX_LANEn_STATE` brought up to date. -/
def State.showPix (s : State) : State :=
  let s := s.setFld R.PIX_STATUS 0 4 (((List.range 4).filter s.laneBusy).foldl (fun m l => m + 2 ^ l) 0)
  s.each (List.range 4) fun s l =>
    match s.pixRuns.findSome? fun r => (r.cams.find? fun c => decide (c.rank % 4 = l ∨ pixMode (s.pixProg r.prog) = 2)).map fun c => (r, c) with
    | some (r, c) => s.setRegN (R.PIX_LANE_STATE l) (r.prog + (c.port % 16) * 256)
    | none => s.setRegN (R.PIX_LANE_STATE l) 0

/-- The cameras of a start: each with its rank, its stream, and the frame already open on it, if any. -/
def State.pixCams (s : State) (v : BitVec 512) : List PixCam :=
  if pixMode v = 2 then [{ port := 15 }]
  else (enumFrom 0 (pixPorts v)).map fun x =>
    let st := s.streamOf x.2 (pf v 70 5)
    { port := x.2, rank := x.1, stream := st, slot := st.bind fun i => ((s.camStr i).frame).map fun g => g.slot }

/-- A start skipped with a code and counted (R221, R222). -/
def State.pixSkip (s : State) (c : Status) (k : Nat) : State := (s.incReg R.PIX_OVERRUN_CNT).postC c 0x18 k

/-- The running starts changed. -/
def State.modPixRuns (s : State) (f : List PixRun → List PixRun) : State := { s with pixRuns := f s.pixRuns }

/-- Raw pixels of an accepted start join those of the last 100 ms (R222). -/
def State.pixTake (s : State) (n : Nat) : State :=
  { s with pixWindow := (s.pixWindow.filter fun x => decide (s.age < x.1 + 100000000)) ++ [(s.age, n)] }

/-- What a PIX_START entry does (R221 to R223, R56). -/
def State.firePix (s : State) (d : Due) : State :=
  let k := d.entry.index % 256
  let v := s.pixProg k
  if !(s.hasPix k) then s.targetGone d
  else if !(s.bit R.PIX_CTRL 0) then s.postC ST.PIX_OVERRUN 0x18 k
  else if (pixLanes v).any s.laneBusy then s.pixSkip ST.PIX_OVERRUN k
  else if 400000000 < pixRaw v + s.pixRecent then s.pixSkip ST.PIX_RATE k
  else
    let r : PixRun := { prog := k, at_ := d.due, cams := s.pixCams v }
    (((s.modPixRuns fun l => l ++ [r]).pixTake (pixRaw v)).setFld R.PIX_STATUS 4 8 k).showPix

/-- PIX_START: a PIX_START entry falls due. -/
def execPixStart (w e edge : Nat) (s : State) : Host.Outcome State Fault Refusal :=
  ok (s.onEntry w e edge 0x08 0 fun s d => s.ifPowered 0x18 fun s => s.firePix d)

/-! ### Publication (R219, R220) -/

/-- The running start of a program that still has camera `cam`. -/
def State.pixFind (s : State) (k cam : Nat) : Option (PixRun × PixCam) :=
  s.pixRuns.findSome? fun r =>
    if r.prog = k then (r.cams.find? fun c => decide (c.port = cam)).map fun c => (r, c) else none

/-- A camera leaves its start; a start without cameras ends. -/
def State.pixLeave (s : State) (k cam : Nat) : State :=
  (s.modPixRuns fun l =>
    (l.map fun r => if r.prog = k then { r with cams := r.cams.filter fun c => decide (c.port ≠ cam) } else r).filter fun r =>
      !r.cams.isEmpty).showPix

/-- A result written into the write slot of a handoff descriptor as far as it fits, and the slot published (R216, R219). -/
def State.pixPublish (s : State) (i : Nat) (out : List Byte) (p : Bool) : State :=
  let h := s.ho i
  let k := s.hoW i
  let s := if s.hoExists i then s.hubSet 0x030 (slotAddr h.desc k) (out.take h.desc.slotBytes) p else s
  s.publish 0x030 i k

/-- Whether a seal verifies (R381): the CRC recomputed over the data and its bytes 0 to 27, and `INVALID` 0. -/
def sealGood (seal_ data : List Byte) : Bool :=
  decide ((crc32c (data ++ seal_.take 28)).toNat = leNat ((seal_.drop 28).take 4)) && decide ((seal_.getD 14 0#8).toNat % 2 = 0)

/-- A camera frame processed and published (R214 to R216, R219): the output's seal carries the input frame's capture time, counter
and source; a failed input seal marks it invalid. -/
def State.pixFrame (s : State) (v : BitVec 512) (c : PixCam) (i slot : Nat) : State :=
  let a := s.camSlotAddr i slot
  let lb := s.fld (R.CAM_STR_GEOM i) 16 16
  let (seal_, p0, s) := s.hubGet 0x030 a 64
  let (data, p1, s) := s.hubGet 0x030 (a + 64) (leNat ((seal_.drop 20).take 4))
  let (par, p2, s) := s.hubGet 0x030 (pf v 128 48) (pixParamLen v)
  let good := sealGood seal_ data
  let p := pixParams v par
  let out := pixOutputs v p (pixInput v p (fun r => (data.drop (r * lb)).take lb) [] (Config.freeNat s.fresh % 2 ^ 24))
  let head := seal_.take 14 ++ leBytes (b2n (!good)) 2 ++ leBytes (pixOutH v).toNat 4 ++ leBytes out.length 4 ++ leBytes 0 4
  let s := s.draw.2
  let s := if good then s else (s.incReg R.PIX_SEAL_CNT).postC ST.PIX_SEAL 0x18 (c.rank % 4)
  s.pixPublish (pf v 75 10 + c.rank) (sealed out head ++ List.replicate 32 0#8 ++ out) (p0 || p1 || p2)

/-- A mode-2 result (R215, R217): one buffer on `HO_BASE`. -/
def State.pixLast (s : State) (v : BitVec 512) : State :=
  let (src, p1, s) := s.hubGet 0x030 (pf v 224 48) (pixW v * pixH v * pixCin v)
  let (par, p2, s) := s.hubGet 0x030 (pf v 128 48) (pixParamLen v)
  let p := pixParams v par
  s.pixPublish (pf v 75 10) (pixOutputs v p (pixInput v p (fun _ => []) src 0)) (p1 || p2)

/-- PIX_FRAME_DONE: a lane has processed the frame of a camera (15 for a mode-2 start); it needs the frame sealed. -/
def execPixFrameDone (prog cam : Nat) (s : State) : Host.Outcome State Fault Refusal :=
  ok (match s.pixFind prog cam with
  | none => s
  | some (_, c) =>
    let v := s.pixProg prog
    if pixMode v = 2 then (s.pixLast v).pixLeave prog cam
    else
      match c.stream, c.slot with
      | some i, some k => if c.closed then (s.pixFrame v c i k).pixLeave prog cam else s
      | _, _ => s)

/-- PIX_FRAME_TIMEOUT: `TIMEOUT` after the start a camera's frame is not complete (R220): abandoned, nothing published. -/
def execPixFrameTimeout (prog cam : Nat) (s : State) : Host.Outcome State Fault Refusal :=
  ok (match s.pixFind prog cam with
  | none => s
  | some (r, c) =>
    if s.now < r.at_ + pf (s.pixProg prog) 192 32 then s
    else ((s.incReg R.PIX_TIMEOUT_CNT).postC ST.PIX_FRAME_TIMEOUT 0x18 (c.rank % 4)).pixLeave prog cam)

end Sys2Proof.Machine
end

