-- ==== Sys2Proof/Machine/Solver.lean ====
section
/-! DEFINITION. The solver engine (R268 to R290): its mailbox commands, starts and their queue, the course of a solve, deadline outcomes and result records. -/

namespace Sys2Proof.Machine

/-! ### Registers brought up to date (R288) -/

/-- Whether a slot is loaded. -/
def State.solLoaded (s : State) (k : Nat) : Bool := s.bit (R.SOL_SLOT_CFG k) 63

/-- Whether a slot has a solve running or queued. -/
def State.solBusy (s : State) (k : Nat) : Bool :=
  (s.solRun.any fun r => decide (r.start.slot = k)) || s.solQueue.any fun x => decide (x.slot = k)

/-- `SOL_SLOTs_STATE`. -/
def State.showSolSlot (s : State) (k : Nat) : State :=
  let x := s.slot k
  s.setRegN (R.SOL_SLOT_STATE k) (b2n x.factor.isSome + 2 * b2n x.pend +
    4 * b2n (s.solQueue.any fun y => decide (y.slot = k)) + 8 * b2n (s.solRun.any fun r => decide (r.start.slot = k)))

/-- `SOL_STATUS` and the state of every slot. -/
def State.showSol (s : State) : State :=
  let v := match s.solRun with
    | some r => 1 + 2 * r.start.slot + 256 * b2n (decide (r.phase = .refactor))
    | none => 0
  (s.setRegN R.SOL_STATUS (v + 16 * s.solQueue.length)).each (List.range 8) fun s k => s.showSolSlot k

/-- Bytes of a slot's footprint (R273). -/
def footprint (n m nnzL nnzP nnzA : Nat) : Nat := 16 * nnzL + 8 * (nnzP + nnzA) + 48 * (n + m) + 4096

/-- The footprint of a loaded slot. -/
def State.slotFoot (s : State) (k : Nat) : Nat :=
  if s.solLoaded k then
    footprint (s.slot k).n (s.slot k).m (s.fld (R.SOL_SLOT_NNZ k) 42 18) (s.slot k).mats.p.length (s.slot k).mats.a.length
  else 0

/-- Footprints of all loaded slots but one. -/
def State.footOthers (s : State) (k : Nat) : Nat :=
  ((List.range 8).filter fun i => decide (i ≠ k)).foldl (fun n i => n + s.slotFoot i) 0

/-- `SOL_SRAM_USED`. -/
def State.showSram (s : State) : State := s.setRegN R.SOL_SRAM_USED (s.footOthers 8)

/-! ### Loading (R272 to R274, R365) -/

/-- A field of a configuration: the result descriptor (R286). -/
def cfgOut (c : Nat) : Nat := bitsOf c 18 10

/-- B, the bytes of a result record (R286). -/
def recordBytes (n m : Nat) : Nat := 64 + 2 * roundUp (4 * n) 64 + 3 * roundUp (4 * m) 64

/-- Whether a slot configuration keeps R286 and R288. -/
def State.solCfgOk (s : State) (c n m : Nat) : Bool :=
  decide (1 ≤ bitsOf c 0 8) && s.hoExists (cfgOut c) && decide ((s.ho (cfgOut c)).desc.producer = 0x034) &&
    decide (recordBytes n m ≤ (s.ho (cfgOut c)).desc.slotBytes)

/-- An array of 32-bit numbers of a problem block at a position, and the 64-byte boundary after it. -/
def arrayAt (d : List Byte) (pos k : Nat) : List Nat × Nat := (chunks 4 (d.drop pos) k, roundUp (pos + 4 * k) 64)

/-- Several arrays one after the other. -/
def arraysAt (d : List Byte) : Nat → List Nat → List (List Nat) × Nat
  | pos, [] => ([], pos)
  | pos, k :: r =>
    let (l, p) := arrayAt d pos k
    let (ls, e) := arraysAt d p r
    (l :: ls, e)

/-- The lengths of a problem block's arrays in their order (R365). -/
def blockLengths (n m p a : Nat) : List Nat := [n + 1, p, p, n + 1, a, a, n, m, m, m, n + m, n, m]

/-- Bytes a problem block needs: the end of its last array. -/
def blockEnd : Nat → List Nat → Nat
  | pos, [] => pos
  | pos, [k] => pos + 4 * k
  | pos, k :: r => blockEnd (roundUp (pos + 4 * k) 64) r

/-- A slot from a problem block's header numbers and arrays. -/
def slotOf (n m sigma alpha : Nat) (l : List (List Nat)) : SolSlot :=
  let g := fun i => l.getD i []
  let v : SolMats := { p := words (g 2), a := words (g 5), rho := words (g 9), sigma := BitVec.ofNat 32 sigma }
  { n := n, m := m, pPtr := g 0, pIdx := g 1, aPtr := g 3, aIdx := g 4, perm := g 10, mats := v, staged := v,
    q := words (g 6), l := words (g 7), u := words (g 8), alpha := BitVec.ofNat 32 alpha, vtags := words (g 11), ctags := words (g 12) }

/-- Column pointers that start at 0, never fall and end at the count of non-zeros. -/
def ptrOk (l : List Nat) (nnz : Nat) : Bool :=
  decide (l.headD 1 = 0) && decide (l.getLastD 0 = nnz) && (l.zip (l.drop 1)).all fun x => decide (x.1 ≤ x.2)

/-- Whether a list is a permutation of 0 to k − 1. -/
def isPerm (k : Nat) (l : List Nat) : Bool := decide (l.length = k) && (List.range k).all fun i => l.contains i

/-- Whether all values are finite. -/
def allFinite (l : List Word) : Bool := l.all fun v => isFin (f32 v.toNat)

/-- Whether a load keeps R272 and R273 but for the non-zeros of L: sizes, patterns, the permutation, and the values; l may hold
−infinity and u +infinity. -/
def slotOk (x : SolSlot) : Bool :=
  decide (1 ≤ x.n ∧ x.n ≤ 4096 ∧ 1 ≤ x.m ∧ x.m ≤ 8192 ∧ x.mats.p.length + x.mats.a.length ≤ 131072) &&
    ptrOk x.pPtr x.mats.p.length && ptrOk x.aPtr x.mats.a.length &&
    (x.pUpper x.mats).all (fun e => decide (e.1 ≤ e.2.1)) && (x.aEntries x.mats).all (fun e => decide (e.1 < x.m)) &&
    isPerm (x.n + x.m) x.perm && allFinite x.mats.p && allFinite x.mats.a && allFinite x.q &&
    x.l.all (fun v => isFin (f32 v.toNat) || decide (f32 v.toNat = .inf true)) &&
    x.u.all (fun v => isFin (f32 v.toNat) || decide (f32 v.toNat = .inf false)) &&
    allFinite x.mats.rho && x.mats.rho.all (fun v => positive v.toNat) && isFin (f32 x.mats.sigma.toNat) &&
    positive x.mats.sigma.toNat && alphaOk x.alpha.toNat

/-- The structure hash (R274). -/
def SolSlot.hash (x : SolSlot) : Nat :=
  (Config.sha256 ((x.n :: x.m :: (x.pPtr ++ x.pIdx ++ x.aPtr ++ x.aIdx ++ x.perm)).flatMap fun v => leBytes v 4)).toNat % 2 ^ 64

/-- A slot put in place with its registers (R272). -/
def State.putSlot (s : State) (k : Nat) (x : SolSlot) (cfg nnzL wf : Nat) : State :=
  let s := { s with solSlots := mset {} s.solSlots k x }
  let s := (s.setRegN (R.SOL_SLOT_CFG k) (putBits cfg 63 1 1)).setRegN (R.SOL_SLOT_DIM k) (x.n + x.m * 2 ^ 16)
  let s := s.setRegN (R.SOL_SLOT_NNZ k) (x.mats.p.length + x.mats.a.length * 2 ^ 24 + nnzL * 2 ^ 42)
  let s := ((s.setRegN (R.SOL_SLOT_WF k) wf).setRegN (R.SOL_SLOT_HASH k) x.hash).setRegN (R.SOL_SLOT_LAST k) 0
  (s.setRegN (R.SOL_SLOT_PARAM k) (x.mats.sigma.toNat + x.alpha.toNat * 2 ^ 32)).showSram.showSol

/-- The checks of a load on the slot it describes (R273, R286), and the load. -/
def State.solTake (s : State) (k cfg : Nat) (x : SolSlot) : State × Done :=
  if !(slotOk x) then denied s ST.SOL_LOAD
  else
    let cols := x.lColumns
    let nnzL := nnzOf cols
    if 196608 < nnzL ∨ !(s.solCfgOk cfg x.n x.m) then denied s ST.SOL_LOAD
    else if 8388608 < s.footOthers k + footprint x.n x.m nnzL x.mats.p.length x.mats.a.length then denied s ST.SOL_SRAM
    else if s.solBusy k then denied s ST.SOL_BUSY
    else giving (s.putSlot k x cfg nnzL (fmaCount cols)) (leBytes nnzL 4 ++ leBytes 0 4 ++ leBytes (fmaCount cols) 8 ++ leBytes x.hash 8)

/-- SOL_LOAD: a problem block is loaded into a slot (R272). -/
def execSolLoad (n : Nat) (s : State) : Host.Outcome State Fault Refusal :=
  ok (s.runCmd n 0x0500 true fun s =>
    let len := s.arg n 1
    let (d, s) := s.supRead (s.arg n 2) len
    let h := fun o => numAt d o 4
    let sizes := blockLengths (h 0) (h 4) (h 8) (h 12)
    if len < 64 ∨ (h 0 ≤ 4096 ∧ h 4 ≤ 8192 ∧ h 8 + h 12 ≤ 131072 ∧ len < blockEnd 64 sizes) then denied s ST.MB_ARG
    else if 4096 < h 0 ∨ 8192 < h 4 ∨ 131072 < h 8 + h 12 then denied s ST.SOL_LOAD
    else s.solTake (s.arg n 0) (numAt d 24 8) (slotOf (h 0) (h 4) (h 16) (h 20) (arraysAt d 64 sizes).1))

/-- A slot configuration written (R286, R288). -/
def State.solConfig (s : State) (k cfg : Nat) : State × Option Status :=
  if s.solBusy k then refuse s ST.SOL_BUSY
  else if s.solLoaded k ∧ !(s.solCfgOk cfg (s.slot k).n (s.slot k).m) then refuse s ST.SOL_LOAD
  else accept (s.setRegN (R.SOL_SLOT_CFG k) (putBits (putBits cfg 28 35 0) 63 1 (b2n (s.solLoaded k))))

/-- SOL_CONFIG: a loaded slot's configuration is replaced. -/
def execSolConfig (n : Nat) (s : State) : Host.Outcome State Fault Refusal :=
  ok (s.runCmd n 0x0501 true fun s =>
    if !(s.solLoaded (s.arg n 0)) then denied s ST.SOL_LOAD
    else
      match s.solConfig (s.arg n 0) (s.arg n 1) with
      | (s, some c) => denied s c
      | (s, none) => okay s)

/-- SOL_UNLOAD: a slot is emptied. -/
def execSolUnload (n : Nat) (s : State) : Host.Outcome State Fault Refusal :=
  ok (s.runCmd n 0x0502 true fun s =>
    let k := s.arg n 0
    if s.solBusy k then denied s ST.SOL_BUSY
    else
      let s := { s with solSlots := merase s.solSlots k }
      okay ((s.resetRegs (R.SOL_SLOT_CFG k) (R.SOL_SLOT_CFG k + 0x40)).showSram.showSol))

/-! ### Starts (R281) -/

/-- A start skipped. -/
def State.solSkip (s : State) (c : Status) (k : Nat) : State := (s.incReg R.SOL_SKIP_CNT).postC c 0x1D k

/-- What a SOL_START entry does (R281, R56). -/
def State.fireSol (s : State) (d : Due) : State :=
  let k := d.entry.index % 8
  if !(s.solLoaded k) then s.targetGone d
  else if !(s.bit R.SOL_CTRL 0) ∨ s.solBusy k then s.solSkip ST.SOL_OVERRUN k
  else if 8 ≤ s.solQueue.length then s.solSkip ST.SOL_QUEUE_FULL k
  else
    let st : SolStart := { slot := k, due := d.due, deadline := d.due + d.entry.arg }
    { s with solQueue := s.solQueue ++ [st] }.showSol

/-- SOL_START: a SOL_START entry falls due. -/
def execSolStart (w e edge : Nat) (s : State) : Host.Outcome State Fault Refusal :=
  ok (s.onEntry w e edge 0x07 0 fun s d => s.ifPowered 0x1D fun s => s.fireSol d)

/-! ### Inputs of a solve (R275 to R280) -/

/-- The bytes, status word and poisoned words of a SOL input port; none when no window has closed on it. -/
def State.solPort (s : State) (k : Nat) : Option (List Byte × StatusWord × List Nat) :=
  let p := s.port 0x1D k
  if p.closedA.isSome then some (p.bytesA, p.statusA, p.poisonA) else none

/-- What the delta port brings to a start: the slot after it, the flags of R286, the entries applied, and whether poison bit
(R276, R278). -/
def State.solDeltas (s : State) (k : Nat) : SolSlot × Nat × Nat × Bool :=
  let x := s.slot k
  let c := s.regN (R.SOL_SLOT_CFG k)
  if bitsOf c 12 1 = 0 then (x, 0, 0, false)
  else
    match s.solPort (bitsOf c 8 4) with
    | none => (x, 0, 0, false)
    | some (d, st, bad) =>
      if st.empty then (x, 0, 0, false)
      else if st.stale then (x, 2 ^ 6, 0, false)
      else
        let n := numAt d 0 4
        if bad.contains 0 ∨ (n ≤ 8184 ∧ bad.any fun w => decide (64 * w < 64 + 8 * n)) then (x, 0, 0, true)
        else if 8184 < n ∨ d.length < 64 + 8 * n then (x, 2 ^ 7, 0, false)
        else
          match x.applyList ((chunks 8 (d.drop 64) n).map deltaOf) with
          | some y => (y, 0, n, false)
          | none => (x, 2 ^ 7, 0, false)

/-- The warm-start record in bytes: a result record (R286). -/
def warmOf (d : List Byte) : WarmRec :=
  let n := numAt d 32 2 % 2 ^ 13
  let m := numAt d 34 2 % 2 ^ 14
  let l := (arraysAt d 64 [n, m, m, n, m]).1
  { hash := numAt d 16 8, v := ⟨l.getD 0 [], l.getD 1 [], l.getD 2 []⟩, vt := l.getD 3 [], ct := l.getD 4 [] }

/-- The record a solve starts from (`WS_SRC`), and its sizes n_w + m_w. -/
def State.solWarm (s : State) (k : Nat) : Option WarmRec :=
  let c := s.regN (R.SOL_SLOT_CFG k)
  let x := s.slot k
  if bitsOf c 17 1 = 0 then
    x.last.map fun v => WarmRec.mk x.lastHash.toNat v.pat (pats x.lastV) (pats x.lastC)
  else
    match s.solPort (bitsOf c 13 4) with
    | some (d, st, _) => if st.empty then none else some (warmOf d)
    | none => none

/-- T_iter of one iteration (R282). -/
def iterCycles (nnzL nnzA size : Nat) : Nat := 128 + (4 * nnzL + 4 * nnzA + 12 * size + 63) / 64

/-- T_fact of a factorisation (R282). -/
def factCycles (wf : Nat) : Nat := 512 + (wf + 63) / 64

/-- T_iter of a slot. -/
def State.slotIter (s : State) (k : Nat) : Nat :=
  iterCycles (s.fld (R.SOL_SLOT_NNZ k) 42 18) (s.slot k).mats.a.length ((s.slot k).n + (s.slot k).m)

/-- Whether the PCLK cycles to the end of the phase at hand have passed since the start left the queue (1.2 GHz). -/
def State.phaseOver (s : State) (r : SolRun) : Bool := decide (5 * r.cyc ≤ 6 * (s.age - r.t0))

/-- A phase changed, with the PCLK cycles it takes. -/
def SolRun.next (r : SolRun) (p : SolPhase) (cyc : Nat) : SolRun := { r with phase := p, cyc := r.cyc + cyc }

/-- Records of the inputs' outcome: a rejected list, duplicate tags, a discarded warm start (R276, R279, R280). -/
def State.solNotes (s : State) (k flags : Nat) (x : SolSlot) (case_ : Nat) : State :=
  let s := if bitsOf flags 7 1 = 1 then s.postC ST.SOL_DELTA 0x1D k else s
  let s := if dupTags (pats x.vtags) ∨ dupTags (pats x.ctags) then s.postC ST.SOL_TAGS 0x1D k else s
  if case_ = 3 then s.postC ST.WARM_DISCARDED 0x1D k else s

/-- Words the manual does not state: the vector of an aborted solve (R278; log entry 4). -/
def freeWords (n k : Nat) : List Word := (List.range k).map fun i => BitVec.ofNat 32 (Config.freeNat (n + i))

/-- A solve abandoned for poison (R278): its result carries `ABORTED`. -/
def State.solAbort (s : State) (st : SolStart) : State :=
  let x := s.slot st.slot
  let v : SolVec := ⟨freeWords s.fresh x.n, freeWords (s.fresh + x.n) x.m, freeWords (s.fresh + x.n + x.m) x.m⟩
  let s := { s with fresh := s.fresh + x.n + 2 * x.m }
  let s := s.poisonBites 0x1D st.slot (x.seq + 1)
  { s with solRun := some { start := st, phase := .finished, best := v, rp := 0x7FC00000#32, rd := 0x7FC00000#32,
                            flags := 2 ^ 2 + 2 ^ 5 + 2 ^ 11, t0 := s.age, cyc := 200 } }

/-- The first phase of a solve whose deltas are in: a refactorisation when one is due, else the first iteration (R275, R282).
`flags` and `cyc` are what the result and the time have so far. -/
def State.solFirst (s : State) (k : Nat) (x : SolSlot) (run : SolRun) : State :=
  { s with solRun := some (if x.pend || x.factor.isNone then run.next .refactor (factCycles (s.regN (R.SOL_SLOT_WF k)))
                           else run.next .iterate (s.slotIter k)) }

/-- The words a warm start reads, when it is taken (R280). -/
def warmWords (x : SolSlot) (r : Option WarmRec) (case_ : Nat) : Nat :=
  if case_ = 1 then 2 * ((r.getD {}).v.x.length + (r.getD {}).v.z.length + x.n + x.m) else 0

/-- The warm start of a solve whose deltas are in the slot (R280). -/
def State.solWarmStart (s : State) (st : SolStart) (x : SolSlot) (flags d : Nat) (r : Option WarmRec) : State :=
  let w := x.warm (s.regN (R.SOL_SLOT_HASH st.slot)) r
  let flags := flags + (if w.2.1 = 3 then 2 ^ 8 else if w.2.1 = 1 then 2 ^ 9 else 0)
  (s.solNotes st.slot flags x w.2.1).solFirst st.slot x
    { start := st, cur := w.1.vec, warm := w.1.vec, flags := flags, carry := w.2.2, t0 := s.age,
      cyc := 200 + 2 * d + warmWords x r w.2.1 }

/-- A solve leaves the queue: deltas, then the warm start, then a refactorisation when one is due (R275 to R282). -/
def State.solBegin (s : State) (st : SolStart) : State :=
  let y := s.solDeltas st.slot
  if y.2.2.2 then s.solAbort st
  else
    let s := { s with solSlots := mset {} s.solSlots st.slot y.1 }
    let s := s.setRegN (R.SOL_SLOT_PARAM st.slot) (y.1.mats.sigma.toNat + y.1.alpha.toNat * 2 ^ 32)
    s.solWarmStart st y.1 y.2.1 y.2.2.1 (s.solWarm st.slot)

/-- SOLVE_DEQUEUE: the engine takes the oldest start from the queue (R281, R282). -/
def execSolveDequeue (s : State) : Host.Outcome State Fault Refusal :=
  match s.solRun, s.solQueue with
  | none, st :: r => ok (({ s with solQueue := r }).solBegin st).showSol
  | _, _ => ok s

/-! ### The end of a solve (R283, R284) -/

/-- T_out of a slot (R282). -/
def State.outCycles (s : State) (k : Nat) : Nat := 256 + recordBytes (s.slot k).n (s.slot k).m / 64

/-- A solve cut short or complete waits for its publication; `cyc` is what still passes. -/
def SolRun.finish (r : SolRun) (flags cyc : Nat) : SolRun := { r with phase := .finished, flags := r.flags + flags, cyc := cyc }

/-- The warm start as the result (R283, first three rows): with its residuals when a valid factor exists. -/
def SolRun.warmResult (r : SolRun) (x : SolSlot) (flags : Nat) : SolRun :=
  let v := r.warm.pat
  let r := { r with best := r.warm, bestK := 0 }
  if x.factor.isSome then
    { r.finish (flags + 2 ^ 2) 0 with rp := BitVec.ofNat 32 (x.primal v), rd := BitVec.ofNat 32 (x.dual v) }
  else { r.finish (flags + 2 ^ 2 + 2 ^ 5) 0 with rp := 0x7FC00000#32, rd := 0x7FC00000#32 }

/-- A solve cut short (R283). -/
def State.solCut (s : State) (r : SolRun) : State :=
  let x := s.slot r.start.slot
  let r' := match r.phase with
    | .refactor => { r.warmResult x (2 ^ 1 + 2 ^ 3 + (if x.pend then 2 ^ 10 else 0)) with refact := 2 }
    | _ => if r.k = 0 then r.warmResult x (2 ^ 1) else r.finish (2 ^ 1) 0
  let s := (s.incReg R.SOL_DEADLINE_CNT).postC ST.SOL_DEADLINE 0x1D r.start.slot
  ({ s with solRun := some r' }).showSol

/-- The payload of a `SOL_RESULT` record (R590): slot, solve, `ITERS_DONE`, refactorisation state (0 none due, 1 done, 2 abandoned, 3
failed), `FLAGS`, `CRC`. The manual names the items and no layout (log entry 8). -/
def solPayload (k seq iters refact flags crc : Nat) : List Byte :=
  leBytes k 1 ++ leBytes seq 4 ++ leBytes iters 1 ++ leBytes refact 1 ++ leBytes flags 4 ++ leBytes crc 4

/-- In a replay, what was recorded of the slot's next solve (R598): `ITERS_DONE`, refactorisation state, and whether a deadline cut it. -/
def State.solMark (s : State) (k : Nat) : Option (Nat × Nat × Bool) :=
  if s.replaying then
    (s.recorder.loaded.find? fun r => decide (r.typ = 9 ∧ numAt r.data 0 1 = k ∧ numAt r.data 1 4 = (s.slot k).seq + 1)).map
      fun r => (numAt r.data 5 1, numAt r.data 6 1, decide (bitsOf (numAt r.data 7 4) 1 1 = 1))
  else none

/-- Whether the running solve's deadline takes effect, when it is recognised `lag` ns late (R39, R42, R283, R598). -/
def State.solDue (s : State) (r : SolRun) (lag : Nat) : Bool :=
  match s.solMark r.start.slot with
  | some (k, f, cut) =>
    cut && (match r.phase with
      | .refactor => decide (f = 2)
      | .iterate => decide (f ≠ 2 ∧ r.k = k)
      | _ => false)
  | none => shortLe (r.start.deadline + lag) s.now

/-- SOL_DEADLINE: device time reaches the running solve's deadline (R283). -/
def execSolDeadline (s : State) : Host.Outcome State Fault Refusal :=
  match s.solRun with
  | some r => if r.phase ≠ .finished ∧ s.solDue r 0 then ok (s.solCut r) else ok s
  | none => ok s

/-- A refactorisation that has ended (R271, R277): the new factor and the staged values come into force, or both are discarded. -/
def State.solFactor (s : State) (r : SolRun) : State :=
  let k := r.start.slot
  let x := s.slot k
  match x.factorise x.staged with
  | some f =>
    let s := s.modSlot k fun x => { x with factor := some f, mats := x.staged, pend := false }
    let s := s.setRegN (R.SOL_SLOT_PARAM k) (x.staged.sigma.toNat + x.alpha.toNat * 2 ^ 32)
    { s with solRun := some ({ r with refact := 1 }.next .iterate (s.slotIter k)) }
  | none =>
    let s := s.modSlot k fun x => { x with staged := x.mats, pend := false }
    let s := s.postC ST.SOL_FACTOR 0x1D k
    let r := { r with refact := 3, flags := r.flags + 2 ^ 4 }
    if x.factor.isSome then { s with solRun := some (r.next .iterate (s.slotIter k)) }
    else { s with solRun := some (r.warmResult x 0) }

/-- REFACTORISATION_DONE: T_fact has passed and no deadline has cut the refactorisation. -/
def execRefactorisationDone (s : State) : Host.Outcome State Fault Refusal :=
  match s.solRun with
  | some r =>
    if r.phase = .refactor ∧ s.phaseOver r ∧ !(s.solDue r 40) then ok (s.solFactor r).showSol else ok s
  | none => ok s

/-- One iteration done (R268): the best iterate changes only for a strictly lower c. -/
def State.solIterate (s : State) (r : SolRun) (f : Factor) : State :=
  let k := r.start.slot
  let x := s.slot k
  let v := x.iterate f r.cur.pat
  let rp := x.primal v
  let rd := x.dual v
  let c := worst rp rd
  let r := { r with cur := v.vec, k := r.k + 1 }
  let r := if r.k = 1 ∨ fpLt (f32 c) (f32 r.bestC.toNat) then
      { r with best := v.vec, bestK := r.k, bestC := BitVec.ofNat 32 c, rp := BitVec.ofNat 32 rp, rd := BitVec.ofNat 32 rd }
    else r
  if s.fld (R.SOL_SLOT_CFG k) 0 8 ≤ r.k then { s with solRun := some (r.finish 1 (r.cyc + s.outCycles k)) }
  else { s with solRun := some (r.next .iterate (s.slotIter k)) }

/-- ITERATION_DONE: T_iter has passed and no deadline has cut the iteration. -/
def execIterationDone (s : State) : Host.Outcome State Fault Refusal :=
  match s.solRun with
  | some r =>
    match (s.slot r.start.slot).factor with
    | some f => if r.phase = .iterate ∧ s.phaseOver r ∧ !(s.solDue r 40) then ok (s.solIterate r f).showSol else ok s
    | none => ok s
  | none => ok s

/-! ### Result records (R286) -/

/-- 32-bit numbers as bytes, filled with zeros to a 64-byte boundary. -/
def wordArray (l : List Word) : List Byte :=
  let b := l.flatMap fun v => leBytes v.toNat 4
  b ++ List.replicate (roundUp b.length 64 - b.length) 0#8

/-- The result record of a solve, with a value in its `CRC` field. -/
def resultBytes (x : SolSlot) (r : SolRun) (hash seq crc : Nat) : List Byte :=
  let head := leBytes r.flags 4 ++ leBytes r.k 1 ++ leBytes r.bestK 1 ++ leBytes 0 2 ++ leBytes r.rp.toNat 4 ++ leBytes r.rd.toNat 4 ++
    leBytes hash 8 ++ leBytes (shortOf r.start.due) 4 ++ leBytes r.carry 4 ++ leBytes x.n 2 ++ leBytes x.m 2 ++
    leBytes seq 4 ++ leBytes crc 4 ++ List.replicate 20 0#8
  head ++ wordArray r.best.x ++ wordArray r.best.z ++ wordArray r.best.y ++ wordArray x.vtags ++ wordArray x.ctags

/-- What a slot keeps of a published solve: the result as warm start, its tags, its number. -/
def SolSlot.keep (x : SolSlot) (r : SolRun) (hash : Nat) : SolSlot :=
  { x with last := some r.best, lastV := x.vtags, lastC := x.ctags, lastHash := BitVec.ofNat 64 hash, seq := x.seq + 1 }

/-- The result is written to the write slot of `OUT_HO` and published (R286, R59), recorded and compared (R590, R599). -/
def State.solPublish (s : State) (r : SolRun) : State :=
  let k := r.start.slot
  let x := s.slot k
  let hash := s.regN (R.SOL_SLOT_HASH k)
  let seq := (x.seq + 1) % 2 ^ 32
  let crc := (crc32c (resultBytes x r hash seq 0)).toNat
  let o := cfgOut (s.regN (R.SOL_SLOT_CFG k))
  let d := (resultBytes x r hash seq crc).take (s.ho o).desc.slotBytes
  let s := if s.hoExists o then s.hubSet 0x034 (slotAddr (s.ho o).desc (s.hoW o)) d false else s
  let s := s.publish 0x034 o (s.hoW o)
  let s := s.modSlot k fun x => x.keep r hash
  let s := s.setRegN (R.SOL_SLOT_LAST k) (r.flags + r.k * 2 ^ 32 + seq % 2 ^ 24 * 2 ^ 40)
  let s := (({ s with solRun := none }).incReg R.SOL_SOLVE_CNT).showSol
  let p := solPayload k seq r.k r.refact r.flags crc
  let s := s.tap 0x09 (some 7) 0x1D k s.now p
  s.replayCheck 0x09 5 p (fun a b => decide (a = b)) (fun a => numAt a 11 4) 0

/-- SOLVE_PUBLISH: the result of a finished solve (R284, R286). -/
def execSolvePublish (s : State) : Host.Outcome State Fault Refusal :=
  match s.solRun with
  | some r => if r.phase = .finished ∧ s.phaseOver r then ok (s.solPublish r) else ok s
  | none => ok s

/-- An engine reset (R287, R515): the running solve and the queue are abandoned, and every slot's factor is invalid. -/
def State.solReset (s : State) : State :=
  let s := { s with solRun := none, solQueue := [] }
  (s.each (List.range 8) fun s k => if s.solLoaded k then s.modSlot k fun x => { x with factor := none } else s).showSol

end Sys2Proof.Machine
end

