-- ==== Sys2Proof/Machine/ResetOps.lean ====
section
/-! DEFINITION. What the rungs of the reset ladder do (R512 to R520): context aborts, block and engine resets, partition and domain resets, the hold after a third reset, and the start of a chip reset. -/

namespace Sys2Proof.Machine

/-! ### Context aborts (R514) -/

/-- The running solve of a slot is abandoned (R514). -/
def State.solDrop (s : State) (k : Nat) : State :=
  match s.solRun with
  | some r => if r.start.slot = k then ({ s with solRun := none }).showSol else s
  | none => s

/-- The starts of a pixel-engine program are abandoned (R514). -/
def State.pixDrop (s : State) (k : Nat) : State := (s.modPixRuns fun l => l.filter fun r => decide (r.prog ≠ k)).showPix

/-- The open step of a pool rolls back (R514, R262). -/
def State.kvDrop (s : State) (p : Nat) : State :=
  match (s.pool p).step with
  | some st => s.kvRollback p st
  | none => s

/-- A context abort in a hub engine: solver slot, control channel, pixel-engine program, pool. -/
def State.engineAbort (s : State) (u sub : Nat) : State :=
  if u = 0x1D then s.solDrop sub else if u = 0x1E then s.ctlAbort sub else if u = 0x18 then s.pixDrop sub
  else if u = 0x21 then s.kvDrop sub else s

/-! ### Engine resets (R515) -/

/-- A lane that has no sealed frame waits for one again. -/
def waitAgain (r : PixRun) : PixRun := { r with cams := r.cams.map fun c => if c.closed then c else { c with slot := none } }

/-- The camera receivers discard open frames (R515). -/
def State.camReset (s : State) : State :=
  let s := s.modPixRuns fun l => l.map waitAgain
  s.each (List.range 64) fun s i => s.modCamStr i fun x => { x with frame := none }

/-- The Ethernet unit discards its queued frames and restarts with its configuration (R515). -/
def State.ethReset (s : State) : State :=
  let s := s.each (List.range 4) fun s p => s.modEth p fun e => { e with queue := [], express := [], dropRun := false }
  { s with ethRsp := [] }

/-- A CAN controller sets `INIT` and keeps its message RAM (R515). -/
def State.canReset (s : State) (n : Nat) : State := (actCanCtrl n s ((s.regN (R.CAN_CTRL n) ||| 1))).1

/-- Every open step rolls back, the directory stays (R515). -/
def State.kvReset (s : State) : State := s.each (List.range 32) State.kvDrop

/-- An engine reset of a unit, of a CAN controller or a Bamset port; a host core restarts at its reset vector, which no state
of the block shows. -/
def State.engineReset (s : State) (u sub : Nat) : State :=
  if u = 0x1D then s.solReset else if u = 0x1E then s.ctlReset
  else if u = 0x18 then ({ s with pixRuns := [] }).showPix
  else if u = 0x21 then s.kvReset else if u = 0x19 then s.camReset else if u = 0x1A then s.ethReset
  else if u = 0x1B then s.canReset (sub % 8) else if u = 0x1C then s.bamPortReset (sub % 6)
  else s

/-- The kinds of object a reset of a unit overtakes (R356). -/
def unitLocks (u : Nat) : List Nat :=
  if u = 0x1D then [8] else if u = 0x1E then [9] else if u = 0x18 then [10] else if u = 0x21 then [6, 7] else []

/-- The commands in progress that act on a unit complete with `ST_MB_RESET` (R356). -/
def State.overtakeUnit (s : State) (u : Nat) (but_ : Option Nat) : State :=
  s.each (distinct ((s.locks.filter fun l => (unitLocks u).contains l.kind && decide (some l.mailbox ≠ but_)).map fun l => l.mailbox))
    fun s n => s.respond n ST.MB_RESET []

/-! ### Domain resets (R517, R571) -/

/-- The domain that a rung 3 of a unit, or of the quad of a hart, power-cycles (R569). -/
def resetDomain (u sub : Nat) : Nat := if u = 0x1F then 3 + sub % 16 / 4 else unitDomain u

/-- The input ports of a unit lost. -/
def State.losePorts (s : State) (u : Nat) : State := { s with ports := mclear s.ports (u * 16) (u * 16 + 16) }

/-- What a domain that has lost its power holds: registers at their reset values and nothing loaded (R517, R571). -/
def State.loseDomain (s : State) (d : Nat) : State :=
  if d = 9 then ({ s with pixProgs := [], pixRuns := [], pixWindow := [] }).resetUnitRegs 0x18
  else if d = 10 then ({ s.camReset with camStrs := [], fsync := [] }).resetUnitRegs 0x19
  else if d = 11 then ({ s with ethPorts := [], ethTables := [], ethRings := [], ethRsp := [] }).resetUnitRegs 0x1A
  else if d = 12 then ({ s with cans := [] }).resetUnitRegs 0x1B
  else if d = 13 then
    ({ s with bamPorts := [], discovery := {}, bamFlags := (false, [], false), remotes := [], mirrors := [], twins := [] }).resetUnitRegs 0x1C
  else if d = 14 then (({ s with solSlots := [], solQueue := [], solRun := none }).losePorts 0x1D).resetUnitRegs 0x1D
  else if d = 15 then
    (({ s with channels := [], ctlInputs := [], testGen := {}, capture := [] }).losePorts 0x1E).resetUnitRegs 0x1E
  else if 3 ≤ d ∧ d ≤ 6 then
    let lo := 4 * (d - 3)
    ({ s with hartKick := mclear s.hartKick lo (lo + 4) }).resetRegs (R.HST_WDOG_CFG lo) (R.HST_WDOG_CFG (lo + 4))
  else s

/-- A domain switches to a state: 0 off, 1 ramping, 2 on, 3 held off (R569, R579); switching off or to ramping counts. -/
def State.setDomain (s : State) (d k : Nat) : State := s.setFld (R.PMU_D_STATUS d) 0 2 k

/-- A domain is switched. -/
def State.switchDomain (s : State) (d k : Nat) : State := (s.setDomain d k).incFld (R.PMU_D_STATUS d) 16 16

/-- A domain reset (R517): the domain loses its power, comes back through ramping, and one record names it. -/
def State.domainReset (s : State) (u sub : Nat) : State :=
  let d := resetDomain u sub
  let s := (s.loseDomain d).switchDomain d 1
  s.postC ST.ERR_DOMAIN_RESET 0x05 d

/-! ### Block and partition resets (R515, R516) -/

/-- The tile logic, router and DMA ports of a tile reset, and its zeroing pass begun. -/
def State.resetTile (s : State) (t : Nat) : State :=
  (s.modTile t fun x => { x with hung := false, flits := [], recvs := [], dmaR := [], dmaW := [], waiting := none }).setTileState t 5

/-- A block reset of a job's rectangle: every running job that holds one of its blocks is aborted; pre-empted ones keep their
save areas. -/
def State.blockReset (s : State) (p j : Nat) : State :=
  let blocks := (s.job p j).blocks
  let hit : List (Nat × Nat) := s.parts.flatMap fun x =>
    (x.2.jobs.filter fun y => decide (y.2.phase ≠ .idle ∧ y.2.phase ≠ .preempted) && y.2.blocks.any blocks.contains).map fun y => (x.1, y.1)
  let s := s.each hit fun s x => s.abortJob x.1 x.2
  s.each (blocksTiles blocks) State.resetTile

/-- The pools of a partition at its reset (R516, R264): an open step that no running copy completes rolls back; a diverged pool's
lost copy has been reset. -/
def State.kvPartReset (s : State) (p : Nat) : State :=
  s.each (List.range 32) fun s k =>
    let q := s.pool k
    if q.partition ≠ p ∧ q.twin ≠ some p then s
    else
      let mine := decide (s.bit (R.KVD_POOL_STEP k) 33) && decide ((if q.lostB then q.twin else some q.partition) = some p)
      let s := if mine || q.step.isSome then s.modPool k fun q => { q with wasReset := true } else s
      match q.step with
      | some st => if q.twin.isNone ∨ st.job.isNone then s.kvRollback k st else s
      | none => s

/-- Every semaphore at 0 and every link credit free (R516). -/
def clearUnits (q : Part) : Part :=
  let sems := (List.range 256).foldl (fun m k => mmod {} m k fun (x : Semaphore) => { x with count := 0 }) q.sems
  let credits := (List.range 64).foldl (fun m k => mmod {} m k fun (x : Credit) => { x with holder := none }) q.credits
  { q with sems := sems, credits := credits }

/-- A partition reset (R516) but for the last step of its list: the generation moves when the reset completes, after the aborts
have been reported. -/
def State.partReset (s : State) (p : Nat) (but_ : Option Nat) : State :=
  let s := s.each (s.jobList p) fun s j => s.abortJob p j
  let s := s.each (blocksTiles (s.partBlocks p)) State.resetTile
  let s := s.modPart p clearUnits
  ((s.kvPartReset p).clearSuspects p).overtake 0 p but_

/-! ### Holding (R520) -/

/-- The key under which resets of a partition or a unit count. -/
def targetKey : Target → Nat
  | .job p _ => p
  | .partition p => p
  | .engine u _ => 32 + u
  | .mailbox _ => 33

/-- The resets of a target in the last 10 s. -/
def State.recentResets (s : State) (k : Nat) : List Nat := (mget [] s.resets k).filter fun t => decide (s.age < t + 10000000000)

/-- A reset at rung 2 or 3 counts (R520, R528). -/
def State.countReset (s : State) (k : Nat) : State :=
  let l := s.recentResets k ++ [s.age]
  let s := { s with resets := mset [] s.resets k l }
  (s.setFld (resetReg k) 0 2 (min 3 l.length)).incFld (resetReg k) 16 16

/-- The control register in which a unit's `EN` stands, when it has one. -/
def unitCtrl (u : Nat) : Option Nat :=
  if u = 0x18 then some R.PIX_CTRL else if u = 0x19 then some R.CAM_CTRL else if u = 0x1A then some R.ETH_CTRL
  else if u = 0x1C then some R.BAM_CTRL else if u = 0x1D then some R.SOL_CTRL else if u = 0x1E then some R.CTL_CTRL
  else if u = 0x21 then some R.KVD_CTRL else none

/-- A target is held after its third reset (R520): one record; a held engine stands with `EN` cleared. -/
def State.holdTarget (s : State) (k : Nat) : State :=
  if s.bit (resetReg k) 4 ∨ (s.recentResets k).length < 3 then s
  else
    let s := s.setBit (resetReg k) 4 true
    if k < 32 then s.post ((mkRec ST.ERR_TARGET_HELD 0x05 0).withPart s k)
    else
      let s := match unitCtrl (k - 32) with | some a => s.setBit a 0 false | none => s
      s.postC ST.ERR_TARGET_HELD 0x05 (k - 32)

/-! ### Chip reset (R518) -/

/-- A chip reset starts with a cause: the state changes to Grey, with its notification, and the reset is applied 2 µs later. A second
cause while one waits changes nothing. -/
def State.startChipReset (s : State) (cause : Nat) : State :=
  if s.chipReset.isSome then s
  else ({ s with chipReset := some (cause, s.age) }).moveTo 0 s.now false

end Sys2Proof.Machine
end

