-- ==== Sys2Proof/Machine/DumpOps.lean ====
section
/-! DEFINITION. Error records as bytes (R489), and the dump (R507 to R511, R613): its sections, their data and times, its layout and its place in the ring. -/

namespace Sys2Proof.Machine

/-- An error record's first 60 bytes (R489). -/
def recHead (r : ErrRecord) : List Byte :=
  leBytes r.time 8 ++ leBytes r.source 1 ++ leBytes (r.sev % 8 + b2n r.retained * 8 + b2n r.superseded * 16) 1 ++
    leBytes r.status.toNat 2 ++ leBytes r.subsource 2 ++
    leBytes (r.partition % 32 + b2n r.partValid * 128 + r.gen % 16 * 256) 2 ++ leBytes r.context 4 ++ leBytes r.rep 4 ++
    leBytes r.address 8 ++ leBytes r.syndrome 16 ++ leBytes r.seq 4 ++ leBytes r.lastShort 4 ++ leBytes 0 4

/-- The 64 bytes of an error record, `CRC` last (R489). -/
def errBytes (r : ErrRecord) : List Byte := recHead r ++ leBytes (crc32c (recHead r)).toNat 4

/-! ### Data of a section (R507, R613) -/

/-- The event a tile waits for, as the tile record shows it (R613): the slot of the `WAIT` is not held and reads 0, the control slot. -/
def waitWord : Option WaitEvent → Nat
  | none => 0
  | some (.internal .weights n) => 1 + n * 256
  | some (.internal .dma n) => 2 + n * 256
  | some (.internal .vector n) => 3 + n * 256
  | some (.internal .flits n) => 4 + n * 256
  | some (.semaphore i) => 5 + i * 256
  | some (.credit i) => 6 + i * 256

/-- A 64-byte tile record (R613). -/
def State.tileRecord (s : State) (t : Nat) : List Byte :=
  leBytes (s.regN (tStatus t)) 8 ++ leBytes (s.regN (tCycle t)) 8 ++ leBytes (s.regN (tExpend t)) 8 ++ leBytes (s.regN (tNum t)) 4 ++
    leBytes (s.regN (tChk t)) 4 ++ leBytes (waitWord (s.tile t).waiting) 4 ++ leBytes t 2 ++ leBytes (s.physCol t) 1 ++
    List.replicate 25 0#8

/-- The registers of a unit's window that differ from reset, each as its offset and its value in 8 bytes (log entry 42). -/
def State.unitData (s : State) (u : Nat) : List Byte :=
  (s.regs.filter fun x => decide (unitBase u ≤ x.1) && decide (x.1 < unitBase u + 0x10000)).flatMap fun x =>
    leBytes (x.1 - unitBase u) 8 ++ leBytes x.2.toNat 8

/-- A handle entry's 16 bytes (R114). -/
def handleBytes (h : Handle) : List Byte :=
  leBytes (h.base + h.rows * 2 ^ 16 + h.cols * 2 ^ 32 + h.stride * 2 ^ 48 + h.cls * 2 ^ 64 + h.partition * 2 ^ 72 +
    h.owner % 2 ^ 32 * 2 ^ 80) 16

/-- The bytes of a section by its kind (R507): 0 a tile record; 1 a partition's semaphore counts and credit holders; 2 its job table;
3 a unit's registers; 4 a tile's handle table, loop table and address-generator contexts; 5 an access table; 6 the state of
the handoff descriptors landing in a partition; 7 its KV pools' registers; 8 the collector's records. The manual gives the lengths
of kinds 0, 1, 2 and of the handle table, and the layout of kind 0 alone; the others are the model's (log entry 42). -/
def State.sectionData (s : State) (x : Section) : List Byte :=
  match x.kind with
  | 0 => s.tileRecord x.subsource
  | 1 =>
    let q := s.part x.subsource
    ((List.range 256).flatMap fun k => leBytes (mget {} q.sems k).count 2) ++
      (List.range 64).flatMap fun k => leBytes (match (mget {} q.credits k).holder with | some j => j + 1 | none => 0) 8
  | 2 => (List.range 64).flatMap fun j => leBytes (s.regN (jobReg x.subsource j)) 8
  | 3 => s.unitData x.unit
  | 4 =>
    let t := s.tile x.subsource
    ((List.range 64).flatMap fun k => handleBytes (mget {} t.handles k)) ++
      (t.loops.flatMap fun y => leBytes y.1 1 ++ leBytes y.2.max 4 ++ leBytes y.2.body 4) ++
      t.ctxs.flatMap fun y => leBytes y.1 1 ++ leBytes y.2.handle 1 ++ leBytes y.2.start 4 ++ leBytes y.2.step 8
  | 5 => (List.range 64).flatMap fun e => accEntryBytes (s.accEntry x.subsource e)
  | 6 =>
    (s.handoffs.filter fun y => decide (y.2.desc.dstKind = 1) && (s.hoParts y.2.desc).contains x.subsource).flatMap fun y =>
      leBytes (s.regN (R.TW_HO_STATE y.1)) 8
  | 7 =>
    ((List.range 32).filter fun k => decide ((s.pool k).partition = x.subsource) || decide ((s.pool k).twin = some x.subsource)).flatMap
      fun k => leBytes (s.regN (R.KVD_POOL_CFG k)) 8 ++ leBytes (s.regN (R.KVD_POOL_STEP k)) 8 ++ leBytes (s.regN (R.KVD_POOL_FREE k)) 8
  | _ => s.collector.flatMap errBytes

/-! ### Which sections a scope has (R507) -/

/-- The tile records of some tiles. -/
def tileSections (l : List Nat) : List Section := l.map fun t => { unit := dieUnit t, subsource := t, kind := 0 }

/-- The tables of the tiles of some blocks. -/
def tableSections (l : List Nat) : List Section := (blocksTiles l).map fun t => { unit := dieUnit t, subsource := t, kind := 4 }

/-- A partition's semaphores, credits and jobs. -/
def accSections (p : Nat) : List Section := [{ unit := 8, subsource := p, kind := 1 }, { unit := 8, subsource := p, kind := 2 }]

/-- What a partition's reset is about to destroy. -/
def State.partSections (s : State) (p : Nat) : List Section :=
  tileSections (blocksTiles (s.partBlocks p)) ++ accSections p ++ tableSections (s.partBlocks p) ++
    [{ unit := 8, subsource := 0x120 + p, kind := 5 }, { unit := 2, subsource := p, kind := 6 }, { unit := 0x21, subsource := p, kind := 7 }]

/-- The units that have registers. -/
def dumpUnits : List Nat :=
  [0, 1, 2, 3, 4, 5, 6, 7, 8, 0x10, 0x11, 0x12, 0x13, 0x18, 0x19, 0x1A, 0x1B, 0x1C, 0x1D, 0x1E, 0x1F, 0x20, 0x21]

/-- The sections of every unit and of every tile in service; a unit whose domain is off is absent. -/
def State.chipSections (s : State) : List Section :=
  let blocks := (List.range 64).filter s.inService
  tileSections (blocksTiles blocks) ++ tableSections blocks ++
    (dumpUnits.map fun u => { unit := u, kind := 3, state := if s.unitOff u then 3 else 0 }) ++ [{ unit := 5, kind := 8 }]

/-- The job that a record of a fabric job names: the descriptor whose instance it carries. -/
def State.jobNamed (s : State) (p inst : Nat) : Option Nat := (List.range 64).find? fun j => decide (s.jobInst p j = inst ∧ s.jobState p j ≠ 0)

/-- The sections of the dump of a record by scope: 0 context, 1 engine, 2 partition, 3 chip. -/
def State.dumpSections (s : State) (r : ErrRecord) (scope : Nat) : List Section :=
  if scope = 3 then s.chipSections
  else if scope = 2 then s.partSections r.partition
  else if r.status = ST.JOB_HANG then
    (match s.jobNamed r.partition r.context with
     | some j => tileSections (s.jobTiles r.partition j)
     | none => []) ++ accSections r.partition
  else [{ unit := r.source, subsource := r.subsource, kind := 3 }]

/-! ### Times (R508, R509) -/

/-- The snapshot path of a section: a die, or the hub die. -/
def pathOf (x : Section) : Nat := if 0x10 ≤ x.unit ∧ x.unit ≤ 0x13 then x.unit - 0x10 else 4

/-- What a section costs its path in 1/32 ns: 1 µs when unreadable, its bytes at 6.4 GB/s when read. -/
def State.sectionCost (s : State) (x : Section) : Nat :=
  if x.state = 1 then 32000 else if x.state = 3 then 0 else 5 * (s.sectionData x).length

/-- When each section is first accessed and finished, in 1/32 ns from the start of the dump: every path begins after 2 µs. -/
def State.sectionTimes (s : State) (l : List Section) : List (Section × Nat × Nat) :=
  (l.foldl (fun (a : List (Section × Nat × Nat) × SMap Nat) x =>
    let t := mget 64000 a.2 (pathOf x)
    let e := t + s.sectionCost x
    (a.1 ++ [(x, t, e)], minsert a.2 (pathOf x) e)) ([], [])).1

/-- How long a dump lasts, in ns (R508). -/
def State.dumpTime (s : State) (l : List Section) : Nat :=
  ((s.sectionTimes l).foldl (fun m x => max m x.2.2) 64000 + 31) / 32

/-- The cap of a scope in ns (R509). -/
def dumpLimit : Nat → Nat
  | 0 => 20000
  | 1 => 50000
  | 2 => 200000
  | _ => 2000000

/-! ### Layout and ring (R511) -/

/-- A section as bytes: its 16-byte header and its data padded to 64; one not finished by the dump's end is cut. -/
def State.sectionBytes (s : State) (start lasted : Nat) (x : Section × Nat × Nat) : List Byte :=
  let state := if x.1.state = 0 ∧ 32 * lasted < x.2.2 then 2 else x.1.state
  let d := if state = 0 then s.sectionData x.1 else []
  leBytes x.1.unit 1 ++ leBytes x.1.subsource 2 ++ leBytes state 1 ++ leBytes d.length 4 ++ leBytes (start + x.2.1 / 32) 8 ++ pad64 d

/-- The sections that fit beside the header in so many bytes. -/
def fitSections : Nat → List (List Byte) → List (List Byte)
  | _, [] => []
  | k, x :: r => if x.length ≤ k then x :: fitSections (k - x.length) r else []

/-- The first 60 bytes of a dump header. -/
def dumpHead (seq recSeq scope : Nat) (cut late : Bool) (sections start ends bytes : Nat) : List Byte :=
  leBytes seq 4 ++ leBytes recSeq 4 ++ leBytes (scope + b2n cut * 4 + b2n late * 8) 2 ++ leBytes sections 2 ++ leBytes start 8 ++
    leBytes ends 8 ++ leBytes bytes 4 ++ List.replicate 28 0#8

/-- A dump as bytes: header, sections, and the CRC over the whole with its own field zero. -/
def dumpBytes (seq recSeq scope : Nat) (cut late : Bool) (start ends : Nat) (l : List (List Byte)) : List Byte :=
  let body := l.flatten
  let head := dumpHead seq recSeq scope cut late l.length start ends (64 + body.length)
  head ++ leBytes (crc32c (head ++ leBytes 0 4 ++ body)).toNat 4 ++ body

/-- Bytes written by the error collector and snapshot path, whose master the table of host DRAM must admit (R28, R343). -/
def State.snapWrite (s : State) (a : Nat) (d : List Byte) : State × Bool :=
  if s.admits 0x039 .write a d.length then (s.store a d false, true) else (s.refuseAccess 0x039 .write a d.length, false)

/-- A dump written into its ring (R511). -/
def State.writeDump (s : State) (d : Dump) (lasted : Nat) (capped : Bool) : State :=
  let size := s.regN R.ERR_DUMP_SIZE * 1024
  let secs := (s.sectionTimes d.sections).map (s.sectionBytes (s.timeOf d.start) lasted)
  let fit := fitSections (size - 64) secs
  let cut := capped || decide (fit.length < secs.length)
  let b := dumpBytes s.dumpSeq.1 d.recSeq d.scope cut false (s.timeOf d.start) (s.timeOf (d.start + lasted)) fit
  let pos := if s.dumpSeq.2 + b.length ≤ size then s.dumpSeq.2 else 0
  let (s, done) := s.snapWrite (s.regN R.ERR_DUMP_BASE + pos) b
  if done then ({ s with dumpSeq := (s.dumpSeq.1 + 1, pos + b.length) }).setRegN R.ERR_DUMP_LAST pos
  else { s with dumpSeq := (s.dumpSeq.1 + 1, s.dumpSeq.2) }

/-- Records of the collector changed. -/
def State.modRecs (s : State) (f : ErrRecord → ErrRecord) : State := { s with collector := s.collector.map f }

/-- The running dump ends: written, and its record goes on; a snapshot readout has paused meanwhile (R588). -/
def State.endDump (s : State) (d : Dump) (lasted : Nat) (capped : Bool) : State :=
  let s := (({ s with dump := none }).writeDump d lasted capped).modFrz fun z =>
    { z with readout := z.readout.map fun t => t + (d.start + lasted - max d.start t) }
  s.modRecs fun r => if r.acting ∧ r.phase = 1 ∧ r.seq = d.recSeq then { r with phase := 2 } else r

/-- A dump of a less severe record cut at once (R498, R509). -/
def State.cutDump (s : State) : State :=
  match s.dump with
  | some d => s.endDump d (s.age - d.start) false
  | none => s

/-- DUMP_DONE: a dump has read its last section within its cap. -/
def execDumpDone (s : State) : Host.Outcome State Fault Refusal :=
  ok (match s.dump with
  | some d =>
    let n := s.dumpTime d.sections
    if n ≤ dumpLimit d.scope ∧ d.start + n ≤ s.age then s.endDump d n false else s
  | none => s)

/-- DUMP_CAP: a dump that still runs at its scope's cap is cut. -/
def execDumpCap (s : State) : Host.Outcome State Fault Refusal :=
  ok (match s.dump with
  | some d =>
    if dumpLimit d.scope < s.dumpTime d.sections ∧ d.start + dumpLimit d.scope ≤ s.age then s.endDump d (dumpLimit d.scope) true else s
  | none => s)

/-- SNAPSHOT_ACCESS_TIMEOUT: an access to a unit's or tile's section gets no answer within 1 µs, and the section is unreadable. -/
def execSnapshotAccessTimeout (u sub : Nat) (s : State) : Host.Outcome State Fault Refusal :=
  ok (match s.dump with
  | some d =>
    let mark := fun (x : Section) => if x.unit = u ∧ x.subsource = sub ∧ x.state = 0 then { x with state := 1 } else x
    { s with dump := some { d with sections := d.sections.map mark } }
  | none => s)

end Sys2Proof.Machine
end

