-- ==== Sys2Proof/Machine/SearchOps.lean ====
section
/-! DEFINITION. The search for the guilty context (R524 to R527, R612): suspects, the conditions of a search, the replay of a suspect on the quarantine partition, and the verdict. -/

namespace Sys2Proof.Machine

/-! ### Suspects -/

/-- Whether two images share a semaphore or a link credit (R334). -/
def sharesUnits (a b : Image) : Bool := a.semaphores.any b.semaphores.contains || a.credits.any b.credits.contains

/-- The jobs of a partition that some of a list share units with, added to it. -/
def State.growGroup (s : State) (p : Nat) (l : List Nat) : List Nat :=
  (s.jobList p).filter fun k => l.contains k || l.any fun j => sharesUnits (s.job p j).image (s.job p k).image

/-- The Sniette group of a job (R334). -/
def State.groupOf (s : State) (p j : Nat) : List Nat := (List.range 64).foldl (fun l _ => s.growGroup p l) [j]

/-- The suspects of a fabric hang in their order (R524): the hung job, then every job running or pre-empted on a block of its
rectangle and every job of its group, by partition and descriptor. -/
def State.suspectsOf (s : State) (p j : Nat) : List (Nat × Nat) :=
  let blocks := (s.job p j).blocks
  let group := s.groupOf p j
  (p, j) :: s.parts.flatMap fun x =>
    (x.2.jobs.filter fun y =>
      decide ((x.1, y.1) ≠ (p, j)) &&
        ((decide (y.2.phase ≠ .idle) && y.2.blocks.any blocks.contains) || (decide (x.1 = p) && group.contains y.1))).map
      fun y => (x.1, y.1)

/-- The active contexts of a hub engine as `CONTEXT` has them (R527, R489). -/
def State.engineContexts (s : State) (u : Nat) : List Nat :=
  if u = 0x1D then (match s.solRun with | some r => [(s.slot r.start.slot).seq + 1] | none => [])
  else if u = 0x1E then ((List.range 8).filter fun c => (s.chan c).pendAt.isSome).map s.chCount
  else if u = 0x18 then s.pixRuns.map fun r => r.prog
  else if u = 0x21 then (List.range 32).filterMap fun p => (s.pool p).step.map fun st => st.number
  else if u = 0x19 then (s.camStrs.filter fun x => x.2.frame.isSome).map fun x => s.fld (R.CAM_STR_STATE x.1) 0 32
  else if u = 0x1C then s.mirrors.map fun x => x.2.seq
  else [0]

/-- The suspects of an arriving record (R524, R527). -/
def State.suspectsFor (s : State) (r : ErrRecord) : List (Nat × Nat) :=
  if r.status = ST.JOB_HANG then
    match s.jobNamed r.partition r.context with
    | some j => s.suspectsOf r.partition j
    | none => []
  else if r.status = ST.ERR_ENGINE_TIMEOUT then (s.engineContexts r.source).map fun c => (c % 2 ^ 32, 0)
  else []

/-! ### Skipping (R612) -/

/-- The syndrome of a skipped search: reason, suspects listed, suspects in all, and the list at so many bits each. -/
def skipSyndrome (reason cap width : Nat) (l : List (Nat × Nat)) : Nat :=
  (enumFrom 0 (l.take cap)).foldl (fun n x => n + (x.2.1 + x.2.2 * 32) % 2 ^ width * 2 ^ (16 + width * x.1))
    (reason + min cap l.length * 16 + min 255 l.length * 256)

/-- A search of a fabric hang is skipped. -/
def State.searchSkip (s : State) (r : ErrRecord) (reason : Nat) : State :=
  s.post { mkRec ST.ERR_SEARCH_SKIPPED 0x05 0 with
    partition := r.partition, partValid := true, gen := s.partGen r.partition, context := r.context
    syndrome := skipSyndrome reason 10 11 r.suspects }

/-- The record of a hub engine's hang that is not searched (R527). -/
def State.engineSkip (s : State) (r : ErrRecord) : State :=
  s.post { mkRec ST.ERR_SEARCH_SKIPPED 0x05 0 with
    context := r.context, syndrome := skipSyndrome 6 3 32 (r.suspects.map fun x => (x.1, 0)) }

/-! ### Conditions (R525) -/

/-- The quarantine partition: named, ready and with no admitted job. -/
def State.quarantine (s : State) : Option Nat :=
  let p := s.fld R.ERR_QUAR 0 5
  if s.bit R.ERR_QUAR 7 ∧ s.partState p = 2 ∧ (s.part p).jobs.isEmpty then some p else none

/-- The first placement of an image in a partition that R99 admits and whose blocks its jobs leave free. -/
def State.quarPlace (s : State) (p : Nat) (i : Image) : Option (List Nat) :=
  ((List.range 64).find? fun b => s.placeFree p i 0 b).map fun b => rectBlocks (blockCol b) (blockRow b) i.width i.height

/-- The first condition of R525 that fails for an image, as R612 numbers them. -/
def State.searchReason (s : State) (i : Image) : Option Nat :=
  if !(s.bit R.ERR_CTRL 2) then some 0
  else
    match s.quarantine with
    | none => some 1
    | some q =>
      if s.regN (R.PMU_P_ALLOC q) < powerShare i * (i.width * i.height) then some 2
      else if (s.quarPlace q i).isNone then some 3
      else if s.fld (R.ACC_P_STATUS q) 13 2 ≠ i.rsCode then some 4
      else if 4 < s.searches.length then some 5
      else none

/-- Whether a suspect can be replayed: its image still stands at its address unchanged, and the recording holds its inputs. -/
def State.canReplay (s : State) (x : Nat × Nat) : Bool :=
  let i := (s.job x.1 x.2).image
  decide (s.jobState x.1 x.2 ≠ 0) && decide (Config.sha384 (s.bytes i.address i.bytes) = i.digest) && s.bit R.REC_STATUS 1

/-! ### Replays (R526) -/

/-- `ERR_STATUS` bits of the searches: one running, and how many wait. -/
def State.showSearch (s : State) : State :=
  (s.setBit R.ERR_STATUS 13 (!s.searches.isEmpty)).setFld R.ERR_STATUS 14 3 (s.searches.length - 1)

/-- A suspect starts on the quarantine partition: its image loaded, admitted as descriptor 0 and launched; nothing that it puts out
goes to a stream or a handoff. -/
def State.replaySuspect (s : State) (q : Nat) (x : Nat × Nat) : State :=
  let i := (s.job x.1 x.2).image
  match s.quarPlace q i with
  | none => s
  | some blocks =>
    let s := s.modPart q fun y => { y with images := minsert y.images 0 i }
    let s := match s.addHandles (s.handlesAt q 0 0 i blocks) with | .inr t => t | .inl _ => s
    (s.admitJob q 0 0 0 0 i blocks).startJob q 0 true

/-- A search comes to its next suspect: those that cannot be replayed are passed over; with none left it ends. -/
def State.nextSuspect (s : State) (x : Search) : State × Search :=
  match s.quarantine, x.suspects.dropWhile fun y => !(s.canReplay y) with
  | some q, y :: r => (s.replaySuspect q y, { x with suspects := y :: r, quar := some q })
  | _, _ => (s, { x with suspects := [], quar := none })

/-- Searches run one at a time: the first of the list, when it stands still, comes to a suspect or leaves. -/
def State.driveSearch (s : State) : Nat → State
  | 0 => s
  | n + 1 =>
    match s.searches with
    | [] => s.showSearch
    | x :: r =>
      if x.quar.isSome then s.showSearch
      else
        match s.nextSuspect x with
        | (s, y) => if y.quar.isSome then ({ s with searches := y :: r }).showSearch else ({ s with searches := r }).driveSearch n

/-- The search of a closed hang record starts, waits or is skipped (R525, R527). The conditions are asked of the hung job's image. -/
def State.startSearch (s : State) (r : ErrRecord) : State :=
  if r.status = ST.ERR_ENGINE_TIMEOUT then s.engineSkip r
  else if r.status = ST.JOB_HANG then
    let i := match r.suspects with | x :: _ => (s.job x.1 x.2).image | [] => {}
    match s.searchReason i with
    | some k => s.searchSkip r k
    | none =>
      let x : Search := { tile := r.subsource, suspects := r.suspects }
      ({ s with searches := s.searches ++ [x] }).driveSearch 5
  else s

/-- The quarantine partition after a replay: its job retired, its image unloaded; a tile that hung is reset. -/
def State.endReplay (s : State) (q : Nat) : State :=
  let s := if (s.job q 0).phase = .idle then s.freeJob q 0
    else
      let blocks := (s.job q 0).blocks
      let s := (s.modJob q 0 fun y => { y with retire := true }).abortJob q 0
      s.each (blocksTiles blocks) State.resetTile
  s.modPart q fun y => { y with images := merase y.images 0 }

/-- A suspect hung again (R526): the record carries its partition, its descriptor and its image hash. -/
def State.guilty (s : State) (x : Nat × Nat) : State :=
  (s.incReg R.ERR_GUILTY_CNT).post
    (({ mkRec ST.ERR_GUILTY 0x05 x.2 with syndrome := (s.job x.1 x.2).image.hash.toNat }).withPart s x.1)

/-- Every suspect is cleared (R526): the record names the die, the row and the physical column of the tile that hung. -/
def State.transientHang (s : State) (t : Nat) : State :=
  (s.incReg R.ERR_TRANSIENT_CNT).post
    { mkRec ST.ERR_TRANSIENT 0x05 0 with syndrome := t / 512 + t / 32 % 16 * 256 + s.physCol t * 65536 }

/-- SUSPECT_REPLAY_END: the replay of the suspect at hand has raised its watchdog, or has retired `END` on every tile. -/
def execSuspectReplayEnd (hung : Bool) (s : State) : Host.Outcome State Fault Refusal :=
  ok (match s.searches with
  | { tile := t, suspects := x :: r, quar := some q } :: rest =>
    let stuck := (s.jobTiles q 0).any fun u => (s.tile u).hung
    if hung then
      if stuck then (({ (s.endReplay q).guilty x with searches := rest }).driveSearch 5) else s
    else if (s.job q 0).phase = .idle then
      let s := s.endReplay q
      if r.isEmpty then ({ s.transientHang t with searches := rest }).driveSearch 5
      else
        let y : Search := { tile := t, suspects := r, quar := none }
        ({ s with searches := y :: rest }).driveSearch 5
    else s
  | _ => s)

end Sys2Proof.Machine
end

