-- ==== Sys2Proof/Machine/Collector.lean ====
section
/-! DEFINITION. The error collector (R489 to R497, R502): arrival of a record, coalescing, overflow, retention, the host interrupt, the error log and `ERR_READ` (R501). -/

namespace Sys2Proof.Machine

/-! ### What the registers show -/

/-- The severity in progress, 0 when no record is. -/
def State.sevInProgress (s : State) : Nat := (s.collector.filter fun r => r.acting).foldl (fun m r => max m r.sev) 0

/-- `ERR_STATUS` bits 12:0: records held, handling, severity in progress. -/
def State.showErr (s : State) : State :=
  let s := s.setFld R.ERR_STATUS 0 9 s.collector.length
  (s.setBit R.ERR_STATUS 9 (s.collector.any fun r => r.acting)).setFld R.ERR_STATUS 10 3 s.sevInProgress

/-! ### Arrival -/

/-- Records identical in the fields of R496. -/
def sameRecord (a b : ErrRecord) : Bool :=
  decide (a.source = b.source ∧ a.status = b.status ∧ a.subsource = b.subsource ∧ a.partition = b.partition ∧
    a.context = b.context ∧ a.address = b.address)

/-- A record that has not been taken: it can absorb another. -/
def isPending (r : ErrRecord) : Bool := !r.acting && decide (r.phase = 0)

/-- The freeze request of an error record (R582), with the sequence number the record has or is about to get. -/
def State.freezeErr (s : State) (enable : Option Nat) (seq : Nat) : State :=
  let t := s.freezeReq 2 enable s.now
  if t.regN R.SNAP_FRZ_PEND ≠ s.regN R.SNAP_FRZ_PEND ∨ s.bit R.SNAP_FRZ_CTRL 2 ≠ t.bit R.SNAP_FRZ_CTRL 2 then
    t.modFrz fun z => { z with cause := seq }
  else t

/-- The sequence number under which an arriving record stands: that of the pending record that absorbs it, or the next. -/
def State.seqOf (s : State) (r : ErrRecord) : Nat :=
  match s.collector.find? fun x => isPending x && sameRecord x r with
  | some x => x.seq
  | none => s.regN R.ERR_NEXT_SEQ

/-- The S4 part of an arrival (R492): Crimson cause 4, the freeze, BOOT_STATUS 0xB in Grey (R538), and the time from which the hold runs; the hold of a
missing kick runs from the watchdog's expiry instead. -/
def State.s4Arrives (s : State) (r : ErrRecord) : State :=
  let s := s.crimson 4 none 0
  let at_ := if r.status = ST.SAFE_KICK_MISSING then s.safety.s4At else some (s.safety.s4At.getD s.age)
  let s := if s.safeState = 0 ∧ s.boot.phase = .done then s.setFld R.CFG_BOOT_STATUS 0 4 0xB else s
  (s.modSafety fun y => { y with s4Seen := true, s4At := at_ }).freezeErr none (s.seqOf r)

/-- What the severity of an arriving record does at once (R491, R492, R582). -/
def State.severityActs (s : State) (r : ErrRecord) : State :=
  if r.sev = 4 then s.s4Arrives r
  else
    let s := if r.sev = 3 then s.amberHold 8 else s
    if s.fld R.SNAP_FRZ_CFG 4 3 ≤ r.sev then s.freezeErr (some 2) (s.seqOf r) else s

/-- The host interrupt of `ERR_CTRL` (R528). -/
def State.errIrq (s : State) (sev : Nat) : State :=
  if s.bit R.ERR_CTRL 3 ∧ s.fld R.ERR_CTRL 8 3 ≤ sev then { s with hostIrq := s.hostIrq ||| (1#64 <<< s.fld R.ERR_CTRL 16 6) } else s

/-- A record of severity S3 or S4 copied to the retention store of 16 entries (R502). -/
def State.retain (s : State) (r : ErrRecord) : State :=
  if r.sev < 3 then s
  else ({ s with retains := s.retains + 1 }).setRegBytes (R.ERR_RETAIN (s.retains % 16)) (errBytes { r with retained := true })

/-- The record as the collector stores it (R489, R490): its time, its sequence number, its suspects. -/
def State.stamped (s : State) (r : ErrRecord) : ErrRecord :=
  { r with
    time := s.now
    lastShort := shortOf s.now
    seq := s.regN R.ERR_NEXT_SEQ
    retained := decide (3 ≤ r.sev)
    suspects := s.suspectsFor r }

/-- A record counted by severity and its interrupt raised. -/
def State.countSev (s : State) (sev : Nat) : State := (s.incReg (R.ERR_CNT_S sev)).errIrq sev

/-- A record stored in an entry of the collector. -/
def State.storeRec (s : State) (r : ErrRecord) : State :=
  let x := s.stamped r
  let s := ({ s with collector := s.collector ++ [x] }).wrapReg R.ERR_NEXT_SEQ
  ((s.countSev r.sev).retain x).showErr

/-- A record coalesced into the pending one identical to it (R496). -/
def State.coalesce (s : State) (r : ErrRecord) : State :=
  let f := fun x => if isPending x ∧ sameRecord x r then { x with rep := min (x.rep + 1) (2 ^ 32 - 1), lastShort := shortOf s.now } else x
  ((s.modRecs f).countSev r.sev)

/-- A record finds the collector full (R493, R497): 256 entries, and one more for the overflow record. -/
def State.collectorFull (s : State) (r : ErrRecord) : Bool :=
  decide (256 ≤ (s.collector.filter fun x => decide (x.status ≠ ST.ERR_FIFO_OVERFLOW)).length ∧ r.status ≠ ST.ERR_FIFO_OVERFLOW)

/-- A record reaches the collector (R490 to R497). -/
def State.recArrive (s : State) (r : ErrRecord) : State :=
  let s := s.severityActs r
  if s.collector.any fun x => isPending x && sameRecord x r then s.coalesce r
  else if s.collectorFull r then s.loseRec
  else s.storeRec r

/-- The first record of a list from a source, and the list without it. -/
def takeFrom (u : Nat) : List ErrRecord → Option (ErrRecord × List ErrRecord)
  | [] => none
  | r :: l =>
    if r.source = u then some (r, l)
    else (takeFrom u l).map fun x => (x.1, r :: x.2)

/-- ERROR_RECORD_ARRIVAL: the oldest record in the posting buffer of a source reaches the collector. -/
def execErrorRecordArrival (u : Nat) (s : State) : Host.Outcome State Fault Refusal :=
  ok (match takeFrom u s.posting with
  | some (r, l) => ({ s with posting := l }).recArrive r
  | none => s)

/-! ### The error log (R501) -/

/-- A record closes: it leaves the collector for the log of the last 4,096 closed records. -/
def State.closeRec (s : State) (r : ErrRecord) (superseded : Bool) : State :=
  let x := { r with acting := false, phase := 0, heldBy := none, superseded := superseded }
  let log := s.errLog ++ [x]
  let log := log.drop (log.length - 4096)
  let s := { s with
    collector := s.collector.filter fun y => decide (y.seq ≠ r.seq)
    errLog := log
    overflowed := s.overflowed && decide (r.status ≠ ST.ERR_FIFO_OVERFLOW) }
  let oldest := match log with | y :: _ => y.seq | [] => 0
  (s.setRegN R.ERR_LOG_OLDEST oldest).showErr

/-- Whether a sequence number stands at or after another, as R39 compares short times. -/
def seqFrom (a b : Nat) : Bool := decide ((a + 2 ^ 32 - b % 2 ^ 32) % 2 ^ 32 < 2 ^ 31)

/-- The records that `ERR_READ` returns from a cursor on, and the next cursor (R501). -/
def State.logRead (s : State) (cursor most : Nat) : Nat × List ErrRecord :=
  let start := match s.errLog with
    | y :: _ => if seqFrom cursor y.seq then cursor else y.seq
    | [] => cursor
  let l := (s.errLog.filter fun r => seqFrom r.seq start).take most
  match l.getLast? with
  | some r => ((r.seq + 1) % 2 ^ 32, l)
  | none => (start, [])

/-- ERR_READ: logged records from a cursor. -/
def execErrRead (n : Nat) (s : State) : Host.Outcome State Fault Refusal :=
  ok (s.runCmd n 0x0006 true fun s =>
    let x := s.logRead (s.arg n 0) (s.arg n 1)
    giving s (leBytes x.1 4 ++ leBytes x.2.length 1 ++ (if x.2.isEmpty then [] else List.replicate 11 0#8) ++ x.2.flatMap errBytes))

end Sys2Proof.Machine
end

