-- ==== Sys2Proof/Machine/Caps.lean ====
section
/-! DEFINITION. The capability descriptor (R370), the version report (R372), and the commands that ask for them or administer mailboxes (R364, R366). -/

namespace Sys2Proof.Machine

/-- Whether `REPAIR_LOCK` is set on every die (R95). -/
def State.repairLocked (s : State) : Bool := (List.range 4).all fun d => s.bit (R.CD_CTRL d) 0

/-- `GRADE_STR`, 8 bytes (R1, R370). -/
def gradeStr (g : Nat) : List Byte := [0x32#8, 0x30#8, 0x34#8, 0x38#8, 0x2D#8, 0x41#8, if g = 1 then 0x4C#8 else 0x51#8, 0#8]

/-- The fields of the descriptor up to bit 415. -/
def State.capLow (s : State) : List Byte :=
  let p := s.boot.part
  leBytes 1 2 ++ leBytes p.grade 1 ++ leBytes p.stepping 1 ++ gradeStr p.grade ++ leBytes s.tileCount 2 ++
    leBytes (s.tileCount / 32) 1 ++ leBytes s.safeState 1 ++ leBytes s.serviceMask 8 ++ leBytes p.unitMask 8 ++
    leBytes p.camMask 2 ++ leBytes p.bamMask 1 ++ leBytes (p.ethMask % 16) 1 ++ leBytes 0xFF 1 ++ leBytes 0xFF 1 ++ leBytes 0xF 1 ++
    leBytes (if p.grade = 1 then 0 else 8) 1 ++ leBytes 8 1 ++ leBytes 32 1 ++ leBytes 16 1 ++ leBytes 8 1 ++ leBytes 1024 2 ++
    leBytes 0 2 ++ leBytes 65536 4

/-- The fields from bit 416 on, up to the CRC. -/
def State.capHigh (s : State) : List Byte :=
  leBytes 16 1 ++ leBytes s.boot.manifest.lockstep 1 ++ leBytes 0 2 ++ leBytes (32 * s.tileCount) 4 ++ leBytes 16384 4 ++
    leBytes 1800000 4 ++ leBytes s.boot.manifest.ssc 1 ++ leBytes 0 3 ++ leBytes 550000 4 ++ leBytes (s.regN R.PMU_FABRIC_LIMIT) 4 ++
    leBytes (s.fld R.BAM_STATUS 0 7) 1 ++ leBytes 0 7 ++ leBytes s.boot.env.fingerprint 8 ++ leBytes (s.regN R.SUP_START_ID) 4 ++
    List.replicate 136 0#8

/-- The capability descriptor, 240 bytes with the CRC of its first 236 (R370). -/
def State.capBytes (s : State) : List Byte :=
  let b := s.capLow ++ s.capHigh
  b ++ leBytes (crc32c b).toNat 4

/-- The place of an object type among the rollback counters (R544). -/
def counterIdx (t : Nat) : Nat := ([2, 3, 4, 5, 6, 8, 9, 12].findIdx? fun x => decide (x = t)).getD 8

/-- A rollback counter as read at this start. -/
def State.counterOf (s : State) (t : Nat) : Nat := s.boot.counters.getD (counterIdx t) 0

/-- The running object of a type. -/
def State.objOf (s : State) (t : Nat) : Option BootObj := s.boot.objs.find? fun o => decide (o.typ = t)

/-- One entry of the version report (R372). -/
def verEntry (id source version build token counter : Nat) : List Byte :=
  leBytes id 1 ++ leBytes source 1 ++ leBytes version 6 ++ leBytes build 4 ++ leBytes token 4 ++ leBytes counter 4 ++ leBytes 0 4

/-- The entry of a component: 0 the stepping, 1 the boot ROM, 2 to 6 the objects of those types. -/
def State.verOf (s : State) (k : Nat) : List Byte :=
  let e := s.boot.env
  if k = 0 then verEntry 0 0 e.silicon 0 e.siliconToken 0
  else if k = 1 then verEntry 1 0 e.romVersion e.romBuild e.romToken 0
  else
    let o := (s.objOf k).getD {}
    verEntry k (if s.boot.slotB then 2 else 1) o.version o.build o.token (s.counterOf k)

/-- The version report (R372). -/
def State.verBytes (s : State) : List Byte :=
  let bad := if s.boot.comboBad then ST.FW_UNTESTED_COMBO.toNat else 0
  leBytes 7 1 ++ leBytes s.boot.comboA 1 ++ leBytes s.boot.comboB 1 ++ leBytes 0 1 ++ leBytes bad 2 ++ leBytes 0 10 ++
    (List.range 7).flatMap s.verOf

/-- NOP: completes without effect. -/
def execNop (n : Nat) (s : State) : Host.Outcome State Fault Refusal := ok (s.runCmd n 0x0000 true okay)

/-- CAP_GET: the capability descriptor, once the repair is locked (R370). -/
def execCapGet (n : Nat) (s : State) : Host.Outcome State Fault Refusal :=
  ok (s.runCmd n 0x0001 true fun s => if s.repairLocked then giving s s.capBytes else denied s ST.SUP_NOT_READY)

/-- VER_GET: the version report (R372). -/
def execVerGet (n : Nat) (s : State) : Host.Outcome State Fault Refusal := ok (s.runCmd n 0x0002 true fun s => giving s s.verBytes)

/-- The code that refuses an assignment (R366). -/
def State.assignRefusal (s : State) (n k rights scope : Nat) : Option Status :=
  let has := fun v m => decide (v ||| m = m)
  if k = 0 ∨ k = n then some ST.MB_ARG
  else if !(has rights (s.regN (R.SUP_MB_RIGHTS n))) ∨ !(has scope (s.regN (R.SUP_MB_SCOPE n))) then some ST.MB_RIGHTS
  else if s.bit (R.SUP_MB_STATE k) 0 then some ST.MB_OBJECT_BUSY
  else none

/-- MB_ASSIGN: a mailbox gets its owner, rights and scope (R366); table 0x001 entry 1 + n follows them. -/
def execMbAssign (n : Nat) (s : State) : Host.Outcome State Fault Refusal :=
  ok (s.runCmd n 0x0003 true fun s =>
    let k := s.arg n 0
    let rights := s.arg n 3
    let scope := s.arg n 4
    match s.assignRefusal n k rights scope with
    | some c => denied s c
    | none =>
      let s := s.setRegN (R.SUP_MB_OWNER k) (s.arg n 1 + s.arg n 2 * 2 ^ 16)
      let s := (s.setRegN (R.SUP_MB_RIGHTS k) rights).setRegN (R.SUP_MB_SCOPE k) scope
      okay (s.setBit (R.SUP_MB_STATE k) 1 (decide (rights ≠ 0 ∧ scope ≠ 0))))

end Sys2Proof.Machine
end

