-- ==== Sys2Proof/Machine/Boot.lean ====
section
/-! DEFINITION. Boot, identity and firmware integrity (R531 to R552): the attempt with its verifications and failures, the start-time repair of R93, the steps of R540, confirmation, attestation and the TRNG. -/

namespace Sys2Proof.Machine

/-- The boot structure changed. -/
def State.modBoot (s : State) (f : Boot → Boot) : State := { s with boot := f s.boot }

/-- `BOOT_STATUS` shows a code (R538). -/
def State.showBoot (s : State) (k : Nat) : State := s.setFld R.CFG_BOOT_STATUS 0 4 k

/-! ### Failed attempts (R535, R536, R539) -/

/-- Failed attempts since confirmation. -/
def State.attempts (s : State) : Nat := s.fld R.CFG_BOOT_ATTEMPTS 0 16

/-- The backoff before attempt `n` in ms (R536). -/
def backoffMs (n : Nat) : Nat := min (16 * 2 ^ (min n 16 - 1)) 1000

/-- The payload of a boot beacon (R539). -/
def State.beaconBytes (s : State) (attempt code typ backoff : Nat) : List Byte :=
  let e := s.boot.env
  let b := leBytes 0x4242 2 ++ leBytes 1 1 ++ leBytes (s.fld R.CFG_BOOT_STATUS 0 4) 1 ++ leBytes (b2n s.boot.slotB) 1 ++ leBytes typ 1 ++
    leBytes attempt 2 ++ leBytes code 2 ++ leBytes backoff 2 ++ leBytes 0 4 ++
    leBytes (if s.boot.identity then e.fingerprint else 0) 8 ++ leBytes e.romVersion 4 ++ leBytes e.silicon 1 ++ List.replicate 31 0#8
  b ++ leBytes (crc32c b).toNat 4

/-- The boot beacon on Ethernet port 0 (R539); strap value 3 sends none. -/
def State.beacon (s : State) (attempt code typ backoff : Nat) : State :=
  if s.boot.env.ethStrap = 3 then s
  else
    let head := List.replicate 6 0xFF#8 ++ [0x02#8] ++ leBytes s.boot.env.fingerprint 5 ++ [0x88#8, 0xB5#8]
    s.modEth 0 fun e => { e with sent := head ++ s.beaconBytes attempt code typ backoff }

/-- A failed attempt counted, with its code, object type and slot, and one record in the retention store (R535, R537, R554). -/
def State.countFail (s : State) (c : Status) (typ : Nat) (slotB : Bool) : State :=
  let s := s.retain { mkRec c 0x04 0 with time := s.now, lastShort := shortOf s.now }
  (s.incFld R.CFG_BOOT_ATTEMPTS 0 16).setRegN R.CFG_BOOT_LAST_FAIL (c.toNat + typ * 2 ^ 16 + b2n slotB * 2 ^ 24)

/-- An attempt fails: its record, the count, 0xC, the beacon, and the backoff. -/
def State.failAttempt (s : State) (c : Status) (typ : Nat) : State :=
  let n := s.attempts
  let s := (s.countFail c typ s.boot.slotB).showBoot 0xC
  let s := s.beacon n c.toNat typ (backoffMs s.attempts)
  s.modBoot fun b => { b with phase := .backoff, since := s.age }

/-! ### Verification (R533, R534, R542 to R546) -/

/-- The slot of the attempt. -/
def State.bootSlot (s : State) : FlashSlot := if s.boot.slotB then s.boot.env.slotB else s.boot.env.slotA

/-- The object of a type in a slot. -/
def slotObj (f : FlashSlot) (t : Nat) : Option BootObj := f.objs.find? fun o => decide (o.typ = t)

/-- The code with which an object fails R533, or R546 under the counters given. -/
def objCheck (f : FlashSlot) (counters : List Nat) (t : Nat) : Option (Status × Nat) :=
  match slotObj f t with
  | none => some (ST.BOOT_FORMAT, t)
  | some o => if !o.sigOk then some (ST.BOOT_SIG, t) else if o.svn < counters.getD (counterIdx t) 0 then some (ST.BOOT_ROLLBACK, t) else none

/-- The mask of R17: 16 blocks, four on each die, each with its counterpart on the paired die. -/
def oosPattern (m : Nat) : Bool :=
  let die := fun d => bitsOf m (16 * d) 16
  ((List.range 4).all fun d => decide (((List.range 16).filter fun j => decide (die d / 2 ^ j % 2 = 1)).length = 4)) &&
    decide (die 0 = die 2 ∧ die 1 = die 3)

/-- Whether a verified part record fits this part (R542). -/
def partFits (e : BootEnv) (o : BootObj) (p : PartRecord) : Bool :=
  o.bound && decide (p.stepping = e.silicon) && (if p.grade = 1 then oosPattern p.oosMask else decide (p.oosMask = 0)) &&
    decide (p.unitMask / 2 ^ 0x1D % 2 = 0 ↔ p.grade = 1)

/-- Steps 4 to 6 of R540: directory, part record and manifest; the code and object type of the first failure. -/
def romCheck (e : BootEnv) (f : FlashSlot) : Option (Status × Nat) :=
  if !f.readable then some (ST.BOOT_FLASH, 0)
  else if !f.dirOk then some (ST.BOOT_FORMAT, 0)
  else
    match [2, 3, 4, 5, 6, 8].find? fun t => (slotObj f t).isNone with
    | some t => some (ST.BOOT_FORMAT, t)
    | none =>
      match objCheck f [] 2 with
      | some x => some x
      | none =>
        if !(partFits e ((slotObj f 2).getD {}) f.part) then some (ST.BOOT_PART_RECORD, 2)
        else
          match objCheck f [] 8 with
          | some x => some x
          | none => if f.manifest.bound then none else some (ST.BOOT_MANIFEST, 8)

/-- The rollback store as it comes from the eMMC (R544, R545): its counters and revocation mask, none when unusable. -/
def storeOf (m : Manifest) (b : RpmbBlock) : Option (List Nat × Nat) :=
  if b.programmed then (if b.authentic then some (b.counters, b.rootMask) else none)
  else if m.rpmbInit ∧ m.bindNamed then some (List.replicate 8 0, 0) else none

/-- Steps 7, 8, 10 and 14 of R540: rollback, supervisor firmware, the other firmware, and the host payload, required or present. -/
def firmCheck (f : FlashSlot) (counters : List Nat) (rootMask : Nat) : Option (Status × Nat) :=
  if rootMask / 2 ^ f.part.vendorRoot % 2 = 1 then some (ST.BOOT_ROLLBACK, 2)
  else
    match ([2, 8, 3, 4, 5, 6].filterMap (objCheck f counters)).head? with
    | some x => some x
    | none => if f.manifest.payloadReq then objCheck f counters 9 else none

/-! ### Repair (R93, R95) -/

/-- The block that holds row `r` and column `c` of a die. -/
def repairBlock (d r c : Nat) : Nat := 16 * d + 4 * (r / 4) + c / 8

/-- A block taken out of service with a cause, and its record; one already out stays as it is. -/
def State.takeBlock (s : State) (b cause : Nat) (r : Option ErrRecord) : State :=
  if !(s.inService b) then s
  else
    let s := (s.setBit (R.CD_BLOCK_OOS (b / 16)) (b % 16) true).setFld (R.CD_OOS_CAUSE (b / 16)) (2 * (b % 16)) 2 cause
    match r with | some x => s.post x | none => s

/-- Step 1: the blocks that the part record lists. -/
def State.repairListed (s : State) : State :=
  s.each ((List.range 64).filter fun b => decide (s.boot.part.oosMask / 2 ^ b % 2 = 1)) fun s b => s.takeBlock b 1 none

/-- Step 2: a failed crossing link takes the block at its end on the higher-numbered die. -/
def State.repairLink (s : State) (x : Nat × Bool × Nat) : State :=
  let (d, south, i) := x
  let s := s.setBit (R.CD_XLINK_FAIL d) (if south then 16 + i else i) true
  let b := if south then repairBlock (d + 2) 0 i else repairBlock (d + 1) i 0
  s.takeBlock b 3 (some { mkRec ST.REPAIR_XLINK (0x10 + b / 16) b with syndrome := b2n south + i * 256 })

/-- Step 3 for one row: the shift point, and the blocks that its spare cannot save. -/
def State.repairRow (s : State) (d r : Nat) : State :=
  let fails := (List.range 33).filter fun p => s.boot.env.failTiles.contains (d, r, p)
  let mask := fails.foldl (fun m p => m + 2 ^ p) 0
  let s := s.setFld (R.CD_ROW_MAP d r) 0 33 mask
  match fails.find? fun p => decide (p ≤ 31) && s.inService (repairBlock d r p) with
  | none => s.setFld (R.CD_ROW_MAP d r) 40 6 33
  | some f =>
    let s := s.setFld (R.CD_ROW_MAP d r) 40 6 f
    let s := s.each (fails.filter fun p => decide (f < p)) fun s p =>
      let b := repairBlock d r (p - 1)
      s.takeBlock b 2 (some { mkRec ST.REPAIR_BLOCK_LOST (0x10 + d) b with syndrome := r + p * 256 })
    s.post { mkRec ST.REPAIR_SPARE_USED (0x10 + d) r with syndrome := f + mask * 256 }

/-- The repair map of every die, then `REPAIR_LOCK` (R93, R95); the tiles of blocks out of service read state 6 (R96). -/
def State.repair (s : State) : State :=
  let s := s.repairListed.each s.boot.env.failXlinks State.repairLink
  let s := s.each (List.range 4) fun s d => s.each (List.range 16) fun s r => s.repairRow d r
  let s := s.each s.boot.env.maxDelay fun s x => s.setFld (R.CD_XLINK_MAXDLY (x.1 % 4)) 0 5 x.2
  let s := s.each (List.range 4) fun s d => s.setBit (R.CD_CTRL d) 0 true
  s.each (blocksTiles ((List.range 64).filter fun b => !(s.inService b))) fun s t => s.setTileState t 6

/-- Checker injection (R472, R473): the classes proven, and one record for every checker of a class that cannot be spared. -/
def State.inject (s : State) : State :=
  let e := s.boot.env
  let proven := (List.range 16).foldl (fun m k =>
    if (if k < 8 then e.tileClasses.getLsbD k else e.failCheckers.any fun x => decide (x.1 = k)) then m else m + 2 ^ k) 0
  let s := s.setRegN R.CFG_INJ_RESULT (proven + 2 ^ 31)
  let bad := e.failCheckers.filter fun x => decide (8 ≤ x.1 ∧ x.1 < 16)
  let s := s.each bad fun s x => s.post { mkRec ST.SAFE_CHECKER_FAIL 0x00 x.1 with syndrome := x.2 }
  s.modSafety fun y => { y with notProven := !bad.isEmpty }

/-! ### Compatibility (R548) -/

/-- The token of a component: the stepping, the boot ROM, the objects of types 2 to 6. -/
def State.tokenOf (s : State) (k : Nat) : Nat :=
  if k = 0 then s.boot.env.siliconToken else if k = 1 then s.boot.env.romToken else ((s.objOf k).getD {}).token

/-- Whether a pair of components is tested. -/
def State.tested (s : State) (i j : Nat) : Bool :=
  ((s.objOf j).getD {}).compat.contains (i, s.tokenOf i) || (decide (2 ≤ i) && ((s.objOf i).getD {}).compat.contains (j, s.tokenOf j))

/-- The first untested pair. -/
def State.untested (s : State) : Option (Nat × Nat) :=
  ((List.range 7).flatMap fun i => ((List.range 7).filter fun j => decide (i < j ∧ (i, j) ≠ (0, 1))).map fun j => (i, j)).find?
    fun x => !(s.tested x.1 x.2)

/-- The token check: the version report's pair and one record, or the pass that R444 asks for. -/
def State.compatible (s : State) : State :=
  match s.untested with
  | none => s.modBoot fun b => { b with comboOk := true }
  | some (i, j) =>
    let syn := i + j * 256 + s.tokenOf i * 2 ^ 32 + s.tokenOf j * 2 ^ 64
    (s.modBoot fun b => { b with comboA := i, comboB := j, comboBad := true }).post { mkRec ST.FW_UNTESTED_COMBO 0x04 0 with syndrome := syn }

/-! ### The steps of R540 -/

/-- Steps 4 to 6: the slot is chosen (R536), its part record and manifest are verified and applied. -/
def State.romSteps (s : State) : State :=
  let slotB := s.bit R.CFG_BOOT_ATTEMPTS 16 != decide (s.attempts % 2 = 1)
  let s := s.modBoot fun b => { b with phase := .waiting, slotB := slotB, since := s.age }
  let s := s.setBit R.CFG_BOOT_STATUS 4 slotB
  let f := s.bootSlot
  if !s.boot.identity then s.failAttempt ST.BOOT_PUF 0
  else
    match romCheck s.boot.env f with
    | some (c, t) => s.failAttempt c t
    | none =>
      let s := s.setPieces R.SEC_OWNER_HASH ((List.range 6).map fun k => f.manifest.ownerHash.toNat / 2 ^ (64 * k) % 2 ^ 64)
      (s.modBoot fun b => { b with part := f.part, partOk := true, manifest := f.manifest }).showBoot 4

/-- The bytes of host DRAM that step 9 zeroes (R541): all but the keep window, which only a power-up zeroes. -/
def State.zeroHost (s : State) : State :=
  let top := hostBase + 0x400000000
  let lo := s.boot.manifest.keepBase
  let hi := lo + s.boot.manifest.keepSize
  if s.fld R.ERR_RESET_CAUSE 0 4 = 0 ∨ lo < hostBase ∨ top < hi then s.zero hostBase top else (s.zero hostBase lo).zero hi top

/-- Every compute DRAM channel and scratchpad of the blocks in service zeroed (R19, R118). -/
def State.zeroFabric (s : State) : State :=
  s.each (blocksTiles ((List.range 64).filter s.inService)) fun s t =>
    (s.zero (dramAddr t 0) (dramAddr t 0x2000000)).zero (spadAddr t 0) (spadAddr t 0x100000)

/-- Step 8: the supervisor starts with its `START_ID`, mailbox 0 has the manifest's owner (R543), and service rounds begin at the next
multiple of 4 µs (R357, R38). -/
def State.startSup (s : State) : State :=
  let m := s.boot.manifest
  let s := s.setRegN R.SUP_START_ID (1 + (Config.trng s.fresh).toNat % (2 ^ 32 - 1))
  let s := { s with fresh := s.fresh + 1, roundNext := (s.now + 3999) / 4000 * 4000 }
  let owner := if m.mb0Owner = 0 then 0x100 else m.mb0Owner
  let mask := if m.mb0Mask = 0 then 0x3FF else m.mb0Mask
  let s := s.setRegN (R.SUP_MB_OWNER 0) (owner + mask * 2 ^ 16)
  let s := s.setRegN R.CFG_BOOT_CONFIRM (if m.confirmMs = 0 then 10000 else m.confirmMs)
  (s.showBoot 6).beacon s.attempts 0 0 0

/-- Step 9: compute and engine domains released (R569); the solver's is held off on the AL grade. -/
def State.releaseDomains (s : State) : State :=
  s.each [3, 4, 5, 6, 7, 9, 10, 11, 12, 13, 14, 15, 16, 17, 18, 19, 20, 21, 22, 23] fun s d =>
    if d = 14 ∧ s.boot.part.grade = 1 then s.setDomain d 3
    else (s.switchDomain d 2).setBit (R.PMU_D_CTRL d) 0 true

/-- Step 11: the owner key blob (R547). -/
def State.unwrapKeys (s : State) : State :=
  match s.boot.env.keyBlob with
  | some (svn, slots) =>
    if svn < s.counterOf 12 then s.postC ST.SEC_KEYBLOB 0x04 0
    else
      let s := s.each (slots.filter fun k => decide (4 ≤ k ∧ k < 16)) fun s k =>
        (s.setRegN (R.SEC_KEY_INFO k) 9).setBit R.SEC_STATUS (16 + k) true
      s.setBit R.SEC_STATUS 2 true
  | none => s.postC ST.SEC_KEYBLOB 0x04 0

/-- Step 14: the verified host payload stands in host DRAM, and hart 0 is released. -/
def State.startHost (s : State) : State :=
  match s.objOf 9 with
  | some o => { s.store o.load o.body false with harts := 1#16 }
  | none => s

/-- Step 13 shows why the device stays Grey, when it must. -/
def State.showGrey (s : State) : State :=
  s.showBoot (if s.boot.comboBad then 0xA else if s.safety.notProven || s.safety.s4Seen then 0xB else 9)

/-- The objects that run: those of the slot, the payload only when it verifies. -/
def runningObjs (f : FlashSlot) (counters : List Nat) : List BootObj :=
  f.objs.filter fun o => decide (o.typ ≠ 9) || (objCheck f counters 9).isNone

/-- Steps 8 to 14 once every required object is verified. -/
def State.supSteps (s : State) : State :=
  let s := s.startSup.releaseDomains.zeroHost
  let s := s.compatible.unwrapKeys.inject.repair
  let s := (s.zeroFabric.modBoot fun b => { b with phase := .done }).showGrey
  s.startHost.leaveGrey

/-- Steps 7 to 14: the attempt goes on when the eMMC has answered and the TRNG gives output. -/
def State.bootGo (s : State) : State :=
  match s.boot.emmc with
  | none => s
  | some blk =>
    if s.boot.phase ≠ .waiting ∨ s.trng then s
    else
      match storeOf s.boot.manifest blk with
      | none => s.failAttempt ST.BOOT_RPMB 0
      | some (counters, mask) =>
        let f := s.bootSlot
        match firmCheck f counters mask with
        | some (c, t) => s.failAttempt c t
        | none =>
          let s := s.setRegN R.SEC_ROOT (f.part.vendorRoot % 4 + mask % 16 * 16)
          (s.modBoot fun b => { b with counters := counters, rootMask := mask, objs := runningObjs f counters }).supSteps

/-- A chip reset came before the boot was confirmed: that attempt has failed (R535). -/
def State.notConfirmed (s : State) : State :=
  match s.boot.cut with
  | some slotB => (s.countFail ST.BOOT_NOT_CONFIRMED 0 slotB).modBoot fun b => { b with cut := none }
  | none => s

/-- Steps 1 to 3: device time starts (R38), the TRNG runs, the PUF gives the identity (R542). -/
def State.firstSteps (s : State) (env : BootEnv) : State :=
  let s := (s.setBit R.TW_CTRL 0 true).showBoot 1
  let s := s.setBit R.CFG_BOOT_ATTEMPTS 16 env.preferB
  let s := (s.modBoot fun b => { b with env := env, identity := env.pufOk }).setBit R.SEC_STATUS 0 true
  if !env.pufOk then s
  else
    let s := (s.setRegN R.SEC_FINGERPRINT env.fingerprint).setBit R.SEC_STATUS 1 true
    s.each [0, 1, 2] fun s k => (s.setRegN (R.SEC_KEY_INFO k) (1 + 2 * k)).setBit R.SEC_STATUS (16 + k) true

/-- BOOT_START: reset is released and the boot ROM starts. -/
def execBootStart (env : BootEnv) (s : State) : Host.Outcome State Fault Refusal :=
  ok (if s.boot.phase = .held ∧ s.power.phase = .up then (s.firstSteps env).notConfirmed.romSteps.bootGo else s)

/-- EMMC_READY: the eMMC answers with its rollback block. -/
def execEmmcReady (blk : RpmbBlock) (s : State) : Host.Outcome State Fault Refusal :=
  ok (if s.boot.phase = .waiting ∨ s.boot.phase = .backoff then (s.modBoot fun b => { b with emmc := some blk }).bootGo else s)

/-- EMMC_TIMEOUT: the eMMC has not answered within 1 s (R544). -/
def execEmmcTimeout (s : State) : Host.Outcome State Fault Refusal :=
  ok (if s.boot.phase = .waiting ∧ s.boot.emmc.isNone ∧ s.boot.since + 1000000000 ≤ s.age then s.failAttempt ST.BOOT_RPMB 0 else s)

/-- BOOT_TRNG_TIMEOUT: the TRNG still fails 100 ms after step 2 (R552). -/
def execBootTrngTimeout (s : State) : Host.Outcome State Fault Refusal :=
  ok (if s.boot.phase = .waiting ∧ s.trng ∧ 100000000 ≤ s.age then s.failAttempt ST.SEC_TRNG 0 else s)

/-- BOOT_ATTEMPT: the backoff has passed and the next attempt begins at step 4 (R536). -/
def execBootAttempt (s : State) : Host.Outcome State Fault Refusal :=
  ok (if s.boot.phase = .backoff ∧ s.boot.since + ms (backoffMs s.attempts) ≤ s.age then s.romSteps.bootGo else s)

/-- The counters raised to the running objects' `SVN` (R546). -/
def State.raised (s : State) : List Nat :=
  (List.range 8).map fun k =>
    let t := [2, 3, 4, 5, 6, 8, 9, 12].getD k 0
    let v := if t = 12 then (match s.boot.env.keyBlob with | some (n, _) => n | none => 0) else ((s.objOf t).getD {}).svn
    max v (s.boot.counters.getD k 0)

/-- A boot is confirmed (R537): count, boot control blocks, counters, record. -/
def State.confirm (s : State) : State :=
  let s := (s.setFld R.CFG_BOOT_ATTEMPTS 0 16 0).setBit R.CFG_BOOT_ATTEMPTS 16 s.boot.slotB
  let c := s.raised
  let m := s.boot.rootMask ||| s.boot.part.revoked
  let s := s.modBoot fun b =>
    { b with env := { b.env with preferB := b.slotB }, counters := c, rootMask := m, emmc := some { counters := c, rootMask := m } }
  (s.setFld R.SEC_ROOT 4 4 m).setBit R.CFG_BOOT_STATUS 5 true |>.postC ST.BOOT_CONFIRMED 0x04 0

/-- BOOT_CONFIRMED: the safety state has been outside Grey for `CFG_BOOT_CONFIRM`. -/
def execBootConfirmed (s : State) : Host.Outcome State Fault Refusal :=
  ok (match s.safety.outside with
  | some t =>
    if s.boot.phase = .done ∧ !(s.bit R.CFG_BOOT_STATUS 5) ∧ t + ms (s.regN R.CFG_BOOT_CONFIRM) ≤ s.age then s.confirm else s
  | none => s)

/-! ### Attestation (R549, R550) -/

/-- A write of `CFG_ATT_CTRL`: `GO` requests a report (R549). -/
def actAttest (s : State) (v : Nat) : State × Option Status :=
  if v % 2 = 0 then accept s
  else
    let a := s.regN R.CFG_ATT_ADDR
    let m := s.boot.manifest
    if s.bit R.CFG_ATT_CTRL 1 ∨ a < m.attBase ∨ m.attBase + m.attSize < a + 37072 then
      accept (s.setFld R.CFG_ATT_CTRL 16 16 ST.ATT_REQ.toNat)
    else accept ({ s with attest := some s.now }.setBit R.CFG_ATT_CTRL 1 true)

/-- ATTESTATION_REQUEST: a master writes `CFG_ATT_CTRL`. -/
def execAttestationRequest (m : Nat) (v : Dword) (s : State) : Host.Outcome State Fault Refusal :=
  ok (s.regBus m R.CFG_ATT_CTRL 4 fun s => actAttest s v.toNat)

/-- The signed region of a report, 1,024 bytes (R550). -/
def State.attRegion (s : State) : List Byte :=
  let b := s.boot
  let hashes := [2, 8, 3, 4, 5, 6, 9].flatMap fun t => leBytes ((s.objOf t).getD {}).bodyHash.toNat 48
  let head := leBytes 0x54414246 4 ++ leBytes (s.regN R.CFG_ATT_SEQ) 4 ++ leBytes b.env.fingerprint 8 ++ leBytes (s.regN R.SUP_START_ID) 4 ++
    leBytes s.safeState 1 ++ leBytes (b2n b.slotB) 1 ++ leBytes 0 2 ++ leBytes s.now 8 ++ s.regBytes R.CFG_ATT_NONCE 4
  let tail := ((List.range 8).flatMap fun k => leBytes (b.counters.getD k 0) 4) ++ leBytes s.imageLog.1.toNat 48 ++ leBytes s.imageLog.2 4 ++
    leBytes (if b.comboBad then ST.FW_UNTESTED_COMBO.toNat else 0) 2 ++ leBytes 0 2 ++ s.capBytes
  let all := head ++ leBytes b.env.keysHash.toNat 48 ++ hashes ++ tail
  all ++ List.replicate (1024 - all.length) 0#8

/-- A report: the signed region and its signature (R550). -/
def attReport (r : List Byte) : List Byte := r ++ (List.range 36048).map (Config.attSign r)

/-- ATTESTATION_REPORT_DONE: the requested report is written; `BUSY` clears last. -/
def execAttestationReportDone (s : State) : Host.Outcome State Fault Refusal :=
  if s.attest.isNone then ok s
  else
    let s := { s.store (s.regN R.CFG_ATT_ADDR) (attReport s.attRegion) false with attest := none }
    let s := s.setRegN R.CFG_ATT_SEQ ((s.regN R.CFG_ATT_SEQ + 1) % 2 ^ 32)
    ok (s.setRegN R.CFG_ATT_CTRL (ST.OK.toNat * 2 ^ 16))

/-! ### The TRNG (R552) -/

/-- TRNG_HEALTH_FAIL: a health test fails; output is withheld. -/
def execTrngHealthFail (s : State) : Host.Outcome State Fault Refusal :=
  ok (if s.bit R.SEC_CTRL 0 then
    let s := ({ s with trng := true }).setBit R.SEC_STATUS 0 false
    (s.incReg R.SEC_TRNG_FAIL_CNT).postC ST.SEC_TRNG 0x04 0
  else s)

/-- TRNG_RESUME: 1,024 samples have passed since the source restarted; an attempt that waited goes on. -/
def execTrngResume (s : State) : Host.Outcome State Fault Refusal :=
  ok (if s.trng then (({ s with trng := false }).setBit R.SEC_STATUS 0 true).bootGo else s)

end Sys2Proof.Machine
end

