-- ==== Sys2Proof/Machine/DebugCmd.lean ====
section
/-! DEFINITION. Debug access (R600 to R603): challenge and answer, the rights, the lock, and the console. -/

namespace Sys2Proof.Machine

/-- The debug structure changed. -/
def State.modDebug (s : State) (f : Debug → Debug) : State := { s with dbg := f s.dbg }

/-- A 32-byte nonce from the TRNG: eight draws from a place in the sequence on. -/
def nonceFrom (k : Nat) : Nat := leNat ((List.range 8).flatMap fun i => leBytes (Config.trng (k + i)).toNat 4)

/-- The 56 bytes of the outstanding challenge (R601), none when there is none. -/
def State.challenge (s : State) : List Byte :=
  match s.dbg.nonce with
  | some n =>
    leBytes s.boot.env.fingerprint 8 ++ leBytes (s.regN R.SUP_START_ID) 4 ++ leBytes n 32 ++ leBytes s.dbg.counter 4 ++
      List.replicate 8 0#8
  | none => []

/-- DEBUG_CHALLENGE: a challenge is read from `UNLOCK`, or asked for on the UART (R601). It voids the previous one; none is issued within
1 s of a failed answer, or while the TRNG withholds its output. -/
def execDebugChallenge (s : State) : Host.Outcome State Fault Refusal :=
  ok (if s.dbg.blocked.isSome ∨ s.trng then s
    else
      let s := s.modDebug fun d => { d with nonce := some (nonceFrom s.fresh), counter := (d.counter + 1) % 2 ^ 32 }
      ({ s with fresh := s.fresh + 8 }).setBit R.SNAP_DBG_STATE 4 true)

/-- Whether an enabled stream has `SAFETY` 1. -/
def State.safetyStream (s : State) : Bool := (List.range 256).any fun i => s.bit (R.TW_OS_CFG i) 0 && s.bit (R.TW_OS_CFG i) 2

/-- The console takes mailbox 15: its owner is 0x3FF (R602). -/
def State.takeConsole (s : State) : State :=
  if s.dbg.owner.isSome then s
  else
    let s := s.modDebug fun d => { d with owner := some (s.regN (R.SUP_MB_OWNER 15), s.bit (R.SUP_MB_STATE 15) 1) }
    (s.setRegN (R.SUP_MB_OWNER 15) 0x3FF03FF).setBit (R.SUP_MB_STATE 15) 1 true

/-- The console gives mailbox 15 back. -/
def State.leaveConsole (s : State) : State :=
  match s.dbg.owner with
  | some (o, a) => ((s.setRegN (R.SUP_MB_OWNER 15) o).setBit (R.SUP_MB_STATE 15) 1 a).modDebug fun d => { d with owner := none }
  | none => s

/-- The rights of a valid answer (R602): 1 and 3 are withheld while an enabled stream has `SAFETY` 1. -/
def State.grant (s : State) (rights : BitVec 4) : State :=
  let held := decide (rights &&& 0xA#4 ≠ 0#4) && s.safetyStream
  let r := if held then rights &&& 0x5#4 else rights
  let s := s.setFld R.SNAP_DBG_STATE 0 4 (s.fld R.SNAP_DBG_STATE 0 4 ||| r.toNat)
  let s := if r.getLsbD 2 then s.takeConsole else s
  let s := if held then s.postC ST.DBG_UNLOCK_SAFETY 0x06 0 else s
  s.postC ST.DBG_UNLOCKED 0x06 0

/-- DEBUG_ANSWER: an unlock answer with the rights its body names and the outcome of its verification (R533, R601). Without an outstanding
challenge it fails. -/
def execDebugAnswer (rights : BitVec 4) (good : Bool) (s : State) : Host.Outcome State Fault Refusal :=
  ok (let valid := good && s.dbg.nonce.isSome
    let s := (s.modDebug fun d => { d with nonce := none }).setBit R.SNAP_DBG_STATE 4 false
    if valid then s.grant rights
    else
      ((s.incFld R.SNAP_DBG_STATE 16 16).modDebug fun d => { d with blocked := some s.age }).postC ST.DBG_UNLOCK_FAIL 0x06 0)

/-- UNLOCK_RETRY_END: 1 s after a failed answer (R601). -/
def execUnlockRetryEnd (s : State) : Host.Outcome State Fault Refusal :=
  ok (match s.dbg.blocked with
  | some t => if t + 1000000000 ≤ s.age then s.modDebug fun d => { d with blocked := none } else s
  | none => s)

/-- The behaviour of a write of `SNAP_DBG_LOCK` (R603): the rights end, with a record when some were held. -/
def actDebugLock (s : State) : State × Option Status :=
  accept (if s.fld R.SNAP_DBG_STATE 0 4 = 0 then s
    else ((s.setFld R.SNAP_DBG_STATE 0 4 0).leaveConsole).postC ST.DBG_LOCKED 0x06 0)

/-- DEBUG_LOCK: a write of `SNAP_DBG_LOCK`; any value locks. -/
def execDebugLock (m : Nat) (_v : Dword) (s : State) : Host.Outcome State Fault Refusal :=
  ok (s.regBus m R.SNAP_DBG_LOCK 4 actDebugLock)

/-- CONSOLE_FRAME: a framed unit on UART_RX whose CRC is good writes mailbox 15's request buffer and then its `REQ_SEQ`, as master 0x3FF
under the console right (R602). -/
def execConsoleFrame (seq : Word) (buffer : List Byte) (s : State) : Host.Outcome State Fault Refusal :=
  ok (if !(s.bit R.SNAP_DBG_STATE 2) then s
    else
      let b := buffer.take 256
      let s := s.viaBus 0x3FF .write (R.SUP_MB_REQ 15) 256 fun s =>
        match s.writeRequest 15 0 b with
        | (s', some c) => (s', .inl c)
        | (s', none) => (s', .inr ([], false))
      if s.reply.error then s else s.regBus 0x3FF (R.SUP_MB_REQ_SEQ 15) 4 fun s => s.submit 15 seq.toNat)

end Sys2Proof.Machine
end

