-- ==== Sys2Proof/Machine/Ladder.lean ====
section
/-! DEFINITION. The reset ladder (R512 to R520) and the supersession of records (R500): what a rung does, when it is over, what its completion and its overrun do. -/

namespace Sys2Proof.Machine

/-! ### Containment (R500) -/

/-- An acting record: one whose row of R491 asks for a dump or a reset (R500). -/
def State.isActing (s : State) (r : ErrRecord) : Bool :=
  decide (r.status = ST.JOB_HANG ∨ r.status = ST.ERR_ENGINE_TIMEOUT ∨ r.status = ST.HST_HART_WDOG ∨ r.sev = 4) ||
    (decide (r.sev = 3 ∧ r.status.toNat / 256 ≠ 5) && r.partValid && s.bit R.ERR_CTRL 1)

/-- The fabric job a record names, when it still stands. -/
def State.recJob (s : State) (r : ErrRecord) : Option Nat :=
  if r.status = ST.JOB_HANG then s.jobNamed r.partition r.context else none

/-- Whether an engine timeout or a hart's record names what a reset of a unit restarts. -/
def sameEngine (u sub : Nat) (r : ErrRecord) : Bool :=
  !r.partValid && decide (r.source = u) &&
    (if u = 0x1B ∨ u = 0x1C then decide (r.subsource = sub) else if u = 0x1F then decide (r.subsource / 2 = sub / 2) else true)

/-- Whether a record's context, engine or partition lies in what a rung resets. -/
def State.contains (s : State) (rung : Nat) (t : Target) (r : ErrRecord) : Bool :=
  match t with
  | .mailbox _ => false
  | .partition p => r.partValid && decide (r.partition = p)
  | .job p j =>
    if rung = 3 then r.partValid && decide (r.partition = p)
    else
      match s.recJob r with
      | some k => (s.job r.partition k).blocks.any (s.job p j).blocks.contains
      | none => false
  | .engine u sub =>
    if rung = 3 then !r.partValid && decide (resetDomain r.source r.subsource = resetDomain u sub) else sameEngine u sub r

/-- The acting records that a starting reset contains take no further step (R500). -/
def State.contain (s : State) (g : Rung) : State :=
  s.modRecs fun r =>
    if s.isActing r && decide (some r.seq ≠ g.recSeq ∧ r.sev ≠ 4) && s.contains g.rung g.target r then
      { r with phase := 5, heldBy := some g.target, acting := true }
    else r

/-- The records contained in a completed reset close superseded; the search for a hang's cause is no step of theirs and follows
(R525, R527). -/
def State.release (s : State) (t : Target) : State :=
  s.each (s.collector.filter fun r => decide (r.phase = 5 ∧ r.heldBy = some t)) fun s r => (s.closeRec r true).startSearch r

/-! ### Rungs -/

/-- What a rung does on its target (R512, R514 to R518). -/
def State.runRung (s : State) (g : Rung) : State :=
  match g.target with
  | .mailbox n => s.respond n ST.MB_RESET []
  | .partition p => if g.rung = 4 then s.startChipReset 2 else s.partReset p g.mailbox
  | .job p j =>
    if g.rung = 1 then s.abortJob p j else if g.rung = 2 then s.blockReset p j
    else if g.rung = 3 then s.partReset p g.mailbox else s.startChipReset 2
  | .engine u sub =>
    if g.rung = 1 then s.engineAbort u sub else if g.rung = 2 then (s.overtakeUnit u g.mailbox).engineReset u sub
    else if g.rung = 3 then (s.overtakeUnit u g.mailbox).domainReset u sub else s.startChipReset 2

/-- A rung starts: resets of rungs 2 and 3 count, Amber cause 7 holds, and the records they contain wait. -/
def State.startRung (s : State) (g : Rung) : State :=
  let s := { s with rungs := s.rungs ++ [g] }
  let s := if g.rung = 2 ∨ g.rung = 3 then (s.contain g).countReset (targetKey g.target) else s
  let s := if 2 ≤ g.rung then s.setAmber 7 true else s
  s.runRung g

/-- The bound of a rung in ns (R512). -/
def rungBound : Nat → Nat
  | 1 => 10000
  | 2 => 50000
  | _ => 500000

/-- Whether what a rung started is over. -/
def State.rungOver (s : State) (g : Rung) : Bool :=
  match g.target with
  | .mailbox _ => true
  | .partition p => !(s.partZeroing p)
  | .job p j =>
    if g.rung = 1 then decide ((s.job p j).phase ≠ .aborting)
    else if g.rung = 2 then !((s.jobTiles p j).any fun t => decide (s.tileState t = 4 ∨ s.tileState t = 5))
    else !(s.partZeroing p)
  | .engine u sub => decide (g.rung < 3) || s.domainOn (resetDomain u sub)

/-- The partition in a record of a rung on the fabric. -/
def rungRec (s : State) (r : ErrRecord) : Target → ErrRecord
  | .job p _ => r.withPart s p
  | .partition p => r.withPart s p
  | _ => r

/-- A rung without its entry. -/
def State.dropRung (s : State) (k : Nat) : State := { s with rungs := s.rungs.eraseIdx k }

/-- The partition that a rung 3 resets. -/
def resetPart (g : Rung) : Option Nat :=
  if g.rung = 3 then (match g.target with | .job p _ => some p | .partition p => some p | _ => none) else none

/-- Amber cause 7 ends when no reset of rung 2 or above runs. -/
def State.settleSeven (s : State) : State := s.setAmber 7 (s.rungs.any fun g => decide (2 ≤ g.rung))

/-- A rung completes (R513, R516 step 4, R520, R500): the partition's next generation, its record, the hold after a third reset, the
records it contained, its own record, and the mailbox that asked. -/
def State.rungDone (s : State) (k : Nat) (g : Rung) : State :=
  let s := s.dropRung k
  let s := match resetPart g with | some p => s.bumpGen p | none => s
  let s := s.post (rungRec s { mkRec ST.ERR_RESET_DONE 0x05 0 with syndrome := g.rung + (s.age - g.start) % 2 ^ 32 * 2 ^ 32 } g.target)
  let s := if g.rung = 2 ∨ g.rung = 3 then (s.holdTarget (targetKey g.target)).release g.target else s
  let s := s.modRecs fun r => if r.acting ∧ r.phase = 3 ∧ some r.seq = g.recSeq then { r with phase := 4 } else r
  let s := match g.mailbox with | some n => s.finish n ST.OK [] | none => s
  s.settleSeven

/-- RESET_DONE: the hardware of a running rung reports completion within its bound. -/
def execResetDone (k : Nat) (s : State) : Host.Outcome State Fault Refusal :=
  ok (match s.rungs[k]? with
  | some g => if g.rung ≤ 3 ∧ s.age ≤ g.start + rungBound g.rung ∧ s.rungOver g then s.rungDone k g else s
  | none => s)

/-- The rung after one that overran (R512): KVD has no rung 3. -/
def nextRung (g : Rung) : Nat :=
  match g.target with
  | .engine u _ => if u = 0x21 ∧ g.rung = 2 then 4 else g.rung + 1
  | .partition _ => 4
  | _ => g.rung + 1

/-- The code of an escalation into a rung (R513). -/
def escCode (rung : Nat) : Status := if rung = 2 then ST.ERR_ESC_ENGINE else if rung = 3 then ST.ERR_ESC_PARTITION else ST.ERR_ESC_CHIP

/-- ESCALATION: a rung has not reported completion at its bound, and the next starts at once (R513). -/
def execEscalation (k : Nat) (s : State) : Host.Outcome State Fault Refusal :=
  ok (match s.rungs[k]? with
  | some g =>
    if g.rung ≤ 3 ∧ g.start + rungBound g.rung ≤ s.age then
      let n := nextRung g
      let s := (s.dropRung k).post (rungRec s (mkRec (escCode n) 0x05 0) g.target)
      s.startRung { g with rung := n, start := s.age }
    else s
  | none => s)

end Sys2Proof.Machine
end

