-- ==== Sys2Proof/Machine/Errors.lean ====
section
/-! DEFINITION. The supervisor's error handler (R491 to R500), engine timeouts and host watchdogs (R505, R506, R529), the S4 hold (R492) and the reset requests (R614). -/

namespace Sys2Proof.Machine

/-! ### Which record comes next (R495) -/

/-- Whether record `a` is served before record `b`, which stands earlier in the collector. -/
def servedFirst (a b : ErrRecord) : Bool := decide (b.sev < a.sev) || (decide (a.sev = b.sev) && a.acting && !b.acting)

/-- The record the handler serves: the most severe, in progress before pending, then in order of arrival. -/
def State.nextRec (s : State) : Option ErrRecord :=
  (s.collector.filter fun r => decide (r.phase ≠ 5)).foldl (fun b r => match b with
    | none => some r
    | some x => if servedFirst r x then some r else some x) none

/-! ### Steps on a record (R494) -/

/-- The engines whose contexts a rung 1 aborts (R514). -/
def contextEngine (u : Nat) : Bool := decide (u = 0x18 ∨ u = 0x1D ∨ u = 0x1E ∨ u = 0x21)

/-- The scope of a record's dump (R507): context, engine, partition or chip. -/
def dumpScope (r : ErrRecord) : Nat :=
  if r.sev = 4 then 3 else if r.sev = 3 then 2
  else if r.status = ST.JOB_HANG ∨ (r.status = ST.ERR_ENGINE_TIMEOUT ∧ contextEngine r.source) then 0 else 1

/-- A record put in progress at a phase. -/
def State.putPhase (s : State) (r : ErrRecord) (k : Nat) : State :=
  (s.modRecs fun x => if x.seq = r.seq then { x with acting := true, phase := k } else x).showErr

/-- A dump starts; one of a less severe record is cut (R498); with no ring it is done at once (R511). -/
def State.startDump (s : State) (r : ErrRecord) : State :=
  let s := s.cutDump
  if s.regN R.ERR_DUMP_SIZE = 0 then s.putPhase r 2
  else
    let scope := dumpScope r
    let d : Dump := { recSeq := r.seq, scope := scope, start := s.age, sections := s.dumpSections r scope }
    ({ s with dump := some d }).putPhase r 1

/-- The Bamset port of a mirror channel's route, which an engine reset for its timeout restarts. -/
def State.mirrorPort (s : State) (c : Nat) : Nat := (s.routePort 6 (s.fld (R.BAM_MIR_CFG c) 11 6)).getD 0

/-- The first rung for an acting record and its target (R491, R512). -/
def State.firstRung (s : State) (r : ErrRecord) : Option (Nat × Target) :=
  if r.status = ST.JOB_HANG then (s.recJob r).map fun j => (1, .job r.partition j)
  else if r.status = ST.HST_HART_WDOG then some (2, .engine 0x1F r.subsource)
  else if r.status = ST.ERR_ENGINE_TIMEOUT then
    if r.source = 0x18 then some (1, .engine 0x18 r.context)
    else if contextEngine r.source then some (1, .engine r.source r.subsource)
    else if r.source = 0x1C then some (2, .engine 0x1C (s.mirrorPort r.subsource))
    else some (2, .engine r.source r.subsource)
  else some (3, .partition r.partition)

/-- The rung of a record starts; a job that no longer stands needs none. -/
def State.rungFor (s : State) (r : ErrRecord) : State :=
  match s.firstRung r with
  | some (k, t) =>
    let g : Rung := { rung := k, target := t, unit := r.source, start := s.age, recSeq := some r.seq }
    (s.putPhase r 3).startRung g
  | none => s.putPhase r 4

/-- Whether an acting record names a generation that is over (R500). -/
def State.staleRec (s : State) (r : ErrRecord) : Bool := r.partValid && decide (s.partGen r.partition ≠ r.gen)

/-- One step on the record served (R494, R500): a record that asks for nothing is logged and closed; the others go through dump, rung and
closing, after which the search starts (R525 to R527). A record whose hardware still runs lets the window pass. -/
def State.handle (s : State) (r : ErrRecord) : State :=
  if !(s.isActing r) then s.closeRec r false
  else if r.phase = 0 then (if s.staleRec r then (s.closeRec r true).startSearch r else s.startDump r)
  else if r.phase = 2 then
    (if s.staleRec r then (s.closeRec r true).startSearch r
     else if r.sev = 4 then s.closeRec r false else s.rungFor r)
  else if r.phase = 4 then (s.closeRec r false).startSearch r
  else s

/-- ERROR_HANDLER_STEP: one step in the supervisor's own 800 ns at the end of a service round (R494). -/
def execErrorHandlerStep (s : State) : Host.Outcome State Fault Refusal :=
  if s.handled < s.roundNext ∧ s.roundNext ≤ s.now + 800 ∧ s.boot.phase = .done ∧ !s.safety.expired then
    let s := { s with handled := s.roundNext }
    match s.nextRec with
    | some r => ok (s.handle r)
    | none => ok s
  else ok s

/-! ### Engine timeouts (R505) -/

/-- The PCLK cycles of a solve from the queue to its publication (R282, R284). -/
def State.solveCycles (s : State) (r : SolRun) : Nat :=
  let k := r.start.slot
  let left := s.fld (R.SOL_SLOT_CFG k) 0 8
  match r.phase with
  | .finished => r.cyc
  | .iterate => r.cyc + (left - r.k - 1) * s.slotIter k + s.outCycles k
  | _ => r.cyc + left * s.slotIter k + s.outCycles k

/-- The context of a watched activity that is under way and, where the state holds its start, has passed its timeout (R505); the
instants it does not hold are the environment's. -/
def State.timedOut (s : State) (u sub : Nat) : Option Nat :=
  if u = 0x1D then
    match s.solRun with
    | some r => if r.start.slot = sub ∧ 5 * s.solveCycles r + 60000 ≤ 6 * (s.age - r.t0) then some ((s.slot sub).seq + 1) else none
    | none => none
  else if u = 0x1E then (if sub < 8 ∧ (s.chan sub).pendAt.isSome then some (s.chCount sub) else none)
  else if u = 0x18 then
    (s.pixRuns.find? fun r => (pixLanes (s.pixProg r.prog)).contains sub && decide (r.at_ + 1000000 ≤ s.now)).map fun r => r.prog
  else if u = 0x21 then (s.pool sub).step.map fun st => st.number
  else if u = 0x19 then (if (s.camStr sub).frame.isSome then some (s.fld (R.CAM_STR_STATE sub) 0 32) else none)
  else if u = 0x1A then (if sub < 16 then some 0 else none)
  else if u = 0x1B then (if (s.can (sub % 8)).sending.isSome then some 0 else none)
  else if u = 0x1C then
    (if s.mirroring sub then
      (let x := mget {} s.mirrors sub
       if x.start + 51500 ≤ s.age then some x.seq else none)
     else none)
  else none

/-- ENGINE_TIMEOUT: an activity of a hub engine or port has lasted longer than its timeout. -/
def execEngineTimeout (u sub : Nat) (s : State) : Host.Outcome State Fault Refusal :=
  ok (match s.timedOut u sub with
  | some c => s.post { mkRec ST.ERR_ENGINE_TIMEOUT u sub with context := c % 2 ^ 32 }
  | none => s)

/-! ### The host cluster (R32, R506, R529) -/

/-- Any write of `HST_WDOGh_KICK` restarts the hart's watchdog. -/
def State.hartKicked (s : State) (h : Nat) : State := { s with hartKick := mset 0 s.hartKick h s.age }

/-- HST_WDOGH_KICK: a write restarts hart `h`'s watchdog. -/
def execHstWdoghKick (m h : Nat) (s : State) : Host.Outcome State Fault Refusal :=
  ok (s.regBus m (R.HST_WDOG_KICK (h % 16)) 4 fun s => accept (s.hartKicked (h % 16)))

/-- HART_WATCHDOG: a hart's watchdog expires; `guest` is the guest field of its master ID. It starts again. -/
def execHartWatchdog (h guest : Nat) (s : State) : Host.Outcome State Fault Refusal :=
  let h := h % 16
  let t := s.fld (R.HST_WDOG_CFG h) 0 24
  if 0 < t ∧ mget 0 s.hartKick h + 1000 * t ≤ s.age then
    ok ((s.hartKicked h).post { mkRec ST.HST_HART_WDOG 0x1F h with context := guest % 16 })
  else ok s

/-- LOCKSTEP_MISMATCH: the outputs of a lockstep pair differ, and the pair is reset at rung 2 (R32). -/
def execLockstepMismatch (pair : Nat) (s : State) : Host.Outcome State Fault Refusal :=
  if pair < s.boot.manifest.lockstep ∧ s.harts.getLsbD (2 * pair) then
    let g : Rung := { rung := 2, target := .engine 0x1F (2 * pair), unit := 0x1F, start := s.age }
    ok ((s.postC ST.HST_LOCKSTEP 0x1F (2 * pair)).startRung g)
  else ok s

/-- HOST_CACHE_ERROR: an error in a core's caches or register file: 0 corrected (first and every 256th recorded), 1 uncorrectable in
L2, 2 uncorrectable in L3 (R529). -/
def execHostCacheError (core kind : Nat) (s : State) : Host.Outcome State Fault Refusal :=
  let c := core % 16
  if kind = 1 then ok (s.postC ST.HST_L2_UE 0x1F c)
  else if kind = 2 then ok (s.postC ST.HST_L3_UE 0x1F c)
  else
    let n := mget 0 s.hostCe c
    let s := { s with hostCe := mset 0 s.hostCe c (n + 1) }
    ok (if n % 256 = 0 then s.postC ST.HST_CORRECTED 0x1F c else s)

/-! ### The S4 hold (R492) -/

/-- The hold in ns. -/
def State.s4Hold (s : State) : Nat := ms (s.regN R.ERR_S4_HOLD)

/-- S4_HOLD_EXPIRY: the hold after an S4 record, when `S4_RESET` is 1, or after the expiry of the supervisor watchdog, which the always-on
reset controller times, is over. -/
def execS4HoldExpiry (s : State) : Host.Outcome State Fault Refusal :=
  if s.safety.expired ∧ s.safety.kickAt + 1000000 + s.s4Hold ≤ s.age then ok (s.startChipReset 3)
  else
    match s.safety.s4At with
    | some t => if s.bit R.ERR_CTRL 0 ∧ t + s.s4Hold ≤ s.age then ok (s.startChipReset 1) else ok s
    | none => ok s

/-! ### Reset requests (R614) -/

/-- Whether a unit value names the fabric. -/
def fabricUnit (u : Nat) : Bool := decide (u = 0 ∨ (0x10 ≤ u ∧ u ≤ 0x13))

/-- The descriptor of a running or pre-empted instance of a partition. -/
def State.liveJob (s : State) (p inst : Nat) : Option Nat :=
  if p < 32 ∧ s.partState p = 2 then
    (List.range 64).find? fun j => decide (s.jobInst p j = inst ∧ (s.jobState p j = 2 ∨ s.jobState p j = 3))
  else none

/-- The context of a hub engine that a level-0 request names, when it is at work. -/
def State.liveContext (s : State) (u c : Nat) : Bool :=
  if u = 0x1D then c < 8 && s.solRun.any fun r => decide (r.start.slot = c)
  else if u = 0x1E then c < 8 && (s.chan c).pendAt.isSome
  else if u = 0x18 then s.pixRuns.any fun r => decide (r.prog = c)
  else if u = 0x21 then c < 32 && (s.pool c).step.isSome
  else false

/-- The target of a request of level 0. -/
def State.contextTarget (s : State) (u p c : Nat) : Option Target :=
  if fabricUnit u then (s.liveJob p c).map (Target.job p)
  else if p ≠ 0 then none
  else if u = 0x01 then (if c < 16 ∧ (s.mbox c).accepted.isSome then some (.mailbox c) else none)
  else if s.liveContext u c then some (.engine u c) else none

/-- The target of a request of level 1. -/
def State.engineTarget (s : State) (u p c : Nat) : Option Target :=
  if fabricUnit u then (s.liveJob p c).map (Target.job p)
  else if p ≠ 0 then none
  else if u = 0x1F then (if c < 16 then some (.engine 0x1F c) else none)
  else if u = 0x1B then (if c < 8 then some (.engine 0x1B c) else none)
  else if u = 0x1C then (if c < 6 then some (.engine 0x1C c) else none)
  else if (0x18 ≤ u ∧ u ≤ 0x1E ∨ u = 0x21) ∧ c = 0 then some (.engine u 0) else none

/-- The target of a request of level 2. -/
def State.domainTarget (s : State) (u p c : Nat) : Option Target :=
  if fabricUnit u then (if p < 32 ∧ c = 0 ∧ s.partState p = 2 then some (.partition p) else none)
  else if p ≠ 0 then none
  else if u = 0x1F then (if c < 16 then some (.engine 0x1F c) else none)
  else if 0x18 ≤ u ∧ u ≤ 0x1E ∧ c = 0 then some (.engine u 0) else none

/-- A request of level 0 to 2: refused without a target, else the rung starts and the command completes with it. -/
def State.resetReq (s : State) (n rung : Nat) (t : Option Target) : State × Done :=
  match t with
  | none => denied s ST.MB_ARG
  | some x =>
    if x = .mailbox n then denied s ST.MB_RESET
    else
      let g : Rung := { rung := rung, target := x, unit := s.arg n 1, start := s.age, mailbox := some n }
      (s.startRung g, .later)

/-- RESET_REQ_CONTEXT: a context abort. -/
def execResetReqContext (n : Nat) (s : State) : Host.Outcome State Fault Refusal :=
  ok (s.runCmd n 0x0900 (decide (s.arg n 0 = 0)) fun s => s.resetReq n 1 (s.contextTarget (s.arg n 1) (s.arg n 2) (s.arg n 3)))

/-- RESET_REQ_ENGINE: a block or engine reset. -/
def execResetReqEngine (n : Nat) (s : State) : Host.Outcome State Fault Refusal :=
  ok (s.runCmd n 0x0900 (decide (s.arg n 0 = 1)) fun s => s.resetReq n 2 (s.engineTarget (s.arg n 1) (s.arg n 2) (s.arg n 3)))

/-- RESET_REQ_PARTITION: a partition or domain reset; it ends the target's hold and its count starts anew (R520). -/
def execResetReqPartition (n : Nat) (s : State) : Host.Outcome State Fault Refusal :=
  ok (s.runCmd n 0x0900 (decide (s.arg n 0 = 2)) fun s =>
    let t := s.domainTarget (s.arg n 1) (s.arg n 2) (s.arg n 3)
    let s := match t with | some x => s.endHold (targetKey x) | none => s
    s.resetReq n 3 t)

/-- RESET_REQ_CHIP: a chip reset; no response completes (R356). -/
def execResetReqChip (n : Nat) (s : State) : Host.Outcome State Fault Refusal :=
  ok (s.runCmd n 0x0900 (decide (s.arg n 0 = 3)) fun s => (s.startChipReset 4, .later))

/-- PWRCYC_REQ_N asserted from the always-on domain (R519). -/
def State.powerCycle (s : State) : State := { s with power := { s.power with pwrCycN := true } }

/-- RESET_REQ_POWER_CYCLE: the power-cycle request is asserted (R519). -/
def execResetReqPowerCycle (n : Nat) (s : State) : Host.Outcome State Fault Refusal :=
  ok (s.runCmd n 0x0900 (decide (s.arg n 0 = 4)) fun s => (s.powerCycle, .later))

end Sys2Proof.Machine
end

