-- ==== Sys2Proof/Machine/PowerCmd.lean ====
section
/-! DEFINITION. Chip reset (R518, R9), the power sequencer (R563 to R567, R559), domains (R569 to R571), rails and voltages (R561, R562), temperature (R557 to R559), and the reference clocks (R575). -/

namespace Sys2Proof.Machine

/-! ### What survives -/

/-- The registers that a chip reset keeps (R528, R553, R579). -/
def keptByReset (a : Nat) : Bool :=
  (decide (R.ERR_RETAIN 0 ≤ a) && decide (a < R.ERR_RETAIN 16)) || decide (a = R.ERR_RESET_CAUSE) ||
    decide (a = R.CFG_BOOT_ATTEMPTS) || decide (a = R.CFG_BOOT_LAST_FAIL) || decide (a = R.PMU_WAKE_CAUSE) || decide (a = R.PMU_STATUS) ||
    (decide (R.PMU_RAIL_CFG 0 ≤ a) && decide (a < R.PMU_RAIL_CFG 16))

/-- The wake settings of a CAN controller. -/
def wakeReg (a : Nat) : Bool :=
  (List.range 8).any fun n => [R.CAN_WAKE n, R.CAN_WAKE_DATA n, R.CAN_WAKE_DMASK n, R.CAN_WAKE_CFG n, R.CAN_CTRL n].contains a

/-- The registers of the always-on domain that standby keeps (R567): besides those of a chip reset the wake settings of the CAN
controllers (their control registers until the next power-up), of `PMU_SBY_CTRL` and of the WAKE pin. -/
def keptInStandby (a : Nat) : Bool :=
  keptByReset a || wakeReg a || decide (a = R.PMU_SBY_CTRL) || (decide (R.GPIO_PIN_CFG 34 ≤ a) && decide (a < R.GPIO_PIN_CFG 35))

/-- The pins after a reset: only their raw levels, which the outside drives, stand. -/
def State.rawPins (s : State) : SMap Pin := (s.pins.filter fun x => x.2.raw).map fun x => (x.1, { raw := true })

/-- The state of reset with the registers that survive and what stands outside the reset domains: the queue, pins, the power manager,
the count of retained records; memory when it keeps its power. -/
def State.afterReset (s : State) (keep : Nat → Bool) (mem : Bool) : State :=
  { State.reset with
    pending := s.pending
    regs := s.regs.filter fun x => keep x.1
    mem := if mem then s.mem else []
    poison := if mem then s.poison else []
    pins := s.rawPins
    retains := s.retains
    power := s.power
    fresh := s.fresh }

/-! ### Chip reset (R518) -/

/-- A boot cut before its confirmation, with its slot. -/
def State.cutBoot (s : State) : Option Bool :=
  if (s.boot.phase = .waiting ∨ s.boot.phase = .done) ∧ !(s.bit R.CFG_BOOT_STATUS 5) then some s.boot.slotB else s.boot.cut

/-- The power manager after a chip reset: excluded sensors, trips and times start anew, rails and outputs stay (R557, R564). -/
def keptPower (p : Power) : Power :=
  { phase := p.phase, order := p.order, thermN := p.thermN, pwrCycN := p.pwrCycN, refOk := p.refOk, sdsRefOk := p.sdsRefOk }

/-- Chip reset is applied: every register and state is as after reset, but for what the always-on domain keeps; an unlock that ends with it
leaves its record (R603). -/
def State.applyReset (s : State) (cause : Nat) : State :=
  let locked := s.fld R.SNAP_DBG_STATE 0 4 ≠ 0
  let cut := s.cutBoot
  let s := s.afterReset keptByReset true
  let s := { s with power := keptPower s.power, boot := { cut := cut } }
  let s := (s.setFld R.ERR_RESET_CAUSE 0 4 cause).incFld R.ERR_RESET_CAUSE 16 16
  if locked then s.postC ST.DBG_LOCKED 0x06 0 else s

/-- CHIP_RESET_APPLY: 2 µs have passed since the chip reset started. -/
def execChipResetApply (s : State) : Host.Outcome State Fault Refusal :=
  ok (match s.chipReset with
  | some (cause, t) => if t + 2000 ≤ s.age then s.applyReset cause else s
  | none => s)

/-- RESET_N: the reset pin starts a chip reset, or wakes the device from standby (R518, R567). -/
def execResetN (s : State) : Host.Outcome State Fault Refusal :=
  ok (if s.standingBy then s.wakeOn 3 0 else if s.power.phase = .up then s.startChipReset 5 else s)

/-- BOOT_STATUS_TIMEOUT: the boot ROM has not written its first `BOOT_STATUS` value within 20 ms after a chip reset (R513): the
always-on domain asserts the power-cycle request, and the next start reports cause 0. -/
def execBootStatusTimeout (s : State) : Host.Outcome State Fault Refusal :=
  ok (if s.boot.phase = .held ∧ s.power.phase = .up ∧ s.fld R.ERR_RESET_CAUSE 0 4 ≠ 0 then s.powerCycle else s)

/-! ### Sequencing (R563 to R567) -/

/-- The order in which a rail is enabled (R560). -/
def railOrder (k : Nat) : Nat := if k < 8 then k + 1 else if k < 12 then 9 else 10

/-- The domains that run as soon as the rails are up (R563, step 6). -/
def earlyDomains : List Nat := [1, 2, 8]

/-- The rails are down: nothing is in range, no domain but the always-on one has power, BOOT_STATUS reads 0. -/
def State.dark (s : State) : State :=
  let s := (s.setBit R.PMU_STATUS 0 false).showBoot 0
  s.each earlyDomains fun s d => (s.setDomain d 0).setBit (R.PMU_D_CTRL d) 0 false

/-- The sequencer at step 3 of R563. -/
def State.startSequence (s : State) : State := s.modPower fun p => { p with phase := .polling, order := 0, wakeWait := false }

/-- POWER_UP: VDD_AON comes into its range (R563): the power-on reset, then the sequence. -/
def execPowerUp (s : State) : Host.Outcome State Fault Refusal :=
  ok (if s.power.phase = .off then
    (({ s.afterReset (fun _ => false) false with retains := 0, power := { phase := .off, order := 0 } }).dark).startSequence
  else s)

/-- A regulator does not answer or a rail order is late (R564): the rails go off, and the record goes to the retention store. -/
def State.sequenceFails (s : State) (order : Nat) : State :=
  let rail := ((List.range 16).find? fun k => decide (railOrder k = order)).getD 0
  let s := s.retain { mkRec ST.PWR_RAIL_FAULT 0x03 rail with time := s.now, lastShort := shortOf s.now }
  (s.setFld R.PMU_STATUS 8 4 order).modPower fun p => { p with phase := .retry, order := 0 }

/-- The last order is in range: domains 1, 2 and 8 are on and the supervisor's reset is released (R563, step 6); the start that follows
reports cause 0 (R567). -/
def State.railsUp (s : State) : State :=
  let s := s.modPower fun p => { p with phase := .up, order := 10 }
  let s := s.each earlyDomains fun s d => (s.switchDomain d 2).setBit (R.PMU_D_CTRL d) 0 true
  let s := (s.setBit R.PMU_STATUS 0 true).setRegN R.PMU_SBY_CTRL 6
  let s := { s with regs := s.regs.filter fun x => !((List.range 8).any fun n => decide (x.1 = R.CAN_CTRL n)) }
  s.setRegN R.ERR_RESET_CAUSE 0

/-- RAIL_ORDER_ENABLE: the regulators have answered, or the order enabled last has stayed in range for 50 µs, and the next order is
enabled; with `good` false a regulator is missing or the order is late. -/
def execRailOrderEnable (good : Bool) (s : State) : Host.Outcome State Fault Refusal :=
  let k := s.power.order
  if s.power.phase = .polling then
    ok (if good then s.modPower fun p => { p with phase := .ordering, order := 1 } else s.sequenceFails 0)
  else if s.power.phase = .ordering then
    ok (if !good then s.sequenceFails k
        else if k < 10 then s.modPower fun p => { p with order := k + 1 }
        else s.railsUp)
  else ok s

/-- SEQUENCE_RETRY: 1 s after a failed sequence it starts again at step 3. -/
def execSequenceRetry (s : State) : Host.Outcome State Fault Refusal :=
  ok (if s.power.phase = .retry then s.startSequence else s)

/-- A write of `PMU_SBY_CTRL` (R566): the wake enables are stored, `GO` enters standby unless a partition exists. -/
def actStandby (s : State) (v : Nat) : State × Option Status :=
  if v % 2 = 1 ∧ (List.range 32).any fun p => decide (s.partState p ≠ 0) then refuse s ST.PWR_DOMAIN_BUSY
  else
    let s := s.setRegN R.PMU_SBY_CTRL (v % 8 / 2 * 2)
    if v % 2 = 0 then accept s
    else accept ((s.moveTo 0 s.now false).modPower fun p => { p with phase := .goingDown, downTo := true })

/-- STANDBY_ENTRY: a master writes `PMU_SBY_CTRL`. -/
def execStandbyEntry (m : Nat) (v : Dword) (s : State) : Host.Outcome State Fault Refusal :=
  ok (s.regBus m R.PMU_SBY_CTRL 4 fun s => actStandby s v.toNat)

/-- The device with only its always-on domain powered (R565, R566). -/
def State.onlyAlwaysOn (s : State) : State := (s.afterReset keptInStandby false).dark

/-- POWER_DOWN_COMPLETE: the last rail order has fallen (R565): standby, with a latched wake starting power-up at once (R567), or
the hard shutdown's pause (R559). -/
def execPowerDownComplete (s : State) : Host.Outcome State Fault Refusal :=
  if s.power.phase ≠ .goingDown then ok s
  else
    let wake := s.power.wakeWait
    let p : Power := { phase := if s.power.downTo then .standby else .shutdown, order := 0, thermN := s.power.thermN, pwrCycN := s.power.pwrCycN,
                       refOk := s.power.refOk, sdsRefOk := s.power.sdsRefOk }
    let s := { s.onlyAlwaysOn with power := p }
    ok (if wake then s.startSequence else s)

/-- WAKE_EVENT: a wake latched in standby starts power-up at step 3 (R567). -/
def execWakeEvent (s : State) : Host.Outcome State Fault Refusal :=
  ok (if s.power.phase = .standby ∧ s.power.wakeWait then s.startSequence else s)

/-- HARD_SHUTDOWN_RESTART: 10 s after the hard shutdown the sequence starts at step 3 (R559). -/
def execHardShutdownRestart (s : State) : Host.Outcome State Fault Refusal :=
  ok (if s.power.phase = .shutdown then s.startSequence else s)

/-- ALWAYS_ON_SUPPLY_LOSS: VDD_AON falls (R519): everything is lost, the always-on registers too, and the open drains release. -/
def execAlwaysOnSupplyLoss (s : State) : Host.Outcome State Fault Refusal :=
  ok ({ s.afterReset (fun _ => false) false with retains := 0, power := { phase := .off, order := 0 } }).dark

/-! ### Rails (R561, R562) -/

/-- RAIL_FAULT: a rail reports a fault or leaves its range (R562). -/
def execRailFault (k : Nat) (s : State) : Host.Outcome State Fault Refusal :=
  let k := k % 16
  ok (if s.power.phase = .up then
    ((s.setBit R.PMU_STATUS 0 false).setFld R.PMU_STATUS 8 4 (railOrder k)).postC ST.PWR_RAIL_FAULT 0x03 k
  else s)

/-- The range of an AVS rail in mV (R560). -/
def avsRange (k : Nat) : Option (Nat × Nat) :=
  if k = 3 then some (720, 900) else if k = 2 ∨ (12 ≤ k ∧ k < 16) then some (700, 850) else none

/-- AVS_STEP: the monitors ask for a setpoint, and the rail moves by at most 5 mV, within its range, once per 1 ms (R561); a rail held
at its upper limit that is asked for more leaves one record. -/
def execAvsStep (k mv : Nat) (s : State) : Host.Outcome State Fault Refusal :=
  match avsRange k with
  | none => ok s
  | some (lo, hi) =>
    let cur := s.fld (R.PMU_RAIL_CFG k) 8 16
    if !(s.bit (R.PMU_RAIL_CFG k) 24) ∨ s.boot.phase ≠ .done ∨ s.age < mget 0 s.power.avsAt k then ok s
    else if hi ≤ cur ∧ hi < mv then
      ok (if mget false s.power.avsHeld k then s
          else (s.modPower fun p => { p with avsHeld := mset false p.avsHeld k true }).postC ST.PWR_AVS_LIMIT 0x03 k)
    else
      let next := max lo (min hi (max (cur - 5) (min (cur + 5) mv)))
      let s := s.modPower fun p => { p with avsAt := mset 0 p.avsAt k (s.age + 1000000), avsHeld := mset false p.avsHeld k false }
      ok (s.setFld (R.PMU_RAIL_CFG k) 8 16 next)

/-! ### Domains (R569 to R571) -/

/-- Whether a domain may be switched by its control register now (R569). -/
def State.maySwitch (s : State) (d : Nat) : Bool :=
  if 3 ≤ d ∧ d ≤ 6 then (List.range 4).all fun i => !(s.harts.getLsbD (4 * (d - 3) + i))
  else if d = 7 then [3, 4, 5, 6].all fun k => decide (s.fld (R.PMU_D_STATUS k) 0 2 = 0)
  else if d = 9 then !(s.bit R.PIX_CTRL 0) && s.pixRuns.isEmpty
  else if d = 10 then !(s.bit R.CAM_CTRL 0)
  else if d = 11 then !(s.bit R.ETH_CTRL 0) && !(s.bit R.CFG_SAFE_NOTIFY 0)
  else if d = 12 then (List.range 8).all fun n => s.bit (R.CAN_CTRL n) 0
  else if d = 13 then !(s.bit R.BAM_CTRL 0)
  else if d = 14 then !(s.bit R.SOL_CTRL 0) && s.solRun.isNone
  else decide (d = 15) && !(s.bit R.CTL_CTRL 0)

/-- A write of `PMU_Dd_CTRL` (R570, R571). -/
def actDomain (d : Nat) (s : State) (v : Nat) : State × Option Status :=
  let on := decide (v % 2 = 1)
  if d = 14 ∧ on ∧ s.boot.part.grade = 1 then refuse s ST.UNIT_ABSENT
  else if !(s.maySwitch d) ∨ s.rungs.any fun g => (match g.target with
      | .engine u sub => decide (g.rung = 3 ∧ resetDomain u sub = d)
      | _ => false) then refuse s ST.PWR_DOMAIN_BUSY
  else
    let was := s.bit (R.PMU_D_CTRL d) 0
    let s := s.setBit (R.PMU_D_CTRL d) 0 on
    if on = was then accept s
    else if on then accept (s.switchDomain d 1)
    else accept ((s.loseDomain d).switchDomain d 0)

/-- DOMAIN_SWITCH: a master writes a domain's control register. -/
def execDomainSwitch (m d : Nat) (v : Dword) (s : State) : Host.Outcome State Fault Refusal :=
  ok (s.regBus m (R.PMU_D_CTRL (d % 24)) 4 fun s => actDomain (d % 24) s v.toNat)

/-- DOMAIN_IN_SERVICE: a ramping domain comes into service (R571, R517). -/
def execDomainInService (d : Nat) (s : State) : Host.Outcome State Fault Refusal :=
  let d := d % 24
  ok (if s.fld (R.PMU_D_STATUS d) 0 2 = 1 then s.setDomain d 2 else s)

/-! ### Temperature (R557 to R559, R446) -/

/-- The die of a sensor: 0 to 3, and 4 for the hub. -/
def sensorDie (k : Nat) : Nat := k / 8

/-- Whether a sensor is excluded. -/
def State.sensorOut (s : State) (k : Nat) : Bool := s.bit (R.PMU_TSENS k) 31

/-- A sorted insertion. -/
def insertInt (x : Int) : List Int → List Int
  | [] => [x]
  | y :: r => if x ≤ y then x :: y :: r else y :: insertInt x r

/-- Twice the median of a list. -/
def median2 (l : List Int) : Int :=
  let a := l.foldr insertInt []
  a.getD ((a.length - 1) / 2) 0 + a.getD (a.length / 2) 0

/-- One sensor's consecutive deviations of more than 10 °C from the median of its die's other sensors, and its exclusion at the tenth. -/
def State.judgeSensor (s : State) (l : List Int) (k : Nat) : State :=
  if s.sensorOut k then s
  else
    let others := ((List.range 40).filter fun i => decide (i ≠ k ∧ sensorDie i = sensorDie k) && !(s.sensorOut i)).map fun i => l.getD i 0
    let far := !others.isEmpty && decide (320 < (2 * l.getD k 0 - median2 others).natAbs)
    let n := if far then mget 0 s.power.deviates k + 1 else 0
    let s := s.modPower fun p => { p with deviates := mset 0 p.deviates k n }
    if 10 ≤ n then (s.setBit (R.PMU_TSENS k) 31 true).postC ST.PWR_SENSOR 0x03 k else s

/-- The readings that count: sensors not excluded, and `CFG_TCRIT` for the excluded ones of a die with fewer than four left. -/
def State.counting (s : State) (l : List Int) : List (Nat × Int) :=
  (List.range 40).filterMap fun k =>
    if !(s.sensorOut k) then some (k, l.getD k 0)
    else
      let left := ((List.range 40).filter fun i => decide (sensorDie i = sensorDie k) && !(s.sensorOut i)).length
      if left < 4 then some (k, (16 * s.regN R.CFG_TCRIT : Nat)) else none

/-- Since when the hottest reading has been hot or cool (R338, R340), and `PMU_TMAX`. -/
def State.showHottest (s : State) (k : Nat) (t : Int) : State :=
  let s := s.setRegN R.PMU_TMAX (ofSigned 16 t + k * 2 ^ 16)
  let hot := decide ((16 * s.regN R.PMU_TSHED : Nat) ≤ t)
  let cool := decide (t < ((16 * s.regN R.PMU_TSHED : Nat) : Int) - (16 * s.regN R.PMU_THYST : Nat))
  s.modPower fun p =>
    { p with
      hotSince := if hot then some (p.hotSince.getD s.age) else none
      coolSince := if cool then some (p.coolSince.getD s.age) else none }

/-- Thermal Crimson (R446 cause 6): the threshold reached while every partition of shed rank above 0 is shed, with its
record (R487). -/
def State.thermalCrimson (s : State) (t : Int) : State :=
  if (16 * s.regN R.CFG_TCRIT : Nat) ≤ t ∧ !(s.safety.latched.getLsbD 6) ∧
      !((List.range 32).any fun p => decide (s.partState p ≠ 0 ∧ s.fld (R.ACC_P_STATUS p) 16 5 ≠ 0) && !(s.isShed p)) then
    (s.crimson 6 none 0).postC ST.SAFE_THERMAL 0x00 0
  else s

/-- Whether a sensor not excluded reads at least `x` °C. -/
def State.anyHot (s : State) (l : List Int) (x : Int) : Bool :=
  (List.range 40).any fun k => !(s.sensorOut k) && decide (16 * x ≤ l.getD k 0)

/-- THERM_N and `PMU_STATUS` as the trip stands (R558). -/
def State.showTrip (s : State) (on : Bool) : State :=
  (s.setBit R.PMU_STATUS 12 on).modPower fun p => { p with thermN := on, tripped := on }

/-- THERM_N and the trip's record (R558), and the hard shutdown (R559), by the sensors not excluded. -/
def State.thermalTrip (s : State) (l : List Int) : State :=
  let s := if s.anyHot l 127 then (if s.power.tripped then s else (s.showTrip true).postC ST.PWR_THERMAL_TRIP 0x03 0)
    else if l.all fun t => decide (t < 16 * 117) then s.showTrip false else s
  if s.anyHot l 135 then s.modPower fun p => { p with phase := .goingDown, downTo := false } else s

/-- The first of the highest readings. -/
def hottest (l : List (Nat × Int)) : Option (Nat × Int) :=
  l.foldl (fun m x => match m with
    | some y => if y.2 < x.2 then some x else m
    | none => some x) none

/-- SENSOR_SAMPLE: the 40 junction sensors are sampled, in 1/16 °C (R557). -/
def execSensorSample (readings : List Int) (s : State) : Host.Outcome State Fault Refusal :=
  if s.power.phase ≠ .up then ok s
  else
    let s := s.each (List.range 40) fun s k => s.setFld (R.PMU_TSENS k) 0 16 (ofSigned 16 (readings.getD k 0))
    let s := s.each (List.range 40) fun s k => s.judgeSensor readings k
    match hottest (s.counting readings) with
    | some (k, t) => ok (((s.showHottest k t).thermalCrimson t).thermalTrip readings)
    | none => ok (s.thermalTrip readings)

/-! ### Reference clocks (R575) -/

/-- REF_LOSS: the 25 MHz reference has been absent for 1 µs; TCLK stops. -/
def execRefLoss (s : State) : Host.Outcome State Fault Refusal :=
  ok (if s.power.refOk then (s.modPower fun p => { p with refOk := false }).postC ST.CLK_REF_LOSS 0x03 0 else s)

/-- SDSREF_LOSS: the 100 MHz reference has been absent for 1 µs; every Ethernet and Bamset link goes down (R396, R423). -/
def execSdsrefLoss (s : State) : Host.Outcome State Fault Refusal :=
  ok (if s.power.sdsRefOk then
    let s := (s.modPower fun p => { p with sdsRefOk := false }).postC ST.CLK_SDSREF_LOSS 0x03 0
    let s := s.each (List.range 4) State.ethDown
    s.each (List.range 6) fun s p => if s.linkUp p then s.linkLost p else s
  else s)

/-- SDSREF_RESTORED: the reference returns, and the links retrain (R575, R422). -/
def execSdsrefRestored (s : State) : Host.Outcome State Fault Refusal :=
  ok (if s.power.sdsRefOk then s
  else
    let s := s.modPower fun p => { p with sdsRefOk := true }
    s.each (List.range 6) fun s p => if s.bit (R.BAM_P_CFG p) 0 ∧ s.domainOn 13 then s.linkTrain p 4 else s)

end Sys2Proof.Machine
end

