-- ==== Sys2Proof/Machine/RecCmd.lean ====
section
/-! DEFINITION. `REC_CONTROL` and `REPLAY_CONTROL` (R594 to R604) and the injection of recorded arrivals (R596). -/

namespace Sys2Proof.Machine

/-- The recorder structure changed. -/
def State.modRec (s : State) (f : Recorder → Recorder) : State := { s with recorder := f s.recorder }

/-! ### Recording (R590, R594, R604) -/

/-- Whether a `PORTS` bit names a port that the part does not have. -/
def State.absentPorts (s : State) : Bool := s.boot.partOk && s.recPorts.any fun p => decide (s.boot.part.ethMask / 2 ^ p % 2 = 0)

/-- A fresh recording: nothing kept, nothing lost, and replayable if no command of R594 has completed and classes 0 to 9 are set. -/
def State.openRecording (s : State) : State :=
  let whole := s.recorder.clean && decide (s.fld R.REC_CFG 16 10 = 0x3FF)
  let s := s.modRec fun r => { r with items := [], lost := 0, lostSeq := none, wrapped := false, ringPos := 0, stored := 0 }
  s.setFld R.REC_STATUS 0 3 (1 + 2 * b2n whole)

/-- REC_START: recording starts with its `ORIGIN` record, whose `SEQ` is returned. -/
def execRecStart (n : Nat) (s : State) : Host.Outcome State Fault Refusal :=
  ok (s.runCmd n 0x0801 (s.arg n 0 = 0) fun s =>
    if s.absentPorts ∨ s.bit R.REC_STATUS 0 then denied s ST.REC_CONFIG
    else
      let seq := s.regN R.REC_SEQ
      let s := s.openRecording
      giving (s.tap 0x01 none 0x07 0 s.now (leBytes (s.regN R.SUP_START_ID) 4 ++ s.capBytes ++ s.verBytes)) (leBytes seq 8))

/-- The answer of a stop or status: the records written. -/
def State.recWritten (s : State) : List Byte := leBytes s.recorder.stored 8

/-- REC_STOP: recording stops; the records written are returned. -/
def execRecStop (n : Nat) (s : State) : Host.Outcome State Fault Refusal :=
  ok (s.runCmd n 0x0801 (s.arg n 0 = 1) fun s => giving (s.setBit R.REC_STATUS 0 false) s.recWritten)

/-- REC_STATUS: the records written. -/
def execRecStatus (n : Nat) (s : State) : Host.Outcome State Fault Refusal :=
  ok (s.runCmd n 0x0801 (s.arg n 0 = 2) fun s => giving s s.recWritten)

/-- REC_MARKER: a marker record with the argument; its `SEQ` is returned. -/
def execRecMarker (n : Nat) (s : State) : Host.Outcome State Fault Refusal :=
  ok (s.runCmd n 0x0801 (s.arg n 0 = 3) fun s =>
    giving (s.tap 0x0D none 0x07 0 s.now (leBytes (s.arg n 1) 8)) (leBytes (s.regN R.REC_SEQ) 8))

/-! ### Loading (R589, R594, R604) -/

/-- The record that bytes begin with, and the bytes after it (R589): none when they are too few or `CRC` differs. -/
def recParse (l : List Byte) : Option (RecItem × List Byte) :=
  let n := numAt l 4 4
  let whole := 32 + (n + 63) / 64 * 64
  let d := (l.drop 32).take n
  if l.length < whole ∨ (crc32c (l.take 28 ++ d)).toNat ≠ numAt l 28 4 then none
  else some (⟨numAt l 0 1, numAt l 1 1, numAt l 2 2, numAt l 8 8, numAt l 16 4, numAt l 20 4, d⟩, l.drop whole)

/-- The records that bytes hold one after another, and what is left. -/
def recParseAll : Nat → List Byte → List RecItem × List Byte
  | 0, l => ([], l)
  | k + 1, l =>
    match recParse l with
    | some (r, t) => ((r :: (recParseAll k t).1), (recParseAll k t).2)
    | none => ([], l)

/-- The records that stand in host DRAM from an address on, as REC's master may read them: each begins where the one before it ends. -/
def State.recordsAt (s : State) : Nat → Nat → List RecItem
  | 0, _ => []
  | k + 1, a =>
    let whole := 32 + (s.le (a + 4) 4 + 63) / 64 * 64
    if !(s.admits 0x03A .read a 32) ∨ !(s.admits 0x03A .read a whole) then []
    else
      match recParse (s.bytes a whole) with
      | some (r, _) => r :: s.recordsAt k (a + whole)
      | none => []

/-- Sequence numbers follow one another. -/
def inOrder : List RecItem → Bool
  | a :: b :: r => decide (b.seq = (a.seq + 1) % 2 ^ 32) && inOrder (b :: r)
  | _ => true

/-- Whether a recording is replayable as far as its records show (R594): it begins with `ORIGIN`, holds no `GAP` and misses no record. -/
def looksWhole (l : List RecItem) : Bool :=
  (match l with
   | r :: _ => decide (r.typ = 1)
   | [] => false) && inOrder l && l.all fun r => decide (r.typ ≠ 0x0E)

/-- A recording loaded from its first record. -/
def State.loadRecords (s : State) (l : List RecItem) (rest : List Byte) (streamed begun : Bool) (blobs : Nat) : State :=
  let s := s.modRec fun r =>
    { r with loaded := l, inflow := rest, streamed := streamed, blobs := blobs, replayable := looksWhole l && begun, passed := 0,
             issued := [], seen := [] }
  let s := (s.setRegN R.REPLAY_STATUS 1).setRegN R.REPLAY_POS (match l with | r :: _ => r.seq | [] => 0)
  ((s.setRegN R.REPLAY_DIV_SEQ 0).setRegN R.REPLAY_DIV_EXP 0).setRegN R.REPLAY_DIV_ACT 0 |>.setRegN R.REPLAY_DIV_CYC 0

/-- REPLAY_LOAD: a recording is loaded from host DRAM, or from the stream; `begun` says whether it began early enough and held classes
0 to 9 throughout (R594), which its records do not show. -/
def execReplayLoad (n : Nat) (begun : Bool) (s : State) : Host.Outcome State Fault Refusal :=
  ok (s.runCmd n 0x0802 (s.arg n 0 = 0) fun s =>
    if s.replaying then denied s ST.REPLAY_ACTIVE
    else
      let a := s.arg n 1
      let x := if a = 0 then recParseAll s.recorder.inflow.length s.recorder.inflow else (s.recordsAt 0x400000000 a, s.recorder.inflow)
      let s := if a ≠ 0 ∧ !(s.admits 0x03A .read a 32) then s.refuseAccess 0x03A .read a 32 else s
      giving (s.loadRecords x.1 x.2 (decide (a = 0)) begun (s.arg n 2)) (leBytes x.1.length 8))

/-! ### Start, stop, status, resume (R586, R595, R604) -/

/-- Whether the bench is as R595 asks: no partition, every wheel disabled, free-running time, and the `TILES` and the tokens of components
3 to 6 of `ORIGIN`. -/
def State.benchMatches (s : State) (r : RecItem) : Bool :=
  let v := r.data.drop 244
  let token := fun (l : List Byte) k => numAt l (16 + 24 * k + 12) 4
  (List.range 32).all (fun p => decide (s.fld (R.ACC_P_STATUS p) 0 2 = 0)) && !s.anyWheel && decide (s.fld R.TW_SRC 0 2 = 0) &&
    decide (numAt r.data 16 2 = s.tileCount) && [3, 4, 5, 6].all fun k => decide (token v k = token s.verBytes k)

/-- REPLAY_START: the bench matches, device time is stepped to `ORIGIN.TIME` − 1 ms, and the replay runs. -/
def execReplayStart (n : Nat) (s : State) : Host.Outcome State Fault Refusal :=
  ok (s.runCmd n 0x0802 (s.arg n 0 = 1) fun s =>
    if s.replaying then denied s ST.REPLAY_ACTIVE
    else
      match s.recorder.loaded, s.recorder.replayable with
      | r :: _, true =>
        if !(s.benchMatches r) then denied s ST.REPLAY_ORIGIN
        else
          let t := r.time - 1000000
          let s := (s.stepTime t).setRegN R.REPLAY_STATUS 2
          giving ((s.modRec fun x => { x with passed := 0, issued := [], seen := [] }).setRegN R.REPLAY_POS r.seq) (leBytes t 8)
      | _, _ => denied s ST.REPLAY_NO_ORIGIN)

/-- REPLAY_STOP: the `SEQ` reached is returned. -/
def execReplayStop (n : Nat) (s : State) : Host.Outcome State Fault Refusal :=
  ok (s.runCmd n 0x0802 (s.arg n 0 = 2) fun s =>
    giving (if s.replaying then s.replayStop else s) (leBytes (s.regN R.REPLAY_POS) 8))

/-- REPLAY_STATUS: the `SEQ` reached. -/
def execReplayStatus (n : Nat) (s : State) : Host.Outcome State Fault Refusal :=
  ok (s.runCmd n 0x0802 (s.arg n 0 = 3) fun s => giving s (leBytes (s.regN R.REPLAY_POS) 8))

/-- A halted device goes on; device time continues from its held value. -/
def State.resume (s : State) : State :=
  if s.bit R.SNAP_FRZ_CTRL 3 then
    ((s.setBit R.SNAP_FRZ_CTRL 3 false).setBit R.REPLAY_STATUS 3 false).setBit R.TW_CTRL 0 true
  else s

/-- REPLAY_RESUME: a halted device resumes; the device time of the resume is returned. -/
def execReplayResume (n : Nat) (s : State) : Host.Outcome State Fault Refusal :=
  ok (s.runCmd n 0x0802 (s.arg n 0 = 4) fun s => giving s.resume (leBytes s.now 8))

/-! ### Injection (R596) -/

/-- An effect with the stamp of a recorded arrival: it happens at device time `t`, and device time stays as it is. -/
def State.atTime (s : State) (t : Nat) (f : State → State) : State :=
  { f { s with time := BitVec.ofNat 96 (t * 2 ^ 32) } with time := s.time }

/-- A recorded camera frame: its bytes go where CAM would have written them, and its seal is CAM's. -/
def State.injectFrame (s : State) (i : Nat) (d : List Byte) : State :=
  let k := s.fld (R.CAM_STR_STATE i) 32 4
  let flags := numAt d 14 2
  let s := (s.hubSet 0x031 (s.camSlotAddr i k) d false).camOpened i k
  s.camBook i k (numAt d 8 4) (decide (flags &&& CF.gap ≠ 0)) (decide (flags % 2 = 1))

/-- A recorded Ethernet frame arrives with its recorded stamp. -/
def State.injectEth (s : State) (d : List Byte) : State :=
  let b := d.drop 9
  let (dmac, vlan, ptp, sync, udp) := Config.frameHead b
  s.ethAccept (numAt d 8 1) { dmac := dmac, vlan := vlan, ptp := ptp, sync := sync, udp := udp, bytes := b } (numAt d 0 8 * 65536)

/-- A recorded CAN frame arrives at its controller. -/
def State.injectCan (s : State) (d : List Byte) : State :=
  let n := numAt d 0 1 % 8
  let h := (d.drop 1).take 16
  let f : CanFrame := { id := Config.canId h, xl := decide (Config.canFormat h = 2), fd := decide (Config.canFormat h = 1), data := d.drop 17 }
  match s.canMatch n f with
  | some (k, a) => if a = 0 then s else s.canDeliver n k a f
  | none => s

/-- A recorded SENT word or SPI frame arrives. -/
def State.injectSample (s : State) (sub : Nat) (d : List Byte) : State :=
  if sub < 8 then s.sentWordIn sub (leNat d) else s.spiFrameIn ((sub - 8) % 4) ((sub - 8) / 4) (leNat d)

/-- A recorded filtered change or chatter entry of a pin. -/
def State.injectEdge (s : State) (d : List Byte) : State :=
  let p := numAt d 0 1
  let on := decide (numAt d 1 1 = 1)
  if numAt d 2 1 = 1 then s.pinChatters p
  else ((s.setBit (R.GPIO_PIN_STATE p) 1 false).modPin p fun x => { x with changeAt := some s.age }).pinTake p on

/-- A recorded arrival as its interface would have brought it; marks and commands are found by their keys and only passed. -/
def State.injectRec (s : State) (r : RecItem) : State :=
  match r.typ with
  | 0x02 => s.injectFrame (r.sub % 64) r.data
  | 0x03 => s.injectEth r.data
  | 0x04 => s.injectCan r.data
  | 0x05 => s.injectSample r.sub r.data
  | 0x06 => s.injectEdge r.data
  | _ => s

/-- The replay passes its next record. -/
def State.passRec (s : State) : State :=
  let s := s.modRec fun r => { r with passed := r.passed + 1 }
  match s.recorder.loaded[s.recorder.passed]? with
  | some r => s.setRegN R.REPLAY_POS r.seq
  | none => s

/-- More of a streamed recording has come in while its replay runs. -/
def State.moreStream (s : State) : State :=
  if s.recorder.streamed then
    let x := recParseAll s.recorder.inflow.length s.recorder.inflow
    s.modRec fun r => { r with loaded := r.loaded ++ x.1, inflow := x.2 }
  else s

/-- REPLAY_INJECT: the replay reaches its next record once device time has reached `TIME`: an arrival is stamped with it; `inTime` says
whether its write was complete by then (R596). A `GAP` stops the replay (R599). -/
def execReplayInject (inTime : Bool) (s : State) : Host.Outcome State Fault Refusal :=
  ok (let s := s.moreStream
    match s.recorder.loaded[s.recorder.passed]? with
    | some r =>
      if !s.replaying ∨ s.now < r.time then s
      else if r.typ = 0x0E then (s.postC ST.REPLAY_GAP 0x07 0).replayStop
      else
        let s := (s.atTime r.time fun s => s.injectRec r).passRec
        if !inTime ∧ 2 ≤ r.typ ∧ r.typ ≤ 6 then (s.postC ST.REPLAY_INJECT_LATE 0x07 0).diverge r.seq 0 0 0 else s
    | none => s)

end Sys2Proof.Machine
end

