-- ==== Sys2Proof/Machine/Snapshot.lean ====
section
/-! DEFINITION. The freeze (R582 to R586), the snapshot registers (R587) and their readout (R588). -/

namespace Sys2Proof.Machine

/-! ### What the units latch (R587) -/

/-- The sections of a snapshot: the tile record of every tile in service, the routers of each die, and one for each unit of the hub.
Kind 9 is a unit's snapshot registers, kind 10 a die's routers. -/
def State.snapSections (s : State) : List Section :=
  let blocks := (List.range 64).filter s.inService
  tileSections (blocksTiles blocks) ++ ((List.range 4).map fun d => { unit := 0x10 + d, kind := 10 }) ++
    ([0x02, 0x01, 0x05, 0x08, 0x03, 0x1D, 0x1E, 0x18, 0x19, 0x1A, 0x1B, 0x1C, 0x21, 0x20, 0x1F].map fun u => { unit := u, kind := 9 })

/-- A register of `n` bytes at each index below `k`. -/
def State.regList (s : State) (f : Nat → Nat) (k n : Nat) : List Byte := (List.range k).flatMap fun i => leBytes (s.regN (f i)) n

/-- The last flit of every router of a die that has passed one: the tile, the route's ends and the cycle. -/
def State.routerData (s : State) (d : Nat) : List Byte :=
  (s.tiles.filter fun x => decide (x.1 / 512 = d)).flatMap fun x =>
    match x.2.lastFlit with
    | some (a, b, c) => leBytes x.1 2 ++ leBytes a 2 ++ leBytes b 2 ++ leBytes c 8
    | none => []

/-- Device time and the time unit. -/
def State.snapTw (s : State) : List Byte :=
  leBytes s.time.toNat 12 ++ leBytes (s.regN R.TW_RATE) 4 ++ s.regList R.TW_W_NEXT 8 8 ++ s.regList R.TW_W_PERIODS 8 4 ++
    s.regList R.TW_W_CTRL 8 4 ++ s.regList R.TW_HO_STATE 1024 8 ++ s.regList R.TW_OS_STATUS 256 8 ++ s.regList R.TW_OS_DEADLINE 256 8

/-- The running solve: slot, iteration and best residual. -/
def State.snapSolve (s : State) : List Byte :=
  match s.solRun with
  | some r => leBytes r.start.slot 1 ++ leBytes r.k 1 ++ leBytes r.bestC.toNat 4
  | none => []

/-- The state variables of a control channel. -/
def chanVars (c : Channel) : List Byte :=
  [c.mPrev, c.rPrev, c.i, c.d, c.yPrev, c.z11, c.z12, c.z21, c.z22].flatMap fun w => leBytes w.toNat 4

/-- The frames waiting on an Ethernet port by traffic class (the express queue last) and its active gate bank. -/
def State.snapEth (s : State) (p : Nat) : List Byte :=
  let e := s.eth p
  leBytes (s.regN (R.ETH_P_STATUS p)) 4 ++
    ((List.range 8).flatMap fun c =>
      leBytes (e.queue.filter fun f => decide ((if f.ptp then 7 else (f.cls.getD (Config.trafficClass f.bytes)) % 8) = c)).length 2) ++
    leBytes e.express.length 2 ++ leBytes (b2n e.activeB) 1

/-- A section's items as they stand (R587). The manual gives the layout of a tile record alone; the others are the model's (log entry
42). What a host hart holds is the core's own: a free value. -/
def State.snapData (s : State) (x : Section) : List Byte :=
  if x.kind = 0 then s.tileRecord x.subsource
  else if x.kind = 10 then s.routerData (x.unit - 0x10)
  else
    match x.unit with
    | 0x02 => s.snapTw
    | 0x01 => s.regList R.SUP_MB_STATE 16 4 ++ s.regList R.SUP_MB_REQ_SEQ 16 4
    | 0x05 => leBytes (s.regN R.ERR_STATUS) 4 ++ leBytes (s.regN R.ERR_LADDER) 8 ++ s.collector.flatMap fun r => leBytes r.seq 4
    | 0x08 => s.regList R.ACC_P_STATUS 32 8 ++ s.regList R.ACC_P_JOB 2048 8
    | 0x03 => leBytes (s.regN R.PMU_TMAX) 4 ++ s.regList R.PMU_D_STATUS 24 4 ++ s.regList R.PMU_RAIL_MEAS 16 4
    | 0x1D => leBytes (s.regN R.SOL_STATUS) 4 ++ s.regList R.SOL_SLOT_STATE 8 8 ++ s.snapSolve
    | 0x1E => s.regList R.CTL_CH_STATE 8 4 ++ (List.range 8).flatMap fun i => chanVars (s.chan i)
    | 0x18 => s.regList R.PIX_LANE_STATE 4 8
    | 0x19 => s.regList R.CAM_STR_STATE 64 8 ++
        s.camStrs.flatMap fun y => match y.2.frame with
          | some g => leBytes y.1 1 ++ leBytes g.lines 2
          | none => []
    | 0x1A => (List.range 4).flatMap s.snapEth
    | 0x1B => s.regList R.CAN_STATUS 8 4 ++ s.regList R.CAN_TX_REQ 8 4
    | 0x1C => s.regList R.BAM_P_STATUS 6 4 ++ leBytes (s.regN R.BAM_STATUS) 4 ++ s.regList R.BAM_MIR_STATE 32 8
    | 0x21 => s.regList R.KVD_POOL_STEP 32 8 ++ s.regList R.KVD_POOL_FREE 32 8
    | 0x20 => s.regList R.GPIO_PIN_STATE 51 4
    | 0x1F => (List.range 16).flatMap fun h => leBytes (Config.freeNat (s.fresh + h)) 9
    | _ => []

/-- Every unit latches; a unit whose domain is off latches nothing (R584, R588). -/
def State.latchAll (s : State) : List (Section × List Byte) :=
  s.snapSections.map fun x => if s.unitOff x.unit then ({ x with state := 3 }, []) else (x, s.snapData x)

/-! ### Requests (R582, R585) -/

/-- FREEZE_IN: an asserting edge of FREEZE_IN has been held for 200 ns; the request time is the edge's. -/
def execFreezeIn (s : State) : Host.Outcome State Fault Refusal := ok (s.freezeReq 0 (some 0) (s.now - 200))

/-- FABRIC_FREEZE_MESSAGE: a freeze message carrying F from a node; one that arrives after F is late. -/
def execFabricFreezeMessage (node f : Nat) (s : State) : Host.Outcome State Fault Refusal :=
  ok (if !(s.bit R.SNAP_FRZ_CFG 8) then s
    else
      let t := s.freezeAt 4 (node % 64) f
      if f < s.now then (t.modFrz fun z => { z with late := z.late || decide (t.regN R.SNAP_FRZ_PEND = f) }).postC ST.SNAP_FABRIC_LATE 0x06 0
      else t)

/-- TAP_FREEZE_REQUEST: a freeze request through the TAP, under the observe right (R602). Its source number is not stated: a free
value. -/
def execTapFreezeRequest (f : Nat) (s : State) : Host.Outcome State Fault Refusal :=
  ok (if s.bit R.SNAP_DBG_STATE 0 then s.draw.2.freezeReq (Config.freeNat s.fresh % 8) none f else s)

/-- SNAP_TRIGGER: requests a freeze at a device time, or at the start of the next service round. A time 2^31 ns or more away is refused
(R40). -/
def execSnapTrigger (n : Nat) (s : State) : Host.Outcome State Fault Refusal :=
  ok (s.runCmd n 0x0800 true fun s =>
    let a := s.arg n 0
    if a ≠ 0 ∧ (s.now + 2 ^ 31 ≤ a ∨ a + 2 ^ 31 ≤ s.now) then denied s ST.TIME_RANGE
    else
      let t := if a = 0 then s.roundNext else a
      giving (s.freezeReq 3 none t) (leBytes (s.freezeLead t) 8))

/-! ### The edge (R584, R586) -/

/-- SNAP is armed again. -/
def State.arm (s : State) : State := s.setBit R.SNAP_FRZ_CTRL 1 true

/-- After a freeze: the readout begins, or with none to do SNAP re-arms under `AUTO_REARM` (R588). -/
def State.afterFreeze (s : State) : State :=
  if s.regN R.SNAP_DST_SIZE ≠ 0 then (s.modFrz fun z => { z with readout := some s.age }).setBit R.SNAP_FRZ_CTRL 4 true
  else if s.bit R.SNAP_FRZ_CFG 10 then s.arm
  else s

/-- The halt of a freeze: when R586 allows it, else a set `HALT` leaves a record. -/
def State.haltOrNot (s : State) : State :=
  if s.haltAllowed then s.halt
  else if s.bit R.SNAP_FRZ_CFG 9 then s.postC ST.SNAP_HALT_REFUSED 0x06 0
  else s

/-- The registers of a freeze that takes effect now. -/
def State.freezeRegs (s : State) : State :=
  let s := ((s.setBit R.SNAP_FRZ_CTRL 1 false).setBit R.SNAP_FRZ_CTRL 2 false).setRegN R.SNAP_FRZ_TIME s.now
  (s.setRegN R.SNAP_FRZ_SRC (s.frz.source % 8 + s.frz.node % 64 * 16 + b2n s.frz.late * 4096)).incReg R.SNAP_CNT

/-- FREEZE_EDGE: the launch edge on which a pending freeze takes effect. FREEZE_OUT is high for 1 µs from t_FS after it, 7 to 9 ns. -/
def execFreezeEdge (s : State) : Host.Outcome State Fault Refusal :=
  ok (if s.bit R.SNAP_FRZ_CTRL 2 ∧ s.regN R.SNAP_FRZ_PEND + launchOffset ≤ s.now then
    let s := s.modFrz fun z =>
      { z with snapshot := s.latchAll, disarmedRun := false, outUntil := some (s.age + fsyncDelay (s.fresh + 16) + 1000) }
    let s := { s with fresh := s.fresh + 17 }
    let s := (s.freezeRegs).each (List.range 64) fun s b => s.chunkAbort b false
    s.haltOrNot.afterFreeze
  else s)

/-- FREEZE_OUT_END: the pulse has lasted 1 µs. -/
def execFreezeOutEnd (s : State) : Host.Outcome State Fault Refusal :=
  ok (match s.frz.outUntil with
  | some t => if t ≤ s.age then s.modFrz fun z => { z with outUntil := none } else s
  | none => s)

/-! ### Readout (R588) -/

/-- What the readout writes: every latched section but the routers', which have no place in its size. -/
def State.readoutList (s : State) : List (Section × List Byte) := s.frz.snapshot.filter fun x => decide (x.1.kind ≠ 10)

/-- When each section is first accessed and the latest end of a path, in 1/32 ns from the start: paths begin after 2 µs and read 6.4 GB/s
each (R508). -/
def readoutTimes (l : List (Section × List Byte)) : List (Section × List Byte × Nat) × Nat :=
  let r := l.foldl (fun (a : List (Section × List Byte × Nat) × SMap Nat) x =>
    let t := mget 64000 a.2 (pathOf x.1)
    (a.1 ++ [(x.1, x.2, t)], minsert a.2 (pathOf x.1) (t + 5 * x.2.length))) ([], [])
  (r.1, r.2.foldl (fun m x => max m x.2) 64000)

/-- A section of the readout as bytes, cut to its header in state 2 when it does not fit. -/
def snapSectionBytes (start : Nat) (fits : Bool) (x : Section × List Byte × Nat) : List Byte :=
  let d := if fits then x.2.1 else []
  leBytes x.1.unit 1 ++ leBytes x.1.subsource 2 ++ leBytes (if fits then x.1.state else 2) 1 ++ leBytes d.length 4 ++
    leBytes (start + x.2.2 / 32) 8 ++ pad64 d

/-- The sections of the readout in so many bytes, room being kept for the headers of those that follow, and whether all of them are
whole. -/
def snapFit (start : Nat) : Nat → List (Section × List Byte × Nat) → List (List Byte) × Bool
  | _, [] => ([], true)
  | room, x :: r =>
    let whole := snapSectionBytes start true x
    let head := snapSectionBytes start false x
    if whole.length + 16 * r.length ≤ room then
      let y := snapFit start (room - whole.length) r
      (whole :: y.1, y.2)
    else if head.length ≤ room then (head :: (snapFit start (room - head.length) r).1, false)
    else ([], false)

/-- The readout written, with the two records it may leave. -/
def State.writeSnapshot (s : State) (start : Nat) : State :=
  let x := readoutTimes s.readoutList
  let y := snapFit start (s.regN R.SNAP_DST_SIZE * 1024 - 64) x.1
  let b := dumpBytes s.dumpSeq.1 (if s.frz.source = 2 then s.frz.cause else 0) 3 false s.frz.late start s.now y.1
  let s := (s.snapWrite (s.regN R.SNAP_DST_BASE) b).1
  let s := if y.2 then s else s.postC ST.SNAP_TRUNCATED 0x06 0
  s.postC ST.SNAP_DONE 0x06 0

/-- SNAPSHOT_READOUT_DONE: the readout has lasted its time, not counting dumps that paused it; SNAP re-arms under `AUTO_REARM`. -/
def execSnapshotReadoutDone (s : State) : Host.Outcome State Fault Refusal :=
  ok (match s.frz.readout with
  | some t =>
    if s.dump.isNone ∧ t + ((readoutTimes s.readoutList).2 + 31) / 32 ≤ s.age then
      let s := (s.writeSnapshot (s.timeOf t)).modFrz fun z => { z with readout := none }
      let s := s.setBit R.SNAP_FRZ_CTRL 4 false
      if s.bit R.SNAP_FRZ_CFG 10 then s.arm else s
    else s
  | none => s)

/-- The behaviour of a write of `SNAP_FRZ_CTRL`: `ARM` arms SNAP unless a readout runs (R588). -/
def actArm (s : State) (v : Nat) : State × Option Status :=
  accept (if v % 2 = 1 ∧ !(s.bit R.SNAP_FRZ_CTRL 4) then s.arm else s)

/-- SNAP_ARM: a write of `SNAP_FRZ_CTRL` (R588). -/
def execSnapArm (m : Nat) (v : Dword) (s : State) : Host.Outcome State Fault Refusal :=
  ok (s.regBus m R.SNAP_FRZ_CTRL 4 fun s => actArm s v.toNat)

end Sys2Proof.Machine
end

