-- ==== Sys2Proof/Machine/RegOps.lean ====
section
/-! DEFINITION. What a read or a write of a listed register does, whichever master makes it: the register maps' types and ranges, the fields that are computed when read, and the behaviour of every register that does more than hold its bits. -/

namespace Sys2Proof.Machine

/-! ### Absent ports (R371) -/

/-- The instance of a piece's row. -/
def instOf (u : Nat) (r : RegRow) (first : Nat) : Nat := (first - (unitBase u + r.off)) / (max 1 r.s1)

/-- The port mask that governs a row, for the port registers of CAM, ETH and BAM. -/
def State.portMaskOf (s : State) (u off : Nat) : Option Nat :=
  if u = 0x19 ∧ (off = 0x100 ∨ off = 0x108) then some s.boot.part.camMask
  else if u = 0x1A ∧ 0x100 ≤ off ∧ off < 0x200 then some s.boot.part.ethMask
  else if u = 0x1C ∧ 0x100 ≤ off ∧ off < 0x300 then some s.boot.part.bamMask
  else none

/-- Whether a register belongs to an absent port. -/
def State.portAbsent (s : State) (r : RegRow) (first : Nat) : Bool :=
  s.boot.partOk &&
    match s.portMaskOf (unitOf first) r.off with
    | some k => decide (k / 2 ^ instOf (unitOf first) r first % 2 = 0)
    | none => false

/-! ### Reads -/

/-- `ERR_LADDER` (R528): the rung running, its target unit and partition, and the microseconds since its start. -/
def State.ladderValue (s : State) : Nat :=
  match s.rungs with
  | [] => 0
  | g :: _ =>
    let p := match g.target with
      | .job p _ => p
      | .partition p => p
      | _ => 0
    g.rung % 8 + g.unit % 256 * 2 ^ 8 + p % 32 * 2 ^ 16 + ((s.age - g.start) / 1000) % 2 ^ 32 * 2 ^ 32

/-- The resets of the last 10 s in the bits that show them (R528). -/
def State.recentField (s : State) (first : Nat) : Nat :=
  let k := if first < R.ERR_U_RESETS 0 then (first - R.ERR_P_RESETS 0) / 8 else 32 + (first - R.ERR_U_RESETS 0) / 8
  putBits (s.regN first) 0 2 (min 3 (s.recentResets k).length)

/-- A register's 8-byte piece as a read by master `m` finds it: the fields of device time (R37, R69), the pixel window (R223) and
the counts of the error registers (R528) as of now, every other register as it is held. -/
def State.pieceValue (s : State) (m first base : Nat) : Nat :=
  let h := mget {} s.holds m
  if first = R.TW_TIME_LO then s.timeLo
  else if first = R.TW_TIME_HI then (if h.hiHeld then h.hi.toNat else s.now / 2 ^ 32)
  else if first = R.TW_FRAC then (if h.fracHeld then h.frac.toNat else s.time.toNat % 2 ^ 32)
  else if first = R.TW_SHORT then shortOf s.now
  else if first = R.PIX_WINDOW_PIX then s.pixRecent
  else if first = R.ERR_LADDER then s.ladderValue
  else if R.ERR_P_RESETS 0 ≤ first ∧ first < R.ERR_U_RESETS 0 + 8 * 64 then s.recentField first
  else s.regN base

/-- What a read leaves behind: the latches of device time (R37). -/
def State.afterRead (s : State) (m first : Nat) : State :=
  if first = R.TW_TIME_LO then s.latchTime m
  else if first = R.TW_TIME_HI then { s with holds := mmod {} s.holds m fun h => { h with hiHeld := false } }
  else if first = R.TW_FRAC then { s with holds := mmod {} s.holds m fun h => { h with fracHeld := false } }
  else s

/-- The place of an aperture byte in the chosen controller's message RAM (R418). -/
def State.aperture (s : State) (off : Nat) : Nat × Nat :=
  (s.fld R.CAN_RAM_SEL 0 3, s.fld R.CAN_RAM_SEL 3 1 * 0x8000 + off)

/-- One piece read: its bytes (R8, R27, R148, R371). -/
def State.readPiece (s : State) (m : Nat) (p : Piece) : List Byte × State :=
  match p.row with
  | none => (s.canRam (s.aperture p.off).1 (s.aperture p.off).2 p.len, s)
  | some r =>
    if s.portAbsent r p.first ∨ r.wo then (List.replicate p.len 0#8, s)
    else
      let s := if r.tmr then s.vote p.base else s
      (((leBytes (s.pieceValue m p.first p.base) p.size).drop p.off).take p.len, s.afterRead m p.first)

/-- The pieces of an access read in ascending order. -/
def State.readPieces (s : State) (m : Nat) : List Piece → List Byte × State
  | [] => ([], s)
  | p :: r =>
    let (d, s) := s.readPiece m p
    let (l, s) := State.readPieces s m r
    (d ++ l, s)

/-! ### Writes -/

/-- A register's value after a write of `v`: the bits that writes store, and the bits that a 1 sets. -/
def storedValue (r : RegRow) (old v : Nat) : Nat := ((old &&& (2 ^ 64 - 1 - r.wmask)) ||| (v &&& r.wmask)) ||| (v &&& r.w1s)

/-- Whether a value lies in the range that the register's description states. -/
def inRange (r : RegRow) (v : Nat) : Bool := decide (r.lo ≤ v ∧ v ≤ r.hi) || (r.zero && decide (v = 0))

/-- A plain write; a value outside the stated range leaves the register (log entry 43). -/
def State.plainWrite (s : State) (r : RegRow) (base v : Nat) : State :=
  if inRange r v then s.setRegN base (storedValue r (s.regN base) v) else s

/-- A write that the register takes only under a condition and else ignores. -/
def State.writeWhile (s : State) (good : Bool) (r : RegRow) (base v : Nat) : State × Option Status :=
  accept (if good then s.plainWrite r base v else s)

/-- Whether an engine is held after its third reset (R520): `EN` then cannot be set. -/
def State.engineHeld (s : State) (u : Nat) : Bool := s.bit (R.ERR_U_RESETS u) 4

/-- `TW_CTRL` (R38): `PTP_EN` is stored, `RUN` can be set but not cleared, and not during a halt. -/
def State.runWrite (s : State) (v : Nat) : State :=
  let s := s.setFld R.TW_CTRL 1 1 (bitsOf v 1 1)
  if v % 2 = 1 ∧ !(s.bit R.SNAP_FRZ_CTRL 3) then s.setBit R.TW_CTRL 0 true else s

/-- A SENT input's configuration: with `EN` set the time since its last valid message counts from now. -/
def State.sentWrite (s : State) (r : RegRow) (j base v : Nat) : State :=
  let was := s.bit base 0
  let s := s.plainWrite r base v
  if !was && s.bit base 0 then s.modSent j fun x => { x with validAt := s.age } else s

/-- A mirror channel enabled through a register write: what the remote descriptor's `PRODUCER` reads is a free value. -/
def State.mirrorFree (s : State) (c v : Nat) : State × Option Status :=
  s.draw.2.mirrorWrite c v (Config.freeNat s.fresh % 1024)

/-- A twin binding enabled through a register write: what the partner reports is free. -/
def State.twinFree (s : State) (k v : Nat) : State × Option Status :=
  s.draw.2.draw.2.twinWrite k v (Config.freeNat s.fresh) (BitVec.ofNat 64 (Config.freeNat (s.fresh + 1)))

/-- Registers of time, wheels and streams (R34 to R51, R59, R69, R486). -/
def State.actTime (s : State) (m : Nat) (r : RegRow) (base i v : Nat) : State × Option Status :=
  match r.act with
  | .timeRun => accept (s.runWrite v)
  | .rate => actRate s v
  | .source => s.writeWhile (decide (v % 4 ≠ 3)) r base v
  | .stepGo => actStepGo s v
  | .wheelCtrl => actWheelCtrl i s v
  | .wheelBase => actWheelBase i s v
  | .publish => accept (s.publish m (bitsOf v 0 10) (bitsOf v 16 2))
  | .streamCfg => actStream i s v
  | .streamOff => s.writeWhile (!(s.osEn i)) r base v
  | _ => accept s

/-- Registers of configuration, power, safety, debug, recording, repair and the host cluster (R96, R336, R528, R549, R553, R574, R579,
R602, R605). -/
def State.actSystem (s : State) (r : RegRow) (base i v : Nat) : State × Option Status :=
  match r.act with
  | .safeKick => accept (actKick s)
  | .attest => actAttest s v
  | .fabricLimit => actFabricLimit s v
  | .standby => actStandby s v
  | .spread => s.writeWhile ((List.range 6).all fun p => !(s.bit (R.BAM_P_CFG p) 0)) r base v
  | .domain => actDomain i s v
  | .freezeArm => actArm s v
  | .debugLock => actDebugLock s
  | .recCfg => s.writeWhile (!(s.bit R.REC_STATUS 0)) r base v
  | .hartTimeout => accept ((s.plainWrite r base v).hartKicked i)
  | .hartKick => accept (s.hartKicked i)
  | _ => accept s

/-- Registers of the engines, the vehicle ports and the fabric links (R150, R223, R265, R288, R311, R418, R440). -/
def State.actUnit (s : State) (u : Nat) (r : RegRow) (base i v : Nat) : State × Option Status :=
  let held := s.engineHeld u
  match r.act with
  | .repair => s.writeWhile (!(s.bit (R.CD_CTRL (u - 0x10)) 0)) r base v
  | .cetClear => accept (s.clearCet (if u = 0x1F then 15 else u - 0x10) v)
  | .engine => accept (s.plainWrite r base (if held then putBits v 0 1 0 else v))
  | .camPort => actCamPort i s v
  | .camStream => actCamStr i s v
  | .fsyncMode => s.writeWhile (decide (v % 4 ≠ 3)) r base v
  | .ethTable => actEthTbl s v
  | .canCtrl => actCanCtrl i s v
  | .canRam => actCanRam i s v
  | .canTx => actCanTx i s v
  | .bamCtrl => s.bamCtrlWrite (if held then putBits v 0 1 0 else v)
  | .bamPort => s.bamCfgWrite i v
  | .mirror => s.mirrorFree i v
  | .twin => s.twinFree i v
  | .solSlot => s.solConfig i v
  | .testGen => s.tgWrite v
  | .captureCfg => s.capWrite v
  | .channel => s.chCfgWrite i v
  | .channelOff => s.chOffWrite i base v
  | .sentCfg => accept (s.sentWrite r i base v)
  | .kvRegion => s.writeWhile (!(s.bit R.KVD_CTRL 0)) r base v
  | _ => accept s

/-- Which of the three groups a behaviour belongs to. -/
def actGroup : RegAct → Nat
  | .timeRun | .rate | .source | .stepGo | .wheelCtrl | .wheelBase | .publish | .streamCfg | .streamOff => 0
  | .safeKick | .attest | .fabricLimit | .standby | .spread | .domain | .freezeArm | .debugLock | .recCfg | .hartTimeout | .hartKick => 1
  | _ => 2

/-- A whole register value written by master `m`. -/
def State.writeValue (s : State) (m : Nat) (r : RegRow) (first base v : Nat) : State × Option Status :=
  let u := unitOf first
  let i := instOf u r first
  if r.act = .plain then accept (s.plainWrite r base v)
  else if r.act = .sequence then s.submit i (v % 2 ^ 32)
  else if actGroup r.act = 0 then s.actTime m r base i v
  else if actGroup r.act = 1 then s.actSystem r base i v
  else s.actUnit u r base i v

/-- Bytes patched into a list at an offset. -/
def patchBytes (l : List Byte) (off : Nat) (d : List Byte) : List Byte := l.take off ++ d ++ l.drop (off + d.length)

/-- One piece written: a write of some bytes of a register leaves its others as they are held. -/
def State.writePiece (s : State) (m : Nat) (p : Piece) (d : List Byte) : State × Option Status :=
  match p.row with
  | none =>
    let (n, o) := s.aperture p.off
    accept (s.modCan n fun c => { c with ram := canRamSet c.ram o d })
  | some r =>
    if s.portAbsent r p.first then refuse s ST.UNIT_ABSENT
    else if r.act = .request then s.writeRequest (instOf (unitOf p.first) r p.first) (p.base - p.first + p.off) d
    else
      let old := if r.wo then 0 else s.regN p.base
      s.writeValue m r p.first p.base (leNat (patchBytes (leBytes old p.size) p.off d))

/-- The pieces of an access written in ascending order; the first that refuses ends it. -/
def State.writePieces (s : State) (m : Nat) : List Piece → List Byte → State × Option Status
  | [], _ => accept s
  | p :: r, d =>
    match s.writePiece m p (d.take p.len) with
    | (s, some c) => (s, some c)
    | (s, none) => State.writePieces s m r (d.drop p.len)

/-- A write of the configuration space: refused by one register of several, it leaves them all unwritten. -/
def State.writeUnit (s : State) (m a len : Nat) (d : List Byte) : State × Option Status :=
  match piecesOf len a len with
  | none => refuse s ST.ADDR_UNMAPPED
  | some l =>
    match s.writePieces m l d with
    | (s', some c) => (if l.length = 1 then s' else s, some c)
    | x => x

/-- A read of the configuration space. -/
def State.readUnit (s : State) (m a len : Nat) : List Byte × State :=
  match piecesOf len a len with
  | none => (List.replicate len 0#8, s)
  | some l => s.readPieces m l

end Sys2Proof.Machine
end

