-- ==== Sys2Proof/Machine/Bus.lean ====
section
/-! DEFINITION. Accesses over the device address space (R22 to R33, R69, R135, R341 to R345, R609 to R611): reads, writes and fetches of DRAM, scratchpads and registers, remote accesses and Bamset packets (R30, R430 to R432), and the register commands of the mailboxes (R364, R367). -/

namespace Sys2Proof.Machine

/-! ### DRAM (R18, R123, R126 to R131, R143) -/

/-- The decode of the code page that holds an address, with `errs` symbol errors; a host channel's strength is t = 16. -/
def State.decodeAt (s : State) (a errs : Nat) : Decoded × State :=
  if errs = 0 ∨ s.pageGone a then (.good, s)
  else if a < hostBase then s.decodePage (a / 0x2000000) (a % 0x2000000 / 1024) errs false
  else
    let x : MemEvent := { die := 15, page := (pageOf a).2.2, tile := (pageOf a).2.1, syms := errs }
    if errs ≤ 16 then (.good, s.memEvent x)
    else if Config.freeNat s.fresh % 2 ^ 40 = 0 then
      (.wrong, s.draw.2.memEvent { x with syms := 1 + Config.freeNat (s.fresh + 1) % 16 })
    else (.failed, s.draw.2.memEvent { x with ue := true })

/-- A read of DRAM by a master outside the fabric, `errs` symbol errors in its first page. -/
def State.dramRead (s : State) (a n errs : Nat) : List Byte × Bool × State :=
  let (k, s) := s.decodeAt a errs
  let (d, p, s) := s.dramGet a n
  if k = .good then (d, p, s)
  else
    let j := min n (1024 - a % 1024)
    (leBytes (Config.freeNat s.fresh) j ++ d.drop j, p || decide (k = .failed), s.draw.2)

/-- The words of a partly written page whose read failed, stored as that read delivered them (R131). -/
def State.spoilAt (s : State) (a : Nat) (k : Decoded) : State :=
  if k = .good then s
  else
    s.each (List.range 16) fun s i =>
      s.draw.2.setLine (a / 1024 * 1024 + 64 * i) { data := BitVec.ofNat 512 (Config.freeNat s.fresh), poison := decide (k = .failed) }

/-- A write of DRAM by a master outside the fabric; a first page covered in part is read first, with `errs` symbol errors. -/
def State.dramWrite (s : State) (a : Nat) (d : List Byte) (p : Bool) (errs : Nat) : State :=
  let part := decide (a % 1024 ≠ 0) || decide (d.length < 1024)
  let (k, s) := if part then s.decodeAt a errs else (.good, s)
  (s.spoilAt a k).dramSet a d p

/-! ### Scratchpad windows (R24, R117, R132 to R135, R609) -/

/-- The words of a tile's scratchpad that a byte range touches. -/
def padRange (off n : Nat) : List Nat := (List.range ((off + n + 63) / 64 - off / 64)).map fun i => off / 64 + i

/-- A read through a scratchpad window. -/
def State.padGet (s : State) (t off n errs : Nat) : List Byte × Bool × State :=
  let (l, s) := s.padReads t (padRange off n) errs
  (((l.flatMap fun v => leBytes v.data.toNat 64).drop (off % 64)).take n, anyPois l, s)

/-- The new word `w` of a write of bytes `d` at `off`, over the word held there. -/
def padMerge (w off : Nat) (d : List Byte) (p : Bool) (old : VReg) : VReg :=
  let lo := max off (64 * w)
  let hi := min (off + d.length) (64 * w + 64)
  let new := patchBytes (leBytes old.data.toNat 64) (lo - 64 * w) ((d.drop (lo - off)).take (hi - lo))
  { data := BitVec.ofNat 512 (leNat new), poison := if hi - lo = 64 then p else old.poison || p }

/-- A write through a scratchpad window: a word covered in part is read first, the bit errors meeting the first. -/
def State.padSet (s : State) (t off : Nat) (d : List Byte) (p : Bool) (errs : Nat) : State :=
  s.each (padRange off d.length) fun s w =>
    let whole := decide (off ≤ 64 * w ∧ 64 * w + 64 ≤ off + d.length)
    let (old, s) := if whole then (({} : VReg), s) else s.padRead t w (if w = off / 64 then errs else 0)
    s.padWrite t w (padMerge w off d p old)

/-! ### The effect of an access that the checks admit -/

/-- The data of a write: as many bytes as its length says. -/
def fitData (d : List Byte) (len : Nat) : List Byte := (d ++ List.replicate len 0#8).take len

/-- A read or fetch served by its target. -/
def State.serveRead (s : State) (m a len errs : Nat) : State × Sum Status (List Byte × Bool) :=
  match targetOf a with
  | some (.spad t) =>
    let (d, p, s) := s.padGet t (a % 0x100000) len errs
    (s, .inr (d, p))
  | some (.unit _) =>
    let (d, s) := s.readUnit m a len
    (s, .inr (d, false))
  | _ =>
    let (d, p, s) := s.dramRead a len errs
    (s, .inr (d, p))

/-- A write served by its target. -/
def State.serveWrite (s : State) (m a : Nat) (d : List Byte) (poison : Bool) (errs : Nat) :
    State × Sum Status (List Byte × Bool) :=
  match targetOf a with
  | some (.spad t) => (s.padSet t (a % 0x100000) d poison errs, .inr ([], false))
  | some (.unit _) =>
    match s.writeUnit m a d.length d with
    | (s, some c) => (s, .inl c)
    | (s, none) => (s, .inr ([], false))
  | _ => (s.dramWrite a d poison errs, .inr ([], false))

/-- An access to a window of this device. -/
def State.local (s : State) (m : Nat) (k : AccessKind) (a len : Nat) (d : List Byte) (poison : Bool) (errs : Nat) : State :=
  s.viaBus m k a len fun s =>
    if k = .write then s.serveWrite m a (fitData d len) poison errs else s.serveRead m a len errs

/-! ### Remote accesses (R25, R30, R430 to R432) -/

/-- The number of the next remote access. -/
def State.nextRemote (s : State) : Nat := s.remotes.foldl (fun n x => max n (x.1 + 1)) 0

/-- The node number and fabric epoch of this device. -/
def State.ownNode (s : State) : Nat := s.fld R.BAM_STATUS 0 6
/-- The fabric epoch (R429). -/
def State.ownEpoch (s : State) : Nat := s.fld R.BAM_STATUS 16 8

/-- An access to a remote window: checked here, then sent; its completion or the timeout of R432 answers it. -/
def State.remoteAccess (s : State) (m : Nat) (k : AccessKind) (a len : Nat) (d : List Byte) (poison : Bool) (node : Nat) : State :=
  match s.windowCheck m a len with
  | .inl (c, u) => s.busFail m k a len c u
  | .inr _ =>
    if !(s.tableAllows 0x140 m k a len) then s.busDeny 0x140 m k a len
    else
      let id := s.nextRemote
      let wr := decide (k = .write)
      let r : Remote := { master := m, write := wr, addr := a, len := len, start := s.age }
      let s := { s with remotes := mset {} s.remotes id r }
      s.sendPacket 6
        { epoch := s.ownEpoch, dest := node, source := s.ownNode, id := id, write := wr, addr := a % 2 ^ 40,
          data := if wr then fitData d len else [], len := len, poison := wr && poison }

/-- An access of any master to any address. -/
def State.accessBy (s : State) (m : Nat) (k : AccessKind) (a len : Nat) (d : List Byte) (poison : Bool) (errs : Nat) : State :=
  match targetOf a with
  | some (.remote n) => s.remoteAccess m k a len d poison n
  | _ => s.local m k a len d poison errs

/-- ACCESS: a read, a write or an instruction fetch of `len` bytes by master `m`; `errs` are the bit or symbol errors of the first
word or page read. -/
def execAccess (m : Nat) (kind : AccessKind) (addr len : Nat) (data : List Byte) (poison : Bool) (errs : Nat) (s : State) :
    Host.Outcome State Fault Refusal :=
  ok (s.accessBy m kind addr len data poison errs)

/-- REGISTER_WRITE: a write of the register, or the 8-byte piece of a long one, that holds an address. -/
def execRegisterWrite (m addr : Nat) (v : Dword) (s : State) : Host.Outcome State Fault Refusal :=
  ok (match pieceAt addr 8 with
    | some p => s.local m .write p.base (min 8 p.size) (leBytes v.toNat 8) false 0
    | none => s.local m .write addr 4 (leBytes v.toNat 4) false 0)

/-- The completion of an access that arrived from another node: the reply it left, sent back. -/
def State.complete (s : State) (k : BamPacket) : State :=
  let r := s.reply
  s.sendPacket 6
    { epoch := s.ownEpoch, dest := k.source, source := s.ownNode, id := k.id, comp := some (if r.error then r.status else ST.OK),
      write := k.write, addr := k.addr, data := r.data, len := k.len, poison := r.poison }

/-- An access from another node (R30, R432): performed as that node's master, completed over the fabric. -/
def State.serveRemote (s : State) (k : BamPacket) : State :=
  let kept := s.reply
  let m := 0x300 + k.source % 64
  let s := s.local m (if k.write then .write else .read) k.addr k.len k.data k.poison 0
  let s := s.complete k
  { s with reply := kept }

/-- The completion of a remote access answers the master that waits for it (R432); one that nobody waits for any more is
discarded. -/
def State.remoteDone (s : State) (k : BamPacket) (c : Status) : State :=
  match s.remotes.lookup k.id with
  | none => s
  | some r =>
    let s := { s with remotes := merase s.remotes k.id }
    if c = ST.OK then s.answer r.master (if r.write then [] else fitData k.data r.len) k.poison
    else s.errorReply r.master c (if r.write then [] else List.replicate r.len 0#8)

/-- A packet of another epoch (R430). -/
def State.epochDrop (s : State) : State :=
  let s := s.incReg R.BAM_EPOCH_DROP_CNT
  if s.bamFlags.1 then s
  else ({ s with bamFlags := (true, s.bamFlags.2) }).postC ST.BAM_EPOCH_DROP 0x1C 0

/-- What the link reports of a packet: retried flits and corrected codewords (R424). -/
def State.linkCounts (s : State) (p : Nat) (k : BamPacket) : State :=
  let s := if k.retried then s.flitRetry p else s
  s.addReg (R.BAM_P_FEC_CNT p) k.fec

/-- BAM_PACKET_RECEIVE: a packet arrives on port `p`: dropped for its epoch, taken by this device, or routed on. -/
def execBamPacketReceive (p : Nat) (pkt : BamPacket) (s : State) : Host.Outcome State Fault Refusal :=
  let p := p % 6
  if !(s.linkOpen p) ∨ !(s.domainOn 13) then ok s
  else
    let s := s.linkCounts p pkt
    if pkt.epoch ≠ s.ownEpoch then ok s.epochDrop
    else if !(s.bit R.BAM_STATUS 6) ∨ pkt.dest ≠ s.ownNode then ok (s.sendPacket p pkt)
    else
      match pkt.comp with
      | some c => ok (s.remoteDone pkt c)
      | none => ok (s.serveRemote pkt)

/-- REMOTE_ACCESS_TIMEOUT: 50 µs without a completion (R432). -/
def execRemoteAccessTimeout (id : Nat) (s : State) : Host.Outcome State Fault Refusal :=
  match s.remotes.lookup id with
  | none => ok s
  | some r =>
    if s.age < r.start + 50000 then ok s
    else
      let s := { s with remotes := merase s.remotes id }
      let k : AccessKind := if r.write then .write else .read
      ok ((s.busFail r.master k r.addr r.len ST.BAM_TIMEOUT 0x1C).incReg R.BAM_TIMEOUT_CNT)

/-! ### Register commands (R364, R367, R371) -/

/-- The targets that `REG_WRITE` refuses (R367). -/
def protectedReg (u off : Nat) : Bool :=
  decide (u = 0x01 ∨ u = 0x04 ∨ u = 0x05 ∨ u = 0x08) ||
  (decide (0x10 ≤ u ∧ u ≤ 0x13) && decide (off < 0x8000 ∨ 0xB000 ≤ off)) ||
  (decide (u = 0x21) && decide (0x10 ≤ off ∧ off < 0x20)) ||
  (decide (u = 0x02) && decide (0x20 ≤ off ∧ off < 0x2C)) ||
  (decide (u = 0x03) && decide (R.PMU_P_ALLOC 0 ≤ unitBase 3 + off ∧ unitBase 3 + off < R.PMU_P_ALLOC 0 + 0x200))

/-- What stops a register command before its access: an undefined byte, a domain that is off, an absent port. -/
def State.regCmdStop (s : State) (u off w : Nat) : Option Status :=
  let a := unitBase u + off
  match s.windowCheck 1 a w with
  | .inl (c, _) => some c
  | .inr _ =>
    if s.unitOff u then some ST.PWR_DOMAIN_OFF
    else
      match piecesOf w a w with
      | some l => if l.any (fun p => match p.row with | some r => s.portAbsent r p.first | none => false) then
          some ST.UNIT_ABSENT else none
      | none => some ST.ADDR_UNMAPPED

/-- The values of consecutive registers, each extended to 8 bytes. -/
def State.regReads (s : State) (u off w : Nat) : Nat → List Byte × State
  | 0 => ([], s)
  | n + 1 =>
    let (d, s) := s.readUnit 1 (unitBase u + off) w
    let (l, s) := State.regReads s u (off + w) w n
    (fitData d 8 ++ l, s)

/-- REG_READ: consecutive registers of a unit; an absent port's read as zero. -/
def execRegRead (n : Nat) (s : State) : Host.Outcome State Fault Refusal :=
  ok (s.runCmd n 0x0004 true fun s =>
    let u := s.arg n 0
    let w := s.arg n 1
    let k := s.arg n 3
    match ((List.range k).filterMap fun i => s.regCmdStop u (s.arg n 2 + w * i) w).head? with
    | some c => if c = ST.UNIT_ABSENT then (s, .now c (List.replicate (8 * k) 0#8)) else denied s c
    | none =>
      let (d, s) := s.regReads u (s.arg n 2) w k
      giving s d)

/-- REG_WRITE: one register written as the supervisor, once the mailbox's owner passes the unit's table; a protected target is
refused whatever else stands against the write (R367). -/
def execRegWrite (n : Nat) (s : State) : Host.Outcome State Fault Refusal :=
  ok (s.runCmd n 0x0005 true fun s =>
    let u := s.arg n 0
    let w := s.arg n 1
    let a := unitBase u + s.arg n 2
    if (List.range w).any (fun i => protectedReg u (s.arg n 2 + i)) then denied s ST.MB_REG_PROTECTED
    else
      match s.regCmdStop u (s.arg n 2) w with
      | some c => denied s c
      | none =>
        if !(s.tableAllows u (s.mbOwner n) .write a w) then denied s ST.ACCESS_DENIED
        else
          match s.writeUnit 1 a w (leBytes (s.arg n 3) w) with
          | (s, some c) => (s, .now c [])
          | (s, none) => okay s)

end Sys2Proof.Machine
end

