-- ==== Sys2Proof/Machine/Control.lean ====
section
/-! DEFINITION. The control slot (R77 to R83, R108, R331), and the job watchdog (R503). -/

namespace Sys2Proof.Machine

/-! ### Loops -/

/-- `CDn_Tt_STATUS` bits 19:17 brought to the loop depth. -/
def State.showDepth (s : State) (t : Nat) : State := s.setFld (tStatus t) 17 3 ((s.tile t).stack.length % 8)

/-- A loop level opens; a ninth is refused (R80). -/
def State.pushLoop (s : State) (t : Nat) (f : LoopFrame) : State :=
  if 8 ≤ (s.tile t).stack.length then s.tileAbort t ST.TILE_ILLEGAL_OP 0
  else (s.modTile t fun x => { x with stack := f :: x.stack }).showDepth t

/-- A loop of `n` passes whose body begins at the next word; a count of 0 skips the body (R80). -/
def State.openLoop (s : State) (c : TCtl) (n : Nat) : State :=
  s.pushLoop c.tile { left := n, skip := decide (n = 0), start := (c.word + 1) % 4096 }

/-- A loop instruction: inside a skipped body it only opens a level of its own. -/
def State.loopIssue (s : State) (c : TCtl) (f : State → State) : State :=
  if !(s.canIssue c) then s
  else if skipping (s.tile c.tile) then s.pushLoop c.tile { skip := true }
  else s.fetched c f

/-- `LOOP`: a count of 24 bits (R77, R80). -/
def execLoop (c : TCtl) (count : Nat) (s : State) : Host.Outcome State Fault Refusal :=
  ok (s.loopIssue c fun s => s.openLoop c (count % 2 ^ 24))

/-- The expected end extended by a data-counted loop (R82). -/
def State.extendEnd (s : State) (t n : Nat) : State := s.setRegN (tExpend t) n

/-- `LOOPD` with the count word read (R81, R82, R136). -/
def State.loopData (s : State) (c : TCtl) (idx : Nat) (v : VReg) : State :=
  let t := c.tile
  let e := mget {} (s.tile t).loops (idx % 256)
  let n := bitsOf v.data.toNat 0 32
  if v.poison then s.bite t
  else if e.max < n then s.tileAbort t ST.TILE_LOOP_BOUND n
  else
    let k := n % 2 ^ 24
    let x := s.regN (tExpend t) + k * e.body
    if 2 ^ 48 - 1025 < x then s.tileAbort t ST.TILE_CYCLE_RANGE 0 else (s.extendEnd t x).openLoop c k

/-- `LOOPD`: the count stands in the lowest 32 bits of the scratchpad word its handle and offset name (R81). -/
def execLoopd (c : TCtl) (idx h off : Nat) (s : State) : Host.Outcome State Fault Refusal :=
  ok (s.loopIssue c fun s =>
    s.try' c.tile ((s.tile c.tile).wordAt h off) fun w =>
      s.claim c.tile [(c.cyc, w)] fun s =>
        let (v, s) := s.padRead c.tile w c.errs
        s.loopData c idx v)

/-- `ENDLOOP`: the back-edge, or the end of the level (R77, R80). -/
def State.closeLoop (s : State) (t : Nat) : State :=
  match (s.tile t).stack with
  | [] => s.tileAbort t ST.TILE_ILLEGAL_OP 0
  | f :: r =>
    if 1 < f.left ∧ !f.skip then
      (s.modTile t fun x => { x with stack := { f with left := f.left - 1 } :: r }).setFld (tStatus t) 4 12 f.start
    else (s.modTile t fun x => { x with stack := r }).showDepth t

/-- `ENDLOOP`. -/
def execEndloop (c : TCtl) (s : State) : Host.Outcome State Fault Refusal :=
  ok (if s.canIssue c then (if skipping (s.tile c.tile) then s.closeLoop c.tile else s.fetched c fun s => s.closeLoop c.tile) else s)

/-! ### Waits (R78, R331) -/

/-- A tile begins to wait. -/
def State.waitFor (s : State) (t : Nat) (e : WaitEvent) : State := s.modTile t fun x => { x with waiting := some e }

/-- A semaphore unit taken by a job. -/
def State.takeSem (s : State) (p j k : Nat) : State :=
  (s.modPart p fun q => { q with sems := mmod {} q.sems k fun (y : Semaphore) => { y with count := y.count - 1 } }).modJob p j
    fun x => { x with sems := x.sems ++ [k] }

/-- A link credit taken by a job. -/
def State.takeCredit (s : State) (p j k : Nat) : State :=
  (s.modPart p fun q => { q with credits := mmod {} q.credits k fun (y : Credit) => { y with holder := some j } }).modJob p j
    fun x => { x with credits := if k ∈ x.credits then x.credits else x.credits ++ [k] }

/-- `WAIT` for a job of a partition (R331). -/
def State.waitEvent (s : State) (t p j : Nat) (e : WaitEvent) : State :=
  let q := s.part p
  let col := s.colourOf p (s.jobSlice p j)
  match e with
  | .internal _ _ => s.waitFor t e
  | .semaphore i =>
    let y := mget {} q.sems (i % 256)
    if y.colour ≠ col then s.tileAbort t ST.CREDIT_COLOUR i
    else if y.count = 0 then s.waitFor t (.semaphore (i % 256))
    else s.takeSem p j (i % 256)
  | .credit i =>
    let y := mget {} q.credits (i % 64)
    if y.colour ≠ col then s.tileAbort t ST.CREDIT_COLOUR i
    else if y.holder.isSome ∧ y.holder ≠ some j then s.waitFor t (.credit (i % 64))
    else s.takeCredit p j (i % 64)

/-- `WAIT`. -/
def execWait (c : TCtl) (ev : WaitEvent) (s : State) : Host.Outcome State Fault Refusal :=
  ok (s.issue c fun s =>
    match (s.tile c.tile).job with
    | some (p, j) => s.waitEvent c.tile p j ev
    | none => s)

/-- The tiles of a partition's jobs that wait for an event. -/
def State.waiters (s : State) (p : Nat) (e : WaitEvent) : List (Nat × Nat) :=
  s.tiles.filterMap fun y =>
    match y.2.job with
    | some (q, j) => if q = p ∧ y.2.waiting = some e then some (y.1, j) else none
    | none => none

/-- A resource that has become free goes to a waiting tile: which of several is not stated, a free choice. -/
def State.handOver (s : State) (p : Nat) (e : WaitEvent) (take : State → Nat → State) : State :=
  let l := s.waiters p e
  match l with
  | [] => s
  | [(t, j)] => take (s.modTile t fun x => { x with waiting := none }) j
  | (t0, j0) :: _ =>
    let (t, j) := l.getD (Config.freeNat s.fresh % l.length) (t0, j0)
    take (s.draw.2.modTile t fun x => { x with waiting := none }) j

/-- The first place of a member left out of a list. -/
def dropOne (k : Nat) : List Nat → List Nat
  | [] => []
  | x :: r => if x = k then r else x :: dropOne k r

/-- `RELEASE` for a job of a partition (R331). -/
def State.releaseEvent (s : State) (p j : Nat) (e : WaitEvent) : State :=
  match e with
  | .internal _ _ => s
  | .semaphore i =>
    let k := i % 256
    let s := s.modPart p fun q =>
      { q with sems := mmod {} q.sems k fun (y : Semaphore) => { y with count := y.count + 1 } }
    let s := s.modJob p j fun x => { x with sems := dropOne k x.sems }
    s.handOver p (.semaphore k) fun s j => s.takeSem p j k
  | .credit i =>
    let k := i % 64
    if (mget {} (s.part p).credits k).holder ≠ some j then s
    else
      let s := s.modPart p fun q =>
        { q with credits := mmod {} q.credits k fun (y : Credit) => { y with holder := none } }
      let s := s.modJob p j fun x => { x with credits := dropOne k x.credits }
      s.handOver p (.credit k) fun s j => s.takeCredit p j k

/-- `RELEASE`. -/
def execRelease (c : TCtl) (ev : WaitEvent) (s : State) : Host.Outcome State Fault Refusal :=
  ok (s.issue c fun s =>
    match (s.tile c.tile).job with
    | some (p, j) => s.releaseEvent p j ev
    | none => s)

/-! ### HALF and END -/

/-- `HALF`: word 0 of the other half, or the abort of a job whose other half is not filled (R77, R83). -/
def execHalf (c : TCtl) (s : State) : Host.Outcome State Fault Refusal :=
  ok (s.issue c fun s =>
    let t := c.tile
    if (s.tile t).ifBusy then s.tileAbort t ST.TILE_IFETCH_LATE 0
    else (s.setBit (tStatus t) 16 (!(s.bit (tStatus t) 16))).setFld (tStatus t) 4 12 0)

/-- A tile retires `END` (R108, R504). -/
def State.retireEnd (s : State) (c : TCtl) : State :=
  let t := c.tile
  let e := s.regN (tExpend t)
  let s := s.modTile t fun x => { x with ended := true }
  if e = c.cyc then s else s.postTile ST.JOB_CYCLE_MISMATCH t (e % 2 ^ 48 + (c.cyc % 2 ^ 48) * 2 ^ 48)

/-- `END`: it retires once the tile's last write has committed on an earlier cycle; the last tile's completes the job (R108). -/
def execEndOp (c : TCtl) (s : State) : Host.Outcome State Fault Refusal :=
  ok (if (s.tile c.tile).dmaW.isEmpty ∧ (s.tile c.tile).lastCommit < c.cyc then
    s.issue c fun s =>
      let s := s.retireEnd c
      match (s.tile c.tile).job with
      | some (p, j) => if (s.jobTiles p j).all fun t => (s.tile t).ended then s.jobDone p j else s
      | none => s
  else s)

/-! ### The watchdog -/

/-- Whether a search replays a suspect on a partition (R526). -/
def State.replaysSuspect (s : State) (p : Nat) : Bool := s.searches.any fun x => decide (x.quar = some p)

/-- A tile's watchdog (R503): the counter has reached the expected end + 1,024; the instance's first such tile writes a record, but for a
replayed suspect, which the search watches (R526). -/
def State.hang (s : State) (t p j : Nat) : State :=
  let e := s.regN (tExpend t)
  let first := !((s.jobTiles p j).any fun k => (s.tile k).hung)
  let s := (s.setRegN (tCycle t) (e + 1024)).modTile t fun x => { x with hung := true }
  if first ∧ !(s.replaysSuspect p) then
    s.postTile ST.JOB_HANG t (e % 2 ^ 48 + s.fld (tStatus t) 4 12 * 2 ^ 48 + s.fld (tStatus t) 16 1 * 2 ^ 60)
  else s

/-- A running tile reaches its watchdog without having retired `END` (R503). -/
def execJobHang (t : Nat) (s : State) : Host.Outcome State Fault Refusal :=
  ok (match (s.tile t).job with
    | some (p, j) =>
      if s.tileState t = 2 ∧ (s.job p j).phase = .running ∧ !(s.tile t).ended ∧ !(s.tile t).hung ∧ !(s.bit R.SNAP_FRZ_CTRL 3)
      then s.hang t p j else s
    | none => s)

end Sys2Proof.Machine
end

