-- ==== Sys2Proof/Machine/KvCmd.lean ====
section
/-! DEFINITION. The KV directory's commands (R240 to R265): pools, contexts, the resolution of a step request, the plan and its publication, queries and the resynchronisation of a diverged pool. -/

namespace Sys2Proof.Machine

/-! ### Geometry (R240, R242) -/

/-- P, the tokens of a page (R240). -/
def KvPool.pageLen (q : KvPool) : Nat := if q.long then 256 else 16

/-- Bytes of one token's elements in one tile, E (R242): formats of 8 bits, or MXFP4 (code 0xB). -/
def KvPool.elemBytes (q : KvPool) : Nat := if q.fmt = 0xB then q.latent / (2 * q.g) else q.latent / q.g

/-- LB, the bytes of a layer region (R242). -/
def KvPool.layerBytes (q : KvPool) : Nat :=
  roundUp (q.pageLen * q.elemBytes) 64 + roundUp (q.pageLen * (q.latent / (32 * q.g))) 64

/-- FB, the bytes of a frame in each tile (R242). -/
def KvPool.frameBytes (q : KvPool) : Nat := q.layers * q.layerBytes

/-- The byte offset of a frame in its group's tiles (R242). -/
def KvPool.frameAt (q : KvPool) (f : Nat) : Nat := q.base + f / q.h * q.frameBytes

/-- Pages that a length needs (R240). -/
def KvPool.pages (q : KvPool) (len : Nat) : Nat := (len + q.pageLen - 1) / q.pageLen

/-- A partition's logical tiles in ascending ID (R242). -/
def State.tilesOf (s : State) (p : Nat) : List Nat :=
  (List.range 2048).filter fun t => s.bit (R.ACC_P_BLOCKS p) (blockOf t)

/-- The tiles of group `h` in a partition (R242). -/
def State.groupTiles (s : State) (q : KvPool) (p h : Nat) : List Nat := ((s.tilesOf p).drop (h * q.g)).take q.g

/-- Whether a pool exists. -/
def State.poolValid (s : State) (p : Nat) : Bool := s.bit (R.KVD_POOL_CFG p) 63

/-- The partitions a pool lies in. -/
def KvPool.parts (q : KvPool) : List Nat := q.partition :: q.twin.toList

/-! ### Pools (R241 to R243) -/

/-- The pool the arguments of `KV_POOL_CREATE` describe (R364). -/
def State.poolArgs (s : State) (n : Nat) : KvPool :=
  let a := s.arg n
  let q : KvPool :=
    { partition := a 1, twin := if a 2 = 255 then none else some (a 2), long := decide (a 3 = 1), latent := a 4, layers := a 5,
      fmt := a 6, g := a 7, h := a 8, base := a 9, s := a 10, lmax := a 11 }
  q

/-- The ranges of a pool's fields (R238, R240, R241). -/
def poolRanges (q : KvPool) (cls : Nat) : Bool :=
  decide (q.g ∈ [1, 2, 4, 8, 16, 32]) && decide (q.latent % 32 = 0 ∧ 128 ≤ q.latent ∧ q.latent ≤ 1024) &&
    decide (q.latent / q.g % 32 = 0 ∧ q.latent % q.g = 0) && decide (1 ≤ q.h ∧ q.h ≤ 128) &&
    decide (1 ≤ q.s ∧ q.h * q.s ≤ 2 ^ 20) && decide (q.base % 1024 = 0) && decide (cls ≤ 1) &&
    decide (q.fmt ∈ [0x7, 0x8, 0xB, 0xC]) && decide (1 ≤ q.layers ∧ q.layers ≤ 128) &&
    decide (0 < q.lmax ∧ q.lmax ≤ 65536 ∧ q.lmax % q.pageLen = 0) && decide (q.base + q.s * q.frameBytes ≤ 0x2000000)

/-- Whether a pool's region meets another pool of one of its partitions (R241). -/
def State.poolMeets (s : State) (q : KvPool) : Bool :=
  s.kvPools.any fun x =>
    x.2.parts.any (fun p => q.parts.contains p) &&
      decide (q.base < x.2.base + x.2.s * x.2.frameBytes ∧ x.2.base < q.base + q.s * q.frameBytes)

/-- Whether the creation of a pool keeps R241 and R264. -/
def State.poolOk (s : State) (q : KvPool) (cls : Nat) : Bool :=
  poolRanges q cls && q.parts.all (fun p => decide (q.h * q.g ≤ (s.tilesOf p).length)) && !(s.poolMeets q) &&
    (match q.twin with
     | some t => s.pairedDies q.partition t
     | none => true)

/-- The free lists at creation: group h holds h, h + H, h + 2H and so on (R243). -/
def freshFree (q : KvPool) : SMap (List Nat) := (List.range q.h).map fun h => (h, (List.range q.s).map fun i => h + i * q.h)

/-- `KVD_POOLp_CFG` of a pool (R265). -/
def poolCfg (q : KvPool) : Nat :=
  q.partition + b2n q.long * 2 ^ 5 + b2n q.twin.isSome * 2 ^ 6 + q.twin.getD 0 * 2 ^ 7 + (q.h - 1) * 2 ^ 12 + q.g * 2 ^ 19 +
    (q.layers - 1) * 2 ^ 25 + 2 ^ 63

/-- A KV command runs only while KVD is enabled (R265). -/
def State.kvCmd (s : State) (n code : Nat) (f : State → State × Done) : State :=
  s.runCmd n code true fun s => if s.bit R.KVD_CTRL 0 then f s else denied s ST.KV_CTX_STATE

/-- KV_POOL_CREATE: a pool comes into being with full free lists (R241 to R243). -/
def execKvPoolCreate (n : Nat) (s : State) : Host.Outcome State Fault Refusal :=
  ok (s.kvCmd n 0x0400 fun s =>
    let p := s.arg n 0
    let q := s.poolArgs n
    if q.parts.any fun k => decide (s.partState k ≠ 2) then denied s ST.PART_STATE
    else if s.poolValid p ∨ !(s.poolOk q (s.arg n 3)) then denied s ST.KV_POOL
    else
      let s := { s with kvPools := mset {} s.kvPools p { q with free := freshFree q } }
      let s := (s.setRegN (R.KVD_POOL_CFG p) (poolCfg q)).setRegN (R.KVD_POOL_STEP p) 0
      okay ((s.setRegN (R.KVD_POOL_FRAMES p) (q.h * q.s)).showFree p))

/-- KV_POOL_DESTROY: a pool without an open step ceases to exist, and its contexts are free. -/
def execKvPoolDestroy (n : Nat) (s : State) : Host.Outcome State Fault Refusal :=
  ok (s.kvCmd n 0x0401 fun s =>
    let p := s.arg n 0
    if !(s.poolValid p) then denied s ST.KV_POOL
    else if (s.pool p).step.isSome then denied s ST.KV_STEP_BUSY
    else
      let s := { s with kvPools := merase s.kvPools p, kvCtxs := s.kvCtxs.filter fun x => decide (x.2.pool ≠ p) }
      let s := (s.setRegN (R.KVD_POOL_CFG p) 0).setRegN (R.KVD_POOL_STEP p) 0
      let s := (s.setRegN (R.KVD_POOL_FRAMES p) 0).setRegN (R.KVD_POOL_FREE p) 0
      let s := if s.kvPools.any fun x => s.bit (R.KVD_POOL_STEP x.1) 33 then s else s.setAmber 5 false
      okay s.showCtxCount)

/-! ### Contexts (R244, R246) -/

/-- A context entry. -/
def State.ctx (s : State) (c : Nat) : KvCtx := mget {} s.kvCtxs c

/-- The bytes of the KV region that page tables may use: those between the directory and the frame tables (R244, R245). -/
def State.tableEnd (s : State) : Nat :=
  s.regN R.KVD_REGION_SIZE * 0x100000 - 4 * s.kvPools.foldl (fun k x => k + x.2.h * x.2.s) 0

/-- Whether a page table of `n` bytes at offset `o` lies in the room and meets no other. -/
def State.tableFits (s : State) (o n : Nat) : Bool :=
  decide (o + n ≤ s.tableEnd) && s.kvCtxs.all fun x => decide (o + n ≤ x.2.ptBase ∨ x.2.ptBase + 4 * x.2.ptCap ≤ o)

/-- Where a new page table of `n` bytes goes: the lowest place with room. The manual names no place (log entry 40). -/
def State.tablePlace (s : State) (n : Nat) : Option Nat :=
  ((0x200000 :: s.kvCtxs.map fun x => x.2.ptBase + 4 * x.2.ptCap).filter fun o => s.tableFits o n).foldl
    (fun (m : Option Nat) o => some (match m with | some k => min k o | none => o)) none

/-- KV_CTX_OPEN: a free context becomes open in a pool with length 0 (R246). -/
def execKvCtxOpen (n : Nat) (s : State) : Host.Outcome State Fault Refusal :=
  ok (s.kvCmd n 0x0402 fun s =>
    let c := s.arg n 0
    let p := s.arg n 1
    if !(s.poolValid p) then denied s ST.KV_POOL
    else if (s.ctx c).state ≠ 0 then denied s ST.KV_CTX_STATE
    else
      let cap := (s.pool p).lmax / (s.pool p).pageLen
      match s.tablePlace (4 * cap) with
      | none => denied s ST.KV_NO_TABLE
      | some o =>
        okay ({ s with kvCtxs := mset {} s.kvCtxs c { state := 1, pool := p, ptBase := o, ptCap := cap } }.showCtxCount))

/-! ### Step requests (R247, R248) -/

/-- An entry of a step request (R248). -/
structure KvReq where
  ctx  : Nat := 0
  op   : Nat := 0
  n    : Nat := 0
  src  : Nat := 0
  k    : Nat := 0
  list : Nat := 0
deriving DecidableEq, Repr, Inhabited

/-- An entry from its 128 bits (R248). -/
def kvReqOf (v : Nat) : KvReq :=
  { ctx := bitsOf v 0 16, op := bitsOf v 16 4, n := bitsOf v 32 16, src := bitsOf v 48 16, k := bitsOf v 64 17,
    list := 4 * bitsOf v 82 46 }

/-- How far a resolution has come: the pool, the contexts, and what the step has gathered (R249). -/
structure KvWork where
  q      : KvPool := {}
  ctxs   : SMap KvCtx := []
  items  : List KvItem := []
  copies : List KvCopy := []
  zeroed : List Nat := []
  rows   : Nat := 0
deriving DecidableEq, Repr, Inhabited

/-- Whether a reference names an allocated frame of the pool with its current generation (R263). -/
def refGood (q : KvPool) (f g : Nat) : Bool :=
  decide (f < q.h * q.s) && decide ((mget {} q.frames f).gen = g) && !((mget [] q.free (f % q.h)).contains f)

/-- A frame's count one higher (R252, R254). -/
def KvWork.up (w : KvWork) (f : Nat) : Except Status KvWork :=
  let e := mget {} w.q.frames f
  if 65535 ≤ e.count then .error ST.KV_REFCOUNT
  else .ok { w with q := { w.q with frames := mset {} w.q.frames f { e with count := e.count + 1, pending := false } } }

/-- A frame's count one lower; at 0 it awaits the epoch (R253, R254). -/
def KvWork.down (w : KvWork) (f : Nat) : KvWork :=
  let e := mget {} w.q.frames f
  let w := { w with q := { w.q with
    frames := mset {} w.q.frames f { e with count := e.count - 1, pending := decide (e.count ≤ 1) } } }
  if e.count ≤ 1 then { w with zeroed := w.zeroed.filter (fun x => decide (x ≠ f)) ++ [f] } else w

/-- A frame popped from a group's free list with count 1 (R251). -/
def KvWork.pop (w : KvWork) (h : Nat) : Option (Nat × KvWork) :=
  match mget [] w.q.free h with
  | [] => none
  | f :: r =>
    let e := mget {} w.q.frames f
    some (f, { w with q := { w.q with
      free := mset [] w.q.free h r
      frames := mset {} w.q.frames f { e with count := 1, pending := false } } })

/-- A frame popped from the first group with a free frame, from `h` on in ascending order modulo H (R251). -/
def KvWork.popFrom (w : KvWork) (h : Nat) : Nat → Option (Nat × KvWork)
  | 0 => none
  | k + 1 =>
    match w.pop (h % w.q.h) with
    | some x => some x
    | none => w.popFrom (h + 1) k

/-- Frames for the pages from `i` on, `k` of them, of context `c` (R251): the page-table entries and the work done. -/
def KvWork.grow (w : KvWork) (c i : Nat) : Nat → Except Status (List (Nat × Nat) × KvWork)
  | 0 => .ok ([], w)
  | k + 1 =>
    match w.popFrom (c + i) w.q.h with
    | none => .error ST.KV_NO_FRAME
    | some (f, w) =>
      match w.grow c (i + 1) k with
      | .error e => .error e
      | .ok (l, w) => .ok ((f, (mget {} w.q.frames f).gen) :: l, w)

/-- The references of a list taken, each count one higher (R252). -/
def KvWork.take (w : KvWork) : List (Nat × Nat) → Except Status KvWork
  | [] => .ok w
  | (f, g) :: r =>
    if !(refGood w.q f g) then .error ST.KV_STALE_PAGE
    else
      match w.up f with
      | .error e => .error e
      | .ok w => w.take r

/-- The references of a list given up in order (R253). -/
def KvWork.drop (w : KvWork) : List (Nat × Nat) → Except Status KvWork
  | [] => .ok w
  | (f, g) :: r => if !(refGood w.q f g) then .error ST.KV_STALE_PAGE else (w.down f).drop r

/-- A context of the work replaced, with the step that changed it, and the entry's item and query rows added (R257, R258). -/
def KvWork.put (w : KvWork) (e : KvReq) (old x : KvCtx) (rows : Nat) : Except Status KvWork :=
  if 65536 < w.rows + rows then .error ST.KV_LENGTH
  else
    .ok { w with
      ctxs := mset {} w.ctxs e.ctx x
      items := w.items ++ [{ ctx := e.ctx, op := e.op, n := rows, row := w.rows, oldLen := old.len, newLen := x.len }]
      rows := w.rows + rows }

/-- The tail page of an APPEND (R250, R251): when the last page is partly used and its frame was shared at step open (`q0`), a
copy into a frame of the same group is planned. -/
def KvWork.tail (w : KvWork) (q0 : KvPool) (x : KvCtx) : Except Status (KvCtx × KvWork) :=
  let t := x.len % w.q.pageLen
  let i := x.len / w.q.pageLen
  match x.pt[i]? with
  | none => .ok (x, w)
  | some (f, _) =>
    if t = 0 ∨ (mget {} q0.frames f).count ≤ 1 then .ok (x, w)
    else
      match w.pop (f % w.q.h) with
      | none => .error ST.KV_NO_FRAME
      | some (d, w) =>
        let w := { w.down f with copies := w.copies ++ [{ src := f, dst := d, tokens := t }] }
        .ok ({ x with pt := x.pt.set i (d, (mget {} w.q.frames d).gen) }, w)

/-- APPEND (R251). -/
def KvWork.append (w : KvWork) (q0 : KvPool) (no : Nat) (e : KvReq) (x : KvCtx) : Except Status KvWork :=
  if e.n = 0 ∨ 4096 < e.n ∨ w.q.lmax < x.len + e.n then .error ST.KV_LENGTH
  else if x.pt.any fun y => !(refGood w.q y.1 y.2) then .error ST.KV_STALE_PAGE
  else
    match w.tail q0 x with
    | .error c => .error c
    | .ok (y, w) =>
      match w.grow e.ctx y.pt.length (w.q.pages (x.len + e.n) - y.pt.length) with
      | .error c => .error c
      | .ok (l, w) => w.put e x { y with len := x.len + e.n, pt := y.pt ++ l, step := no } e.n

/-- One entry of a step (R251 to R253): `open_` tells the contexts that are open in the pool, `ctxs0` are the contexts at step open,
`list` the references of an ADOPT. -/
def KvWork.entry (w : KvWork) (p no : Nat) (q0 : KvPool) (ctxs0 : SMap KvCtx) (e : KvReq) (list : List (Nat × Nat)) :
    Except Status KvWork :=
  let x := mget {} w.ctxs e.ctx
  let src := mget {} ctxs0 e.src
  let isOpen := decide (x.state = 1 ∧ x.pool = p)
  let srcOpen := decide (src.state = 1 ∧ src.pool = p)
  match e.op with
  | 0 =>
    if !isOpen then .error ST.KV_CTX_STATE
    else if e.n = 0 ∨ 4096 < e.n then .error ST.KV_LENGTH
    else if x.pt.any fun y => !(refGood w.q y.1 y.2) then .error ST.KV_STALE_PAGE
    else w.put e x x e.n
  | 1 => if !isOpen then .error ST.KV_LENGTH else w.append q0 no e x
  | 2 =>
    if !isOpen ∨ x.len ≠ 0 ∨ !srcOpen ∨ src.len < e.k then .error ST.KV_FORK_RANGE
    else
      let l := src.pt.take (w.q.pages e.k)
      match w.take l with
      | .error c => .error c
      | .ok w => w.put e x { x with len := e.k, pt := l, step := no } 0
  | 3 =>
    if !isOpen then .error ST.KV_CTX_STATE
    else
      match w.drop x.pt with
      | .error c => .error c
      | .ok w => w.put e x { x with state := 2, step := no } 0
  | 4 =>
    if !isOpen then .error ST.KV_CTX_STATE
    else if x.len < e.k then .error ST.KV_LENGTH
    else
      match w.drop (x.pt.drop (w.q.pages e.k)) with
      | .error c => .error c
      | .ok w => w.put e x { x with len := e.k, pt := x.pt.take (w.q.pages e.k), step := no } 0
  | _ =>
    if !isOpen ∨ x.len ≠ 0 then .error ST.KV_FORK_RANGE
    else if w.q.lmax < e.k then .error ST.KV_LENGTH
    else
      match w.take list with
      | .error c => .error c
      | .ok w => w.put e x { x with len := e.k, pt := list, step := no } 0

/-- Whether a context stands in two entries (R248). -/
def dupCtx : List KvReq → Bool
  | [] => false
  | e :: r => (r.any fun x => decide (x.ctx = e.ctx)) || dupCtx r

/-- The list of an ADOPT as KVD reads it under its own master ID (R256, R252): entries without their valid bit name no frame. -/
def State.adoptList (s : State) (q : KvPool) (e : KvReq) : List (Nat × Nat) × Bool × State :=
  if e.op ≠ 5 ∨ q.lmax < e.k then ([], false, s)
  else
    let (d, bad, s) := s.hubGet 0x037 e.list (4 * q.pages e.k)
    ((chunks 4 d (q.pages e.k)).map (fun v => (if bitsOf v 28 1 = 1 then bitsOf v 0 20 else 2 ^ 20, bitsOf v 20 8)), bad, s)

/-- The entries resolved in ascending index (R249). -/
def State.resolve (s : State) (p no : Nat) (q0 : KvPool) (ctxs0 : SMap KvCtx) :
    List KvReq → KvWork → State × Except Status KvWork
  | [], w => (s, .ok w)
  | e :: r, w =>
    let (l, bad, s) := s.adoptList q0 e
    if bad then (s.poisonBites 0x21 p no, .error ST.MEM_POISON_CONSUMED)
    else
      match w.entry p no q0 ctxs0 e l with
      | .error c => (s, .error c)
      | .ok w => s.resolve p no q0 ctxs0 r w

/-! ### The plan (R257) -/

/-- Bytes filled with zeros to a 64-byte boundary. -/
def padWords (l : List Byte) : List Byte := l ++ List.replicate (roundUp l.length 64 - l.length) 0#8

/-- The items of one entry that lie in group `h` (R257). -/
def groupItems (w : KvWork) (h : Nat) (x : Nat × KvItem) : List (List Byte) :=
  if 2 ≤ x.2.op then []
  else
    (enumFrom 0 (mget {} w.ctxs x.2.ctx).pt).filterMap fun y =>
      if y.2.1 % w.q.h = h then
        some (leBytes (x.1 + y.1 * 2 ^ 12 + min w.q.pageLen (x.2.newLen - y.1 * w.q.pageLen) % 256 * 2 ^ 24 +
          w.q.frameAt y.2.1 * 2 ^ 33) 8)
      else none

/-- A group's item list: its count in a 64-byte word, then its items. -/
def itemList (w : KvWork) (h : Nat) : List Byte :=
  let l := (enumFrom 0 w.items).flatMap (groupItems w h)
  padWords (leBytes l.length 64) ++ padWords l.flatten

/-- Byte offsets of consecutive pieces. -/
def offsetsFrom : Nat → List (List Byte) → List Nat
  | _, [] => []
  | o, l :: r => o :: offsetsFrom (o + l.length) r

/-- The plan of a resolved step (R257, R258). -/
def planBytes (w : KvWork) (p no : Nat) : List Byte :=
  let entries := padWords (w.items.flatMap fun x =>
    leBytes (x.ctx + x.op * 2 ^ 16 + x.row * 2 ^ 32 + x.oldLen * 2 ^ 64 + x.newLen * 2 ^ 96) 16)
  let copies := padWords (w.copies.flatMap fun c => leBytes (c.src + c.dst * 2 ^ 20 + c.tokens * 2 ^ 40) 8)
  let groups := (List.range w.q.h).map (itemList w)
  let more := if w.q.h ≤ 12 then 0 else (w.q.h - 12 + 15) / 16 * 64
  let offs := offsetsFrom (64 + more + entries.length + copies.length) groups
  let head := leBytes (no + p * 2 ^ 32 + w.items.length * 2 ^ 40 + w.rows * 2 ^ 64 + w.copies.length * 2 ^ 96 + w.q.h * 2 ^ 112) 16
  let head := (head ++ (offs.take 12).flatMap (fun o => leBytes o 4) ++ List.replicate 64 0#8).take 64
  head ++ padWords ((offs.drop 12).flatMap fun o => leBytes o 4) ++ entries ++ copies ++ groups.flatten

/-! ### Opening a step (R247 to R256) -/

/-- A refused step: everything as before; a stale reference is counted (R249, R263). -/
def State.stepRefused (s : State) (c : Status) : State × Done :=
  denied (if c = ST.KV_STALE_PAGE then s.incReg R.KVD_STALE_CNT else s) c

/-- A resolved step opens: the tables change and KVD goes on to publish (R256). -/
def State.stepOpens (s : State) (n p ho no : Nat) (w : KvWork) (plan : List Byte) : State :=
  let old := s.pool p
  let st : KvStep :=
    { number := no, ho := ho, items := w.items, copies := w.copies, oldCtxs := s.kvCtxs, oldFrames := old.frames,
      oldFree := old.free, zeroed := w.zeroed, plan := plan, mailbox := n }
  let s := { s with kvCtxs := w.ctxs }
  let s := s.modPool p fun _ => { w.q with step := some st, wasReset := false }
  ((s.setBit (R.KVD_POOL_STEP p) 32 true).setRegN R.KVD_STATUS (1 + p * 256)).showFree p

/-- The request of a step checked and resolved (R248 to R258). -/
def State.stepRun (s : State) (n p ho : Nat) (l : List KvReq) : State × Done :=
  let no := (s.fld (R.KVD_POOL_STEP p) 0 32 + 1) % 2 ^ 32
  if dupCtx l then s.stepRefused ST.KV_DUP_CONTEXT
  else if l.any fun e => decide (5 < e.op) then s.stepRefused ST.KV_CTX_STATE
  else
    match s.resolve p no (s.pool p) s.kvCtxs l { q := s.pool p, ctxs := s.kvCtxs } with
    | (s, .error c) => s.stepRefused c
    | (s, .ok w) =>
      let plan := planBytes w p no
      if (s.ho ho).desc.slotBytes < plan.length then s.stepRefused ST.KV_PLAN_SIZE
      else (s.stepOpens n p ho no w plan, .later)

/-- KV_STEP_OPEN: a step request is resolved; the plan follows with KV_PLAN_PUBLISH (R247 to R256). -/
def execKvStepOpen (n : Nat) (s : State) : Host.Outcome State Fault Refusal :=
  ok (s.kvCmd n 0x0403 fun s =>
    let p := s.arg n 0
    let ho := s.arg n 2
    let a := s.arg n 3
    if !(s.poolValid p) then denied s ST.KV_POOL
    else if s.bit (R.KVD_POOL_STEP p) 33 then denied s ST.KV_POOL_DIVERGED
    else if (s.pool p).step.isSome then denied s ST.KV_STEP_BUSY
    else if !(s.hoExists ho) ∨ (s.ho ho).desc.producer ≠ 0x037 ∨ !(inHost a (16 * s.arg n 1)) then denied s ST.MB_ARG
    else
      let (d, bad, s) := s.dramGet a (16 * s.arg n 1)
      if bad then denied (s.poisonBites 0x21 p (s.fld (R.KVD_POOL_STEP p) 0 32 + 1)) ST.MEM_POISON_CONSUMED
      else s.stepRun n p ho ((chunks 16 d (s.arg n 1)).map kvReqOf))

/-- `KVD_STATUS` once a plan is out: the lowest pool still resolving, if any (R265). -/
def State.showResolving (s : State) : State :=
  match (List.range 32).find? fun p => ((s.pool p).step.any fun st => st.published.isNone) with
  | some p => s.setRegN R.KVD_STATUS (1 + p * 256)
  | none => s.setRegN R.KVD_STATUS 0

/-- KV_PLAN_PUBLISH: KVD writes the plan into the write slot of the step's descriptor and publishes it; the command completes with
the step number (R256, R59). -/
def execKvPlanPublish (p : Nat) (s : State) : Host.Outcome State Fault Refusal :=
  match (s.pool p).step with
  | none => ok s
  | some st =>
    if st.published.isSome then ok s
    else
      let s := s.hubSet 0x037 (slotAddr (s.ho st.ho).desc (s.hoW st.ho)) st.plan false
      let s := s.publish 0x037 st.ho (s.hoW st.ho)
      let s := s.modPool p fun q => { q with step := some { st with published := some (s.hoSeq st.ho) } }
      ok (s.showResolving.finish st.mailbox ST.OK (leBytes st.number 4))

/-! ### Queries and resynchronisation -/

/-- A page-table entry's 32 bits (R245). -/
def pteBits (x : Option (Nat × Nat)) : Nat :=
  match x with
  | some (f, g) => f + g * 2 ^ 20 + 2 ^ 28
  | none => 0

/-- A frame-table entry's 32 bits (R245). -/
def fteBits (q : KvPool) (f : Nat) : Nat :=
  let e := mget {} q.frames f
  e.count + e.gen * 2 ^ 16 + b2n e.pending * 2 ^ 24 + b2n ((mget [] q.free (f % q.h)).contains f) * 2 ^ 25

/-- The frame entry behind a page table entry; zero beyond the table. -/
def fteWord (q : KvPool) : Option (Nat × Nat) → Nat
  | some z => fteBits q z.1
  | none => 0

/-- KV_QUERY: a page-table entry, its frame-table entry and the length; a stale reference is refused (R263, R364). -/
def execKvQuery (n : Nat) (s : State) : Host.Outcome State Fault Refusal :=
  ok (s.kvCmd n 0x0404 fun s =>
    let p := s.arg n 0
    let x := s.ctx (s.arg n 1)
    let r := s.arg n 3
    if !(s.poolValid p) then denied s ST.KV_POOL
    else if x.state = 0 ∨ x.pool ≠ p then denied s ST.KV_CTX_STATE
    else if r ≠ 0 ∧ !(refGood (s.pool p) (bitsOf r 0 20) (bitsOf r 20 8)) then s.stepRefused ST.KV_STALE_PAGE
    else
      let y := x.pt[s.arg n 2]?
      giving s (leBytes (pteBits y) 4 ++ leBytes (fteWord (s.pool p) y) 4 ++ leBytes x.len 4))

/-- Words of DRAM copied from one tile to another with their poison, retired pages as R143 says. -/
def State.moveWords (s : State) (a b : Nat) : Nat → State
  | 0 => s
  | k + 1 =>
    let (d, p, s) := s.dramGet a 64
    (s.dramSet b d p).moveWords (a + 64) (b + 64) k

/-- A frame copied from the tiles of one partition to those of the other (R264). -/
def State.copyFrame (s : State) (q : KvPool) (src dst f : Nat) : State :=
  s.each ((s.groupTiles q src (f % q.h)).zip (s.groupTiles q dst (f % q.h))) fun s x =>
    s.moveWords (dramAddr x.1 (q.frameAt f)) (dramAddr x.2 (q.frameAt f)) (q.frameBytes / 64)

/-- KV_POOL_RESYNC: after the reset of the aborted partition every frame with a count is copied from the surviving copy (R264). -/
def execKvPoolResync (n : Nat) (s : State) : Host.Outcome State Fault Refusal :=
  ok (s.kvCmd n 0x0405 fun s =>
    let p := s.arg n 0
    let q := s.pool p
    if !(s.poolValid p) ∨ q.twin.isNone then denied s ST.KV_POOL
    else if !(s.bit (R.KVD_POOL_STEP p) 33) then giving s (leBytes 0 4)
    else if !q.wasReset then denied s ST.KV_POOL_DIVERGED
    else
      let t := q.twin.getD 0
      let (src, dst) := if q.lostB then (q.partition, t) else (t, q.partition)
      let fs := (q.frames.filter fun x => decide (x.2.count ≠ 0)).map Prod.fst
      let s := s.each fs fun s f => s.copyFrame q src dst f
      let s := s.setBit (R.KVD_POOL_STEP p) 33 false
      let s := s.modPool p fun q => { q with wasReset := false }
      let s := if s.kvPools.any fun x => s.bit (R.KVD_POOL_STEP x.1) 33 then s else s.setAmber 5 false
      giving s (leBytes fs.length 4))

end Sys2Proof.Machine
end

