-- ==== Sys2Proof/Machine/PixCmd.lean ====
section
/-! DEFINITION. The mailbox command of the pixel engine (R213). -/

namespace Sys2Proof.Machine

/-- PIX_LOAD_PROGRAM: a program's header is stored (R213). -/
def execPixLoadProgram (n : Nat) (s : State) : Host.Outcome State Fault Refusal :=
  ok (s.runCmd n 0x0700 true fun s =>
    let k := s.arg n 0
    let v := BitVec.ofNat 512 (s.arg n 1)
    match s.pixRefusal k v with
    | some c => denied s c
    | none => okay { s with pixProgs := mset 0#512 s.pixProgs k v })

end Sys2Proof.Machine
end

