-- ==== Sys2Proof/Machine/SelfTest.lean ====
section
/-! DEFINITION. Periodic self-test (R474 to R479): test slots, chunks and the coverage interval. -/

namespace Sys2Proof.Machine

/-- `CAUSE 6` of R445 brought up to date: some block's pass has exceeded the limit. -/
def State.coverageCheck (s : State) : State := s.setAmber 6 ((List.range 64).any fun b => s.bit (R.SNAP_ST_STATE b) 9)

/-- The block's next chunk starts when the slot has at least 10,292 ns left (R475); chunk 0 begins a pass (R479). -/
def State.startChunk (s : State) (b : Nat) : State :=
  match (s.test b).slotEnd with
  | none => s
  | some e =>
    if e < s.now + 10292 then s
    else s.modTest b fun x =>
      { x with chunk := true, passStart := if s.fld (R.SNAP_ST_STATE b) 0 6 = 0 then some s.age else x.passStart }

/-- A block some tile of which runs, saves, restores or zeroes (R477). -/
def State.blockActive (s : State) (b : Nat) : Bool :=
  (blockTiles b).any fun t => decide (s.tileState t = 2) || s.tileBusy t

/-- What a TEST_SLOT entry does (R475, R477, R486). -/
def State.fireTest (s : State) (d : Due) : State :=
  let b := d.entry.index % 64
  if !(s.bit R.SNAP_ST_CTRL 0) ∨ !(s.inService b) then s
  else if s.blockActive b then
    let first := !(s.test b).skipRun
    let s := (s.modTest b fun x => { x with skipRun := true }).incFld (R.SNAP_ST_STATE b) 16 16
    if first then s.postC ST.SAFE_TEST_SKIPPED 0x06 b else s
  else (s.modTest b fun x => { x with skipRun := false, slotEnd := some (d.due + d.entry.arg), chunk := false }).startChunk b

/-- TEST_SLOT: a slot opens on its launch edge (R475). -/
def execTestSlot (w e edge : Nat) (s : State) : Host.Outcome State Fault Refusal :=
  ok (s.onEntry w e edge 0x09 launchOffset fun s d => s.fireTest d)

/-- A pass completes with chunk 63 (R479). -/
def State.passDone (s : State) (b : Nat) : State :=
  let t0 := ((s.test b).passStart).getD s.age
  let s := s.modTest b fun x => { x with passStart := none }
  let s := (s.setRegN (R.SNAP_ST_LAST b) (min ((s.age - t0) / 1000) (2 ^ 32 - 1))).setFld (R.SNAP_ST_STATE b) 0 6 0
  (s.setBit (R.SNAP_ST_STATE b) 9 false).coverageCheck

/-- A chunk has found a fault in a tile: the block is suspect until the next start (R478). -/
def State.chunkFault (s : State) (b t : Nat) : State :=
  ((s.setBit (R.SNAP_ST_STATE b) 8 true).post { mkRec ST.SAFE_SELFTEST_FAIL 0x06 b with syndrome := t }).suspectCheck

/-- What a chunk has found. -/
def State.chunkFound (s : State) (b : Nat) (o : Option Nat) : State :=
  match o with
  | some t => s.chunkFault b t
  | none => s

/-- The chunk counter after a chunk, or the end of the pass (R476, R479). -/
def State.chunkNext (s : State) (b : Nat) : State :=
  let n := s.fld (R.SNAP_ST_STATE b) 0 6
  if n = 63 then s.passDone b else s.setFld (R.SNAP_ST_STATE b) 0 6 (n + 1)

/-- CHUNK_DONE: the running chunk of a block completes, with the tile of a fault it found, and the next starts if it fits. -/
def execChunkDone (b : Nat) (fault : Option Nat) (s : State) : Host.Outcome State Fault Refusal :=
  ok (if (s.test b).chunk then (((s.modTest b fun x => { x with chunk := false }).chunkFound b fault).chunkNext b).startChunk b
    else s)

/-- TEST_SLOT_END: device time reaches the end of a block's slot; a running chunk is aborted without a record (R476). -/
def execTestSlotEnd (b : Nat) (s : State) : Host.Outcome State Fault Refusal :=
  ok (match (s.test b).slotEnd with
    | some e => if e ≤ s.now then (s.chunkAbort b false).modTest b fun x => { x with slotEnd := none } else s
    | none => s)

/-- COVERAGE_LIMIT: a block's pass has run longer than `SNAP_ST_LIMIT` (R479); one record for that pass. -/
def execCoverageLimit (b : Nat) (s : State) : Host.Outcome State Fault Refusal :=
  ok (match (s.test b).passStart with
    | some t0 =>
      if t0 + ms (s.regN R.SNAP_ST_LIMIT) < s.age ∧ !(s.bit (R.SNAP_ST_STATE b) 9) then
        ((s.setBit (R.SNAP_ST_STATE b) 9 true).postC ST.SAFE_COVERAGE 0x06 b).coverageCheck
      else s
    | none => s)

end Sys2Proof.Machine
end

