-- ==== Sys2Proof/Machine/Transfer.lean ====
section
/-! DEFINITION. The transfer slot: DMA between the tile and its DRAM channel (R84, R106, R107, R130, R131, R237), instruction refill (R82, R83), and the mesh (R85 to R88). -/

namespace Sys2Proof.Machine

/-! ### DMA timing (R101, R106, R107, R128, R130) -/

/-- L_R: 90, 108, 126 or 144 cycles for t = 4, 8, 12, 16. -/
def State.latencyR (s : State) (t : Nat) : Nat := 72 + 18 * (s.rsOf t / 4)

/-- The cycle of word `i` of a transfer issued on cycle `s0` whose first word takes `l` cycles, moved by the refresh beats that
begin after the issue and on or before it (R106). -/
def dmaCycle (s0 l i : Nat) : Nat :=
  let c := s0 + l + 9 * i / 2
  c + 48 * (c / 6144 - s0 / 6144)

/-- Code pages a write of `n` words at byte offset `a` covers only in part (R130). -/
def partialPages (a n : Nat) : Nat :=
  if n = 0 then 0
  else if a / 1024 = (a + 64 * n - 1) / 1024 then b2n (decide (a % 1024 ≠ 0 ∨ (a + 64 * n) % 1024 ≠ 0))
  else b2n (decide (a % 1024 ≠ 0)) + b2n (decide ((a + 64 * n) % 1024 ≠ 0))

/-- A DRAM byte offset of a word: the tile's own channel only (R84). -/
def dramOff (a : Nat) : Nat := a / 64 * 64 % 0x2000000

/-- Whether transfers and flits of a tile's instance still move: it runs, or it quiesces (R328), and the device is not halted. -/
def State.moves (s : State) (t : Nat) : Bool :=
  (decide (s.phaseAt t = .running) || decide (s.phaseAt t = .quiescing)) && !(s.bit R.SNAP_FRZ_CTRL 3)

/-! ### Reads -/

/-- A read queued on the tile's DMA port. -/
def State.queueRead (s : State) (t : Nat) (d : Dma) : State :=
  if d.count = 0 then s else s.modTile t fun x => { x with dmaR := x.dmaR ++ [d] }

/-- `DRD` of `n` words into a handle's region (R106, R116). -/
def execDrd (c : TCtl) (h off dram n : Nat) (s : State) : Host.Outcome State Fault Refusal :=
  ok (s.issue c fun s =>
    s.try' c.tile ((s.tile c.tile).wordsAt h off n) fun _ =>
      s.queueRead c.tile { cyc := c.cyc, dram := dramOff dram, count := n, place := .pad h off })

/-- The offset word of `DRDX` or `DWRX`, checked (R237, R136). -/
def State.gather (s : State) (c : TCtl) (ih ioff n : Nat) (f : State → Nat → State) : State :=
  let t := c.tile
  s.try' t ((s.tile t).wordAt ih ioff) fun w =>
    s.claim t [(c.cyc, w)] fun s =>
      let (v, s) := s.padRead t w c.errs
      let o := bitsOf v.data.toNat 0 32
      if v.poison then s.bite t
      else if 2 ^ 25 ≤ o ∨ 2 ^ 25 < o + 64 * n then s.tileAbort t ST.ATT_GATHER_RANGE o
      else f s o

/-- `DRDX`. -/
def execDrdx (c : TCtl) (h off ih ioff n : Nat) (s : State) : Host.Outcome State Fault Refusal :=
  ok (s.issue c fun s =>
    s.gather c ih ioff n fun s o =>
      s.try' c.tile ((s.tile c.tile).wordsAt h off n) fun _ =>
        s.queueRead c.tile { cyc := c.cyc, dram := dramOff o, count := n, place := .pad h off })

/-- `IFETCH`: the half that is not executing is refilled (R82, R83). -/
def execIfetch (c : TCtl) (dram n : Nat) (s : State) : Host.Outcome State Fault Refusal :=
  ok (s.issue c fun s =>
    let n := min n 512
    let s := s.modTile c.tile fun x => { x with ifBusy := decide (0 < n) }
    s.queueRead c.tile { cyc := c.cyc, dram := dramOff dram, count := n, ifetch := true })

/-- The word a read delivers lands: in the instruction buffer's other half, or in its handle's region. -/
def State.landWord (s : State) (c : TCtl) (d : Dma) (v : VReg) : State :=
  let t := c.tile
  if d.ifetch then
    s.modTile t fun x =>
      { x with ibuf := mset {} x.ibuf (512 * (1 - s.fld (tStatus t) 16 1) + d.done) v
               ifBusy := decide (d.done + 1 < d.count) }
  else
    match d.place with
    | .acc _ => s
    | .pad h off =>
      s.try' t ((s.tile t).wordAt h (off + d.done)) fun w =>
        s.claim t [(c.cyc, w)] fun s => s.padWrite t w v

/-- The read at the front of the port after one more word: it leaves with its last (R78). -/
def readDone (x : Tile) (d : Dma) : Tile :=
  if d.done + 1 < d.count then { x with dmaR := { d with done := d.done + 1 } :: x.dmaR.tail }
  else { x with dmaR := x.dmaR.tail, events := (x.events.1 + 1, x.events.2) }

/-- One word of the read at the front of the tile's DMA port is delivered on its cycle (R106, R129, R135). -/
def State.dmaDeliver (s : State) (c : TCtl) (d : Dma) (symErrs : Nat) : State :=
  let t := c.tile
  let a := (d.dram + 64 * d.done) % 0x2000000
  let page := a / 1024
  let newPage := decide (d.done = 0) || decide (a % 1024 = 0)
  let (k, s) := if newPage ∧ !(s.pageRetired t page) then s.decodePage t page symErrs false else (d.bad, s)
  let (v, s) := s.dramWord t a k
  (s.modTile t fun x => readDone x { d with bad := k }).landWord c d v

/-- The next word of a DMA read is delivered (R106). `symErrs` are the symbol errors of a code page whose first word this is. -/
def execDmaReadDelivery (c : TCtl) (symErrs : Nat) (s : State) : Host.Outcome State Fault Refusal :=
  ok (match (s.tile c.tile).dmaR with
    | [] => s
    | d :: _ => if s.moves c.tile ∧ dmaCycle d.cyc (s.latencyR c.tile) d.done ≤ c.cyc then s.dmaDeliver c d symErrs else s)

/-! ### Writes -/

/-- The cycles a write waits before its first word is accepted (R107, R130). -/
def State.writeLead (s : State) (t a n : Nat) : Nat := 18 + partialPages a n * (s.latencyR t - 18)

/-- The decodes of the partly covered first and last page of a write (R130). -/
def State.readPartial (s : State) (t a n e0 e1 : Nat) : Decoded × Decoded × State :=
  let p0 := a / 1024
  let p1 := (a + 64 * n - 1) / 1024
  let part0 := decide (a % 1024 ≠ 0) || (decide (p0 = p1) && decide ((a + 64 * n) % 1024 ≠ 0))
  let part1 := decide (p0 ≠ p1) && decide ((a + 64 * n) % 1024 ≠ 0)
  let (d0, s) := if part0 ∧ !(s.pageRetired t (p0 % 32768)) then s.decodePage t (p0 % 32768) e0 false else (.good, s)
  let (d1, s) := if part1 ∧ !(s.pageRetired t (p1 % 32768)) then s.decodePage t (p1 % 32768) e1 false else (.good, s)
  (d0, d1, s)

/-- The partition generation a request of a tile carries (R522). -/
def State.tileGen (s : State) (t : Nat) : Nat :=
  match (s.tile t).job with
  | some (p, _) => s.partGen p
  | none => 0

/-- The scratchpad words that a write's source takes, each on its cycle (R107, R113). -/
def writeWords (cyc lead : Nat) (ws : List (Sum Nat Nat)) : List (Nat × Nat) :=
  (enumFrom 0 ws).filterMap fun y =>
    match y.2 with
    | .inl w => some (dmaCycle cyc lead y.1, w)
    | .inr _ => none

/-- A write issued: its words are taken and it waits for its commit (R107, R130). -/
def State.queueWrite (s : State) (c : TCtl) (src : Place) (a n e0 e1 : Nat) : State :=
  let t := c.tile
  if n = 0 then s
  else
    s.try' t ((s.tile t).placeWords src n) fun ws =>
      s.claim t (writeWords c.cyc (s.writeLead t a n) ws) fun s =>
        let (vs, s) := s.placeReads t ws c.errs
        let (d0, d1, s) := s.readPartial t a n e0 e1
        let d : Dma := { cyc := c.cyc, dram := a, count := n, place := src, data := vs, gen := s.tileGen t, bad := d0, badHi := d1 }
        s.modTile t fun x => { x with dmaW := x.dmaW ++ [d] }

/-- `DWR`; `e0` and `e1` are the symbol errors of its partly covered first and last page. -/
def execDwr (c : TCtl) (src : Place) (dram n e0 e1 : Nat) (s : State) : Host.Outcome State Fault Refusal :=
  ok (s.issue c fun s => s.queueWrite c src (dramOff dram) n e0 e1)

/-- `DWRX`. -/
def execDwrx (c : TCtl) (src : Place) (ih ioff n e0 e1 : Nat) (s : State) : Host.Outcome State Fault Refusal :=
  ok (s.issue c fun s => s.gather c ih ioff n fun s o => s.queueWrite c src (dramOff o) n e0 e1)

/-- The words of a partly covered page that the write leaves, when its read failed (R131): as the failed decode delivered them,
with poison; after a miscorrection free words. -/
def State.spoilPage (s : State) (t page a n : Nat) (d : Decoded) : State :=
  if d = .good then s
  else
    s.each (List.range 16) fun s i =>
      let o := page * 1024 + 64 * i
      if (a ≤ o ∧ o < a + 64 * n) ∨ (a ≤ o + 0x2000000 ∧ o + 0x2000000 < a + 64 * n) then s
      else
        let (v, s) := s.dramWord t o d
        s.dramPut t o v

/-- The words of a write stored in its channel (R107, R131, R143). -/
def State.storeWrite (s : State) (t : Nat) (d : Dma) : State :=
  let s := s.spoilPage t (d.dram / 1024) d.dram d.count d.bad
  let s := s.spoilPage t ((d.dram + 64 * d.count - 1) / 1024 % 32768) d.dram d.count d.badHi
  s.each (enumFrom 0 d.data) fun s y => s.dramPut t ((d.dram + 64 * y.1) % 0x2000000) y.2

/-- A write commits, or is dropped because its partition has another generation (R522). -/
def State.commitWrite (s : State) (c : TCtl) (d : Dma) (r : List Dma) : State :=
  let t := c.tile
  let s := s.modTile t fun x =>
    { x with dmaW := r, lastCommit := c.cyc, events := (x.events.1 + 1, x.events.2) }
  match (s.tile t).job with
  | some (p, _) => if d.gen = s.partGen p then s.storeWrite t d else s.genDropped p
  | none => s

/-- The write at the front of the tile's DMA port commits 36 cycles after its last word (R107). -/
def execDmaWriteCommit (c : TCtl) (s : State) : Host.Outcome State Fault Refusal :=
  ok (match (s.tile c.tile).dmaW with
    | [] => s
    | d :: r =>
      if s.moves c.tile ∧ dmaCycle d.cyc (s.writeLead c.tile d.dram d.count) (d.count - 1) + 36 ≤ c.cyc then s.commitWrite c d r
      else s)

/-! ### Routes (R85 to R87, R92) -/

/-- The links of a straight run of `n` steps from a row and column. -/
def runFrom (y x : Nat) (dy dx : Int) : Nat → List ((Nat × Nat) × (Nat × Nat))
  | 0 => []
  | n + 1 =>
    let y' := ((y : Int) + dy).toNat
    let x' := ((x : Int) + dx).toNat
    ((y, x), (y', x')) :: runFrom y' x' dy dx n

/-- The sign of a displacement. -/
def signI (d : Int) : Int := if d < 0 then -1 else 1

/-- The links of a route (R85): along x first, or with order 1 along y first. -/
def routeOf (y x : Nat) (dx dy : Int) (yFirst : Bool) : List ((Nat × Nat) × (Nat × Nat)) :=
  let x' := ((x : Int) + dx).toNat
  let y' := ((y : Int) + dy).toNat
  if yFirst then runFrom y x (signI dy) 0 dy.natAbs ++ runFrom y' x 0 (signI dx) dx.natAbs
  else runFrom y x 0 (signI dx) dx.natAbs ++ runFrom y x' (signI dy) 0 dy.natAbs

/-- Whether a link is a die crossing. -/
def crossing (l : (Nat × Nat) × (Nat × Nat)) : Bool :=
  decide (l.1.1 / 16 ≠ l.2.1 / 16) || decide (l.1.2 / 32 ≠ l.2.2 / 32)

/-- Cycles of a link (R86, R89). -/
def linkCycles (l : (Nat × Nat) × (Nat × Nat)) : Nat := if crossing l then 24 else 2

/-- The tile at a mesh position as (row, column). -/
def tileOf (q : Nat × Nat) : Nat := tileAt q.1 q.2

/-- Whether a mesh position lies in a rectangle (top, left, bottom, right). -/
def inRect (r : Nat × Nat × Nat × Nat) (q : Nat × Nat) : Bool :=
  decide (r.1 ≤ q.1 ∧ q.1 ≤ r.2.2.1 ∧ r.2.1 ≤ q.2 ∧ q.2 ≤ r.2.2.2)

/-- Whether the sending job may cross a link that leaves a rectangle: it holds a link credit for the edge of its two blocks. -/
def State.creditFor (s : State) (t : Nat) (l : (Nat × Nat) × (Nat × Nat)) : Bool :=
  match (s.tile t).job with
  | none => false
  | some (p, j) =>
    (s.job p j).credits.any fun k =>
      let y := mget {} (s.part p).credits k
      let a := blockOf (tileOf l.1)
      let b := blockOf (tileOf l.2)
      y.valid && (decide (y.first = a ∧ y.second = b) || decide (y.first = b ∧ y.second = a))

/-- Whether a router passes a flit on over a link (R87): the link stays inside the bounds the router holds, or a credit allows it. -/
def State.linkAllowed (s : State) (t : Nat) (l : (Nat × Nat) × (Nat × Nat)) : Bool :=
  decide (l.2.1 < 32 ∧ l.2.2 < 64 ∧ l.2 ≠ l.1) && (inRect (s.tile (tileOf l.1)).rect l.2 || s.creditFor t l)

/-- The cycle on which the first flit is on each link of a route, from cycle `c` on. -/
def hopCycles : Nat → List ((Nat × Nat) × (Nat × Nat)) → List (Nat × Nat × Nat)
  | _, [] => []
  | c, l :: r => (c, tileOf l.1, tileOf l.2) :: hopCycles (c + linkCycles l) r

/-- The cycle on which flit 0 of a transfer issued on cycle `s0` arrives (R86). -/
def arriveAt (s0 : Nat) (l : List ((Nat × Nat) × (Nat × Nat))) : Nat := s0 + 2 + (l.map linkCycles).foldl (· + ·) 0

/-! ### Collisions (R88) -/

/-- The flits of one transfer, by number, that meet a flit of another on a link in one cycle. -/
def meets (a b : Flits) : List Nat :=
  (List.range (a.done + a.words.length)).filter fun i =>
    a.hops.any fun h => b.hops.any fun k =>
      decide (h.2 = k.2 ∧ k.1 ≤ h.1 + i ∧ h.1 + i < k.1 + b.done + b.words.length)

/-- Flits of given numbers poisoned. -/
def poisonFlits (a : Flits) (l : List Nat) : Flits :=
  { a with words := (enumFrom a.done a.words).map fun y => if y.1 ∈ l then { y.2 with poison := true } else y.2 }

/-- Whether two transfers share a time base: they belong to one job, or to jobs launched on one edge (R334). -/
def State.sameClock (s : State) (a b : Flits) : Bool :=
  decide (a.owner = b.owner) || decide ((s.job a.owner.1 a.owner.2).launched = (s.job b.owner.1 b.owner.2).launched)

/-- A transfer set on its way to a tile: its flits and those it meets are poisoned, one record is written, and every job that owns
one of them is aborted (R88). `old` are the transfers already on their way. -/
def State.sendFlits (s : State) (t dst : Nat) (b : Flits) (old : List (Nat × Flits)) : State :=
  let hit := old.filter fun y => s.sameClock b y.2 && !(meets b y.2).isEmpty
  if hit.isEmpty then s.modTile dst fun x => { x with flits := x.flits ++ [b] }
  else
    let s := s.each hit fun s y => s.modTile y.1 fun x =>
      { x with flits := x.flits.map fun f => if f = y.2 then poisonFlits f (meets f b) else f }
    let s := s.modTile dst fun x => { x with flits := x.flits ++ [poisonFlits b (hit.flatMap fun y => meets b y.2)] }
    let s := s.postTile ST.MESH_COLLISION t 0
    s.each (b.owner :: hit.map fun y => y.2.owner) fun s o => s.abortJob o.1 o.2

/-- Every transfer on its way, with the tile it goes to. -/
def State.flying (s : State) : List (Nat × Flits) := s.tiles.flatMap fun y => y.2.flits.map fun f => (y.1, f)

/-! ### SEND, SENDM, RECV, ADDRECV -/

/-- A transfer over a list of routes, one for each destination (R85 to R87). -/
def State.sendOver (s : State) (c : TCtl) (src : Place) (n : Nat) (routes : List (List ((Nat × Nat) × (Nat × Nat)))) : State :=
  let t := c.tile
  if routes.any fun r => r.any fun l => !(s.linkAllowed t l) then s.tileAbort t ST.MESH_ROUTE 0
  else
    s.try' t ((s.tile t).placeWords src n) fun ws =>
      s.claim t (padCycles c.cyc ws) fun s =>
        let (vs, s) := s.placeReads t ws c.errs
        let vs := match src with
          | .acc _ => vs.map fun v => { v with poison := v.poison || c.chk.getLsbD 4 }
          | .pad _ _ => vs
        let old := s.flying
        s.each routes fun s r =>
          let dst := match r.getLast? with
            | some l => tileOf l.2
            | none => t
          let b : Flits := { owner := ((s.tile t).job).getD (0, 0), arrive := arriveAt c.cyc r, words := vs, hops := hopCycles c.cyc r }
          if vs.isEmpty then s else s.sendFlits t dst b old

/-- `SEND`: `n` flits over the route of its offsets and order. -/
def execSend (c : TCtl) (dx dy : Int) (yFirst : Bool) (src : Place) (n : Nat) (s : State) : Host.Outcome State Fault Refusal :=
  ok (s.issue c fun s => s.sendOver c src n [routeOf (meshRow c.tile) (meshCol c.tile) dx dy yFirst])

/-- `SENDM`: every tile on a straight route receives each flit; a bent route is an undefined operation. -/
def execSendm (c : TCtl) (dx dy : Int) (src : Place) (n : Nat) (s : State) : Host.Outcome State Fault Refusal :=
  ok (s.issue c fun s =>
    if dx ≠ 0 ∧ dy ≠ 0 then s.tileAbort c.tile ST.TILE_ILLEGAL_OP 0
    else
      let r := routeOf (meshRow c.tile) (meshCol c.tile) dx dy false
      s.sendOver c src n ((List.range r.length).map fun k => r.take (k + 1)))

/-- A receive posted (R86): its destination lies in the handle's region. -/
def State.postRecv (s : State) (t : Nat) (r : Recv) : State :=
  s.try' t ((s.tile t).placeWords r.dest r.left) fun _ =>
    if r.left = 0 then s else s.modTile t fun x => { x with recvs := x.recvs ++ [r] }

/-- `RECV`. -/
def execRecv (c : TCtl) (dst : Place) (n : Nat) (s : State) : Host.Outcome State Fault Refusal :=
  ok (s.issue c fun s => s.postRecv c.tile { dest := dst, left := n })

/-- `ADDRECV`, with FP32 or integer addition. -/
def execAddrecv (c : TCtl) (dst : Place) (n : Nat) (int : Bool) (s : State) : Host.Outcome State Fault Refusal :=
  ok (s.issue c fun s => s.postRecv c.tile { add := true, int := int, dest := dst, left := n })

/-! ### Arrival -/

/-- The sum of a local word and a flit, the local word first (R74, R86), with its flags. -/
def addFlit (int : Bool) (a b : VReg) : VReg × NumFlags :=
  let p := a.poison || b.poison
  if int then
    ({ data := ofLanes (((lanes a.data).zip (lanes b.data)).map fun y => addI y.1 y.2), poison := p }, 0)
  else
    let r := ((lanes a.data).zip (lanes b.data)).map fun y => addF (y.1, 0) (y.2, 0)
    ({ data := ofLanes (r.map Prod.fst), poison := p }, orFlags (r.map Prod.snd))

/-- The receive after one more flit. -/
def recvDone (x : Tile) (r : Recv) : Tile :=
  let x := { x with events := (x.events.1, x.events.2 + 1) }
  if 1 < r.left then { x with recvs := { r with done := r.done + 1, left := r.left - 1 } :: x.recvs.tail }
  else { x with recvs := x.recvs.tail }

/-- The place of a receive's next flit. -/
def Recv.next (r : Recv) : Place :=
  match r.dest with
  | .pad h off => .pad h (off + r.done)
  | .acc row => .acc (row + r.done)

/-- A flit met by its receive: written, or added to the local word (R86, R135). -/
def State.takeFlit (s : State) (c : TCtl) (r : Recv) (v : VReg) : State :=
  let t := c.tile
  let s := s.modTile t fun x => recvDone x r
  s.try' t ((s.tile t).placeWords r.next 1) fun ws =>
    s.claim t (padCycles c.cyc ws) fun s =>
      let a := ws.headD (.inr 0)
      if r.add then
        let (l, s) := s.placeReads t [a] c.errs
        let x := addFlit r.int (l.headD {}) v
        (s.placeWrite t a x.1).raiseNum t x.2
      else s.placeWrite t a v

/-- The transfer whose next flit arrives first. -/
def firstFlits : List Flits → Option Flits
  | [] => none
  | f :: r =>
    match firstFlits r with
    | some g => if g.arrive < f.arrive then some g else some f
    | none => some f

/-- A tile after a flit of a transfer has arrived. -/
def flitGone (x : Tile) (f : Flits) : Tile :=
  let rest := { f with arrive := f.arrive + 1, words := f.words.tail, done := f.done + 1 }
  { x with flits := x.flits.filterMap fun g => if g = f then (if f.words.length ≤ 1 then none else some rest) else some g }

/-- The routers of a flit's links note its route and the cycle on which it passed (R587). -/
def State.noteFlit (s : State) (t : Nat) (f : Flits) : State :=
  let src := match f.hops with
    | h :: _ => h.2.1
    | [] => t
  s.each f.hops fun s h => s.modTile h.2.1 fun x => { x with lastFlit := some (src, t, h.1 + f.done) }

/-- A flit arrives (R86, R88, R456): with no posted receive it is discarded and the job is aborted. -/
def State.arrive (s : State) (c : TCtl) (f : Flits) : State :=
  let t := c.tile
  let s := ((s.noteFlit t f).modTile t fun x => flitGone x f).raiseChecks t (c.chk &&& 8#5)
  match (s.tile t).recvs with
  | [] => s.tileAbort t ST.MESH_UNEXPECTED 0
  | r :: _ => s.takeFlit c r (f.words.headD {})

/-- The next flit due at a tile arrives on its cycle. -/
def execFlitArrival (c : TCtl) (s : State) : Host.Outcome State Fault Refusal :=
  ok (match firstFlits (s.tile c.tile).flits with
    | none => s
    | some f => if s.moves c.tile ∧ f.arrive ≤ c.cyc then s.arrive c f else s)

end Sys2Proof.Machine
end

