-- ==== Sys2Proof/Machine/Dispatch.lean ====
section
/-! DEFINITION. One arm per command: the direct call of its meaning. -/

namespace Sys2Proof.Machine

/-- The effect of a command on everything but the queue. -/
def exec (i : Instr) (s : State) : Host.Outcome State Fault Refusal :=
  match i with
  | .access m kind addr len data poison errs => Sys2Proof.Machine.execAccess m kind addr len data poison errs s
  | .registerWrite m addr v => Sys2Proof.Machine.execRegisterWrite m addr v s
  | .twTimeLoRead m => Sys2Proof.Machine.execTwTimeLoRead m s
  | .twStepGo m v => Sys2Proof.Machine.execTwStepGo m v s
  | .twRateWrite m v => Sys2Proof.Machine.execTwRateWrite m v s
  | .syncReceived offset => Sys2Proof.Machine.execSyncReceived offset s
  | .holdoverEntry => Sys2Proof.Machine.execHoldoverEntry s
  | .holdoverExit => Sys2Proof.Machine.execHoldoverExit s
  | .wheelPeriodBoundary w => Sys2Proof.Machine.execWheelPeriodBoundary w s
  | .twWnBaseWrite m w v => Sys2Proof.Machine.execTwWnBaseWrite m w v s
  | .wheelNop w e edge => Sys2Proof.Machine.execWheelNop w e edge s
  | .launch w e edge => Sys2Proof.Machine.execLaunch w e edge s
  | .twinLaunch w e edge => Sys2Proof.Machine.execTwinLaunch w e edge s
  | .copyBLaunch p => Sys2Proof.Machine.execCopyBLaunch p s
  | .slice w e edge => Sys2Proof.Machine.execSlice w e edge s
  | .quiesceEnd p j => Sys2Proof.Machine.execQuiesceEnd p j s
  | .saveCommit t => Sys2Proof.Machine.execSaveCommit t s
  | .restoreEnd p j => Sys2Proof.Machine.execRestoreEnd p j s
  | .handoff w e edge => Sys2Proof.Machine.execHandoff w e edge s
  | .handoffWindowClose d => Sys2Proof.Machine.execHandoffWindowClose d s
  | .twHoPublish m d slot => Sys2Proof.Machine.execTwHoPublish m d slot s
  | .fsync w e edge => Sys2Proof.Machine.execFsync w e edge s
  | .fsyncPulseEnd f => Sys2Proof.Machine.execFsyncPulseEnd f s
  | .ctlSample w e edge => Sys2Proof.Machine.execCtlSample w e edge s
  | .solStart w e edge => Sys2Proof.Machine.execSolStart w e edge s
  | .pixStart w e edge => Sys2Proof.Machine.execPixStart w e edge s
  | .testSlot w e edge => Sys2Proof.Machine.execTestSlot w e edge s
  | .chunkDone b fault => Sys2Proof.Machine.execChunkDone b fault s
  | .testSlotEnd b => Sys2Proof.Machine.execTestSlotEnd b s
  | .coverageLimit b => Sys2Proof.Machine.execCoverageLimit b s
  | .goldenSlot w e edge => Sys2Proof.Machine.execGoldenSlot w e edge s
  | .goldenSlotEnd p => Sys2Proof.Machine.execGoldenSlotEnd p s
  | .deadline w e edge => Sys2Proof.Machine.execDeadline w e edge s
  | .deadlineExpiry st => Sys2Proof.Machine.execDeadlineExpiry st s
  | .freeze w e edge => Sys2Proof.Machine.execFreeze w e edge s
  | .notify w e edge => Sys2Proof.Machine.execNotify w e edge s
  | .loop c count => Sys2Proof.Machine.execLoop c count s
  | .loopd c idx h off => Sys2Proof.Machine.execLoopd c idx h off s
  | .endloop c => Sys2Proof.Machine.execEndloop c s
  | .wait c ev => Sys2Proof.Machine.execWait c ev s
  | .release c ev => Sys2Proof.Machine.execRelease c ev s
  | .half c => Sys2Proof.Machine.execHalf c s
  | .endOp c => Sys2Proof.Machine.execEndOp c s
  | .wload c h off fmt => Sys2Proof.Machine.execWload c h off fmt s
  | .mstream c n ctx row => Sys2Proof.Machine.execMstream c n ctx row s
  | .aclr c row n => Sys2Proof.Machine.execAclr c row n s
  | .agset c ctx v => Sys2Proof.Machine.execAgset c ctx v s
  | .sld c ctx form => Sys2Proof.Machine.execSld c ctx form s
  | .sst c ctx form => Sys2Proof.Machine.execSst c ctx form s
  | .drd c h off dram n => Sys2Proof.Machine.execDrd c h off dram n s
  | .dmaReadDelivery c symErrs => Sys2Proof.Machine.execDmaReadDelivery c symErrs s
  | .dwr c src dram n e0 e1 => Sys2Proof.Machine.execDwr c src dram n e0 e1 s
  | .dmaWriteCommit c => Sys2Proof.Machine.execDmaWriteCommit c s
  | .ifetch c dram n => Sys2Proof.Machine.execIfetch c dram n s
  | .drdx c h off ih ioff n => Sys2Proof.Machine.execDrdx c h off ih ioff n s
  | .dwrx c src ih ioff n e0 e1 => Sys2Proof.Machine.execDwrx c src ih ioff n e0 e1 s
  | .send c dx dy yFirst src n => Sys2Proof.Machine.execSend c dx dy yFirst src n s
  | .sendm c dx dy src n => Sys2Proof.Machine.execSendm c dx dy src n s
  | .recv c dst n => Sys2Proof.Machine.execRecv c dst n s
  | .addrecv c dst n int => Sys2Proof.Machine.execAddrecv c dst n int s
  | .flitArrival c => Sys2Proof.Machine.execFlitArrival c s
  | .vadd c vd va vb pred => Sys2Proof.Machine.execVadd c vd va vb pred s
  | .vsub c vd va vb pred => Sys2Proof.Machine.execVsub c vd va vb pred s
  | .vmul c vd va vb pred => Sys2Proof.Machine.execVmul c vd va vb pred s
  | .vfma c vd va vb vc pred => Sys2Proof.Machine.execVfma c vd va vb vc pred s
  | .vmax c vd va vb pred => Sys2Proof.Machine.execVmax c vd va vb pred s
  | .vmin c vd va vb pred => Sys2Proof.Machine.execVmin c vd va vb pred s
  | .vabs c vd va pred => Sys2Proof.Machine.execVabs c vd va pred s
  | .vneg c vd va pred => Sys2Proof.Machine.execVneg c vd va pred s
  | .vcmp c rel va vb => Sys2Proof.Machine.execVcmp c rel va vb s
  | .vsel c vd va vb => Sys2Proof.Machine.execVsel c vd va vb s
  | .vmov c vd va pred => Sys2Proof.Machine.execVmov c vd va pred s
  | .amov c vd row pred => Sys2Proof.Machine.execAmov c vd row pred s
  | .vscl2 c vd va vb pred => Sys2Proof.Machine.execVscl2 c vd va vb pred s
  | .vcvtS c vd va fmt part widen pred => Sys2Proof.Machine.execVcvtS c vd va fmt part widen pred s
  | .vcvtN c vd va fmt part widen pred => Sys2Proof.Machine.execVcvtN c vd va fmt part widen pred s
  | .vdq c vd va vb vc fmt part zero pred => Sys2Proof.Machine.execVdq c vd va vb vc fmt part zero pred s
  | .qstat c d va ctx row col => Sys2Proof.Machine.execQstat c d va ctx row col s
  | .qscale c d k => Sys2Proof.Machine.execQscale c d k s
  | .qconv c d va row col => Sys2Proof.Machine.execQconv c d va row col s
  | .vrsum c vd va pred => Sys2Proof.Machine.execVrsum c vd va pred s
  | .vrmax c vd va pred => Sys2Proof.Machine.execVrmax c vd va pred s
  | .vrmaxabs c vd va pred => Sys2Proof.Machine.execVrmaxabs c vd va pred s
  | .vexp c vd va pred => Sys2Proof.Machine.execVexp c vd va pred s
  | .vrcp c vd va pred => Sys2Proof.Machine.execVrcp c vd va pred s
  | .vrsqrt c vd va pred => Sys2Proof.Machine.execVrsqrt c vd va pred s
  | .jobHang t => Sys2Proof.Machine.execJobHang t s
  | .refreshBeat t symErrs => Sys2Proof.Machine.execRefreshBeat t symErrs s
  | .zeroingPassDone t => Sys2Proof.Machine.execZeroingPassDone t s
  | .dramZeroingDone p => Sys2Proof.Machine.execDramZeroingDone p s
  | .tmrSweep upsets => Sys2Proof.Machine.execTmrSweep upsets s
  | .cdnCetClr m n v => Sys2Proof.Machine.execCdnCetClr m n v s
  | .pixFrameDone prog cam => Sys2Proof.Machine.execPixFrameDone prog cam s
  | .pixFrameTimeout prog cam => Sys2Proof.Machine.execPixFrameTimeout prog cam s
  | .kvPlanPublish pool => Sys2Proof.Machine.execKvPlanPublish pool s
  | .solveDequeue => Sys2Proof.Machine.execSolveDequeue s
  | .refactorisationDone => Sys2Proof.Machine.execRefactorisationDone s
  | .iterationDone => Sys2Proof.Machine.execIterationDone s
  | .solDeadline => Sys2Proof.Machine.execSolDeadline s
  | .solvePublish => Sys2Proof.Machine.execSolvePublish s
  | .ctlEvaluation => Sys2Proof.Machine.execCtlEvaluation s
  | .testGeneratorEnd => Sys2Proof.Machine.execTestGeneratorEnd s
  | .ctlTgStart m v => Sys2Proof.Machine.execCtlTgStart m v s
  | .channelEnable m ch v => Sys2Proof.Machine.execChannelEnable m ch v s
  | .channelDisable m ch v => Sys2Proof.Machine.execChannelDisable m ch v s
  | .partitionShed => Sys2Proof.Machine.execPartitionShed s
  | .partitionUnshed => Sys2Proof.Machine.execPartitionUnshed s
  | .pmuFabricLimitWrite m v => Sys2Proof.Machine.execPmuFabricLimitWrite m v s
  | .serviceRound => Sys2Proof.Machine.execServiceRound s
  | .supMbnReqSeq m n v => Sys2Proof.Machine.execSupMbnReqSeq m n v s
  | .nop n => Sys2Proof.Machine.execNop n s
  | .capGet n => Sys2Proof.Machine.execCapGet n s
  | .verGet n => Sys2Proof.Machine.execVerGet n s
  | .mbAssign n => Sys2Proof.Machine.execMbAssign n s
  | .regRead n => Sys2Proof.Machine.execRegRead n s
  | .regWrite n => Sys2Proof.Machine.execRegWrite n s
  | .errRead n => Sys2Proof.Machine.execErrRead n s
  | .wheelLoad n => Sys2Proof.Machine.execWheelLoad n s
  | .wheelEnable n => Sys2Proof.Machine.execWheelEnable n s
  | .wheelDisable n => Sys2Proof.Machine.execWheelDisable n s
  | .wheelSwap n => Sys2Proof.Machine.execWheelSwap n s
  | .timeStep n => Sys2Proof.Machine.execTimeStep n s
  | .hoLanding n => Sys2Proof.Machine.execHoLanding n s
  | .hoCreate n => Sys2Proof.Machine.execHoCreate n s
  | .hoDestroy n => Sys2Proof.Machine.execHoDestroy n s
  | .partCreate n => Sys2Proof.Machine.execPartCreate n s
  | .partDestroy n => Sys2Proof.Machine.execPartDestroy n s
  | .imgLoad n img => Sys2Proof.Machine.execImgLoad n img s
  | .imgUnload n => Sys2Proof.Machine.execImgUnload n s
  | .jobAdmit n => Sys2Proof.Machine.execJobAdmit n s
  | .jobRetire n => Sys2Proof.Machine.execJobRetire n s
  | .sliceTableLoad n => Sys2Proof.Machine.execSliceTableLoad n s
  | .partCreditConfig n => Sys2Proof.Machine.execPartCreditConfig n s
  | .accWrite n => Sys2Proof.Machine.execAccWrite n s
  | .accRead n => Sys2Proof.Machine.execAccRead n s
  | .memCetClear n => Sys2Proof.Machine.execMemCetClear n s
  | .memRetirePage n => Sys2Proof.Machine.execMemRetirePage n s
  | .memRetireBank n => Sys2Proof.Machine.execMemRetireBank n s
  | .memRetireList n => Sys2Proof.Machine.execMemRetireList n s
  | .kvPoolCreate n => Sys2Proof.Machine.execKvPoolCreate n s
  | .kvPoolDestroy n => Sys2Proof.Machine.execKvPoolDestroy n s
  | .kvCtxOpen n => Sys2Proof.Machine.execKvCtxOpen n s
  | .kvStepOpen n => Sys2Proof.Machine.execKvStepOpen n s
  | .kvQuery n => Sys2Proof.Machine.execKvQuery n s
  | .kvPoolResync n => Sys2Proof.Machine.execKvPoolResync n s
  | .solLoad n => Sys2Proof.Machine.execSolLoad n s
  | .solConfig n => Sys2Proof.Machine.execSolConfig n s
  | .solUnload n => Sys2Proof.Machine.execSolUnload n s
  | .ctlWriteBank n => Sys2Proof.Machine.execCtlWriteBank n s
  | .ctlBankSwap n => Sys2Proof.Machine.execCtlBankSwap n s
  | .ctlCaptureRead n => Sys2Proof.Machine.execCtlCaptureRead n s
  | .pixLoadProgram n => Sys2Proof.Machine.execPixLoadProgram n s
  | .snapTrigger n => Sys2Proof.Machine.execSnapTrigger n s
  | .recStart n => Sys2Proof.Machine.execRecStart n s
  | .recStop n => Sys2Proof.Machine.execRecStop n s
  | .recStatus n => Sys2Proof.Machine.execRecStatus n s
  | .recMarker n => Sys2Proof.Machine.execRecMarker n s
  | .replayLoad n begun => Sys2Proof.Machine.execReplayLoad n begun s
  | .replayStart n => Sys2Proof.Machine.execReplayStart n s
  | .replayStop n => Sys2Proof.Machine.execReplayStop n s
  | .replayStatus n => Sys2Proof.Machine.execReplayStatus n s
  | .replayResume n => Sys2Proof.Machine.execReplayResume n s
  | .resetReqContext n => Sys2Proof.Machine.execResetReqContext n s
  | .resetReqEngine n => Sys2Proof.Machine.execResetReqEngine n s
  | .resetReqPartition n => Sys2Proof.Machine.execResetReqPartition n s
  | .resetReqChip n => Sys2Proof.Machine.execResetReqChip n s
  | .resetReqPowerCycle n => Sys2Proof.Machine.execResetReqPowerCycle n s
  | .camPortEnable m p v => Sys2Proof.Machine.execCamPortEnable m p v s
  | .frameStartPacket port vc hdrOk => Sys2Proof.Machine.execFrameStartPacket port vc hdrOk s
  | .linePacket port vc dt data hdrOk crcOk => Sys2Proof.Machine.execLinePacket port vc dt data hdrOk crcOk s
  | .frameEndPacket port vc hdrOk => Sys2Proof.Machine.execFrameEndPacket port vc hdrOk s
  | .ethFrameReceive port frame => Sys2Proof.Machine.execEthFrameReceive port frame s
  | .frameTransmit port ring => Sys2Proof.Machine.execFrameTransmit port ring s
  | .expressTransmit port => Sys2Proof.Machine.execExpressTransmit port s
  | .ethLinkDown port => Sys2Proof.Machine.execEthLinkDown port s
  | .gateBankSwap port req => Sys2Proof.Machine.execGateBankSwap port req s
  | .ethTblRead m v => Sys2Proof.Machine.execEthTblRead m v s
  | .ethTblWrite m v => Sys2Proof.Machine.execEthTblWrite m v s
  | .mailboxFrame frame => Sys2Proof.Machine.execMailboxFrame frame s
  | .mailboxResponseFrame b => Sys2Proof.Machine.execMailboxResponseFrame b s
  | .cannTxReq m n v => Sys2Proof.Machine.execCannTxReq m n v s
  | .canFrameTransmitted n => Sys2Proof.Machine.execCanFrameTransmitted n s
  | .canArbitrationLost n => Sys2Proof.Machine.execCanArbitrationLost n s
  | .canBusError n tx => Sys2Proof.Machine.execCanBusError n tx s
  | .canRecovered n => Sys2Proof.Machine.execCanRecovered n s
  | .canInitClear m n v => Sys2Proof.Machine.execCanInitClear m n v s
  | .canFrameReceive n frame => Sys2Proof.Machine.execCanFrameReceive n frame s
  | .canSleep m n v => Sys2Proof.Machine.execCanSleep m n v s
  | .canWake n => Sys2Proof.Machine.execCanWake n s
  | .sentMessage j status nibbles valid => Sys2Proof.Machine.execSentMessage j status nibbles valid s
  | .sentSilent j => Sys2Proof.Machine.execSentSilent j s
  | .spiInputDue j => Sys2Proof.Machine.execSpiInputDue j s
  | .spiTransferDone j data => Sys2Proof.Machine.execSpiTransferDone j data s
  | .rawExcursion pin => Sys2Proof.Machine.execRawExcursion pin s
  | .filteredChange pin level => Sys2Proof.Machine.execFilteredChange pin level s
  | .chatterClear pin => Sys2Proof.Machine.execChatterClear pin s
  | .stuckLatch pin => Sys2Proof.Machine.execStuckLatch pin s
  | .stuckClear pin => Sys2Proof.Machine.execStuckClear pin s
  | .safeDiscrepancy => Sys2Proof.Machine.execSafeDiscrepancy s
  | .lockstepMismatch pair => Sys2Proof.Machine.execLockstepMismatch pair s
  | .bamPortEnable m p v => Sys2Proof.Machine.execBamPortEnable m p v s
  | .trainingDone p lat good => Sys2Proof.Machine.execTrainingDone p lat good s
  | .laneLoss p => Sys2Proof.Machine.execLaneLoss p s
  | .hello p => Sys2Proof.Machine.execHello p s
  | .helloReceive p direct h => Sys2Proof.Machine.execHelloReceive p direct h s
  | .discover m v => Sys2Proof.Machine.execDiscover m v s
  | .discoveryRun => Sys2Proof.Machine.execDiscoveryRun s
  | .discoveryQuiet => Sys2Proof.Machine.execDiscoveryQuiet s
  | .discoveryResultReceive r => Sys2Proof.Machine.execDiscoveryResultReceive r s
  | .discoveryCommit => Sys2Proof.Machine.execDiscoveryCommit s
  | .ackTimeout => Sys2Proof.Machine.execAckTimeout s
  | .bamPacketReceive p pkt => Sys2Proof.Machine.execBamPacketReceive p pkt s
  | .remoteAccessTimeout id => Sys2Proof.Machine.execRemoteAccessTimeout id s
  | .timeMessageSend => Sys2Proof.Machine.execTimeMessageSend s
  | .timeMessageReceive p t residence retried => Sys2Proof.Machine.execTimeMessageReceive p t residence retried s
  | .mirrorEnable m c v producer => Sys2Proof.Machine.execMirrorEnable m c v producer s
  | .mirrorCopyDone c good => Sys2Proof.Machine.execMirrorCopyDone c good s
  | .twinBindingEnable m k v tiles hash => Sys2Proof.Machine.execTwinBindingEnable m k v tiles hash s
  | .partnerRecord k rec => Sys2Proof.Machine.execPartnerRecord k rec s
  | .twinWaitExpiry k => Sys2Proof.Machine.execTwinWaitExpiry k s
  | .healthToggle => Sys2Proof.Machine.execHealthToggle s
  | .cfgSafeKick m => Sys2Proof.Machine.execCfgSafeKick m s
  | .supervisorWatchdog => Sys2Proof.Machine.execSupervisorWatchdog s
  | .amberHoldEnd cause => Sys2Proof.Machine.execAmberHoldEnd cause s
  | .holdoverAmber => Sys2Proof.Machine.execHoldoverAmber s
  | .safeRequestRelease => Sys2Proof.Machine.execSafeRequestRelease s
  | .thermalCrimsonExit => Sys2Proof.Machine.execThermalCrimsonExit s
  | .streamEnable m st v => Sys2Proof.Machine.execStreamEnable m st v s
  | .pairWaitExpiry st => Sys2Proof.Machine.execPairWaitExpiry st s
  | .commitDecision st => Sys2Proof.Machine.execCommitDecision st s
  | .rereadDone st => Sys2Proof.Machine.execRereadDone st s
  | .errorRecordArrival u => Sys2Proof.Machine.execErrorRecordArrival u s
  | .errorHandlerStep => Sys2Proof.Machine.execErrorHandlerStep s
  | .suspectReplayEnd hung => Sys2Proof.Machine.execSuspectReplayEnd hung s
  | .engineTimeout u sub => Sys2Proof.Machine.execEngineTimeout u sub s
  | .hartWatchdog h guest => Sys2Proof.Machine.execHartWatchdog h guest s
  | .hstWdoghKick m h => Sys2Proof.Machine.execHstWdoghKick m h s
  | .dumpDone => Sys2Proof.Machine.execDumpDone s
  | .snapshotAccessTimeout u sub => Sys2Proof.Machine.execSnapshotAccessTimeout u sub s
  | .dumpCap => Sys2Proof.Machine.execDumpCap s
  | .escalation k => Sys2Proof.Machine.execEscalation k s
  | .resetDone k => Sys2Proof.Machine.execResetDone k s
  | .s4HoldExpiry => Sys2Proof.Machine.execS4HoldExpiry s
  | .chipResetApply => Sys2Proof.Machine.execChipResetApply s
  | .resetN => Sys2Proof.Machine.execResetN s
  | .bootStatusTimeout => Sys2Proof.Machine.execBootStatusTimeout s
  | .powerUp => Sys2Proof.Machine.execPowerUp s
  | .railOrderEnable good => Sys2Proof.Machine.execRailOrderEnable good s
  | .sequenceRetry => Sys2Proof.Machine.execSequenceRetry s
  | .bootStart env => Sys2Proof.Machine.execBootStart env s
  | .emmcReady blk => Sys2Proof.Machine.execEmmcReady blk s
  | .bootAttempt => Sys2Proof.Machine.execBootAttempt s
  | .bootConfirmed => Sys2Proof.Machine.execBootConfirmed s
  | .attestationRequest m v => Sys2Proof.Machine.execAttestationRequest m v s
  | .attestationReportDone => Sys2Proof.Machine.execAttestationReportDone s
  | .trngHealthFail => Sys2Proof.Machine.execTrngHealthFail s
  | .trngResume => Sys2Proof.Machine.execTrngResume s
  | .sensorSample readings => Sys2Proof.Machine.execSensorSample readings s
  | .hardShutdownRestart => Sys2Proof.Machine.execHardShutdownRestart s
  | .railFault k => Sys2Proof.Machine.execRailFault k s
  | .avsStep k mv => Sys2Proof.Machine.execAvsStep k mv s
  | .standbyEntry m v => Sys2Proof.Machine.execStandbyEntry m v s
  | .wakeEvent => Sys2Proof.Machine.execWakeEvent s
  | .domainSwitch m d v => Sys2Proof.Machine.execDomainSwitch m d v s
  | .domainInService d => Sys2Proof.Machine.execDomainInService d s
  | .refLoss => Sys2Proof.Machine.execRefLoss s
  | .sdsrefLoss => Sys2Proof.Machine.execSdsrefLoss s
  | .freezeIn => Sys2Proof.Machine.execFreezeIn s
  | .fabricFreezeMessage node f => Sys2Proof.Machine.execFabricFreezeMessage node f s
  | .freezeEdge => Sys2Proof.Machine.execFreezeEdge s
  | .freezeOutEnd => Sys2Proof.Machine.execFreezeOutEnd s
  | .snapshotReadoutDone => Sys2Proof.Machine.execSnapshotReadoutDone s
  | .snapArm m v => Sys2Proof.Machine.execSnapArm m v s
  | .replayInject inTime => Sys2Proof.Machine.execReplayInject inTime s
  | .debugChallenge => Sys2Proof.Machine.execDebugChallenge s
  | .debugAnswer rights good => Sys2Proof.Machine.execDebugAnswer rights good s
  | .unlockRetryEnd => Sys2Proof.Machine.execUnlockRetryEnd s
  | .debugLock m v => Sys2Proof.Machine.execDebugLock m v s
  | .alwaysOnSupplyLoss => Sys2Proof.Machine.execAlwaysOnSupplyLoss s
  | .ethLinkUp port => Sys2Proof.Machine.execEthLinkUp port s
  | .sdsrefRestored => Sys2Proof.Machine.execSdsrefRestored s
  | .discoveryAcknowledgement fp => Sys2Proof.Machine.execDiscoveryAcknowledgement fp s
  | .emmcTimeout => Sys2Proof.Machine.execEmmcTimeout s
  | .bootTrngTimeout => Sys2Proof.Machine.execBootTrngTimeout s
  | .powerDownComplete => Sys2Proof.Machine.execPowerDownComplete s
  | .consoleFrame seq buffer => Sys2Proof.Machine.execConsoleFrame seq buffer s
  | .tapFreezeRequest f => Sys2Proof.Machine.execTapFreezeRequest f s
  | .hostCacheError core kind => Sys2Proof.Machine.execHostCacheError core kind s

end Sys2Proof.Machine
end

