-- ==== Sys2Proof/Machine/Step.lean ====
section
/-! DEFINITION. One step of the block: the command at the front of the queue, or, with none waiting, one cycle of TCLK. -/

namespace Sys2Proof.Machine

/-- One TCLK cycle (R34): while `TW_CTRL.RUN` is 1 device time advances by 1 ns and the signed rate adjustment of
`TW_RATE`, in units of 2^-32 ns. DESIGN CHOICE (log entry 2): this is what a step does on an empty queue. -/
def tick (s : State) : State := State.advance s

/-- The command at the front of the queue takes effect on the state with the rest of the queue; an empty queue lets one
TCLK cycle pass. -/
def step (s : State) : Host.Outcome State Fault Refusal :=
  match s.pending with
  | [] => .next (tick s)
  | c :: r => exec c { s with pending := r }

/-- The state with the command that a word spells at the front of its queue; unchanged where the word spells none. -/
def State.withFetchWord (s : State) (nbits w : Nat) : State :=
  match decodeTableWord nbits w with
  | some c => { s with pending := c :: s.pending }
  | none => s

end Sys2Proof.Machine
end

