-- ==== Sys2Proof/Safety.lean ====
section
/-! DEFINITION. What the statements call a tidy state, and the conditions under which a command of each kind comes to its own effect. -/

namespace Sys2Proof.Machine

/-- The canonical form of the register file: addresses rise strictly and no register is listed at its reset value. -/
def State.regsTidy (s : State) : Bool := mwf regReset s.regs

/-- The canonical form of memory and of its poison bits (R135): an unlisted byte reads 0, an unlisted word is not poisoned. -/
def State.memTidy (s : State) : Bool := Memory.wf s.mem && mwf (fun _ => false) s.poison

/-- The copies of TMR words (R147): only a TMR word has copies of its own, and none is listed whose three copies agree with the
register's value. -/
def State.tmrTidy (s : State) : Bool :=
  mwf (fun _ => (0#64, 0#64, 0#64)) s.tmr && s.tmr.all fun x => isTmr x.1

/-- Equal registers, memories and TMR copies are equal data. -/
def State.Tidy (s : State) : Prop := s.regsTidy = true ∧ s.memTidy = true ∧ s.tmrTidy = true

/-! ### When a command comes to its effect -/

/-- Entry `e` of wheel `w` takes effect on launch edge `edge` (R48, R54): `d` is the occurrence that falls due, `t` the state with
the edge's bookkeeping. -/
abbrev State.Takes (s : State) (w e edge action lead : Nat) (d : Due) (t : State) : Prop :=
  s.takeEntry w e edge action lead = (some d, t)

/-- An access passes every check that stands before its effect (R22 to R28, R341 to R343, R571). -/
def State.passes (s : State) (m : Nat) (k : AccessKind) (a len : Nat) : Bool :=
  match s.windowCheck m a len with
  | .inl _ => false
  | .inr t => (s.unitGate t k).isNone && (s.tableAllows (s.tableOf t a len) m k a len && s.ruleAllows t m k a len)

/-- Mailbox `n` holds an accepted command of this number whose turn to work has come (R358, R362). -/
def State.runs (s : State) (n code : Nat) : Bool :=
  (s.mbox n).accepted.isSome && !(s.mbox n).waiting && decide (s.reqCode n = code)

/-- The tile issues the word: its job instance runs and nothing holds it, no loop of count 0 passes over it and the word is not
poisoned (R78, R80, R135). -/
def State.issues (s : State) (c : TCtl) : Bool :=
  s.canIssue c && !(skipping (s.tile c.tile)) && !(s.fetchPoison c)

/-- The accesses `l`, each a job cycle and a scratchpad word, meet no bank that is taken (R111, R113): `u` is the state that holds
them. -/
abbrev State.Claims (s : State) (t : Nat) (l : List (Nat × Nat)) (u : State) : Prop :=
  ∃ held, claimBanks ((s.tile t).banks.filter fun y => decide (s.regN (tCycle t) ≤ y.1)) l = some held ∧
    u = s.modTile t fun x => { x with banks := held }

/-! ### What a command leaves as it was -/

/-- Only tile `k` itself, its status, cycle, check and numeric registers and the count of lost records differ between `s` and `t`. -/
def State.InsideTile (k : Nat) (s t : State) : Prop :=
  t.mem = s.mem ∧ t.poison = s.poison ∧ (∀ j, j ≠ k → t.tile j = s.tile j) ∧
  (∀ a, a ∉ [tStatus k, tCycle k, tChk k, tNum k, R.ERR_OVERFLOW_CNT] → t.reg a = s.reg a) ∧
  (t.time, t.wheels, t.handoffs, t.windows, t.streams, t.mailboxes) = (s.time, s.wheels, s.handoffs, s.windows, s.streams, s.mailboxes) ∧
  (t.kvPools, t.kvCtxs, t.solSlots, t.channels, t.safety, t.power) = (s.kvPools, s.kvCtxs, s.solSlots, s.channels, s.safety, s.power)

/-- Device time, wheels, handoffs, commits, tiles, partitions, every engine, the safety state, power, boot and the collector are alike in `s`
and `t`. -/
def State.UnitsKept (s t : State) : Prop :=
  (t.time, t.wheels, t.handoffs, t.windows, t.landings, t.streams, t.goldens, t.tiles, t.parts) =
    (s.time, s.wheels, s.handoffs, s.windows, s.landings, s.streams, s.goldens, s.tiles, s.parts) ∧
  (t.kvPools, t.kvCtxs, t.solSlots, t.solRun, t.channels, t.pins, t.cans, t.camStrs, t.safety, t.power, t.boot) =
    (s.kvPools, s.kvCtxs, s.solSlots, s.solRun, s.channels, s.pins, s.cans, s.camStrs, s.safety, s.power, s.boot) ∧
  (t.collector, t.errLog, t.rungs) = (s.collector, s.errLog, s.rungs)

/-- Of the registers only `r` and the counts of denied accesses and lost records may differ between `s` and `t`, and memory, time, tiles,
partitions, wheels, handoffs, engines and the collector are alike. -/
def State.OnlyRegister (r : Nat) (s t : State) : Prop :=
  t.mem = s.mem ∧ t.poison = s.poison ∧ (∀ a, a ∉ [r, R.ACC_DENIED_CNT, R.ERR_OVERFLOW_CNT] → t.reg a = s.reg a) ∧
  (t.time, t.tiles, t.parts, t.wheels, t.handoffs, t.windows, t.streams, t.safety, t.power) =
    (s.time, s.tiles, s.parts, s.wheels, s.handoffs, s.windows, s.streams, s.safety, s.power) ∧
  (t.kvPools, t.kvCtxs, t.solSlots, t.channels, t.pins, t.cans, t.collector) =
    (s.kvPools, s.kvCtxs, s.solSlots, s.channels, s.pins, s.cans, s.collector)

end Sys2Proof.Machine
end

