-- ==== Sys2Proof/Certificates/Slice0/Obligations.lean ====
section
/-! DEFINITION. The statements about the machine that are to be proved. Where a clause writes `u = …` among its hypotheses it names a state on the
way. The operands of every command are the model's own (log entry 1). -/

open Sys2Proof Sys2Proof.Machine

/-- Wheel entries for the fabric and the host complete with their action: `WHEEL_NOP`, `NOTIFY`, `FREEZE`, `DEADLINE`, `FSYNC`,
`HANDOFF`, `LAUNCH`, `TWIN_LAUNCH`, `SLICE`. Each clause gives the state and operands on which one of these comes to its own
effect, and the next state that `exec` answers there (R43, R48, R54, R58 to R68, R70, R311, R317, R323, R325 to R329, R468,
R582). Edge numbers and leads are readings of the model (log entry 11). -/
def Obligations.WheelEntriesComplete : Prop :=
  (∀ (s t : State) (d : Due) (w e edge : Nat), s.Takes w e edge 0x00 launchOffset d t →
      exec (.wheelNop w e edge) s = .next t) ∧
  (∀ (s t : State) (d : Due) (w e edge : Nat), s.Takes w e edge 0x0D launchOffset d t →
      exec (.notify w e edge) s = .next { t with hostIrq := t.hostIrq ||| (1#64 <<< (d.entry.index % 64)) }) ∧
  (∀ (s t : State) (d : Due) (w e edge : Nat), s.Takes w e edge 0x0C 0 d t → t.bit R.SNAP_FRZ_CFG 1 = true →
      exec (.freeze w e edge) s = .next (t.freezeAt 1 (t.fld R.BAM_STATUS 0 6) (t.freezeLead d.due))) ∧
  (∀ (s t : State) (d : Due) (w e edge : Nat), s.Takes w e edge 0x0B 0 d t →
      ¬(t.bit (R.TW_OS_STATUS (d.entry.index % 256)) 0 = true ∧ d.due < t.regN (R.TW_OS_DEADLINE (d.entry.index % 256))) →
      exec (.deadline w e edge) s = .next ((t.setRegN (R.TW_OS_DEADLINE (d.entry.index % 256)) (d.due + d.entry.arg)).setBit
        (R.TW_OS_STATUS (d.entry.index % 256)) 0 true)) ∧
  (∀ (s t : State) (d : Due) (w e edge : Nat), s.Takes w e edge 0x05 0 d t → t.unitOff 0x19 = false →
      exec (.fsync w e edge) s = .next ((t.unitServed 0x19).draw.2.each
        ((List.range 16).filter fun f => decide (d.entry.index / 2 ^ f % 2 = 1)) fun u f =>
          u.pulse f ((t.unitServed 0x19).ageOf d.due + fsyncDelay t.fresh) ((t.unitServed 0x19).ageOf d.due + fsyncDelay t.fresh + d.entry.arg))) ∧
  (∀ (s t : State) (d : Due) (w e edge : Nat), s.Takes w e edge 0x04 0 d t →
      t.hoExists (d.entry.index % 1024) = true → (t.ho (d.entry.index % 1024)).desc.dstKind = 1 →
      t.hoLists (t.ho (d.entry.index % 1024)).desc = true → t.windowOpen (d.entry.index % 1024) = false →
      (t.hoParts (t.ho (d.entry.index % 1024)).desc).any t.partBusy = false →
      t.replayHandoff (d.entry.index % 1024) d.due = none →
      exec (.handoff w e edge) s =
        .next (t.openWindow (d.entry.index % 1024) d.due (t.freshPick (d.entry.index % 1024) d.due d.entry.arg))) ∧
  (∀ (s t : State) (d : Due) (w e edge : Nat), s.Takes w e edge 0x01 launchOffset d t →
      t.launchable (d.entry.index % 32) (d.entry.arg % 64) = true →
      t.windowInto (d.entry.index % 32) = false → t.commitInto (d.entry.index % 32) = false → t.isHeld (d.entry.index % 32) = false →
      t.launchCheck (d.entry.index % 32) (d.entry.arg % 64) (bitsOf d.entry.index 8 3) = none → t.isShed (d.entry.index % 32) = false →
      exec (.launch w e edge) s = .next (t.startJob (d.entry.index % 32) (d.entry.arg % 64) false)) ∧
  (∀ (s t u : State) (d : Due) (w e edge : Nat), s.Takes w e edge 0x02 launchOffset d t →
      t.pairedDies (d.entry.index % 32) (d.entry.arg2 % 32) = true → t.withheld (d.entry.index % 32) (d.entry.arg % 64) = none →
      t.tryLaunch d (d.entry.index % 32) (d.entry.arg % 64) (t.jobSlice (d.entry.index % 32) (d.entry.arg % 64)) false = (true, u) →
      u.withheld (d.entry.arg2 % 32) (d.entry.arg % 64) = none →
      exec (.twinLaunch w e edge) s = .next { u with copyB := u.copyB ++ [(d, d.entry.arg2 % 32, d.entry.arg % 64)] }) ∧
  (∀ (s t : State) (d : Due) (w e edge : Nat), s.Takes w e edge 0x03 launchOffset d t →
      t.partState (d.entry.index % 32) = 2 → t.windowInto (d.entry.index % 32) = false → t.commitInto (d.entry.index % 32) = false →
      t.isHeld (d.entry.index % 32) = false → t.inSwitch (d.entry.index % 32) = false →
      ((t.sliceSwap (d.entry.index % 32)).sliceEntry (d.entry.index % 32) (d.entry.arg % 8)).1 = true →
      ∃ u, u = (t.sliceSwap (d.entry.index % 32)).setFld (R.ACC_P_STATUS (d.entry.index % 32)) 6 3 (d.entry.arg % 8) ∧
        exec (.slice w e edge) s = .next (((u.each (u.partBlocks (d.entry.index % 32)) fun v b => v.chunkAbort b true).creditCheck
          (d.entry.index % 32)).switchJobs (d.entry.index % 32) (d.entry.arg % 8)))

/-- Wheel entries that start samples, solves, pixel programs and tests complete, and so do the test slots: `CTL_SAMPLE`,
`SOL_START`, `PIX_START`, `TEST_SLOT`, `GOLDEN_SLOT`, `GOLDEN_SLOT_END`, `CHUNK_DONE`, `TEST_SLOT_END`, `COVERAGE_LIMIT`. Each
clause gives the state and operands on which one of these comes to its own effect, and the next state that `exec` answers there
(R48, R218, R281, R295, R299, R473 to R483). -/
def Obligations.EngineEntriesComplete : Prop :=
  (∀ (s t : State) (d : Due) (w e edge : Nat), s.Takes w e edge 0x06 0 d t → t.unitOff 0x1E = false →
      exec (.ctlSample w e edge) s = .next (((t.unitServed 0x1E).each
        ((List.range 8).filter fun c => decide (d.entry.index / 2 ^ c % 2 = 1)) fun u c => u.sampleOne d.due c).showCtl)) ∧
  (∀ (s t u : State) (d : Due) (w e edge : Nat), s.Takes w e edge 0x07 0 d t → t.unitOff 0x1D = false →
      u = t.unitServed 0x1D → u.solLoaded (d.entry.index % 8) = true → u.bit R.SOL_CTRL 0 = true →
      u.solBusy (d.entry.index % 8) = false → u.solQueue.length < 8 →
      exec (.solStart w e edge) s = .next (State.showSol { u with
        solQueue := u.solQueue ++ [{ slot := d.entry.index % 8, due := d.due, deadline := d.due + d.entry.arg }] })) ∧
  (∀ (s t u : State) (d : Due) (w e edge : Nat), s.Takes w e edge 0x08 0 d t → t.unitOff 0x18 = false →
      u = t.unitServed 0x18 → u.hasPix (d.entry.index % 256) = true → u.bit R.PIX_CTRL 0 = true →
      (pixLanes (u.pixProg (d.entry.index % 256))).any u.laneBusy = false →
      pixRaw (u.pixProg (d.entry.index % 256)) + u.pixRecent ≤ 400000000 →
      exec (.pixStart w e edge) s = .next ((((u.modPixRuns fun l =>
        l ++ [{ prog := d.entry.index % 256, at_ := d.due, cams := u.pixCams (u.pixProg (d.entry.index % 256)) }]).pixTake
          (pixRaw (u.pixProg (d.entry.index % 256)))).setFld R.PIX_STATUS 4 8 (d.entry.index % 256)).showPix)) ∧
  (∀ (s t : State) (d : Due) (w e edge : Nat), s.Takes w e edge 0x09 launchOffset d t →
      t.bit R.SNAP_ST_CTRL 0 = true → t.inService (d.entry.index % 64) = true → t.blockActive (d.entry.index % 64) = false →
      exec (.testSlot w e edge) s = .next ((t.modTest (d.entry.index % 64) fun x =>
        { x with skipRun := false, slotEnd := some (d.due + d.entry.arg), chunk := false }).startChunk (d.entry.index % 64))) ∧
  (∀ (s t u : State) (d : Due) (w e edge k : Nat) (b : Bool), s.Takes w e edge 0x0A launchOffset d t →
      t.goldenStream (d.entry.index % 32) = some (k, b) → t.streamBusy k = false → (t.stream k).trigger = false →
      t.tryLaunch d (d.entry.index % 32) (t.fld (R.TW_OS_GOLD k) 0 6)
        (t.jobSlice (d.entry.index % 32) (t.fld (R.TW_OS_GOLD k) 0 6)) true = (true, u) →
      exec (.goldenSlot w e edge) s = .next { u with
        goldens := minsert u.goldens (d.entry.index % 32) { stream := k, isB := b, ends := d.due + d.entry.arg } }) ∧
  (∀ (s : State) (p : Nat) (g : Golden), s.goldens.lookup (p % 32) = some g → g.ends ≤ s.now → g.ran = false →
      exec (.goldenSlotEnd p) s =
        .next ((({ s with goldens := merase s.goldens (p % 32) }).post ((mkRec ST.SAFE_GOLDEN_OVERRUN 0x02 g.stream).withPart s (p % 32))).abortJob
          (p % 32) (s.fld (R.TW_OS_GOLD g.stream) 0 6))) ∧
  (∀ (s : State) (b : Nat) (f : Option Nat), (s.test b).chunk = true →
      exec (.chunkDone b f) s = .next ((((s.modTest b fun x => { x with chunk := false }).chunkFound b f).chunkNext b).startChunk b)) ∧
  (∀ (s : State) (b e : Nat), (s.test b).slotEnd = some e → e ≤ s.now →
      exec (.testSlotEnd b) s = .next ((s.chunkAbort b false).modTest b fun x => { x with slotEnd := none })) ∧
  (∀ (s : State) (b t0 : Nat), (s.test b).passStart = some t0 → t0 + ms (s.regN R.SNAP_ST_LIMIT) < s.age →
      s.bit (R.SNAP_ST_STATE b) 9 = false →
      exec (.coverageLimit b) s = .next (((s.setBit (R.SNAP_ST_STATE b) 9 true).postC ST.SAFE_COVERAGE 0x06 b).coverageCheck))

/-- Reading, stepping, slewing and holding device time, and the running of the wheels, complete: `FSYNC_PULSE_END`,
`TW_TIME_LO_READ`, `TW_STEP_GO`, `TW_RATE_WRITE`, `SYNC_RECEIVED`, `HOLDOVER_ENTRY`, `HOLDOVER_EXIT`, `WHEEL_PERIOD_BOUNDARY`,
`TW_WN_BASE_WRITE`. Each clause gives the state and operands on which one of these comes to its own effect, and the next state
that `exec` answers there (R34 to R38, R41, R46 to R51, R383). The rate the servo chooses is a free value (log entry 4). -/
def Obligations.TimeKeepingCompletes : Prop :=
  (∀ (s : State) (f e : Nat), s.fsync.lookup f = some e → e ≤ s.age →
      exec (.fsyncPulseEnd f) s = .next { s with fsync := merase s.fsync f }) ∧
  (∀ (s : State) (m : Nat), s.passes m .read R.TW_TIME_LO 4 = true →
      exec (.twTimeLoRead m) s = .next ((s.latchTime m).answer m (leBytes s.timeLo 4) false)) ∧
  (∀ (s : State) (m : Nat) (v : Dword), s.passes m .write R.TW_STEP_GO 4 = true → v.toNat % 2 = 1 →
      s.anyWheel = false →
      exec (.twStepGo m v) s =
        .next ((s.stepTime (s.regN R.TW_STEP_LO % 2 ^ 32 + s.regN R.TW_STEP_HI * 2 ^ 32)).answer m [] false)) ∧
  (∀ (s : State) (m : Nat) (v : Dword), s.passes m .write R.TW_RATE 4 = true →
      clipRate (toSigned 32 (v.toNat % 2 ^ 32)) = toSigned 32 (v.toNat % 2 ^ 32) →
      exec (.twRateWrite m v) s = .next ((s.setRate (toSigned 32 (v.toNat % 2 ^ 32))).answer m [] false)) ∧
  (∀ (s u : State) (o : Int), s.fld R.TW_SRC 0 2 ≠ 0 → o.natAbs ≤ 1000000 →
      u = ({ s with servo := { s.servo with offset := o, close := if o.natAbs < 100 then s.servo.close + 1 else 0 } }).setBit
        R.TW_STATUS 1 (decide (16 ≤ if o.natAbs < 100 then s.servo.close + 1 else 0)) →
      exec (.syncReceived o) s = .next (u.draw.2.setRate (clipRate (toSigned 32 (Config.freeNat u.fresh))))) ∧
  (∀ (s : State), s.fld R.TW_SRC 0 2 ≠ 0 → s.bit R.TW_STATUS 0 = false →
      exec .holdoverEntry s = .next (((({ s with servo := { s.servo with since := some s.age, close := 0 } }).setBit R.TW_STATUS 0 true).setBit
        R.TW_STATUS 1 false).postC ST.TIME_SRC_LOST 0x02 0)) ∧
  (∀ (s : State), s.bit R.TW_STATUS 0 = true →
      exec .holdoverExit s = .next (((({ s with servo := { s.servo with since := none } }).setBit R.TW_STATUS 0 false).postC
        ST.TIME_SRC_RESTORED 0x02 0).setAmber 4 false)) ∧
  (∀ (s u : State) (w : Nat), w < 8 → s.bit (R.TW_W_CTRL w) 0 = true → s.regN (R.TW_W_NEXT w) ≤ s.now →
      (s.wheel w).disableAt = none → (s.wheel w).swapAt = none →
      u = (s.modWheel w fun y => { y with carry := y.carry ++ leftover (s.wheel w) w (s.activeBank w) }).wrapReg (R.TW_W_PERIODS w) →
      exec (.wheelPeriodBoundary w) s = .next ((u.modWheel w fun y =>
        { y with start := s.regN (R.TW_W_NEXT w), inPeriod := true, taken := [], sum := (s.wheel w).sum + u.bankPeriod w (u.activeBank w) }).setRegN
          (R.TW_W_NEXT w) ((s.wheel w).origin + ((s.wheel w).sum + u.bankPeriod w (u.activeBank w)) / 65536))) ∧
  (∀ (s : State) (m w : Nat) (v : Dword), s.passes m .write (R.TW_W_BASE (w % 8)) 8 = true →
      s.bit (R.TW_W_CTRL (w % 8)) 0 = false →
      exec (.twWnBaseWrite m w v) s = .next ((s.setRegN (R.TW_W_BASE (w % 8)) v.toNat).answer m [] false))

/-- The watchdog, health, holds and exits of the safety state complete: `CFG_SAFE_KICK`, `SUPERVISOR_WATCHDOG`, `HEALTH_TOGGLE`,
`AMBER_HOLD_END`, `HOLDOVER_AMBER`, `SAFE_REQUEST_RELEASE`, `THERMAL_CRIMSON_EXIT`, `DEADLINE_EXPIRY`. Each clause gives the
state and operands on which one of these comes to its own effect, and the next state that `exec` answers there (R443 to R449,
R468 to R470, R486). The clock of spans is the model's (log entry 44). -/
def Obligations.SafetyStateCompletes : Prop :=
  (∀ (s : State) (m : Nat), s.passes m .write R.CFG_SAFE_KICK 4 = true → s.kickOverdue = false →
      exec (.cfgSafeKick m) s = .next (((s.modSafety fun y => { y with kickAt := s.age, kickTime := s.now, watchdog := true }).leaveGrey).answer m [] false)) ∧
  (∀ (s : State), s.safety.watchdog = true → s.safety.expired = false → s.safety.kickAt + 1000000 ≤ s.age →
      exec .supervisorWatchdog s = .next (((s.modSafety fun y => { y with expired := true }).crimson 5 none 0).post
        { mkRec ST.SAFE_KICK_MISSING 0x00 0 with syndrome := s.timeOf (s.safety.kickAt + 1000000) + s.safety.kickTime * 2 ^ 64 })) ∧
  (∀ (s : State), (s.safeState = 1 ∨ s.safeState = 2) → s.safety.healthEnd ≠ some (s.now / 50000) →
      exec .healthToggle s =
        .next ((s.modSafety fun y => { y with healthEnd := some (s.now / 50000) }).setBit R.CFG_HEALTH 0 (!(s.bit R.CFG_HEALTH 0)))) ∧
  (∀ (s : State) (k t : Nat), s.safety.amberEnd.lookup k = some t → t ≤ s.age →
      exec (.amberHoldEnd k) s = .next ((s.modSafety fun y => { y with amberEnd := merase y.amberEnd k }).setAmber k false)) ∧
  (∀ (s : State) (t : Nat), s.servo.since = some t → t + ms (s.regN R.CFG_HOLDOVER_AMBER) < s.age →
      s.safety.amberOn.getLsbD 4 = false →
      exec .holdoverAmber s = .next ((s.postC ST.SAFE_HOLDOVER_LONG 0x00 0).setAmber 4 true)) ∧
  (∀ (s : State) (t : Nat), s.safety.safeLow = some t → s.safety.latched.getLsbD 3 = true →
      t + ms (s.regN R.CFG_SAFE_REL) ≤ s.age →
      exec .safeRequestRelease s = .next ((s.modSafety fun y => { y with latched := y.latched &&& ~~~(1#8 <<< 3) }).settle false)) ∧
  (∀ (s : State) (t : Nat), s.power.coolSince = some t → s.safety.latched.getLsbD 6 = true →
      t + 100000000 ≤ s.age →
      exec .thermalCrimsonExit s = .next ((s.modSafety fun y => { y with latched := y.latched &&& ~~~(1#8 <<< 6) }).settle false)) ∧
  (∀ (s : State) (st : Nat), s.bit (R.TW_OS_STATUS (st % 256)) 0 = true →
      s.regN (R.TW_OS_DEADLINE (st % 256)) ≤ s.now → (s.stream (st % 256)).commit = none →
      ∃ u, u = ((s.setBit (R.TW_OS_STATUS (st % 256)) 0 false).postC ST.SAFE_DEADLINE_MISSED 0x02 (st % 256)).modStream (st % 256)
          (fun x => { x with late := true }) ∧
        exec (.deadlineExpiry st) s = .next (if u.osSafety (st % 256) then u.crimson 2 (some (st % 256)) 0 else u))

/-- Enabling a stream, deciding a commit and the waits around it complete: `STREAM_ENABLE`, `COMMIT_DECISION`, `PARTNER_RECORD`,
`TWIN_WAIT_EXPIRY`, `REREAD_DONE`, `PAIR_WAIT_EXPIRY`. Each clause gives the state and operands on which one of these comes to
its own effect, and the next state that `exec` answers there (R458 to R470, R439). -/
def Obligations.CommitCompletes : Prop :=
  (∀ (s : State) (m st : Nat) (v : Dword), s.passes m .write (R.TW_OS_CFG (st % 256)) 8 = true →
      s.osEn (st % 256) = false → v.toNat % 2 = 1 → s.streamRefusal (st % 256) v.toNat = none → bitsOf v.toNat 2 1 = 0 →
      exec (.streamEnable m st v) s = .next ((s.setRegN (R.TW_OS_CFG (st % 256)) (v.toNat % 2 ^ 62)).answer m [] false)) ∧
  (∀ (s : State) (st : Nat) (c : Commit), (s.stream (st % 256)).commit = some c → c.k ≤ s.now →
      s.osXdev (st % 256) = false →
      exec (.commitDecision st) s = .next ((s.decideCommit (st % 256) c none false).nextFrame (st % 256))) ∧
  (∀ (s : State) (k : Nat) (r : PartnerRec), s.bit (R.BAM_TWIN_STATE (k % 16)) 0 = true →
      r.stream = s.fld (R.BAM_TWIN_CFG (k % 16)) 17 8 →
      r.hash = (s.job (s.osPart r.stream false) (s.osJob r.stream)).image.hash.setWidth 32 → (mget {} s.twins (k % 16)).waiting = none →
      exec (.partnerRecord k r) s = .next (s.modStream r.stream fun x => { x with partner := some r })) ∧
  (∀ (s : State) (k a st : Nat) (c : Commit), (mget {} s.twins (k % 16)).waiting = some a →
      (mget {} s.twins (k % 16)).stream = st → (s.stream st).commit = some c → a + s.regN (R.BAM_TWIN_WAIT (k % 16)) ≤ s.now →
      exec (.twinWaitExpiry k) s = .next ((((({ s with twins := mmod {} s.twins (k % 16) fun t => { t with waiting := none } }).incFld
        (R.BAM_TWIN_STATE (k % 16)) 16 16).postC ST.BAM_TWIN_LATE 0x1C (k % 16)).decideCommit st c none true).nextFrame st)) ∧
  (∀ (s u : State) (st : Nat) (r : Reread), (s.stream (st % 256)).reread = some r → r.ends ≤ s.now →
      u = (s.setBit (R.TW_OS_STATUS (st % 256)) 4 false).modStream (st % 256) (fun x => { x with reread := none }) →
      exec (.rereadDone st) s = .next ((u.publishCommit (st % 256) r.k r.flags r.cycA r.cycB true ((u.copyWords (st % 256) true).map headerOf)
        (u.copyWords (st % 256) true)).nextFrame (st % 256))) ∧
  (∀ (s : State) (st t : Nat), (s.stream (st % 256)).start = some t →
      t + s.regN (R.TW_OS_PAIRWAIT (st % 256)) ≤ s.now → (s.stream (st % 256)).commit = none → (s.stream (st % 256)).reread = none →
      exec (.pairWaitExpiry st) s = .next (s.startCommit (st % 256)))

/-- Landings, descriptors, publishes and window closes complete: `HANDOFF_WINDOW_CLOSE`, `TW_HO_PUBLISH`, `HO_LANDING`, `HO_CREATE`,
`HO_DESTROY`. Each clause gives the state and operands on which one of these comes to its own effect, and the next state that
`exec` answers there (R57 to R68, R615 to R617). -/
def Obligations.HandoffsComplete : Prop :=
  (∀ (s : State) (k : Nat) (w : Window), s.windows.lookup k = some w → w.close ≤ s.now →
      exec (.handoffWindowClose k) s = .next (s.closeWindow k w)) ∧
  (∀ (s : State) (m d k : Nat), s.passes m .write R.TW_HO_PUBLISH 4 = true → s.hoExists (d % 1024) = true →
      m = (s.ho (d % 1024)).desc.producer → k % 4 = s.hoW (d % 1024) →
      exec (.twHoPublish m d k) s = .next (((s.hoTake (d % 1024) (k % 4)).mirrorNotice (d % 1024) (k % 4)).answer m [] false)) ∧
  (∀ (s : State) (n : Nat) (x : List Byte × State) (l : List (Option Stripe)), s.runs n 0x0103 = true →
      x = s.supRead (s.arg n 4) (16 * s.arg n 3) → l = (chunks 16 x.1 (x.2.arg n 3)).map stripeOf → l.any Option.isNone = false →
      x.2.landingRefusal (s.arg n 0) (x.2.arg n 1) (x.2.arg n 2) (l.filterMap id) = none →
      exec (.hoLanding n) s = .next ((x.2.putLanding (x.2.arg n 1) (x.2.arg n 2) (s.arg n 0) (l.filterMap id)).respond n ST.OK [])) ∧
  (∀ (s : State) (n : Nat), s.runs n 0x0104 = true → s.hoRefusal (s.arg n 0) (s.arg n 1) = none →
      exec (.hoCreate n) s = .next ((State.freshHo { s with handoffs := minsert s.handoffs (s.arg n 0) { desc := hoDescOf (s.arg n 1) } }
        (s.arg n 0)).respond n ST.OK [])) ∧
  (∀ (s : State) (n : Nat), s.runs n 0x0105 = true → s.windows.lookup (s.arg n 0) = none →
      exec (.hoDestroy n) s = .next ((State.freshHo { s with handoffs := merase s.handoffs (s.arg n 0) } (s.arg n 0)).respond n ST.OK []))

/-- Copy launches, the steps of a slice switch, the hang of a job and zeroing complete: `COPY_B_LAUNCH`, `QUIESCE_END`,
`SAVE_COMMIT`, `RESTORE_END`, `JOB_HANG`, `ZEROING_PASS_DONE`, `DRAM_ZEROING_DONE`. Each clause gives the state and operands on
which one of these comes to its own effect, and the next state that `exec` answers there (R323, R326 to R330, R503, R516). -/
def Obligations.JobSwitchingCompletes : Prop :=
  (∀ (s u : State) (p : Nat) (x : Due × Nat × Nat), (s.copyB.find? fun y => decide (y.2.1 = p % 32)) = some x →
      u = { s with copyB := s.copyB.erase x } → u.launchable x.2.1 x.2.2 = true →
      u.windowInto x.2.1 = false → u.commitInto x.2.1 = false → u.isHeld x.2.1 = false →
      u.launchCheck x.2.1 x.2.2 (u.jobSlice x.2.1 x.2.2) = none → u.isShed x.2.1 = false →
      exec (.copyBLaunch p) s = .next (u.startJob x.2.1 x.2.2 false)) ∧
  (∀ (s u : State) (p j : Nat), (s.job p j).phase = .quiescing →
      u = s.modJob p j (fun x => { x with phase := .saving }) →
      exec (.quiesceEnd p j) s = .next (u.each (u.jobTiles p j) fun v t => v.modTile t fun x => { x with busySave := true })) ∧
  (∀ (s : State) (t p j : Nat), (s.tile t).job = some (p, j) → (s.tile t).busySave = true →
      (s.job p j).phase = .saving → exec (.saveCommit t) s = .next (s.saveCommit t p j)) ∧
  (∀ (s u : State) (p j : Nat), (s.job p j).phase = .restoring →
      (s.jobTiles p j).all (fun t => decide ((s.tile t).job = some (p, j)) && (s.tile t).busyRest) = true →
      u = s.each (s.jobTiles p j) (fun v t => v.restoreTile t p j) →
      exec (.restoreEnd p j) s =
        .next (((u.modJob p j fun x => { x with phase := .running }).setJobState p j 2).showSwitch p)) ∧
  (∀ (s : State) (t p j : Nat), (s.tile t).job = some (p, j) → s.tileState t = 2 → (s.job p j).phase = .running →
      (s.tile t).ended = false → (s.tile t).hung = false → s.bit R.SNAP_FRZ_CTRL 3 = false →
      exec (.jobHang t) s = .next (s.hang t p j)) ∧
  (∀ (s : State) (t : Nat), (s.tileState t = 5 ∨ s.tileState t = 4) → (s.tile t).job = none →
      exec (.zeroingPassDone t) s = .next (((((s.zeroSpad t).modTile t clearTile).freeTile t).each (List.range 32) State.endCheck).finishWaiting)) ∧
  (∀ (s u : State) (p : Nat), (s.part p).dramBusy = true →
      u = (s.each (blocksTiles (s.partBlocks p)) fun v t => v.zero (dramAddr t 0) (dramAddr t 0x2000000)).modPart p
        (fun q => { q with dramBusy := false }) → u.partState p = 1 →
      exec (.dramZeroingDone p) s = .next ((u.setFld (R.ACC_P_STATUS p) 0 2 2).finishWaiting))

/-- Shedding, unshedding and the fabric limit complete: `PARTITION_SHED`, `PARTITION_UNSHED`, `PMU_FABRIC_LIMIT_WRITE`. Each clause
gives the state and operands on which one of these comes to its own effect, and the next state that `exec` answers there (R336
to R340). -/
def Obligations.PowerSharingCompletes : Prop :=
  (∀ (s : State) (p h : Nat), s.power.hotSince = some h → h + ms 1 ≤ s.age → s.power.lastShed = none →
      s.shedNext = some p →
      exec .partitionShed s = .next (((s.noteShed).modPart p fun q =>
        { q with shedWait := true }).shedCheck p)) ∧
  (∀ (s v u : State) (p c : Nat), s.power.coolSince = some c → s.unshedNext = some p →
      max c (s.power.lastUnshed.getD 0) + ms 100 ≤ s.age → v = s.noteUnshed →
      v.isShed p = true → u = (v.modPart p fun q => { q with shedWait := false }).setBit (R.ACC_P_STATUS p) 12 false →
      exec .partitionUnshed s = .next ((u.post ((mkRec ST.PART_UNSHED 0x03 0).withPart u p)).setAmber 3
        ((List.range 32).any (u.post ((mkRec ST.PART_UNSHED 0x03 0).withPart u p)).isShed))) ∧
  (∀ (s : State) (m : Nat) (v : Dword), s.passes m .write R.PMU_FABRIC_LIMIT 4 = true →
      v.toNat % 2 ^ 32 ≤ 395000 → s.regN R.PMU_ALLOC_SUM ≤ v.toNat % 2 ^ 32 →
      exec (.pmuFabricLimitWrite m v) s = .next ((s.setRegN R.PMU_FABRIC_LIMIT (v.toNat % 2 ^ 32)).answer m [] false))

/-- Loops, waits, releases, half switches and END complete: `LOOP`, `LOOPD`, `ENDLOOP`, `WAIT`, `RELEASE`, `HALF`, `END`. Each
clause gives the state and operands on which one of these comes to its own effect, and the next state that `exec` answers there
(R77 to R81, R331, R504). -/
def Obligations.TileControlCompletes : Prop :=
  (∀ (s u : State) (c : TCtl) (n : Nat), s.issues c = true → u = s.enter c → (u.tile c.tile).stack.length < 8 →
      exec (.loop c n) s = .next ((u.modTile c.tile fun x => { x with stack :=
        { left := n % 2 ^ 24, skip := decide (n % 2 ^ 24 = 0), start := (c.word + 1) % 4096 } :: x.stack }).showDepth c.tile)) ∧
  (∀ (s u v : State) (c : TCtl) (k h o w n : Nat) (x : VReg × State), s.issues c = true → u = s.enter c →
      (u.tile c.tile).wordAt h o = .inr w → u.Claims c.tile [(c.cyc, w)] v → x = v.padRead c.tile w c.errs → x.1.poison = false →
      n = bitsOf x.1.data.toNat 0 32 → n ≤ (mget {} (x.2.tile c.tile).loops (k % 256)).max → n < 2 ^ 24 →
      x.2.regN (tExpend c.tile) + n * (mget {} (x.2.tile c.tile).loops (k % 256)).body ≤ 2 ^ 48 - 1025 →
      exec (.loopd c k h o) s = .next (State.openLoop (x.2.extendEnd c.tile
        (x.2.regN (tExpend c.tile) + n * (mget {} (x.2.tile c.tile).loops (k % 256)).body)) c n)) ∧
  (∀ (s u : State) (c : TCtl) (f : LoopFrame) (l : List LoopFrame), s.issues c = true → u = s.enter c →
      (u.tile c.tile).stack = f :: l → 1 < f.left → f.skip = false →
      exec (.endloop c) s = .next ((u.modTile c.tile fun x => { x with stack := { f with left := f.left - 1 } :: l }).setFld
        (tStatus c.tile) 4 12 f.start)) ∧
  ((∀ (s u : State) (c : TCtl) (e : EventClass) (n p j : Nat), s.issues c = true → u = s.enter c →
      (u.tile c.tile).job = some (p, j) → exec (.wait c (.internal e n)) s = .next (u.waitFor c.tile (.internal e n))) ∧
      (∀ (s u : State) (c : TCtl) (k p j : Nat), s.issues c = true → u = s.enter c → (u.tile c.tile).job = some (p, j) →
        (mget {} (u.part p).sems (k % 256)).colour = u.colourOf p (u.jobSlice p j) → (mget {} (u.part p).sems (k % 256)).count ≠ 0 →
        exec (.wait c (.semaphore k)) s = .next (u.takeSem p j (k % 256)))) ∧
  (∀ (s u : State) (c : TCtl) (e : WaitEvent) (p j : Nat), s.issues c = true → u = s.enter c →
      (u.tile c.tile).job = some (p, j) → exec (.release c e) s = .next (u.releaseEvent p j e)) ∧
  (∀ (s u : State) (c : TCtl), s.issues c = true → u = s.enter c → (u.tile c.tile).ifBusy = false →
      exec (.half c) s = .next ((u.setBit (tStatus c.tile) 16 (!(u.bit (tStatus c.tile) 16))).setFld (tStatus c.tile) 4 12 0)) ∧
  (∀ (s u : State) (c : TCtl) (p j : Nat), s.issues c = true → (s.tile c.tile).dmaW = [] → (s.tile c.tile).lastCommit < c.cyc →
      u = (s.enter c).retireEnd c → (u.tile c.tile).job = some (p, j) →
      exec (.endOp c) s = .next (if (u.jobTiles p j).all fun t => (u.tile t).ended then u.jobDone p j else u))

/-- Weight loads, streamed rows, clears and address contexts complete: `WLOAD`, `MSTREAM`, `ACLR`, `AGSET`. Each clause gives the
state and operands on which one of these comes to its own effect, and the next state that `exec` answers there (R71 to R77,
R116, R153 to R166). -/
def Obligations.TileArrayCompletes : Prop :=
  (∀ (s u v : State) (c : TCtl) (h o f : Nat) (ws : List Nat), s.issues c = true → u = s.enter c →
      (u.tile c.tile).wordsAt h o (blockWords f) = .inr ws → u.Claims c.tile (enumFrom c.cyc ws) v →
      exec (.wload c h o f) s = .next ((v.padReads c.tile ws c.errs).2.modTile c.tile fun y => { y with shadow :=
          { words := (v.padReads c.tile ws c.errs).1.map (·.data), poison := anyPois (v.padReads c.tile ws c.errs).1, ready := c.cyc + 16 } })) ∧
  (∀ (s u v : State) (c : TCtl) (n k row : Nat) (a : AgCtx) (bias : Option (List Nat × Bool)) (ws : List (Nat × Bool)),
      s.issues c = true → u = s.enter c →
      v = u.modTile c.tile (fun x => { takeShadow x with banks := x.banks.filter fun y => decide (u.regN (tCycle c.tile) ≤ y.1) }) →
      a = (v.tile c.tile).ctx k → v.biasOf c.tile a = .inr bias →
      v.weightScales c.tile a.extra ((v.tile c.tile).pairOf a).2 = .inr ws →
      exec (.mstream c n k row) s = .next ((v.streamRows c.tile a (max c.cyc (u.tile c.tile).shadow.ready) row bias ws 0
        (min (max n 1) 1024)).walkOn c.tile k (min (max n 1) 1024)) ∧
      ∀ (r : ActRow × List Nat) (o : Option (List (Sum32 × Bool))) (held : List (Nat × Nat)), v.actRow c.tile a 0 = .inr r →
        v.outlierRow c.tile a.extra 0 = .inr o →
        claimBanks (v.tile c.tile).banks (r.2.map fun w => (max c.cyc (u.tile c.tile).shadow.ready + 0 * rowCycles (v.tile c.tile) a, w)) = some held →
        exec (.mstream c 1 k row) s = .next (((v.modTile c.tile fun y => { y with banks := held }).accumulate c.tile
          ((v.tile c.tile).pairOf a).1 ((v.tile c.tile).pairOf a).2 row r.1 ws bias o).walkOn c.tile k 1)) ∧
  (∀ (s u : State) (c : TCtl) (row n : Nat), s.issues c = true → u = s.enter c →
      exec (.aclr c row n) s = .next (u.modTile c.tile fun x =>
        { x with acc := (List.range (min n 1024)).foldl (fun m k => merase m ((row + k) % 1024)) x.acc })) ∧
  (∀ (s u : State) (c : TCtl) (k : Nat) (v : AgCtx), s.issues c = true → u = s.enter c →
      exec (.agset c k v) s = .next (u.modTile c.tile fun x => { x with ctxs := mset {} x.ctxs (k % 8) { v with step := 0 } }))

/-- Scratchpad words and DRAM transfers of a tile complete: `SLD`, `SST`, `DRD`, `IFETCH`, `DMA_READ_DELIVERY`, `DWR`,
`DMA_WRITE_COMMIT`, `DRDX`, `DWRX`. Each clause gives the state and operands on which one of these comes to its own effect, and
the next state that `exec` answers there (R84, R106 to R117, R131, R135). -/
def Obligations.TileTransfersComplete : Prop :=
  (∀ (s u x : State) (c : TCtl) (k v w : Nat), s.issues c = true → u = s.enter c →
      ((u.tile c.tile).ctx k).extra.conv = none → (u.tile c.tile).walkAt ((u.tile c.tile).ctx k) ((u.tile c.tile).ctx k).step = .inr w →
      u.Claims c.tile [(c.cyc, w)] x →
      exec (.sld c k (.word v)) s =
        .next (((x.padRead c.tile w c.errs).2.walkOn c.tile k 1).setVreg c.tile v (x.padRead c.tile w c.errs).1)) ∧
  (∀ (s u x : State) (c : TCtl) (k v w : Nat), s.issues c = true → u = s.enter c →
      (u.tile c.tile).walkAt ((u.tile c.tile).ctx k) ((u.tile c.tile).ctx k).step = .inr w → u.Claims c.tile [(c.cyc, w)] x →
      exec (.sst c k (.word v)) s = .next ((x.walkOn c.tile k 1).padWrite c.tile w ((x.tile c.tile).vreg v))) ∧
  (∀ (s u : State) (c : TCtl) (h o dram n : Nat) (ws : List Nat), s.issues c = true → u = s.enter c → n ≠ 0 →
      (u.tile c.tile).wordsAt h o n = .inr ws →
      exec (.drd c h o dram n) s = .next (u.modTile c.tile fun x => { x with dmaR := x.dmaR ++
        [{ cyc := c.cyc, dram := dramOff dram, count := n, place := .pad h o }] })) ∧
  (∀ (s u : State) (c : TCtl) (dram n : Nat), s.issues c = true → u = s.enter c → 0 < n → n ≤ 512 →
      exec (.ifetch c dram n) s = .next ((u.modTile c.tile fun x => { x with ifBusy := true }).modTile c.tile fun x => { x with dmaR := x.dmaR ++
        [{ cyc := c.cyc, dram := dramOff dram, count := n, ifetch := true }] })) ∧
  (∀ (s : State) (c : TCtl) (d : Dma) (l : List Dma) (k : Nat), (s.tile c.tile).dmaR = d :: l → s.moves c.tile = true →
      dmaCycle d.cyc (s.latencyR c.tile) d.done ≤ c.cyc →
      exec (.dmaReadDelivery c k) s = .next (s.dmaDeliver c d k)) ∧
  (∀ (s u v : State) (c : TCtl) (src : Place) (dram n e0 e1 : Nat) (ws : List (Sum Nat Nat)) (x : List VReg × State)
      (y : Decoded × Decoded × State), s.issues c = true → u = s.enter c → n ≠ 0 → (u.tile c.tile).placeWords src n = .inr ws →
      u.Claims c.tile (writeWords c.cyc (u.writeLead c.tile (dramOff dram) n) ws) v → x = v.placeReads c.tile ws c.errs → y = x.2.readPartial c.tile (dramOff dram) n e0 e1 →
      exec (.dwr c src dram n e0 e1) s = .next (y.2.2.modTile c.tile fun z => { z with dmaW := z.dmaW ++
        [{ cyc := c.cyc, dram := dramOff dram, count := n, place := src, data := x.1, gen := y.2.2.tileGen c.tile, bad := y.1, badHi := y.2.1 }] })) ∧
  (∀ (s u : State) (c : TCtl) (d : Dma) (l : List Dma) (p j : Nat), (s.tile c.tile).dmaW = d :: l → s.moves c.tile = true →
      dmaCycle d.cyc (s.writeLead c.tile d.dram d.count) (d.count - 1) + 36 ≤ c.cyc →
      u = s.modTile c.tile (fun x => { x with dmaW := l, lastCommit := c.cyc, events := (x.events.1 + 1, x.events.2) }) →
      (u.tile c.tile).job = some (p, j) → d.gen = u.partGen p →
      exec (.dmaWriteCommit c) s = .next (u.storeWrite c.tile d)) ∧
  (∀ (s u v : State) (c : TCtl) (h o g k n w a : Nat) (x : VReg × State) (ws : List Nat), s.issues c = true → u = s.enter c →
      (u.tile c.tile).wordAt g k = .inr w → u.Claims c.tile [(c.cyc, w)] v → x = v.padRead c.tile w c.errs → x.1.poison = false →
      a = bitsOf x.1.data.toNat 0 32 → a + 64 * n ≤ 2 ^ 25 → n ≠ 0 → (x.2.tile c.tile).wordsAt h o n = .inr ws →
      exec (.drdx c h o g k n) s = .next (x.2.modTile c.tile fun z => { z with dmaR := z.dmaR ++
        [{ cyc := c.cyc, dram := dramOff a, count := n, place := .pad h o }] })) ∧
  (∀ (s u v : State) (c : TCtl) (src : Place) (g k n e0 e1 w a : Nat) (x : VReg × State), s.issues c = true → u = s.enter c →
      (u.tile c.tile).wordAt g k = .inr w → u.Claims c.tile [(c.cyc, w)] v → x = v.padRead c.tile w c.errs → x.1.poison = false →
      a = bitsOf x.1.data.toNat 0 32 → a + 64 * n ≤ 2 ^ 25 → n ≠ 0 →
      exec (.dwrx c src g k n e0 e1) s = .next (x.2.queueWrite c src (dramOff a) n e0 e1))

/-- Sends, multicasts, receives and arriving flits complete: `SEND`, `SENDM`, `RECV`, `ADDRECV`, `FLIT_ARRIVAL`. Each clause gives
the state and operands on which one of these comes to its own effect, and the next state that `exec` answers there (R85 to R90). -/
def Obligations.TileFlitsComplete : Prop :=
  (∀ (s u : State) (c : TCtl) (dx dy : Int) (y : Bool) (src : Place) (n : Nat), s.issues c = true → u = s.enter c →
      exec (.send c dx dy y src n) s = .next (u.sendOver c src n [routeOf (meshRow c.tile) (meshCol c.tile) dx dy y])) ∧
  (∀ (s u : State) (c : TCtl) (dx dy : Int) (src : Place) (n : Nat), s.issues c = true → u = s.enter c → (dx = 0 ∨ dy = 0) →
      exec (.sendm c dx dy src n) s = .next (u.sendOver c src n ((List.range (routeOf (meshRow c.tile) (meshCol c.tile) dx dy false).length).map
        fun k => (routeOf (meshRow c.tile) (meshCol c.tile) dx dy false).take (k + 1)))) ∧
  (∀ (s u : State) (c : TCtl) (dst : Place) (n : Nat) (ws : List (Sum Nat Nat)), s.issues c = true → u = s.enter c → n ≠ 0 →
      (u.tile c.tile).placeWords dst n = .inr ws →
      exec (.recv c dst n) s = .next (u.modTile c.tile fun x => { x with recvs := x.recvs ++ [{ dest := dst, left := n }] })) ∧
  (∀ (s u : State) (c : TCtl) (dst : Place) (n : Nat) (b : Bool) (ws : List (Sum Nat Nat)), s.issues c = true → u = s.enter c → n ≠ 0 →
      (u.tile c.tile).placeWords dst n = .inr ws →
      exec (.addrecv c dst n b) s = .next (u.modTile c.tile fun x =>
        { x with recvs := x.recvs ++ [{ add := true, int := b, dest := dst, left := n }] })) ∧
  (∀ (s u : State) (c : TCtl) (f : Flits) (r : Recv) (l : List Recv), firstFlits (s.tile c.tile).flits = some f →
      s.moves c.tile = true → f.arrive ≤ c.cyc →
      u = ((s.noteFlit c.tile f).modTile c.tile fun x => flitGone x f).raiseChecks c.tile (c.chk &&& 8#5) →
      (u.tile c.tile).recvs = r :: l →
      exec (.flitArrival c) s = .next (u.takeFlit c r (f.words.headD {})))

/-- Lane-wise vector arithmetic completes with the lane function's results: `VADD`, `VSUB`, `VMUL`, `VMAX`, `VMIN`, `VABS`, `VNEG`,
`VEXP`, `VRCP`, `VRSQRT`, `VFMA`, `VSCL2`. Each clause gives the state and operands on which one of these comes to its own
effect, and the next state that `exec` answers there (R75, R77, R167 to R185). Where the numerics leave a value open it is free
(log entry 4). -/
def Obligations.VectorLanesComplete : Prop :=
  (∀ (s u : State) (c : TCtl) (vd va vb : Nat) (pred : Bool) (a b : VReg), s.issues c = true → u = s.enter c →
      a = (u.tile c.tile).vreg va → b = (u.tile c.tile).vreg vb →
      ∀ (f : Nat → Nat → Nat) (k : Instr), (f, k) ∈ [(add32, Instr.vadd c vd va vb pred), (vsub32, .vsub c vd va vb pred),
        (mul32, .vmul c vd va vb pred), (max32, .vmax c vd va vb pred), (min32, .vmin c vd va vb pred)] →
      exec k s = .next (u.vecOut c.tile vd pred (a.poison || b.poison)
        (((lanes a.data).zip (lanes b.data)).map fun x => f x.1 x.2)
        (laneFlags (((lanes a.data).zip (lanes b.data)).map fun x => ([x.1, x.2], f x.1 x.2))))) ∧
  (∀ (s u : State) (c : TCtl) (vd va : Nat) (pred : Bool) (a : VReg), s.issues c = true → u = s.enter c →
      a = (u.tile c.tile).vreg va →
      ∀ (f : Nat → Nat) (k : Instr), (f, k) ∈ [(abs32, Instr.vabs c vd va pred), (neg32, .vneg c vd va pred),
        (exp32, .vexp c vd va pred), (rcp32, .vrcp c vd va pred), (rsqrt32, .vrsqrt c vd va pred)] →
      exec k s = .next (u.vecOut c.tile vd pred a.poison ((lanes a.data).map f) (laneFlags ((lanes a.data).map fun x => ([x], f x))))) ∧
  (∀ (s u : State) (c : TCtl) (vd va vb vc : Nat) (pred : Bool) (a b d : VReg) (r : List (List Nat × Nat)), s.issues c = true →
      u = s.enter c → a = (u.tile c.tile).vreg va → b = (u.tile c.tile).vreg vb → d = (u.tile c.tile).vreg vc →
      r = ((List.range 16).map fun l => ([laneOf a.data l, laneOf b.data l, laneOf d.data l],
        fma32 (laneOf a.data l) (laneOf b.data l) (laneOf d.data l))) →
      exec (.vfma c vd va vb vc pred) s =
        .next (u.vecOut c.tile vd pred (a.poison || b.poison || d.poison) (r.map Prod.snd) (laneFlags r))) ∧
  (∀ (s u : State) (c : TCtl) (vd va vb : Nat) (pred : Bool) (a b : VReg) (r : List (List Nat × Nat)), s.issues c = true →
      u = s.enter c → a = (u.tile c.tile).vreg va → b = (u.tile c.tile).vreg vb →
      r = ((List.range 16).map fun l => ([laneOf a.data l], scl32 (laneOf a.data l) (toSigned 32 (laneOf b.data l)))) →
      exec (.vscl2 c vd va vb pred) s = .next (u.vecOut c.tile vd pred (a.poison || b.poison) (r.map Prod.snd) (laneFlags r)))

/-- Compares, selects, moves and reductions complete: `VCMP`, `VSEL`, `VMOV`, `AMOV`, `VRSUM`, `VRMAX`, `VRMAXABS`. Each clause
gives the state and operands on which one of these comes to its own effect, and the next state that `exec` answers there (R75,
R77, R170, R185). -/
def Obligations.VectorMovesComplete : Prop :=
  (∀ (s u : State) (c : TCtl) (rel va vb : Nat) (a b : VReg), s.issues c = true → u = s.enter c → rel ≤ 3 →
      a = (u.tile c.tile).vreg va → b = (u.tile c.tile).vreg vb →
      exec (.vcmp c rel va vb) s = .next ((u.modTile c.tile fun x =>
        { x with pred := cmpMask rel a.data b.data, predPois := a.poison || b.poison }).raiseNum c.tile
          (if (lanes a.data ++ lanes b.data).any fun x => isNan (f32 x) then NF.nanIn else 0))) ∧
  (∀ (s u : State) (c : TCtl) (vd va vb : Nat) (a b : VReg), s.issues c = true → u = s.enter c →
      a = (u.tile c.tile).vreg va → b = (u.tile c.tile).vreg vb →
      exec (.vsel c vd va vb) s = .next (u.setVreg c.tile vd
        { data := ofLanes ((List.range 16).map fun l => if (u.tile c.tile).pred.getLsbD l then laneOf a.data l else laneOf b.data l),
          poison := a.poison || b.poison || (u.tile c.tile).predPois })) ∧
  (∀ (s u : State) (c : TCtl) (vd va : Nat) (pred : Bool) (a : VReg), s.issues c = true → u = s.enter c →
      a = (u.tile c.tile).vreg va → exec (.vmov c vd va pred) s = .next (u.vecOut c.tile vd pred a.poison (lanes a.data) 0)) ∧
  (∀ (s u : State) (c : TCtl) (vd row : Nat) (pred : Bool) (a : VReg), s.issues c = true → u = s.enter c →
      a = (u.tile c.tile).accRow row →
      exec (.amov c vd row pred) s = .next (u.vecOut c.tile vd pred (a.poison || c.chk.getLsbD 4) (lanes a.data) 0)) ∧
  (∀ (s u : State) (c : TCtl) (vd va : Nat) (pred : Bool) (a : VReg), s.issues c = true → u = s.enter c →
      a = (u.tile c.tile).vreg va →
      ∀ (r : Sum32) (k : Instr), (r, k) ∈ [(tree (0, 0) addF 4 ((lanes a.data).map fun x => (x, 0)), Instr.vrsum c vd va pred),
        (tree (0, 0) maxF 4 ((lanes a.data).map fun x => (x, 0)), .vrmax c vd va pred),
        (tree (0, 0) maxF 4 ((lanes a.data).map fun x => (abs32 x, if isNan (f32 x) then NF.nanIn else 0)), .vrmaxabs c vd va pred)] →
      exec k s = .next (u.vecOut c.tile vd pred a.poison (r.1 :: List.replicate 15 0) r.2))

/-- Conversions and quantisation operations complete: `VCVT_S`, `VCVT_N`, `VDQ`, `QSTAT`, `QSCALE`, `QCONV`. Each clause gives the
state and operands on which one of these comes to its own effect, and the next state that `exec` answers there (R171 to R184). -/
def Obligations.ConversionsComplete : Prop :=
  (∀ (s u : State) (c : TCtl) (vd va fmt part : Nat) (pred : Bool), s.issues c = true → u = s.enter c →
      (cvtDefined fmt part false true = true → exec (.vcvtS c vd va fmt part true pred) s = .next (u.cvtWiden c.tile vd va fmt part pred)) ∧
      (cvtDefined fmt part false false = true → exec (.vcvtS c vd va fmt part false pred) s = .next (u.cvtNarrow c.tile vd va fmt part false pred)) ∧
      (cvtDefined fmt part true true = true → exec (.vcvtN c vd va fmt part true pred) s = .next (u.cvtWiden c.tile vd va fmt part pred)) ∧
      (cvtDefined fmt part true false = true → exec (.vcvtN c vd va fmt part false pred) s = .next (u.cvtNarrow c.tile vd va fmt part true pred))) ∧
  (∀ (s u : State) (c : TCtl) (vd va vb vc fmt part : Nat) (z : Int) (pred : Bool) (a b d : VReg) (r q : List (Nat × NumFlags)),
      s.issues c = true → u = s.enter c → a = (u.tile c.tile).vreg va → b = (u.tile c.tile).vreg vb → d = (u.tile c.tile).vreg vc →
      r = ((List.range 16).map fun l => dqAcc (laneOf a.data l) (laneOf b.data l) (laneOf d.data l)) →
      q = ((List.range 16).map fun l => dqElem (widthOf fmt)
        (bitsOf a.data.toNat (16 * widthOf fmt * part + widthOf fmt * l) (widthOf fmt)) z (laneOf b.data l)) →
      exec (.vdq c vd va vb vc 13 part z pred) s =
        .next (u.vecOut c.tile vd pred (a.poison || b.poison || d.poison) (r.map Prod.fst) (orFlags (r.map Prod.snd))) ∧
      (fmt ≠ 13 → isInt fmt = true → part < partCount (widthOf fmt) →
        exec (.vdq c vd va vb vc fmt part z pred) s =
          .next (u.vecOut c.tile vd pred (a.poison || b.poison) (q.map Prod.fst) (orFlags (q.map Prod.snd))))) ∧
  (∀ (s u : State) (c : TCtl) (d va k row col v : Nat), s.issues c = true → u = s.enter c → v = (u.tile c.tile).qdesc d →
      exec (.qstat c d va k row col) s = .next (if (((u.tile c.tile).ctx k).extra.first &&
        decide (row * ((u.tile c.tile).handle (qSrcH v)).stride + col = ((u.tile c.tile).ctx k).start)) = true
        then u.qClear c.tile v fun x => x.qStatWord c.tile v va row col else u.qStatWord c.tile v va row col)) ∧
  (∀ (s u : State) (c : TCtl) (d k v w : Nat), s.issues c = true → u = s.enter c → v = (u.tile c.tile).qdesc d →
      (u.tile c.tile).wordAt (qStatH v) k = .inr w →
      exec (.qscale c d k) s = .next (u.qScales c.tile d v k (u.padRead c.tile w 0).1)) ∧
  (∀ (s u : State) (c : TCtl) (d va row col v : Nat) (a : VReg) (rs : List (Nat × NumFlags × Bool × Option Nat)), s.issues c = true →
      u = s.enter c → v = (u.tile c.tile).qdesc d → a = (u.tile c.tile).vreg va →
      allOk ((qElems v col a.data).map (u.qConvOne c.tile d v row)) = .inr rs →
      exec (.qconv c d va row col) s = .next (u.putSpan c.tile (qDstH v) row (widthOf (qDst v)) (col * qPerWord v) (rs.map Prod.fst)
        (a.poison || rs.any fun y => y.2.2.1) fun x =>
          (x.qOutliers c.tile v row ((qElems v col a.data).zip rs) a.poison).raiseNum c.tile (orFlags (rs.map fun y => y.2.1))))

/-- Refresh, TMR sweep, CET, retirements and access tables complete: `REFRESH_BEAT`, `TMR_SWEEP`, `CDN_CET_CLR`, `ACC_WRITE`,
`ACC_READ`, `MEM_CET_CLEAR`, `MEM_RETIRE_PAGE`, `MEM_RETIRE_BANK`, `MEM_RETIRE_LIST`. Each clause gives the state and operands
on which one of these comes to its own effect, and the next state that `exec` answers there (R124, R139 to R149, R341 to R346). -/
def Obligations.MemoryUpkeepCompletes : Prop :=
  (∀ (s : State) (t n : Nat), s.inService (blockOf (t % 2048)) = true →
      exec (.refreshBeat t n) s = .next (s.beat (t % 2048) n)) ∧
  (∀ (s : State) (l : List Upset),
      exec (.tmrSweep l) s = .next ((s.each (s.tmr.map Prod.fst) State.vote).each l State.upset)) ∧
  (∀ (s : State) (m n : Nat) (v : Dword), s.passes m .write (R.CD_CET_CLR n) 4 = true →
      exec (.cdnCetClr m n v) s = .next ((s.clearCet n v.toNat).answer m [] false)) ∧
  (∀ (s : State) (n : Nat), s.runs n 0x0300 = true → accTable (s.arg n 0) = true → s.arg n 1 ≤ 63 →
      fixedNumber (s.arg n 0) (s.arg n 1) = false → accEntryOk (s.arg n 2) = true →
      exec (.accWrite n) s = .next (State.respond { s with
        access := mset {} s.access (s.arg n 0 * 64 + s.arg n 1) (accEntryOf (s.arg n 2)) } n ST.OK [])) ∧
  (∀ (s : State) (n : Nat), s.runs n 0x0301 = true → accTable (s.arg n 0) = true → s.arg n 1 + s.arg n 2 ≤ 64 →
      exec (.accRead n) s = .next (s.respond n ST.OK
        ((List.range (s.arg n 2)).flatMap fun k => accEntryBytes (s.accEntry (s.arg n 0) (s.arg n 1 + k))))) ∧
  (∀ (s : State) (n : Nat), s.runs n 0x0302 = true →
      exec (.memCetClear n) s = .next ((s.clearCet (stackOf (s.arg n 0)) (s.arg n 1 + 256 * s.arg n 2)).respond n ST.OK [])) ∧
  (∀ (s u : State) (n : Nat) (x : Retirement) (b : Bool), s.runs n 0x0303 = true →
      x = { die := s.arg n 0, row := s.arg n 1, pcol := s.arg n 2, page := s.arg n 3 } → retirementOk x = true → s.retire x = some (b, u) →
      exec (.memRetirePage n) s = .next (u.respond n (if b then ST.MEM_RETIRE_PENDING else ST.OK) [BitVec.ofNat 8 (b2n b)])) ∧
  (∀ (s u : State) (n : Nat) (x : Retirement) (b : Bool), s.runs n 0x0304 = true →
      x = { die := s.arg n 0, row := s.arg n 1, pcol := s.arg n 2, bank := true, layer := s.arg n 3, num := s.arg n 4 } → retirementOk x = true →
      s.retire x = some (b, u) →
      exec (.memRetireBank n) s = .next (u.respond n (if b then ST.MEM_RETIRE_PENDING else ST.OK) [BitVec.ofNat 8 (b2n b)])) ∧
  (∀ (s : State) (n : Nat) (x : List Byte × State) (y : State × Nat × Bool × Bool), s.runs n 0x0305 = true →
      x = s.supRead (s.arg n 1) (8 * s.arg n 0) →
      ((chunks 8 x.1 (x.2.arg n 0)).map retirementOf).all retirementOk = true →
      ((chunks 8 x.1 (x.2.arg n 0)).any fun v => decide (1 < bitsOf v 24 8)) = false →
      y = x.2.retireAllOf ((chunks 8 x.1 (x.2.arg n 0)).map retirementOf) 0 false →
      exec (.memRetireList n) s = .next (y.1.respond n
        (if y.2.2.2 then ST.MEM_RETIRE_FULL else if y.2.2.1 then ST.MEM_RETIRE_PENDING else ST.OK) (leBytes y.2.1 2)))

/-- Accesses, remote packets and their timeout complete: `ACCESS`, `BAM_PACKET_RECEIVE`, `REMOTE_ACCESS_TIMEOUT`. Each clause gives
the state and operands on which one of these comes to its own effect, and the next state that `exec` answers there (R22 to R30,
R341 to R345, R430 to R432, R609 to R611). -/
def Obligations.AccessesComplete : Prop :=
  ((∀ (s : State) (m a len e : Nat) (k : AccessKind) (d : List Byte) (p : Bool) (t : Nat), targetOf a = some (.dram t) →
        s.passes m k a len = true → k ≠ .write →
        exec (.access m k a len d p e) s = .next ((s.dramRead a len e).2.2.answer m (s.dramRead a len e).1 (s.dramRead a len e).2.1)) ∧
      (∀ (s : State) (m a len e : Nat) (d : List Byte) (p : Bool) (t : Nat), targetOf a = some (.dram t) → s.passes m .write a len = true →
        exec (.access m .write a len d p e) s = .next ((s.dramWrite a (fitData d len) p e).answer m [] false)) ∧
      (∀ (s : State) (m a len e : Nat) (k : AccessKind) (d : List Byte) (p : Bool), targetOf a = some .host →
        s.passes m k a len = true → k ≠ .write →
        exec (.access m k a len d p e) s = .next ((s.dramRead a len e).2.2.answer m (s.dramRead a len e).1 (s.dramRead a len e).2.1)) ∧
      (∀ (s : State) (m a len e : Nat) (d : List Byte) (p : Bool), targetOf a = some .host → s.passes m .write a len = true →
        exec (.access m .write a len d p e) s = .next ((s.dramWrite a (fitData d len) p e).answer m [] false)) ∧
      (∀ (s : State) (m a len e : Nat) (k : AccessKind) (d : List Byte) (p : Bool) (t : Nat), targetOf a = some (.spad t) →
        s.passes m k a len = true → k ≠ .write →
        exec (.access m k a len d p e) s =
          .next ((s.padGet t (a % 0x100000) len e).2.2.answer m (s.padGet t (a % 0x100000) len e).1 (s.padGet t (a % 0x100000) len e).2.1)) ∧
      (∀ (s : State) (m a len e : Nat) (d : List Byte) (p : Bool) (t : Nat), targetOf a = some (.spad t) → s.passes m .write a len = true →
        exec (.access m .write a len d p e) s = .next ((s.padSet t (a % 0x100000) (fitData d len) p e).answer m [] false)) ∧
      (∀ (s : State) (m a len e : Nat) (k : AccessKind) (d : List Byte) (p : Bool) (t : Nat), targetOf a = some (.unit t) →
        s.passes m k a len = true → k ≠ .write →
        exec (.access m k a len d p e) s = .next ((s.readUnit m a len).2.answer m (s.readUnit m a len).1 false)) ∧
      (∀ (s u : State) (m a len e : Nat) (d : List Byte) (p : Bool) (t : Nat), targetOf a = some (.unit t) → s.passes m .write a len = true →
        s.writeUnit m a (fitData d len).length (fitData d len) = accept u →
        exec (.access m .write a len d p e) s = .next (u.answer m [] false))) ∧
  (∀ (s u : State) (p : Nat) (k : BamPacket), s.linkOpen (p % 6) = true → s.domainOn 13 = true →
      u = s.linkCounts (p % 6) k → k.epoch = u.ownEpoch → u.bit R.BAM_STATUS 6 = true →
      (k.dest ≠ u.ownNode → exec (.bamPacketReceive p k) s = .next (u.sendPacket (p % 6) k)) ∧
      (k.dest = u.ownNode → k.comp = none → exec (.bamPacketReceive p k) s = .next (u.serveRemote k)) ∧
      (∀ c, k.dest = u.ownNode → k.comp = some c → exec (.bamPacketReceive p k) s = .next (u.remoteDone k c))) ∧
  (∀ (s : State) (k : Nat) (r : Remote), s.remotes.lookup k = some r → r.start + 50000 ≤ s.age →
      exec (.remoteAccessTimeout k) s = .next ((State.busFail { s with remotes := merase s.remotes k } r.master (if r.write then .write else .read)
        r.addr r.len ST.BAM_TIMEOUT 0x1C).incReg R.BAM_TIMEOUT_CNT))

/-- Register writes, and register reads and writes by mailbox, complete: `REGISTER_WRITE`, `REG_READ`, `REG_WRITE`. Each clause
gives the state and operands on which one of these comes to its own effect, and the next state that `exec` answers there (R345,
R346, R364, R367). -/
def Obligations.RegisterAccessCompletes : Prop :=
  (∀ (s u : State) (m a t : Nat) (v : Dword) (p : Piece), pieceAt a 8 = some p → targetOf p.base = some (.unit t) →
      s.passes m .write p.base (min 8 p.size) = true →
      s.writeUnit m p.base (fitData (leBytes v.toNat 8) (min 8 p.size)).length (fitData (leBytes v.toNat 8) (min 8 p.size)) = accept u →
      exec (.registerWrite m a v) s = .next (u.answer m [] false)) ∧
  (∀ (s : State) (n : Nat) (x : List Byte × State), s.runs n 0x0004 = true →
      ((List.range (s.arg n 3)).filterMap fun k => s.regCmdStop (s.arg n 0) (s.arg n 2 + s.arg n 1 * k) (s.arg n 1)) = [] →
      x = s.regReads (s.arg n 0) (s.arg n 2) (s.arg n 1) (s.arg n 3) →
      exec (.regRead n) s = .next (x.2.respond n ST.OK x.1)) ∧
  (∀ (s u : State) (n : Nat), s.runs n 0x0005 = true → s.regCmdStop (s.arg n 0) (s.arg n 2) (s.arg n 1) = none →
      s.tableAllows (s.arg n 0) (s.mbOwner n) .write (unitBase (s.arg n 0) + s.arg n 2) (s.arg n 1) = true →
      ((List.range (s.arg n 1)).any fun k => protectedReg (s.arg n 0) (s.arg n 2 + k)) = false →
      s.writeUnit 1 (unitBase (s.arg n 0) + s.arg n 2) (s.arg n 1) (leBytes (s.arg n 3) (s.arg n 1)) = accept u →
      exec (.regWrite n) s = .next (u.respond n ST.OK []))

/-- General mailbox commands and the service of mailboxes complete: `NOP`, `CAP_GET`, `VER_GET`, `MB_ASSIGN`, `ERR_READ`,
`SERVICE_ROUND`, `SUP_MBN_REQ_SEQ`. Each clause gives the state and operands on which one of these comes to its own effect, and
the next state that `exec` answers there (R353 to R363, R366, R370, R372, R501). -/
def Obligations.GeneralCommandsComplete : Prop :=
  (∀ (s : State) (n : Nat), s.runs n 0x0000 = true → exec (.nop n) s = .next (s.respond n ST.OK [])) ∧
  (∀ (s : State) (n : Nat), s.runs n 0x0001 = true → s.repairLocked = true →
      exec (.capGet n) s = .next (s.respond n ST.OK s.capBytes)) ∧
  (∀ (s : State) (n : Nat), s.runs n 0x0002 = true → exec (.verGet n) s = .next (s.respond n ST.OK s.verBytes)) ∧
  (∀ (s : State) (n : Nat), s.runs n 0x0003 = true →
      s.assignRefusal n (s.arg n 0) (s.arg n 3) (s.arg n 4) = none →
      exec (.mbAssign n) s = .next (((((s.setRegN (R.SUP_MB_OWNER (s.arg n 0)) (s.arg n 1 + s.arg n 2 * 2 ^ 16)).setRegN
        (R.SUP_MB_RIGHTS (s.arg n 0)) (s.arg n 3)).setRegN (R.SUP_MB_SCOPE (s.arg n 0)) (s.arg n 4)).setBit
        (R.SUP_MB_STATE (s.arg n 0)) 1 (decide (s.arg n 3 ≠ 0 ∧ s.arg n 4 ≠ 0))).respond n ST.OK [])) ∧
  (∀ (s : State) (n : Nat) (x : Nat × List ErrRecord), s.runs n 0x0006 = true → x = s.logRead (s.arg n 0) (s.arg n 1) →
      exec (.errRead n) s = .next (s.respond n ST.OK (leBytes x.1 4 ++ leBytes x.2.length 1 ++
        (if x.2.isEmpty then [] else List.replicate 11 0#8) ++ x.2.flatMap errBytes))) ∧
  (∀ (s : State), s.roundNext + 3000 ≤ s.now → s.boot.phase = .done →
      exec .serviceRound s = .next { (s.wrapReg R.SUP_ROUND_CNT).each (List.range 16)
        (fun u n => u.slotOf s.roundNext (s.roundNext / 4000 % 2 ^ 32) n) with roundNext := s.roundNext + 4000 }) ∧
  (∀ (s : State) (m n : Nat) (v : Dword), s.passes m .write (R.SUP_MB_REQ_SEQ (n % 16)) 4 = true →
      s.bit (R.SUP_MB_STATE (n % 16)) 0 = false →
      v.toNat % 2 ^ 32 = (s.regN (R.SUP_MB_RSP_SEQ (n % 16)) + 1) % 2 ^ 32 →
      exec (.supMbnReqSeq m n v) s = .next ((((s.setRegN (R.SUP_MB_REQ_SEQ (n % 16)) (v.toNat % 2 ^ 32)).setFld
        (R.SUP_MB_STATE (n % 16)) 0 1 1).modMbox (n % 16) fun _ => { landed := s.age }).answer m [] false))

/-- Wheel loads, wheel control and the time step complete: `WHEEL_LOAD`, `WHEEL_ENABLE`, `WHEEL_DISABLE`, `WHEEL_SWAP`, `TIME_STEP`.
Each clause gives the state and operands on which one of these comes to its own effect, and the next state that `exec` answers
there (R35, R46 to R53). -/
def Obligations.TimeCommandsComplete : Prop :=
  (∀ (s : State) (n : Nat) (x : List Byte × State), s.runs n 0x0100 = true →
      x = s.supRead (s.arg n 3) (16 * s.arg n 1) → (x.2.wheel (s.arg n 0)).swapAt = none →
      x.2.bankRefusal (x.2.arg n 2) (chunks 16 x.1 (x.2.arg n 1)) = none →
      exec (.wheelLoad n) s =
        .next ((x.2.putBank (s.arg n 0) (x.2.arg n 2) ((chunks 16 x.1 (x.2.arg n 1)).map entryOf)).respond n ST.OK [])) ∧
  (∀ (s u : State) (n b : Nat), s.runs n 0x0101 = true → s.arg n 1 = 0 →
      s.wheelEnable (s.arg n 0) (s.arg n 2) = (u, ST.OK, b) →
      exec (.wheelEnable n) s = .next (u.respond n ST.OK (leBytes b 8))) ∧
  (∀ (s u : State) (n b : Nat), s.runs n 0x0101 = true → s.arg n 1 = 1 →
      s.wheelDisable (s.arg n 0) = (u, ST.OK, b) →
      exec (.wheelDisable n) s = .next (u.respond n ST.OK (leBytes b 8))) ∧
  (∀ (s u : State) (n b : Nat), s.runs n 0x0101 = true → s.arg n 1 = 2 →
      s.wheelSwap (s.arg n 0) = (u, ST.OK, b) →
      exec (.wheelSwap n) s = .next (u.respond n ST.OK (leBytes b 8))) ∧
  (∀ (s : State) (n : Nat), s.runs n 0x0102 = true → s.anyWheel = false →
      exec (.timeStep n) s = .next ((s.stepTime (s.arg n 0)).respond n ST.OK []))

/-- Creating and destroying partitions, images, jobs and slice tables completes: `PART_CREATE`, `PART_DESTROY`, `IMG_LOAD`,
`IMG_UNLOAD`, `JOB_ADMIT`, `JOB_RETIRE`, `SLICE_TABLE_LOAD`, `PART_CREDIT_CONFIG`. Each clause gives the state and operands on
which one of these comes to its own effect, and the next state that `exec` answers there (R310 to R322, R4, R334). -/
def Obligations.PartitionCommandsComplete : Prop :=
  (∀ (s u : State) (n : Nat), s.runs n 0x0200 = true → s.createRefusal (s.arg n 0) (s.arg n 4) (s.arg n 5) = none →
      u = s.openPart (s.arg n 0) (s.arg n 1) (s.arg n 2) (s.arg n 3) (s.arg n 4) (s.arg n 5) →
      ((blocksTiles (u.partBlocks (s.arg n 0))).all fun t => decide (u.fld (tMemcfg t) 0 2 = s.arg n 1)) = true →
      exec (.partCreate n) s =
        .next (((u.setStrength (s.arg n 0) (s.arg n 1) (s.arg n 2)).setFld (R.ACC_P_STATUS (s.arg n 0)) 0 2 2).respond n ST.OK [])) ∧
  (∀ (s u : State) (n : Nat), s.runs n 0x0201 = true → s.partState (s.arg n 0) = 2 →
      u = (((s.setFld (R.ACC_P_STATUS (s.arg n 0)) 0 2 3).retireAll (s.arg n 0)).modPart (s.arg n 0) fun q =>
        { q with images := [], dramBusy := true }).bumpGen (s.arg n 0) →
      exec (.partDestroy n) s = .next (((((((u.clearAccess (s.arg n 0)).clearLandings (s.arg n 0)).zeroAllTiles (s.arg n 0)).unshedPart
        (s.arg n 0)).clearSuspects (s.arg n 0)).endHold (s.arg n 0)).modMbox n fun m => { m with waiting := true })) ∧
  (∀ (s : State) (n : Nat) (g k : Image), s.runs n 0x0202 = true → s.partState (s.arg n 0) = 2 →
      s.imageInUse (s.arg n 0) (s.arg n 1) = false → s.imageRefusal (s.arg n 0) g = none →
      k = { g with address := s.arg n 3, bytes := s.arg n 2, digest := Config.sha384 (s.bytes (s.arg n 3) (s.arg n 2)) } →
      exec (.imgLoad n g) s = .next ((((s.unloadImage (s.arg n 0) (s.arg n 1)).modPart (s.arg n 0) fun q =>
        { q with images := minsert q.images (s.arg n 1) k }).logImage (s.arg n 0) (s.arg n 1) k).respond n ST.OK (leBytes g.hash.toNat 8))) ∧
  (∀ (s u : State) (n : Nat), s.runs n 0x0203 = true → s.partState (s.arg n 0) = 2 →
      s.imageInUse (s.arg n 0) (s.arg n 1) = false → u = s.unloadImage (s.arg n 0) (s.arg n 1) → u.hardwareDone n = true →
      exec (.imgUnload n) s = .next (u.respond n ST.OK [])) ∧
  (∀ (s u : State) (n : Nat) (g : Image) (bs : List Nat), s.runs n 0x0204 = true → s.partState (s.arg n 0) = 2 →
      s.jobState (s.arg n 0) (s.arg n 1) = 0 → s.imageIn (s.arg n 0) (s.arg n 2) = true →
      g = mget {} (s.part (s.arg n 0)).images (s.arg n 2) → s.place (s.arg n 0) g (s.arg n 3) = .inr bs →
      demandOf ((bs, powerShare g) :: s.powerList (s.arg n 0)) ≤ s.regN (R.PMU_P_ALLOC (s.arg n 0)) →
      s.addHandles (s.handlesAt (s.arg n 0) (s.arg n 1) (s.arg n 2) g bs) = .inr u →
      exec (.jobAdmit n) s = .next ((u.admitJob (s.arg n 0) (s.arg n 1) (s.arg n 2) (s.arg n 3) (s.arg n 4) g bs).respond n ST.OK
        (leBytes (bs.headD 0) 1))) ∧
  (∀ (s : State) (n : Nat), s.runs n 0x0205 = true → s.partState (s.arg n 0) = 2 →
      s.jobState (s.arg n 0) (s.arg n 1) ≠ 0 → (s.job (s.arg n 0) (s.arg n 1)).phase = .idle →
      exec (.jobRetire n) s = .next ((s.freeJob (s.arg n 0) (s.arg n 1)).respond n ST.OK [])) ∧
  (∀ (s : State) (n : Nat), s.runs n 0x0206 = true → s.partState (s.arg n 0) = 2 →
      s.bit (R.ACC_P_STATUS (s.arg n 0)) 10 = false → s.tableClash (s.arg n 0) (s.tableArg n) = false →
      exec (.sliceTableLoad n) s = .next (((s.modPart (s.arg n 0) fun q =>
        if s.bit (R.ACC_P_STATUS (s.arg n 0)) 9 then { q with bankA := s.tableArg n } else { q with bankB := s.tableArg n }).setBit
        (R.ACC_P_STATUS (s.arg n 0)) 10 true).respond n ST.OK [])) ∧
  (∀ (s : State) (n : Nat) (x : List Byte × State), s.runs n 0x0207 = true → x = s.supRead (s.arg n 1) 576 →
      x.2.partState (s.arg n 0) = 2 → ((List.range 64).any fun j => decide (x.2.jobState (s.arg n 0) j ≠ 0)) = false →
      exec (.partCreditConfig n) s = .next ((x.2.modPart (s.arg n 0) fun q => { q with
        sems := (List.range 256).foldl (fun m k => mmod {} m k fun (y : Semaphore) => { y with colour := bitsOf (leNat (x.1.take 64)) (2 * k) 2 })
          (x.2.part (s.arg n 0)).sems
        credits := (enumFrom 0 (chunks 8 (x.1.drop 64) 64)).foldl (fun m y => mset {} m y.1 (creditOf y.2)) [] }).respond n ST.OK []))

/-- KV pools, contexts, steps, queries and plans complete: `KV_POOL_CREATE`, `KV_POOL_DESTROY`, `KV_POOL_RESYNC`, `KV_CTX_OPEN`,
`KV_STEP_OPEN`, `KV_QUERY`, `KV_PLAN_PUBLISH`. Each clause gives the state and operands on which one of these comes to its own
effect, and the next state that `exec` answers there (R241 to R267). The place of a page table is a Config function (log entry
40). -/
def Obligations.KvCommandsComplete : Prop :=
  (∀ (s : State) (n : Nat), s.runs n 0x0400 = true → s.bit R.KVD_CTRL 0 = true →
      ((s.poolArgs n).parts.any fun k => decide (s.partState k ≠ 2)) = false → s.poolValid (s.arg n 0) = false →
      s.poolOk (s.poolArgs n) (s.arg n 3) = true →
      exec (.kvPoolCreate n) s = .next ((((((State.setRegN { s with
        kvPools := mset {} s.kvPools (s.arg n 0) { s.poolArgs n with free := freshFree (s.poolArgs n) } } (R.KVD_POOL_CFG (s.arg n 0))
          (poolCfg (s.poolArgs n))).setRegN (R.KVD_POOL_STEP (s.arg n 0)) 0).setRegN (R.KVD_POOL_FRAMES (s.arg n 0))
          ((s.poolArgs n).h * (s.poolArgs n).s)).showFree (s.arg n 0)).respond n ST.OK []))) ∧
  (∀ (s u : State) (n : Nat), s.runs n 0x0401 = true → s.bit R.KVD_CTRL 0 = true →
      s.poolValid (s.arg n 0) = true → (s.pool (s.arg n 0)).step = none →
      u = ((((State.setRegN { s with kvPools := merase s.kvPools (s.arg n 0), kvCtxs := s.kvCtxs.filter fun x => decide (x.2.pool ≠ s.arg n 0) }
        (R.KVD_POOL_CFG (s.arg n 0)) 0).setRegN (R.KVD_POOL_STEP (s.arg n 0)) 0).setRegN (R.KVD_POOL_FRAMES (s.arg n 0)) 0).setRegN
        (R.KVD_POOL_FREE (s.arg n 0)) 0) →
      exec (.kvPoolDestroy n) s = .next ((State.showCtxCount (if u.kvPools.any fun x => u.bit (R.KVD_POOL_STEP x.1) 33 then u
        else u.setAmber 5 false)).respond n ST.OK [])) ∧
  (∀ (s : State) (n : Nat), s.runs n 0x0405 = true → s.bit R.KVD_CTRL 0 = true →
      s.poolValid (s.arg n 0) = true → (s.pool (s.arg n 0)).twin.isSome = true → s.bit (R.KVD_POOL_STEP (s.arg n 0)) 33 = false →
      exec (.kvPoolResync n) s = .next (s.respond n ST.OK (leBytes 0 4))) ∧
  (∀ (s : State) (n o : Nat) (x : KvCtx), s.runs n 0x0402 = true → s.bit R.KVD_CTRL 0 = true →
      s.poolValid (s.arg n 1) = true → (s.ctx (s.arg n 0)).state = 0 →
      s.tablePlace (4 * ((s.pool (s.arg n 1)).lmax / (s.pool (s.arg n 1)).pageLen)) = some o →
      x = { state := 1, pool := s.arg n 1, ptBase := o, ptCap := (s.pool (s.arg n 1)).lmax / (s.pool (s.arg n 1)).pageLen } →
      exec (.kvCtxOpen n) s = .next ((State.showCtxCount { s with kvCtxs := mset {} s.kvCtxs (s.arg n 0) x }).respond n ST.OK [])) ∧
  (∀ (s u : State) (n : Nat) (x : List Byte × Bool × State), s.runs n 0x0403 = true → s.bit R.KVD_CTRL 0 = true →
      s.poolValid (s.arg n 0) = true → s.bit (R.KVD_POOL_STEP (s.arg n 0)) 33 = false → (s.pool (s.arg n 0)).step = none →
      s.hoExists (s.arg n 2) = true → (s.ho (s.arg n 2)).desc.producer = 0x037 → inHost (s.arg n 3) (16 * s.arg n 1) = true →
      x = s.dramGet (s.arg n 3) (16 * s.arg n 1) → x.2.1 = false →
      x.2.2.stepRun n (s.arg n 0) (s.arg n 2) ((chunks 16 x.1 (x.2.2.arg n 1)).map kvReqOf) = (u, .later) →
      exec (.kvStepOpen n) s = .next (u.modMbox n fun m => { m with waiting := true })) ∧
  (∀ (s : State) (n : Nat), s.runs n 0x0404 = true → s.bit R.KVD_CTRL 0 = true →
      s.poolValid (s.arg n 0) = true → (s.ctx (s.arg n 1)).state ≠ 0 → (s.ctx (s.arg n 1)).pool = s.arg n 0 → s.arg n 3 = 0 →
      exec (.kvQuery n) s = .next (s.respond n ST.OK (leBytes (pteBits ((s.ctx (s.arg n 1)).pt[s.arg n 2]?)) 4 ++
        leBytes (fteWord (s.pool (s.arg n 0)) ((s.ctx (s.arg n 1)).pt[s.arg n 2]?)) 4 ++
        leBytes (s.ctx (s.arg n 1)).len 4))) ∧
  (∀ (s u : State) (p : Nat) (st : KvStep), (s.pool p).step = some st → st.published = none →
      u = (s.hubSet 0x037 (slotAddr (s.ho st.ho).desc (s.hoW st.ho)) st.plan false) →
      ∃ v, v = u.publish 0x037 st.ho (u.hoW st.ho) ∧ exec (.kvPlanPublish p) s =
        .next (((v.modPool p fun q => { q with step := some { st with published := some (v.hoSeq st.ho) } }).showResolving).finish st.mailbox
          ST.OK (leBytes st.number 4)))

/-- Solver loads and configurations and the course of a solve complete: `SOL_LOAD`, `SOL_CONFIG`, `SOL_UNLOAD`, `SOLVE_DEQUEUE`,
`REFACTORISATION_DONE`, `ITERATION_DONE`, `SOL_DEADLINE`, `SOLVE_PUBLISH`. Each clause gives the state and operands on which one
of these comes to its own effect, and the next state that `exec` answers there (R268 to R290). The numeric factor is a Config
function (log entry 41). -/
def Obligations.SolverCompletes : Prop :=
  (∀ (s u : State) (n : Nat) (x : List Byte × State) (r : List Byte), s.runs n 0x0500 = true →
      x = s.supRead (s.arg n 2) (s.arg n 1) → 64 ≤ s.arg n 1 → numAt x.1 0 4 ≤ 4096 → numAt x.1 4 4 ≤ 8192 →
      numAt x.1 8 4 + numAt x.1 12 4 ≤ 131072 →
      blockEnd 64 (blockLengths (numAt x.1 0 4) (numAt x.1 4 4) (numAt x.1 8 4) (numAt x.1 12 4)) ≤ s.arg n 1 →
      x.2.solTake (x.2.arg n 0) (numAt x.1 24 8) (slotOf (numAt x.1 0 4) (numAt x.1 4 4) (numAt x.1 16 4) (numAt x.1 20 4)
        (arraysAt x.1 64 (blockLengths (numAt x.1 0 4) (numAt x.1 4 4) (numAt x.1 8 4) (numAt x.1 12 4))).1) = (u, .now ST.OK r) →
      exec (.solLoad n) s = .next (u.respond n ST.OK r)) ∧
  (∀ (s : State) (n : Nat), s.runs n 0x0501 = true → s.solLoaded (s.arg n 0) = true → s.solBusy (s.arg n 0) = false →
      s.solCfgOk (s.arg n 1) (s.slot (s.arg n 0)).n (s.slot (s.arg n 0)).m = true →
      exec (.solConfig n) s = .next ((s.setRegN (R.SOL_SLOT_CFG (s.arg n 0)) (putBits (putBits (s.arg n 1) 28 35 0) 63 1 1)).respond n ST.OK [])) ∧
  (∀ (s : State) (n : Nat), s.runs n 0x0502 = true → s.solBusy (s.arg n 0) = false →
      exec (.solUnload n) s = .next ((((State.resetRegs { s with solSlots := merase s.solSlots (s.arg n 0) } (R.SOL_SLOT_CFG (s.arg n 0))
        (R.SOL_SLOT_CFG (s.arg n 0) + 0x40)).showSram.showSol).respond n ST.OK []))) ∧
  (∀ (s : State) (x : SolStart) (l : List SolStart), s.solRun = none → s.solQueue = x :: l →
      exec .solveDequeue s = .next ((State.solBegin { s with solQueue := l } x).showSol)) ∧
  (∀ (s : State) (r : SolRun), s.solRun = some r → r.phase = .refactor → s.phaseOver r = true →
      s.solDue r 40 = false → exec .refactorisationDone s = .next ((s.solFactor r).showSol)) ∧
  (∀ (s : State) (r : SolRun) (f : Factor), s.solRun = some r → (s.slot r.start.slot).factor = some f →
      r.phase = .iterate → s.phaseOver r = true → s.solDue r 40 = false →
      exec .iterationDone s = .next ((s.solIterate r f).showSol)) ∧
  (∀ (s : State) (r : SolRun), s.solRun = some r → r.phase ≠ .finished → s.solDue r 0 = true →
      exec .solDeadline s = .next (s.solCut r)) ∧
  (∀ (s : State) (r : SolRun), s.solRun = some r → r.phase = .finished → s.phaseOver r = true →
      exec .solvePublish s = .next (s.solPublish r))

/-- Banks, swaps, captures, samples, channels and the test generator complete: `CTL_WRITE_BANK`, `CTL_BANK_SWAP`,
`CTL_CAPTURE_READ`, `CTL_EVALUATION`, `TEST_GENERATOR_END`, `CTL_TG_START`, `CHANNEL_ENABLE`, `CHANNEL_DISABLE`. Each clause
gives the state and operands on which one of these comes to its own effect, and the next state that `exec` answers there (R293
to R309). -/
def Obligations.ControlEngineCompletes : Prop :=
  (∀ (s : State) (n : Nat), s.runs n 0x0600 = true → (s.chan (s.arg n 0)).swapAt = none →
      bankOk (BitVec.ofNat 1024 (s.arg n 1)) = true →
      exec (.ctlWriteBank n) s = .next ((s.modChan (s.arg n 0) fun x => if s.chBankB (s.arg n 0)
        then { x with bankA := BitVec.ofNat 1024 (s.arg n 1) } else { x with bankB := BitVec.ofNat 1024 (s.arg n 1) }).respond n ST.OK [])) ∧
  (∀ (s u : State) (n : Nat), s.runs n 0x0601 = true → (s.chan (s.arg n 0)).swapAt = none →
      u = (s.modChan (s.arg n 0) fun x => { x with swapAt := some s.now }).setBit (R.CTL_CH_STATE (s.arg n 0)) 4 true →
      exec (.ctlBankSwap n) s = .next (u.respond n ST.OK (leBytes u.now 8))) ∧
  (∀ (s : State) (n : Nat), s.runs n 0x0602 = true →
      exec (.ctlCaptureRead n) s = .next ((s.supWrite (s.arg n 2) ((List.range (s.arg n 1)).flatMap fun k =>
        leBytes (mget 0#128 s.capture (s.arg n 0 + k)).toNat 16)).respond n ST.OK (leBytes (s.arg n 1) 4))) ∧
  (∀ (s u : State) (c : Nat), ((List.range 8).find? fun x => (s.chan x).pendAt.isSome) = some c →
      u = (((s.modChan c fun x => { x with pendAt := none }).showCtl).ctlSwap c ((s.chan c).pendAt.getD 0)) →
      u.chState c ≠ 0 → u.chState c ≠ 4 →
      exec (.ctlEvaluation) s = .next (u.ctlLive c ((s.chan c).pendAt.getD 0))) ∧
  (∀ (s : State), s.bit R.CTL_TG_CFG 9 = true → s.regN R.CTL_TG_LEN ≤ s.testGen.n →
      exec .testGeneratorEnd s = .next (s.setBit R.CTL_TG_CFG 9 false)) ∧
  (∀ (s t : State) (m : Nat) (v : Dword), s.passes m .write R.CTL_TG_CFG 4 = true → bitsOf v.toNat 8 1 = 1 →
      s.bit R.CTL_TG_CFG 9 = false → s.chState (bitsOf v.toNat 0 3) = 3 →
      t = (s.setRegN R.CTL_TG_CFG (bitsOf v.toNat 0 6 + s.fld R.CTL_TG_CFG 9 1 * 2 ^ 9 + bitsOf v.toNat 16 16 * 2 ^ 16)).setBit
        R.CTL_TG_CFG 9 true →
      exec (.ctlTgStart m v) s = .next (State.answer { t with
        testGen := { s.testGen with n := 0, reg := s.regN R.CTL_TG_SEED % 2 ^ 31, phase := 0, delta := s.regN R.CTL_TG_DPHI } } m [] false)) ∧
  (∀ (s : State) (m ch : Nat) (v : Dword), s.passes m .write (R.CTL_CH_CFG (ch % 8)) 8 = true →
      bitsOf (s.regN (R.CTL_CH_CFG (ch % 8))) 0 1 = 0 → chCfgOk (putBits v.toNat 0 1 1) = true →
      chRangesOk (putBits v.toNat 0 1 1) (s.regN (R.CTL_CH_SP (ch % 8))) = true → bitsOf (putBits v.toNat 0 1 1) 0 1 = 1 →
      exec (.channelEnable m ch v) s =
        .next (((s.setRegN (R.CTL_CH_CFG (ch % 8)) (putBits v.toNat 0 1 1)).chArm (ch % 8)).answer m [] false)) ∧
  (∀ (s : State) (m ch : Nat) (v : Dword), s.passes m .write (R.CTL_CH_CFG (ch % 8)) 8 = true →
      bitsOf (s.regN (R.CTL_CH_CFG (ch % 8))) 0 1 = 1 → s.regN (R.CTL_CH_CFG (ch % 8)) / 2 = putBits v.toNat 0 1 0 / 2 →
      bitsOf (putBits v.toNat 0 1 0) 0 1 = 0 →
      exec (.channelDisable m ch v) s = .next ((s.chDisable (ch % 8)).answer m [] false))

/-- Pixel programs load and pixel frames complete or time out: `PIX_LOAD_PROGRAM`, `PIX_FRAME_DONE`, `PIX_FRAME_TIMEOUT`. Each
clause gives the state and operands on which one of these comes to its own effect, and the next state that `exec` answers there
(R215 to R223). -/
def Obligations.PixelEngineCompletes : Prop :=
  (∀ (s : State) (n : Nat), s.runs n 0x0700 = true → s.pixRefusal (s.arg n 0) (BitVec.ofNat 512 (s.arg n 1)) = none →
      exec (.pixLoadProgram n) s = .next (State.respond { s with
        pixProgs := mset 0#512 s.pixProgs (s.arg n 0) (BitVec.ofNat 512 (s.arg n 1)) } n ST.OK [])) ∧
  (∀ (s : State) (prog cam i k : Nat) (r : PixRun) (c : PixCam), s.pixFind prog cam = some (r, c) →
      pixMode (s.pixProg prog) ≠ 2 → c.stream = some i → c.slot = some k → c.closed = true →
      exec (.pixFrameDone prog cam) s = .next ((s.pixFrame (s.pixProg prog) c i k).pixLeave prog cam)) ∧
  (∀ (s : State) (prog cam : Nat) (r : PixRun) (c : PixCam), s.pixFind prog cam = some (r, c) →
      r.at_ + pf (s.pixProg prog) 192 32 ≤ s.now →
      exec (.pixFrameTimeout prog cam) s =
        .next (((s.incReg R.PIX_TIMEOUT_CNT).postC ST.PIX_FRAME_TIMEOUT 0x18 (c.rank % 4)).pixLeave prog cam))

/-- Snapshot triggers, recording and replay complete: `SNAP_TRIGGER`, `REC_START`, `REC_STOP`, `REC_STATUS`, `REC_MARKER`,
`REPLAY_LOAD`, `REPLAY_START`, `REPLAY_STOP`, `REPLAY_STATUS`, `REPLAY_RESUME`, `REPLAY_INJECT`. Each clause gives the state and
operands on which one of these comes to its own effect, and the next state that `exec` answers there (R583, R589 to R599, R604). -/
def Obligations.RecordAndReplayComplete : Prop :=
  (∀ (s : State) (n : Nat), s.runs n 0x0800 = true → s.arg n 0 < s.now + 2 ^ 31 → s.now < s.arg n 0 + 2 ^ 31 →
      s.arg n 0 ≠ 0 →
      exec (.snapTrigger n) s = .next ((s.freezeReq 3 none (s.arg n 0)).respond n ST.OK (leBytes (s.freezeLead (s.arg n 0)) 8))) ∧
  (∀ (s : State) (n : Nat), s.runs n 0x0801 = true → s.arg n 0 = 0 → s.absentPorts = false →
      s.bit R.REC_STATUS 0 = false →
      exec (.recStart n) s = .next ((s.openRecording.tap 0x01 none 0x07 0 s.openRecording.now
        (leBytes (s.openRecording.regN R.SUP_START_ID) 4 ++ s.openRecording.capBytes ++ s.openRecording.verBytes)).respond n ST.OK
          (leBytes (s.regN R.REC_SEQ) 8))) ∧
  (∀ (s : State) (n : Nat), s.runs n 0x0801 = true → s.arg n 0 = 1 →
      exec (.recStop n) s = .next ((s.setBit R.REC_STATUS 0 false).respond n ST.OK s.recWritten)) ∧
  (∀ (s : State) (n : Nat), s.runs n 0x0801 = true → s.arg n 0 = 2 →
      exec (.recStatus n) s = .next (s.respond n ST.OK s.recWritten)) ∧
  (∀ (s : State) (n : Nat), s.runs n 0x0801 = true → s.arg n 0 = 3 →
      exec (.recMarker n) s = .next ((s.tap 0x0D none 0x07 0 s.now (leBytes (s.arg n 1) 8)).respond n ST.OK (leBytes (s.regN R.REC_SEQ) 8))) ∧
  (∀ (s : State) (n : Nat) (begun : Bool), s.runs n 0x0802 = true → s.arg n 0 = 0 → s.replaying = false →
      s.arg n 1 ≠ 0 → s.admits 0x03A .read (s.arg n 1) 32 = true →
      exec (.replayLoad n begun) s = .next ((s.loadRecords (s.recordsAt 0x400000000 (s.arg n 1)) s.recorder.inflow false begun
        (s.arg n 2)).respond n ST.OK (leBytes (s.recordsAt 0x400000000 (s.arg n 1)).length 8))) ∧
  (∀ (s u : State) (n : Nat) (r : RecItem), s.runs n 0x0802 = true → s.arg n 0 = 1 → s.replaying = false →
      s.recorder.loaded.head? = some r → s.recorder.replayable = true → s.benchMatches r = true →
      u = (s.stepTime (r.time - 1000000)).setRegN R.REPLAY_STATUS 2 →
      exec (.replayStart n) s = .next (((u.modRec fun x => { x with passed := 0, issued := [], seen := [] }).setRegN
        R.REPLAY_POS r.seq).respond n ST.OK (leBytes (r.time - 1000000) 8))) ∧
  (∀ (s : State) (n : Nat), s.runs n 0x0802 = true → s.arg n 0 = 2 → s.replaying = true →
      exec (.replayStop n) s = .next (s.replayStop.respond n ST.OK (leBytes (s.regN R.REPLAY_POS) 8))) ∧
  (∀ (s : State) (n : Nat), s.runs n 0x0802 = true → s.arg n 0 = 3 →
      exec (.replayStatus n) s = .next (s.respond n ST.OK (leBytes (s.regN R.REPLAY_POS) 8))) ∧
  (∀ (s : State) (n : Nat), s.runs n 0x0802 = true → s.arg n 0 = 4 →
      exec (.replayResume n) s = .next (s.resume.respond n ST.OK (leBytes s.now 8))) ∧
  (∀ (s u : State) (r : RecItem), u = s.moreStream → u.recorder.loaded[u.recorder.passed]? = some r →
      u.replaying = true → r.time ≤ u.now → r.typ ≠ 0x0E →
      exec (.replayInject true) s = .next (u.atTime r.time fun v => v.injectRec r).passRec)

/-- Requests for resets of every level start their rung and leave the mailbox waiting: `RESET_REQ_CONTEXT`, `RESET_REQ_ENGINE`,
`RESET_REQ_PARTITION`, `RESET_REQ_CHIP`, `RESET_REQ_POWER_CYCLE`. Each clause gives the state and operands on which one of these
comes to its own effect, and the next state that `exec` answers there (R512 to R520). -/
def Obligations.ResetRequestsComplete : Prop :=
  (∀ (s : State) (n : Nat) (x : Target), s.runs n 0x0900 = true → s.arg n 0 = 0 →
      s.contextTarget (s.arg n 1) (s.arg n 2) (s.arg n 3) = some x → x ≠ .mailbox n →
      exec (.resetReqContext n) s = .next ((s.startRung { rung := 1, target := x, unit := s.arg n 1, start := s.age, mailbox := some n }).modMbox
        n fun m => { m with waiting := true })) ∧
  (∀ (s : State) (n : Nat) (x : Target), s.runs n 0x0900 = true → s.arg n 0 = 1 →
      s.engineTarget (s.arg n 1) (s.arg n 2) (s.arg n 3) = some x → x ≠ .mailbox n →
      exec (.resetReqEngine n) s = .next ((s.startRung { rung := 2, target := x, unit := s.arg n 1, start := s.age, mailbox := some n }).modMbox
        n fun m => { m with waiting := true })) ∧
  (∀ (s : State) (n : Nat) (x : Target), s.runs n 0x0900 = true → s.arg n 0 = 2 →
      s.domainTarget (s.arg n 1) (s.arg n 2) (s.arg n 3) = some x → x ≠ .mailbox n →
      exec (.resetReqPartition n) s = .next (((s.endHold (targetKey x)).startRung
        { rung := 3, target := x, unit := (s.endHold (targetKey x)).arg n 1, start := (s.endHold (targetKey x)).age, mailbox := some n }).modMbox
        n fun m => { m with waiting := true })) ∧
  (∀ (s : State) (n : Nat), s.runs n 0x0900 = true → s.arg n 0 = 3 → s.chipReset = none →
      exec (.resetReqChip n) s = .next ((State.moveTo { s with chipReset := some (4, s.age) } 0 s.now false).modMbox
        n fun m => { m with waiting := true })) ∧
  (∀ (s : State) (n : Nat), s.runs n 0x0900 = true → s.arg n 0 = 4 →
      exec (.resetReqPowerCycle n) s = .next (s.powerCycle.modMbox n fun m => { m with waiting := true }))

/-- Camera ports and camera packets complete: `CAM_PORT_ENABLE`, `FRAME_START_PACKET`, `LINE_PACKET`, `FRAME_END_PACKET`. Each
clause gives the state and operands on which one of these comes to its own effect, and the next state that `exec` answers there
(R377 to R386, R418). -/
def Obligations.CameraCompletes : Prop :=
  (∀ (s : State) (m p : Nat) (v : Dword), s.passes m .write (R.CAM_PORT_CFG (p % 12)) 4 = true →
      v.toNat % 2 = 1 → s.camPort (p % 12) = true → camPortOk v.toNat = true → s.camUsed7 (p % 12) + camRate7 v.toNat ≤ 7 * 160000 →
      exec (.camPortEnable m p v) s = .next (((s.setRegN (R.CAM_PORT_CFG (p % 12)) (putBits (v.toNat % 2 ^ 32) 4 12 0)).showCamBw).answer m [] false)) ∧
  (∀ (s : State) (port vc i : Nat), s.camHears port = true → s.streamOf port (vc % 32) = some i →
      (s.camStr i).frame = none → exec (.frameStartPacket port vc true) s = .next (s.camOpen i)) ∧
  (∀ (s : State) (port vc dt i : Nat) (data : List Byte), s.camHears port = true →
      s.streamOf port (vc % 32) = some i → exec (.linePacket port vc dt data true true) s = .next (s.camData i dt data)) ∧
  (∀ (s : State) (port vc i : Nat) (g : CamFrame), s.camHears port = true → s.streamOf port (vc % 32) = some i →
      (s.camStr i).frame = some g → exec (.frameEndPacket port vc true) s = .next (s.camClose i g))

/-- Ethernet frames, links, gates, tables and mailbox frames complete: `ETH_FRAME_RECEIVE`, `FRAME_TRANSMIT`, `EXPRESS_TRANSMIT`,
`ETH_LINK_DOWN`, `ETH_LINK_UP`, `GATE_BANK_SWAP`, `ETH_TBL_READ`, `ETH_TBL_WRITE`, `MAILBOX_FRAME`, `MAILBOX_RESPONSE_FRAME`.
Each clause gives the state and operands on which one of these comes to its own effect, and the next state that `exec` answers
there (R387 to R401). The frame parser and class gates are Config functions (log entry 9). -/
def Obligations.EthernetCompletes : Prop :=
  (∀ (s : State) (port : Nat) (f : EthFrame), s.ethUp port = true → (s.replaying = true → port ∈ s.recPorts) →
      60 ≤ f.bytes.length → f.bytes.length ≤ 9212 → f.fcsOk = true → ¬(port ∈ s.recPorts ∧ f.bytes.take 5 = sinkMark) →
      exec (.ethFrameReceive port f) s = .next (s.ethAccept port f (s.rxStamp port))) ∧
  (∀ (s : State) (port ring k : Nat) (f : EthFrame), port ≠ 4 → s.ethUp port = true → s.ethNext port = some k →
      (s.eth port).queue[k]? = some f →
      exec (.frameTransmit port ring) s = .next ((s.modEth port fun e => { e with queue := e.queue.eraseIdx k }).ethLeave port f)) ∧
  (∀ (s : State) (port : Nat) (x : Express) (r : List Express), s.ethUp port = true → (s.eth port).express = x :: r →
      exec (.expressTransmit port) s =
        .next (s.modEth port fun e => { e with express := r, sent := x.payload, sentAt := s.txStamp port })) ∧
  (∀ (s : State) (port : Nat), exec (.ethLinkDown port) s = .next (s.ethDown (port % 4))) ∧
  (∀ (s : State) (port : Nat), s.domainOn 11 = true → s.power.sdsRefOk = true →
      exec (.ethLinkUp port) s = .next ((s.ethShowUp (port % 4)).modEth (port % 4)
        fun e => { e with dropRun := false, wasUp := true })) ∧
  (∀ (s : State) (port req : Nat), s.domainOn 11 = true →
      1000 ≤ gateSum (s.gateList (port % 4) (!(s.eth (port % 4)).activeB)) →
      gateSum (s.gateList (port % 4) (!(s.eth (port % 4)).activeB)) ≤ 1000000000 → req + 10000 ≤ s.now →
      exec (.gateBankSwap port req) s = .next (s.modEth (port % 4) fun e => { e with activeB := !e.activeB })) ∧
  (∀ (s : State) (m t p e : Nat) (v : Dword), s.passes m .write R.ETH_TBL_CMD 4 = true → v.toNat % 4 = 1 →
      bitsOf v.toNat 1 1 = 0 → s.ethSel = some (t, p, e) →
      exec (.ethTblRead m v) s = .next ((s.setRegBytes (R.ETH_TBL_DATA 0)
        (leBytes (mget 0#1024 s.ethTables (ethKey t p e)).toNat 128)).answer m [] false)) ∧
  (∀ (s : State) (m t p e new : Nat) (v : Dword) (x : SMap (BitVec 1024)), s.passes m .write R.ETH_TBL_CMD 4 = true →
      v.toNat % 4 = 2 → bitsOf v.toNat 1 1 = 1 → s.ethSel = some (t, p, e) →
      ¬((t = 2 ∨ t = 3) ∧ ((s.eth p).activeB = decide (t = 3))) → t ≠ 8 → new = leNat (s.regBytes (R.ETH_TBL_DATA 0) 16) →
      x = mset 0#1024 s.ethTables (ethKey t p e) (BitVec.ofNat 1024 (storedEntry t (mget 0#1024 s.ethTables (ethKey t p e)).toNat new)) →
      exec (.ethTblWrite m v) s = .next (State.answer { s with ethTables := x } m [] false)) ∧
  (∀ (s : State) (f : MbFrame) (n : Nat), s.domainOn 11 = true → s.bit R.ETH_CTRL 0 = true →
      n = s.fld (R.ETH_MB_CFG f.binding) 1 4 → s.mbBound f = true → f.startId.toNat = s.regN R.SUP_START_ID →
      s.bit (R.SUP_MB_STATE n) 0 = false → f.seq.toNat = (s.regN (R.SUP_MB_RSP_SEQ n) + 1) % 2 ^ 32 →
      f.seq.toNat ≠ s.regN (R.SUP_MB_RSP_SEQ n) →
      exec (.mailboxFrame f) s = .next ((s.setRegBytes (R.SUP_MB_REQ n) ((f.buffer ++ List.replicate 256 0#8).take 256)).submit n f.seq.toNat).1) ∧
  (∀ (s : State) (b : Nat), b ∈ s.ethRsp → s.domainOn 11 = true → s.bit R.ETH_CTRL 0 = true →
      exec (.mailboxResponseFrame b) s = .next (State.ethQueue { s with ethRsp := s.ethRsp.erase b } (s.fld (R.ETH_MB_CFG b) 5 2) (s.mbResponse b)))

/-- CAN transmission, reception, errors and sleep complete: `CANN_TX_REQ`, `CAN_FRAME_TRANSMITTED`, `CAN_ARBITRATION_LOST`,
`CAN_BUS_ERROR`, `CAN_RECOVERED`, `CAN_INIT_CLEAR`, `CAN_SLEEP`, `CAN_FRAME_RECEIVE`, `CAN_WAKE`. Each clause gives the state
and operands on which one of these comes to its own effect, and the next state that `exec` answers there (R402 to R409). The
layout of an element is a Config function (log entry 6). -/
def Obligations.CanCompletes : Prop :=
  (∀ (s : State) (m n : Nat) (v : Dword), s.passes m .write (R.CAN_TX_REQ (n % 8)) 4 = true →
      exec (.cannTxReq m n v) s = .next (((s.setRegN (R.CAN_TX_REQ (n % 8)) (s.regN (R.CAN_TX_REQ (n % 8)) |||
        v.toNat % 2 ^ min 32 (s.fld (R.CAN_RAM_CFG (n % 8)) 0 6))).canPick (n % 8)).answer m [] false)) ∧
  (∀ (s : State) (n k : Nat), n < 8 → (s.can n).sending = some k →
      exec (.canFrameTransmitted n) s =
        .next (((s.setFld (R.CAN_STATUS n) 0 8 (s.fld (R.CAN_STATUS n) 0 8 - 1)).canShow n).canLeave n k)) ∧
  (∀ (s : State) (n k : Nat), n < 8 → (s.can n).sending = some k →
      exec (.canArbitrationLost n) s = .next (s.canAttempt n k)) ∧
  (∀ (s : State) (n k : Nat), n < 8 → s.bit (R.CAN_CTRL n) 0 = false → s.fld (R.CAN_STATUS n) 16 2 < 2 →
      (s.can n).sending = some k → s.fld (R.CAN_STATUS n) 0 8 + 8 ≤ 255 →
      exec (.canBusError n true) s =
        .next (((s.setFld (R.CAN_STATUS n) 0 8 (s.fld (R.CAN_STATUS n) 0 8 + 8)).canShow n).canAttempt n k)) ∧
  (∀ (s : State) (n : Nat), n < 8 → s.fld (R.CAN_STATUS n) 16 2 = 2 → s.bit (R.CAN_CTRL n) 3 = true →
      exec (.canRecovered n) s = .next (((s.canBack n).postC ST.CAN_RECOVERED 0x1B n).canPick n)) ∧
  (∀ (s : State) (m n : Nat) (v : Dword), s.passes m .write (R.CAN_CTRL (n % 8)) 4 = true →
      v.toNat % 2 = 0 → s.regN (R.CAN_CTRL (n % 8)) % 2 = 1 → s.canOk (n % 8) v.toNat = true →
      ((s.setRegN (R.CAN_CTRL (n % 8)) (v.toNat % 2 ^ 10)).canBack (n % 8)).fld (R.CAN_STATUS (n % 8)) 16 2 ≠ 3 →
      exec (.canInitClear m n v) s = .next ((((((s.setRegN (R.CAN_CTRL (n % 8)) (v.toNat % 2 ^ 10)).canBack (n % 8)).canRest
        (n % 8)).canPick (n % 8))).answer m [] false)) ∧
  (∀ (s : State) (m n : Nat) (v : Dword), s.passes m .write (R.CAN_CTRL (n % 8)) 4 = true →
      v.toNat % 2 = 0 → s.regN (R.CAN_CTRL (n % 8)) % 2 = 0 → bitsOf v.toNat 6 1 = 1 →
      exec (.canSleep m n v) s = .next (((((s.setRegN (R.CAN_CTRL (n % 8)) (v.toNat % 2 ^ 10)).canRest
        (n % 8)).canPick (n % 8))).answer m [] false)) ∧
  (∀ (s t : State) (n k a : Nat) (f : CanFrame), n < 8 → s.bit (R.CAN_CTRL n) 0 = false →
      s.fld (R.CAN_STATUS n) 16 2 < 2 → (f.fd = true → s.bit (R.CAN_CTRL n) 1 = true) → (f.xl = true → s.bit (R.CAN_CTRL n) 2 = true) →
      s.replaying = false →
      t = (s.setFld (R.CAN_STATUS n) 8 8 (if 127 < s.fld (R.CAN_STATUS n) 8 8 then 127 else s.fld (R.CAN_STATUS n) 8 8 - 1)).canShow n →
      t.canMatch n f = some (k, a) → a ≠ 0 →
      exec (.canFrameReceive n f) s =
        .next ((t.tap 0x04 (some 2) 0x1B n t.now (leBytes n 1 ++ t.canElement f)).canDeliver n k a f)) ∧
  (∀ (s : State) (n : Nat), n < 8 → s.bit (R.CAN_CTRL n) 6 = true →
      (s.fld (R.CAN_CTRL n) 7 2 = 1 ∨ s.fld (R.CAN_CTRL n) 7 2 = 2) →
      exec (.canWake n) s = .next ((s.postC ST.CAN_WAKE 0x1B n).wakeOn 2 n))

/-- SENT messages and SPI transfers complete: `SENT_MESSAGE`, `SENT_SILENT`, `SPI_INPUT_DUE`, `SPI_TRANSFER_DONE`. Each clause gives
the state and operands on which one of these comes to its own effect, and the next state that `exec` answers there (R410 to
R413). -/
def Obligations.SensorInputsComplete : Prop :=
  (∀ (s : State) (j status : Nat) (l : List Nat), j < 8 → s.bit (R.SENT_CFG j) 0 = true → s.replaying = false →
      l.length = s.fld (R.SENT_CFG j) 13 3 →
      exec (.sentMessage j status l true) s =
        .next ((s.sentWordIn j (sentWord status l)).tap 0x05 (some 3) 0x20 j s.now (leBytes (sentWord status l) 4))) ∧
  (∀ (s : State) (j : Nat), j < 8 → s.bit (R.SENT_CFG j) 0 = true → s.regN (R.SENT_SILENT j) ≠ 0 →
      (s.sent j).silent = false → (s.sent j).validAt + 1000 * s.regN (R.SENT_SILENT j) ≤ s.age →
      exec (.sentSilent j) s = .next ((s.modSent j fun x => { x with silent := true }).postC ST.SENT_SILENT 0x20 j)) ∧
  (∀ (s : State) (j t : Nat), j < 4 → s.bit (R.SPI_CFG j) 0 = true → s.regN (R.SPI_PERIOD j) ≠ 0 →
      t = lastInstant s.now (s.regN (R.SPI_PHASE j)) (s.regN (R.SPI_PERIOD j)) → (s.spi j).lastDue ≠ some t →
      exec (.spiInputDue j) s = .next (((s.spiNext j).modSpi j fun x => { x with lastDue := some t, waiting := some t }).spiNext j)) ∧
  (∀ (s t : State) (j n w : Nat) (data : List Byte), j < 4 → (s.spi j).busy = some true → s.replaying = false →
      n = s.fld (R.SPI_CFG j) 8 9 + 1 → w = leNat (data.take 32) % 2 ^ n → t = s.modSpi j (fun x => { x with busy := none }) →
      t.replaying = false →
      exec (.spiTransferDone j data) s = .next (((t.spiFrameIn j (s.spi j).cs w).tap 0x05 (some 3) 0x20
        (8 + j + 4 * (s.spi j).cs) t.now (leBytes w ((n + 7) / 8))).spiNext j))

/-- The events of hardened inputs complete: `RAW_EXCURSION`, `FILTERED_CHANGE`, `CHATTER_CLEAR`, `STUCK_LATCH`, `STUCK_CLEAR`,
`SAFE_DISCREPANCY`. Each clause gives the state and operands on which one of these comes to its own effect, and the next state
that `exec` answers there (R414 to R417). -/
def Obligations.PinEventsComplete : Prop :=
  (∀ (s : State) (p : Nat) (near : List Nat), s.isInput p = true → s.replaying = false →
      near = ((s.pin p).rejects ++ [s.age]).filter (fun t => decide (s.age ≤ t + 4 * s.pinGf p)) → near.length < 3 →
      exec (.rawExcursion p) s = .next (s.modPin p fun x => { x with since := s.age, rejects := near })) ∧
  (∀ (s : State) (p : Nat) (level on : Bool), s.isInput p = true → s.replaying = false →
      on = (level != s.bit (R.GPIO_PIN_CFG p) 31) → (s.pin p).raw = on → s.pinChatter p = false → s.pinOn p ≠ on →
      exec (.filteredChange p level) s = .next (s.pinChange p on)) ∧
  (∀ (s : State) (p : Nat), s.isInput p = true → s.replaying = false → s.pinChatter p = true →
      (s.pin p).raw = false → (s.pin p).since + s.regN (R.GPIO_PIN_CC p) ≤ s.age →
      exec (.chatterClear p) s = .next ((s.setBit (R.GPIO_PIN_STATE p) 1 false).pinChange p false)) ∧
  (∀ (s : State) (p : Nat), s.isInput p = true → s.regN (R.GPIO_PIN_STUCK p) ≠ 0 → s.pinOn p = true →
      s.bit (R.GPIO_PIN_STATE p) 2 = false → (s.pin p).heldAt + ms (s.regN (R.GPIO_PIN_STUCK p)) ≤ s.age →
      exec (.stuckLatch p) s = .next ((s.setBit (R.GPIO_PIN_STATE p) 2 true).postC ST.GPIO_STUCK 0x20 p)) ∧
  (∀ (s : State) (p : Nat), s.isInput p = true → s.bit (R.GPIO_PIN_STATE p) 2 = true → s.pinOn p = false →
      (s.pin p).heldAt + ms (s.regN (R.GPIO_PIN_SCLR p)) ≤ s.age →
      exec (.stuckClear p) s = .next ((s.setBit (R.GPIO_PIN_STATE p) 2 false).postC ST.GPIO_STUCK_CLEAR 0x20 p)) ∧
  (∀ (s : State) (t : Nat), s.safeDiff = (some t, false) → t + s.regN R.GPIO_SAFE_DISC < s.age →
      exec .safeDiscrepancy s = .next (State.postC { s with safeDiff := (some t, true) } ST.GPIO_SAFE_DISCREPANCY 0x20 0))

/-- Record arrivals, the handler, watchdogs and the search complete: `LOCKSTEP_MISMATCH`, `ERROR_RECORD_ARRIVAL`,
`ERROR_HANDLER_STEP`, `SUSPECT_REPLAY_END`, `ENGINE_TIMEOUT`, `HART_WATCHDOG`, `HST_WDOGH_KICK`, `HOST_CACHE_ERROR`. Each clause
gives the state and operands on which one of these comes to its own effect, and the next state that `exec` answers there (R488
to R506, R524 to R529). -/
def Obligations.ErrorHandlingCompletes : Prop :=
  (∀ (s : State) (pair : Nat), pair < s.boot.manifest.lockstep → s.harts.getLsbD (2 * pair) = true →
      exec (.lockstepMismatch pair) s = .next ((s.postC ST.HST_LOCKSTEP 0x1F (2 * pair)).startRung
        { rung := 2, target := .engine 0x1F (2 * pair), unit := 0x1F, start := s.age })) ∧
  (∀ (s : State) (u : Nat) (r : ErrRecord) (l : List ErrRecord), takeFrom u s.posting = some (r, l) →
      exec (.errorRecordArrival u) s = .next (State.recArrive { s with posting := l } r)) ∧
  (∀ (s : State) (r : ErrRecord), s.handled < s.roundNext → s.roundNext ≤ s.now + 800 → s.boot.phase = .done →
      s.safety.expired = false → State.nextRec { s with handled := s.roundNext } = some r →
      exec .errorHandlerStep s = .next (State.handle { s with handled := s.roundNext } r)) ∧
  (∀ (s : State) (t q : Nat) (x : Nat × Nat) (r : List (Nat × Nat)) (rest : List Search),
      s.searches = { tile := t, suspects := x :: r, quar := some q } :: rest →
      ((s.jobTiles q 0).any fun u => (s.tile u).hung) = true →
      exec (.suspectReplayEnd true) s = .next (State.driveSearch { (s.endReplay q).guilty x with searches := rest } 5)) ∧
  (∀ (s : State) (u sub c : Nat), s.timedOut u sub = some c →
      exec (.engineTimeout u sub) s = .next (s.post { mkRec ST.ERR_ENGINE_TIMEOUT u sub with context := c % 2 ^ 32 })) ∧
  (∀ (s : State) (h guest : Nat), h < 16 → 0 < s.fld (R.HST_WDOG_CFG h) 0 24 →
      mget 0 s.hartKick h + 1000 * s.fld (R.HST_WDOG_CFG h) 0 24 ≤ s.age →
      exec (.hartWatchdog h guest) s =
        .next ((s.hartKicked h).post { mkRec ST.HST_HART_WDOG 0x1F h with context := guest % 16 })) ∧
  (∀ (s : State) (m h : Nat), s.passes m .write (R.HST_WDOG_KICK (h % 16)) 4 = true →
      exec (.hstWdoghKick m h) s = .next ((s.hartKicked (h % 16)).answer m [] false)) ∧
  (∀ (s t : State) (core kind : Nat),
      (kind = 1 → exec (.hostCacheError core kind) s = .next (s.postC ST.HST_L2_UE 0x1F (core % 16))) ∧
      (kind = 2 → exec (.hostCacheError core kind) s = .next (s.postC ST.HST_L3_UE 0x1F (core % 16))) ∧
      (kind ≠ 1 → kind ≠ 2 → t = { s with hostCe := mset 0 s.hostCe (core % 16) (mget 0 s.hostCe (core % 16) + 1) } →
        exec (.hostCacheError core kind) s =
          .next (if mget 0 s.hostCe (core % 16) % 256 = 0 then t.postC ST.HST_CORRECTED 0x1F (core % 16) else t)))

/-- Bamset links, hellos, time messages, mirrors and twins complete: `BAM_PORT_ENABLE`, `TRAINING_DONE`, `LANE_LOSS`, `HELLO`,
`HELLO_RECEIVE`, `TIME_MESSAGE_SEND`, `TIME_MESSAGE_RECEIVE`, `MIRROR_ENABLE`, `MIRROR_COPY_DONE`, `TWIN_BINDING_ENABLE`. Each
clause gives the state and operands on which one of these comes to its own effect, and the next state that `exec` answers there
(R419 to R442). -/
def Obligations.FabricLinksComplete : Prop :=
  (∀ (s : State) (m p : Nat) (v : Dword), s.passes m .write (R.BAM_P_CFG (p % 6)) 4 = true →
      s.bit (R.BAM_P_CFG (p % 6)) 0 = false → putBits v.toNat 0 1 1 % 2 = 1 →
      exec (.bamPortEnable m p v) s =
        .next (((s.setRegN (R.BAM_P_CFG (p % 6)) (putBits v.toNat 0 1 1 % 4)).linkTrain (p % 6) 4).answer m [] false)) ∧
  (∀ (s : State) (p lat : Nat), p < 6 → s.linkState p = 1 → s.domainOn 13 = true → s.power.sdsRefOk = true → lat ≤ 1000 →
      exec (.trainingDone p lat true) s = .next ((s.setRegN (R.BAM_P_LAT p) ((lat + 7) / 8 * 8)).setRegN (R.BAM_P_STATUS p)
        (if ((s.setRegN (R.BAM_P_LAT p) ((lat + 7) / 8 * 8)).bam p).lanes = 4 then 2 else 3))) ∧
  (∀ (s : State) (p : Nat), s.linkUp (p % 6) = true → exec (.laneLoss p) s = .next (s.linkLost (p % 6))) ∧
  (∀ (s : State) (p : Nat), p < 6 → s.linkUp p = true → (∀ t, (s.bam p).sentAt = some t → t + 10000 ≤ s.age) →
      exec (.hello p) s = .next (s.modBam p fun b => { b with sent := s.ownHello p :: b.out, out := [], sentAt := some s.age })) ∧
  (∀ (s : State) (p : Nat) (h : Hello), p < 6 → s.linkUp p = true → s.discovery.hellos.any (sameNews h) = false →
      exec (.helloReceive p false h) s = .next (State.each { s with discovery := { s.discovery with
        hellos := learn s.discovery.hellos h, lastNew := s.age } } ((List.range 6).filter fun q => decide (q ≠ p) && State.linkUp
          { s with discovery := { s.discovery with hellos := learn s.discovery.hellos h, lastNew := s.age } } q) fun u q =>
        u.modBam q fun b => { b with out := b.out ++ [h] })) ∧
  (∀ (s : State), s.bit R.BAM_STATUS 8 = true → s.domainOn 13 = true →
      exec .timeMessageSend s = .next (s.each ((List.range 6).filter s.timeDue) fun u p =>
        u.modBam p fun b => { b with timeSent := some u.now, timeAt := some u.age })) ∧
  (∀ (s : State) (p t residence : Nat), p < 6 → s.linkOpen p = true → s.fld R.TW_SRC 0 2 = 2 →
      s.fld R.BAM_TIME_PORT 0 3 = p →
      exec (.timeMessageReceive p t residence false) s = .next (State.servoTo (s.each ((List.range 6).filter fun q => decide (q ≠ p) && s.linkOpen q)
        fun u q => u.modBam q fun b => { b with timeSent := some (t + residence + s.regN (R.BAM_P_LAT p)), timeAt := some u.age })
        (((s.each ((List.range 6).filter fun q => decide (q ≠ p) && s.linkOpen q)
        fun u q => u.modBam q fun b => { b with timeSent := some (t + residence + s.regN (R.BAM_P_LAT p)), timeAt := some u.age }).now : Int) -
          (t + s.regN (R.BAM_P_LAT p) : Nat)))) ∧
  (∀ (s : State) (m c producer : Nat) (v : Dword), s.passes m .write (R.BAM_MIR_CFG (c % 32)) 4 = true →
      v.toNat % 2 = 1 → s.hoExists (bitsOf v.toNat 1 10) = true → (s.ho (bitsOf v.toNat 1 10)).desc.dstKind = 0 →
      producer = 0x300 + s.fld R.BAM_STATUS 0 6 →
      exec (.mirrorEnable m c v producer) s = .next ((s.setRegN (R.BAM_MIR_CFG (c % 32)) (v.toNat % 2 ^ 27)).answer m [] false)) ∧
  (∀ (s u : State) (c k seq : Nat), c < 32 → s.mirroring c = true →
      u = (((State.setHoD { s with mirrors := merase s.mirrors c } (s.fld (R.BAM_MIR_CFG c) 1 10) 3).setBit (R.BAM_MIR_STATE c) 48 false)) →
      ((s.ho (s.fld (R.BAM_MIR_CFG c) 1 10)).desc.slotBytes = 0 || u.admits 0x038 .read
        (slotAddr (s.ho (s.fld (R.BAM_MIR_CFG c) 1 10)).desc (mget {} s.mirrors c).slot) (s.ho (s.fld (R.BAM_MIR_CFG c) 1 10)).desc.slotBytes) = true → (mget {} s.mirrors c).newer = some (k, seq) →
      exec (.mirrorCopyDone c true) s = .next ((u.setFld (R.BAM_MIR_STATE c) 0 32 (mget {} s.mirrors c).seq).mirrorStart c
        (s.fld (R.BAM_MIR_CFG c) 1 10) k seq)) ∧
  (∀ (s : State) (m k tiles : Nat) (v hash : Dword), s.passes m .write (R.BAM_TWIN_CFG (k % 16)) 4 = true →
      v.toNat % 2 = 1 → tiles = s.tileCount → hash = (s.job (bitsOf v.toNat 1 5) (s.osJob (bitsOf v.toNat 17 8))).image.hash →
      exec (.twinBindingEnable m k v tiles hash) s = .next (((s.setRegN (R.BAM_TWIN_CFG (k % 16)) (v.toNat % 2 ^ 25)).setBit
        (R.BAM_TWIN_STATE (k % 16)) 0 true).answer m [] false))

/-- Bamset discovery completes from hellos to a committed result: `DISCOVER`, `DISCOVERY_RUN`, `DISCOVERY_QUIET`,
`DISCOVERY_RESULT_RECEIVE`, `DISCOVERY_ACKNOWLEDGEMENT`, `DISCOVERY_COMMIT`, `ACK_TIMEOUT`. Each clause gives the state and
operands on which one of these comes to its own effect, and the next state that `exec` answers there (R423 to R429). -/
def Obligations.DiscoveryCompletes : Prop :=
  (∀ (s : State) (m : Nat) (v : Dword), s.passes m .write R.BAM_CTRL 4 = true → v.toNat % 2 = 1 → bitsOf v.toNat 1 1 = 1 →
      exec (.discover m v) s = .next ((s.setBit R.BAM_CTRL 0 true).startDiscovery.answer m [] false)) ∧
  (∀ (s : State), s.domainOn 13 = true → s.bit R.BAM_CTRL 0 = true → s.bit R.BAM_STATUS 9 = false →
      exec .discoveryRun s = .next s.startDiscovery) ∧
  (∀ (s : State) (h : Hello), s.bit R.BAM_STATUS 9 = true → s.discovery.lastNew + 1000000 ≤ s.age →
      s.discovery.sentAt = none → dupFp s.devices = false → s.devices.length ≤ 64 → s.devices.head? = some h → h.fp = s.fingerprint →
      exec .discoveryQuiet s = .next (s.computeResult s.devices)) ∧
  (∀ (s : State) (r : DiscResult), s.bit R.BAM_STATUS 9 = true → s.discovery.sentAt = none →
      exec (.discoveryResultReceive r) s =
        .next { s with discovery := { s.discovery with result := some r, acks := [s.fingerprint] } }) ∧
  (∀ (s : State) (fp : Nat) (a : List Nat), s.discovery.sentAt.isSome = true →
      s.discovery.sentTo.any (fun x => decide (x.1 = fp)) = true →
      a = (if s.discovery.acks.contains fp then s.discovery.acks else s.discovery.acks ++ [fp]) →
      exec (.discoveryAcknowledgement fp) s =
        .next { s with discovery := { s.discovery with acks := a, commit := s.discovery.sentTo.all fun x => a.contains x.1 } }) ∧
  (∀ (s : State) (r : DiscResult), s.discovery.result = some r →
      (s.discovery.sentAt.isSome = true → s.discovery.commit = true) → exec .discoveryCommit s = .next (s.commitResult r)) ∧
  (∀ (s : State) (t : Nat) (x : Nat × DiscResult), s.discovery.sentAt = some t → t + 10000000 ≤ s.age →
      (s.discovery.sentTo.find? fun x => !(s.discovery.acks.contains x.1)) = some x →
      exec .ackTimeout s = .next ((s.post { mkRec ST.BAM_TOO_MANY 0x1C 0 with syndrome := x.1 }).endDiscovery))

/-- Dumps, rungs, the S4 hold and chip resets complete: `DUMP_DONE`, `SNAPSHOT_ACCESS_TIMEOUT`, `DUMP_CAP`, `ESCALATION`,
`RESET_DONE`, `S4_HOLD_EXPIRY`, `CHIP_RESET_APPLY`, `RESET_N`, `BOOT_STATUS_TIMEOUT`. Each clause gives the state and operands
on which one of these comes to its own effect, and the next state that `exec` answers there (R507 to R521, R492). -/
def Obligations.ResetLadderCompletes : Prop :=
  (∀ (s : State) (d : Dump), s.dump = some d → s.dumpTime d.sections ≤ dumpLimit d.scope →
      d.start + s.dumpTime d.sections ≤ s.age → exec .dumpDone s = .next (s.endDump d (s.dumpTime d.sections) false)) ∧
  (∀ (s : State) (u sub : Nat) (d : Dump) (l : List Section), s.dump = some d →
      l = d.sections.map (fun x => if x.unit = u ∧ x.subsource = sub ∧ x.state = 0 then { x with state := 1 } else x) →
      exec (.snapshotAccessTimeout u sub) s = .next { s with dump := some { d with sections := l } }) ∧
  (∀ (s : State) (d : Dump), s.dump = some d → dumpLimit d.scope < s.dumpTime d.sections →
      d.start + dumpLimit d.scope ≤ s.age → exec .dumpCap s = .next (s.endDump d (dumpLimit d.scope) true)) ∧
  (∀ (s : State) (k : Nat) (g : Rung), s.rungs[k]? = some g → g.rung ≤ 3 → g.start + rungBound g.rung ≤ s.age →
      exec (.escalation k) s = .next (((s.dropRung k).post (rungRec s (mkRec (escCode (nextRung g)) 0x05 0) g.target)).startRung
        { g with rung := nextRung g, start := ((s.dropRung k).post (rungRec s (mkRec (escCode (nextRung g)) 0x05 0) g.target)).age })) ∧
  (∀ (s : State) (k : Nat) (g : Rung), s.rungs[k]? = some g → g.rung ≤ 3 → s.age ≤ g.start + rungBound g.rung →
      s.rungOver g = true → exec (.resetDone k) s = .next (s.rungDone k g)) ∧
  (∀ (s : State), s.safety.expired = true → s.safety.kickAt + 1000000 + s.s4Hold ≤ s.age → s.chipReset = none →
      exec .s4HoldExpiry s = .next (State.moveTo { s with chipReset := some (3, s.age) } 0 s.now false)) ∧
  (∀ (s : State) (cause t : Nat), s.chipReset = some (cause, t) → t + 2000 ≤ s.age →
      exec .chipResetApply s = .next (s.applyReset cause)) ∧
  (∀ (s : State), (s.standingBy = true → exec .resetN s = .next (s.wakeOn 3 0)) ∧
      (s.standingBy = false → s.power.phase = .up → s.chipReset = none →
        exec .resetN s = .next (State.moveTo { s with chipReset := some (5, s.age) } 0 s.now false))) ∧
  (∀ (s : State), s.boot.phase = .held → s.power.phase = .up → s.fld R.ERR_RESET_CAUSE 0 4 ≠ 0 →
      exec .bootStatusTimeout s = .next s.powerCycle)

/-- Power-up, rails, standby, wake and power loss complete: `POWER_UP`, `RAIL_ORDER_ENABLE`, `SEQUENCE_RETRY`,
`HARD_SHUTDOWN_RESTART`, `STANDBY_ENTRY`, `POWER_DOWN_COMPLETE`, `WAKE_EVENT`, `ALWAYS_ON_SUPPLY_LOSS`. Each clause gives the
state and operands on which one of these comes to its own effect, and the next state that `exec` answers there (R563 to R568). -/
def Obligations.PowerSequenceCompletes : Prop :=
  (∀ (s : State), s.power.phase = .off → exec .powerUp s =
      .next (((State.dark { s.afterReset (fun _ => false) false with retains := 0, power := { phase := .off, order := 0 } })).startSequence)) ∧
  (∀ (s : State),
      (s.power.phase = .polling → exec (.railOrderEnable true) s = .next (s.modPower fun p => { p with phase := .ordering, order := 1 })) ∧
      (s.power.phase = .ordering → s.power.order < 10 →
        exec (.railOrderEnable true) s = .next (s.modPower fun p => { p with order := s.power.order + 1 })) ∧
      (s.power.phase = .ordering → 10 ≤ s.power.order → exec (.railOrderEnable true) s = .next s.railsUp)) ∧
  (∀ (s : State), s.power.phase = .retry → exec .sequenceRetry s = .next s.startSequence) ∧
  (∀ (s : State), s.power.phase = .shutdown → exec .hardShutdownRestart s = .next s.startSequence) ∧
  (∀ (s : State) (m : Nat) (v : Dword), s.passes m .write R.PMU_SBY_CTRL 4 = true → v.toNat % 2 = 1 →
      ((List.range 32).any fun p => decide (s.partState p ≠ 0)) = false →
      exec (.standbyEntry m v) s = .next (((((s.setRegN R.PMU_SBY_CTRL (v.toNat % 8 / 2 * 2)).moveTo 0
        (s.setRegN R.PMU_SBY_CTRL (v.toNat % 8 / 2 * 2)).now false).modPower
        fun p => { p with phase := .goingDown, downTo := true })).answer m [] false)) ∧
  (∀ (s : State) (p : Power), s.power.phase = .goingDown → s.power.wakeWait = false →
      p = { phase := if s.power.downTo then .standby else .shutdown, order := 0, thermN := s.power.thermN,
            pwrCycN := s.power.pwrCycN, refOk := s.power.refOk, sdsRefOk := s.power.sdsRefOk } →
      exec .powerDownComplete s = .next { s.onlyAlwaysOn with power := p }) ∧
  (∀ (s : State), s.power.phase = .standby → s.power.wakeWait = true → exec .wakeEvent s = .next s.startSequence) ∧
  (∀ (s : State), exec .alwaysOnSupplyLoss s =
      .next (State.dark { s.afterReset (fun _ => false) false with retains := 0, power := { phase := .off, order := 0 } }))

/-- The boot steps, the TRNG and attestation complete: `BOOT_START`, `EMMC_READY`, `EMMC_TIMEOUT`, `BOOT_TRNG_TIMEOUT`,
`BOOT_ATTEMPT`, `BOOT_CONFIRMED`, `TRNG_HEALTH_FAIL`, `TRNG_RESUME`, `ATTESTATION_REQUEST`, `ATTESTATION_REPORT_DONE`. Each
clause gives the state and operands on which one of these comes to its own effect, and the next state that `exec` answers there
(R531 to R555). -/
def Obligations.BootCompletes : Prop :=
  (∀ (s : State) (env : BootEnv), s.boot.phase = .held → s.power.phase = .up →
      exec (.bootStart env) s = .next (s.firstSteps env).notConfirmed.romSteps.bootGo) ∧
  (∀ (s : State) (blk : RpmbBlock), (s.boot.phase = .waiting ∨ s.boot.phase = .backoff) →
      exec (.emmcReady blk) s = .next (s.modBoot fun b => { b with emmc := some blk }).bootGo) ∧
  (∀ (s : State), s.boot.phase = .waiting → s.boot.emmc = none → s.boot.since + 1000000000 ≤ s.age →
      exec .emmcTimeout s = .next (s.failAttempt ST.BOOT_RPMB 0)) ∧
  (∀ (s : State), s.boot.phase = .waiting → s.trng = true → 100000000 ≤ s.age →
      exec .bootTrngTimeout s = .next (s.failAttempt ST.SEC_TRNG 0)) ∧
  (∀ (s : State), s.boot.phase = .backoff → s.boot.since + ms (backoffMs s.attempts) ≤ s.age →
      exec .bootAttempt s = .next s.romSteps.bootGo) ∧
  (∀ (s : State) (t : Nat), s.safety.outside = some t → s.boot.phase = .done → s.bit R.CFG_BOOT_STATUS 5 = false →
      t + ms (s.regN R.CFG_BOOT_CONFIRM) ≤ s.age → exec .bootConfirmed s = .next s.confirm) ∧
  (∀ (s : State), s.bit R.SEC_CTRL 0 = true → exec .trngHealthFail s =
      .next (((State.setBit { s with trng := true } R.SEC_STATUS 0 false).incReg R.SEC_TRNG_FAIL_CNT).postC ST.SEC_TRNG 0x04 0)) ∧
  (∀ (s : State), s.trng = true → exec .trngResume s =
      .next (State.setBit { s with trng := false } R.SEC_STATUS 0 true).bootGo) ∧
  (∀ (s : State) (m : Nat) (v : Dword), s.passes m .write R.CFG_ATT_CTRL 4 = true → v.toNat % 2 = 1 →
      s.bit R.CFG_ATT_CTRL 1 = false → s.boot.manifest.attBase ≤ s.regN R.CFG_ATT_ADDR →
      s.regN R.CFG_ATT_ADDR + 37072 ≤ s.boot.manifest.attBase + s.boot.manifest.attSize →
      exec (.attestationRequest m v) s = .next ((State.setBit { s with attest := some s.now } R.CFG_ATT_CTRL 1 true).answer m [] false)) ∧
  (∀ (s u : State), s.attest.isSome = true →
      u = { s.store (s.regN R.CFG_ATT_ADDR) (attReport s.attRegion) false with attest := none } →
      exec .attestationReportDone s = .next ((u.setRegN R.CFG_ATT_SEQ ((u.regN R.CFG_ATT_SEQ + 1) % 2 ^ 32)).setRegN
        R.CFG_ATT_CTRL (ST.OK.toNat * 2 ^ 16)))

/-- Sensors, rail faults, voltage steps, domains and reference losses complete: `SENSOR_SAMPLE`, `RAIL_FAULT`, `AVS_STEP`,
`DOMAIN_SWITCH`, `DOMAIN_IN_SERVICE`, `REF_LOSS`, `SDSREF_LOSS`, `SDSREF_RESTORED`. Each clause gives the state and operands on
which one of these comes to its own effect, and the next state that `exec` answers there (R557 to R562, R569 to R574). -/
def Obligations.PowerUpkeepCompletes : Prop :=
  (∀ (s u : State) (l : List Int) (k : Nat) (t : Int), s.power.phase = .up →
      u = (s.each (List.range 40) fun s k => s.setFld (R.PMU_TSENS k) 0 16 (ofSigned 16 (l.getD k 0))).each (List.range 40)
        (fun s k => s.judgeSensor l k) → hottest (u.counting l) = some (k, t) →
      exec (.sensorSample l) s = .next (((u.showHottest k t).thermalCrimson t).thermalTrip l)) ∧
  (∀ (s : State) (k : Nat), s.power.phase = .up → exec (.railFault k) s =
      .next (((s.setBit R.PMU_STATUS 0 false).setFld R.PMU_STATUS 8 4 (railOrder (k % 16))).postC ST.PWR_RAIL_FAULT 0x03 (k % 16))) ∧
  (∀ (s t : State) (k mv lo hi cur : Nat), avsRange k = some (lo, hi) → cur = s.fld (R.PMU_RAIL_CFG k) 8 16 →
      s.bit (R.PMU_RAIL_CFG k) 24 = true → s.boot.phase = .done → mget 0 s.power.avsAt k ≤ s.age → ¬(hi ≤ cur ∧ hi < mv) →
      t = s.modPower (fun p =>
        { p with avsAt := mset 0 p.avsAt k (s.age + 1000000), avsHeld := mset false p.avsHeld k false }) →
      exec (.avsStep k mv) s = .next (t.setFld (R.PMU_RAIL_CFG k) 8 16 (max lo (min hi (max (cur - 5) (min (cur + 5) mv)))))) ∧
  (∀ (s : State) (m d : Nat) (v : Dword), s.passes m .write (R.PMU_D_CTRL (d % 24)) 4 = true → v.toNat % 2 = 1 →
      ¬(d % 24 = 14 ∧ s.boot.part.grade = 1) → s.maySwitch (d % 24) = true → s.rungs = [] → s.bit (R.PMU_D_CTRL (d % 24)) 0 = false →
      exec (.domainSwitch m d v) s = .next (((s.setBit (R.PMU_D_CTRL (d % 24)) 0 true).switchDomain (d % 24) 1).answer m [] false)) ∧
  (∀ (s : State) (d : Nat), s.fld (R.PMU_D_STATUS (d % 24)) 0 2 = 1 →
      exec (.domainInService d) s = .next (s.setDomain (d % 24) 2)) ∧
  (∀ (s : State), s.power.refOk = true →
      exec .refLoss s = .next ((s.modPower fun p => { p with refOk := false }).postC ST.CLK_REF_LOSS 0x03 0)) ∧
  (∀ (s : State), s.power.sdsRefOk = true →
      exec .sdsrefLoss s = .next ((((s.modPower fun p => { p with sdsRefOk := false }).postC ST.CLK_SDSREF_LOSS 0x03 0).each
        (List.range 4) State.ethDown).each (List.range 6) fun u p => if u.linkUp p then u.linkLost p else u)) ∧
  (∀ (s : State), s.power.sdsRefOk = false →
      exec .sdsrefRestored s = .next ((s.modPower fun p => { p with sdsRefOk := true }).each (List.range 6)
        fun u p => if u.bit (R.BAM_P_CFG p) 0 ∧ u.domainOn 13 then u.linkTrain p 4 else u))

/-- Freezes, snapshot readout and debug access complete: `FREEZE_IN`, `FABRIC_FREEZE_MESSAGE`, `TAP_FREEZE_REQUEST`, `FREEZE_EDGE`,
`FREEZE_OUT_END`, `SNAPSHOT_READOUT_DONE`, `SNAP_ARM`, `DEBUG_CHALLENGE`, `DEBUG_ANSWER`, `UNLOCK_RETRY_END`, `DEBUG_LOCK`,
`CONSOLE_FRAME`. Each clause gives the state and operands on which one of these comes to its own effect, and the next state that
`exec` answers there (R582 to R588, R600 to R605). -/
def Obligations.FreezeAndDebugComplete : Prop :=
  (∀ (s : State), s.bit R.SNAP_FRZ_CFG 0 = true →
      exec .freezeIn s = .next (s.freezeAt 0 (s.fld R.BAM_STATUS 0 6) (s.freezeLead (s.now - 200)))) ∧
  (∀ (s : State) (node f : Nat), s.bit R.SNAP_FRZ_CFG 8 = true → s.now ≤ f →
      exec (.fabricFreezeMessage node f) s = .next (s.freezeAt 4 (node % 64) f)) ∧
  (∀ (s : State) (f : Nat), s.bit R.SNAP_DBG_STATE 0 = true →
      exec (.tapFreezeRequest f) s = .next (s.draw.2.freezeAt (Config.freeNat s.fresh % 8) (s.draw.2.fld R.BAM_STATUS 0 6) (s.draw.2.freezeLead f))) ∧
  (∀ (s t u : State), s.bit R.SNAP_FRZ_CTRL 2 = true → s.regN R.SNAP_FRZ_PEND + launchOffset ≤ s.now →
      t = s.modFrz (fun z => { z with snapshot := s.latchAll, disarmedRun := false, outUntil := some (s.age + fsyncDelay (s.fresh + 16) + 1000) }) →
      u = { t with fresh := t.fresh + 17 } →
      exec .freezeEdge s = .next ((u.freezeRegs.each (List.range 64) fun v b => v.chunkAbort b false).haltOrNot.afterFreeze)) ∧
  (∀ (s : State) (t : Nat), s.frz.outUntil = some t → t ≤ s.age →
      exec .freezeOutEnd s = .next (s.modFrz fun z => { z with outUntil := none })) ∧
  (∀ (s u : State) (t : Nat), s.frz.readout = some t → s.dump = none →
      t + ((readoutTimes s.readoutList).2 + 31) / 32 ≤ s.age →
      u = ((s.writeSnapshot (s.timeOf t)).modFrz fun z => { z with readout := none }).setBit R.SNAP_FRZ_CTRL 4 false →
      exec .snapshotReadoutDone s = .next (if u.bit R.SNAP_FRZ_CFG 10 then u.arm else u)) ∧
  (∀ (s : State) (m : Nat) (v : Dword), s.passes m .write R.SNAP_FRZ_CTRL 4 = true → v.toNat % 2 = 1 →
      s.bit R.SNAP_FRZ_CTRL 4 = false → exec (.snapArm m v) s = .next (s.arm.answer m [] false)) ∧
  (∀ (s t : State), s.dbg.blocked = none → s.trng = false →
      t = s.modDebug (fun d => { d with nonce := some (nonceFrom s.fresh), counter := (d.counter + 1) % 2 ^ 32 }) →
      exec .debugChallenge s = .next (State.setBit { t with fresh := t.fresh + 8 } R.SNAP_DBG_STATE 4 true)) ∧
  (∀ (s : State) (rights : BitVec 4), s.dbg.nonce.isSome = true →
      exec (.debugAnswer rights true) s = .next (((s.modDebug fun d => { d with nonce := none }).setBit R.SNAP_DBG_STATE 4 false).grant rights)) ∧
  (∀ (s : State) (t : Nat), s.dbg.blocked = some t → t + 1000000000 ≤ s.age →
      exec .unlockRetryEnd s = .next (s.modDebug fun d => { d with blocked := none })) ∧
  (∀ (s : State) (m : Nat) (v : Dword), s.passes m .write R.SNAP_DBG_LOCK 4 = true → s.fld R.SNAP_DBG_STATE 0 4 ≠ 0 →
      exec (.debugLock m v) s =
        .next ((((s.setFld R.SNAP_DBG_STATE 0 4 0).leaveConsole).postC ST.DBG_LOCKED 0x06 0).answer m [] false)) ∧
  (∀ (s t : State) (seq : Word) (l : List Byte), s.bit R.SNAP_DBG_STATE 2 = true →
      s.passes 0x3FF .write (R.SUP_MB_REQ 15) 256 = true → s.writeRequest 15 0 (l.take 256) = accept t →
      State.passes (t.answer 0x3FF [] false) 0x3FF .write (R.SUP_MB_REQ_SEQ 15) 4 = true →
      (t.answer 0x3FF [] false).bit (R.SUP_MB_STATE 15) 0 = false →
      seq.toNat = ((t.answer 0x3FF [] false).regN (R.SUP_MB_RSP_SEQ 15) + 1) % 2 ^ 32 →
      exec (.consoleFrame seq l) s = .next (((((t.answer 0x3FF [] false).setRegN (R.SUP_MB_REQ_SEQ 15) seq.toNat).setFld
        (R.SUP_MB_STATE 15) 0 1 1).modMbox 15 fun _ => { landed := (t.answer 0x3FF [] false).age }).answer 0x3FF [] false))

/-- One step takes the command at the front of the queue and gives the outcome of `exec` on the state with the rest of the queue.
The queue is the model's (log entry 2). -/
def Obligations.StepRunsFront : Prop :=
  ∀ (s : State) (c : Instr) (q : List Instr), s.pending = c :: q → step s = exec c { s with pending := q }

/-- With nothing waiting, a step is one TCLK cycle of R34: device time, in units of 2^−32 ns, grows by 2^32 + `TW_RATE` while
`TW_CTRL.RUN` is 1 and the reference is present, and nothing else changes. That an idle step is one cycle is the model's choice
(log entry 2). -/
def Obligations.StepIdle : Prop :=
  ∀ (s : State), s.pending = [] →
  (s.bit R.TW_CTRL 0 = true → s.power.refOk = true →
    step s = .next { s with time := BitVec.ofInt 96 ((s.time.toNat : Int) + 2 ^ 32 + toSigned 32 (s.regN R.TW_RATE)) }) ∧
  (¬(s.bit R.TW_CTRL 0 = true ∧ s.power.refOk = true) → step s = .next s)

/-- The state after reset meets the invariant of `StepKeepsTidy`. -/
def Obligations.ResetTidy : Prop :=
  State.reset.Tidy

/-- The state after reset: R38, R443 and the reset columns of the registers give the values; that unlisted memory reads 0 is the
model's choice (log entry 3). -/
def Obligations.ResetState : Prop :=
  State.reset.pending = [] ∧ State.reset.now = 0 ∧ State.reset.bit R.TW_CTRL 0 = false ∧ State.reset.safeState = 0 ∧
  (∀ a, State.reset.byte a = 0#8) ∧ (∀ p < 32, State.reset.partState p = 0) ∧ (∀ n < 16, State.reset.bit (R.SUP_MB_STATE n) 0 = false) ∧
  (∀ w < 8, State.reset.bit (R.TW_W_CTRL w) 0 = false ∧ State.reset.activeBank w = 0 ∧ State.reset.bankPeriod w 0 = 0 ∧ State.reset.bankPeriod w 1 = 0 ∧ (State.reset.wheel w).entriesA = [] ∧ (State.reset.wheel w).entriesB = []) ∧
  State.reset.collector = [] ∧ State.reset.errLog = [] ∧ State.reset.recorder.items = []

/-- The invariant of the machine over every command of the table: the registers, memory with its poison bits (R135) and the copies
of TMR words (R147) keep their canonical forms, so equal contents are equal states. The forms are the model's representation of
the state. -/
def Obligations.StepKeepsTidy : Prop :=
  ∀ (s t : State), s.Tidy → step s = .next t → t.Tidy

/-- `exec` is the effect on everything but the queue: no command of the table adds or removes a waiting command (log entry 2). -/
def Obligations.CommandsKeepQueue : Prop :=
  ∀ (c : Instr) (s t : State), exec c s = .next t → t.pending = s.pending

/-- The spec gives every command an effect on every state, an error response or a refusal with a code being one, so no command stops
the model. -/
def Obligations.EveryCommandAnswers : Prop :=
  ∀ (c : Instr) (s : State), ∃ t, exec c s = .next t

/-- The frame of the commands that work inside one tile (R71, R75, R77): everything outside the tile stays, but for the tile's own
registers and the count of lost records (R497). -/
def Obligations.FrameInsideTile : Prop :=
  ∀ (s t : State) (c : TCtl) (vd va vb vc n row k rel : Nat) (pred : Bool) (g : AgCtx) (i : Instr),
  s.issues c = true → rel ≤ 3 → (State.tile (s.enter c) c.tile).stack.length < 8 →
  i ∈ [Instr.vadd c vd va vb pred, .vsub c vd va vb pred, .vmul c vd va vb pred, .vmax c vd va vb pred, .vmin c vd va vb pred,
    .vabs c vd va pred, .vneg c vd va pred, .vexp c vd va pred, .vrcp c vd va pred, .vrsqrt c vd va pred, .vfma c vd va vb vc pred,
    .vscl2 c vd va vb pred, .vcmp c rel va vb, .vsel c vd va vb, .vmov c vd va pred, .amov c vd row pred, .vrsum c vd va pred,
    .vrmax c vd va pred, .vrmaxabs c vd va pred, .aclr c row n, .agset c k g, .loop c n] →
  exec i s = .next t → State.InsideTile c.tile s t

/-- Every byte outside the bytes stored reads as before: for `SST` the 64-byte word of the walk, for a committed DRAM write its
words, for a write access its bytes, and besides them a page that an uncorrectable error spoils (R131; for `ACCESS` a reading of
the model, log entry 36). -/
def Obligations.FrameStores : Prop :=
  (∀ (s t u v : State) (c : TCtl) (k r w : Nat), s.issues c = true → u = s.enter c →
    (u.tile c.tile).walkAt ((u.tile c.tile).ctx k) ((u.tile c.tile).ctx k).step = .inr w → u.Claims c.tile [(c.cyc, w)] v →
    exec (.sst c k (.word r)) s = .next t →
    ∀ a, a < spadAddr c.tile (64 * w) / 64 * 64 ∨ spadAddr c.tile (64 * w) / 64 * 64 + 64 ≤ a → t.byte a = s.byte a) ∧
  (∀ (s t : State) (c : TCtl) (d : Dma) (l : List Dma), (s.tile c.tile).dmaW = d :: l → exec (.dmaWriteCommit c) s = .next t →
    ∀ a, (∀ k < d.data.length, a < dramAddr c.tile ((d.dram + 64 * k) % 0x2000000) / 64 * 64 ∨
        dramAddr c.tile ((d.dram + 64 * k) % 0x2000000) / 64 * 64 + 64 ≤ a) →
      (d.bad = .good ∨ a / 1024 ≠ dramAddr c.tile (d.dram / 1024 * 1024) / 1024) →
      (d.badHi = .good ∨ a / 1024 ≠ dramAddr c.tile ((d.dram + 64 * d.count - 1) / 1024 % 32768 * 1024) / 1024) → t.byte a = s.byte a) ∧
  (∀ (s t : State) (m a len e : Nat) (d : List Byte) (p : Bool) (w : Win), targetOf a = some w → (w = .host ∨ ∃ k, w = .dram k) →
    exec (.access m .write a len d p e) s = .next t →
    ∀ x, (x < a ∨ a + len ≤ x) → (e = 0 ∨ x / 1024 ≠ a / 1024) → t.byte x = s.byte x)

/-- The frame of the commands that only return data (R372): they change their mailbox, its memory and what records them, nothing
else. -/
def Obligations.FrameQueries : Prop :=
  ∀ (s t : State) (n : Nat) (k : Instr),
  k ∈ [Instr.nop n, .capGet n, .verGet n, .errRead n, .recStatus n, .replayStatus n, .kvQuery n] → exec k s = .next t → State.UnitsKept s t

/-- The frame of three register writes (R36, R49, R336), whether accepted, refused or denied. -/
def Obligations.FrameRegisterWrites : Prop :=
  ∀ (s t : State) (m w : Nat) (v : Dword) (k : Instr) (r : Nat),
  (k, r) ∈ [(Instr.twRateWrite m v, R.TW_RATE), (.twWnBaseWrite m w v, R.TW_W_BASE (w % 8)), (.pmuFabricLimitWrite m v, R.PMU_FABRIC_LIMIT)] →
  exec k s = .next t → State.OnlyRegister r s t

/-- R12, R13 and R14: the names of a logical tile. -/
def Obligations.TileNames : Prop :=
  ∀ d r c : Nat, d < 4 → r < 16 → c < 32 →
  512 * d + 32 * r + c < 2048 ∧ blockOf (512 * d + 32 * r + c) = 16 * d + 4 * (r / 4) + c / 8 ∧
  meshRow (512 * d + 32 * r + c) = 16 * (d / 2) + r ∧ meshCol (512 * d + 32 * r + c) = 32 * (d % 2) + c

/-- R36, for every value written by a master that may write the register. -/
def Obligations.RateIsClipped : Prop :=
  ∀ (s : State) (m : Nat) (v : Dword), s.passes m .write R.TW_RATE 4 = true →
  (∀ r : Int, r = toSigned 32 (v.toNat % 2 ^ 32) → -429496 ≤ r → r ≤ 429496 → exec (.twRateWrite m v) s = .next ((s.setRegN R.TW_RATE (ofSigned 32 r)).answer m [] false)) ∧
  (429496 < toSigned 32 (v.toNat % 2 ^ 32) → exec (.twRateWrite m v) s = .next ((State.post (s.setRegN R.TW_RATE (ofSigned 32 429496))
     { status := ST.TIME_RATE_CLIPPED, sev := 1, source := 0x02, subsource := 0 }).answer m [] false)) ∧
  (toSigned 32 (v.toNat % 2 ^ 32) < -429496 → exec (.twRateWrite m v) s = .next ((State.post (s.setRegN R.TW_RATE (ofSigned 32 (-429496)))
     { status := ST.TIME_RATE_CLIPPED, sev := 1, source := 0x02, subsource := 0 }).answer m [] false))

/-- R39: `shortLe a b` is the comparison every rule on short times uses, a not later than b. -/
def Obligations.ShortTimes : Prop :=
  ∀ a b : BitVec 32, (shortLe a.toNat b.toNat = false ↔ 0 < (a - b).toInt) ∧
  (shortLe a.toNat b.toNat = true ↔ (a - b).toInt < 0 ∨ a = b)

/-- R343 for every access that only its table or the rules of unit registers deny. That the record carries the table number in
SUBSOURCE, with the supervisor as SOURCE, is a reading of the model (log entries 12 and 36). -/
def Obligations.DeniedAccess : Prop :=
  ∀ (s : State) (m a len e : Nat) (k : AccessKind) (d : List Byte) (p : Bool) (t : Win),
  s.windowCheck m a len = .inr t → s.unitGate t k = none →
  (s.tableAllows (s.tableOf t a len) m k a len && s.ruleAllows t m k a len) = false →
  exec (.access m k a len d p e) s = .next ((State.post { s with reply := { master := m, error := true, status := ST.ACCESS_DENIED, data := if k = .write then [] else List.replicate len 0#8 } }
    { status := ST.ACCESS_DENIED, sev := 2, source := 0x08, subsource := s.tableOf t a len, address := a, syndrome := m }).incReg R.ACC_DENIED_CNT)

/-- R22: the windows of the device address space, and the answer to an access outside them. What the record's other fields hold is a
reading of the model (log entry 12). -/
def Obligations.UnmappedAccess : Prop :=
  (∀ (s : State) (m a len e : Nat) (k : AccessKind) (d : List Byte) (p : Bool),
  (0x001400000000 ≤ a ∧ a < 0x002000000000) ∨ (0x002080000000 ≤ a ∧ a < 0x003000000000) ∨ (0x003001000000 ≤ a ∧ a < 0x800000000000) ∨ 0xC00000000000 ≤ a →
  exec (.access m k a len d p e) s = .next (State.post { s with reply := { master := m, error := true, status := ST.ADDR_UNMAPPED, data := if k = .write then [] else List.replicate len 0#8 } }
    { status := ST.ADDR_UNMAPPED, sev := 2, source := 1, subsource := 0, address := a, syndrome := m % 1024 + (if k = .write then 1024 else 0) })) ∧
  (∀ a, a < 0x001000000000 → targetOf a = some (.dram (a / 0x2000000))) ∧
  (∀ a, 0x001000000000 ≤ a ∧ a < 0x001400000000 → targetOf a = some .host) ∧
  (∀ a, 0x002000000000 ≤ a ∧ a < 0x002080000000 → targetOf a = some (.spad ((a - 0x002000000000) / 0x100000))) ∧
  (∀ a, 0x003000000000 ≤ a ∧ a < 0x003001000000 → targetOf a = some (.unit ((a - 0x003000000000) / 0x10000))) ∧
  (∀ a, 0x800000000000 ≤ a ∧ a < 0xC00000000000 → targetOf a = some (.remote ((a - 0x800000000000) / 0x10000000000)))

/-- R37: LO then HI, or LO then FRAC, form one consistent time, whatever happens between the reads that leaves the master's holding
registers alone. -/
def Obligations.TimeLatch : Prop :=
  ∀ (s : State) (m : Nat), s.passes m .read R.TW_TIME_LO 4 = true →
  ∃ t, exec (.twTimeLoRead m) s = .next t ∧ t.reply.data = leBytes (s.now % 2 ^ 32) 4 ∧
    ∀ (u : State) (e : Nat), mget {} u.holds m = mget {} t.holds m →
      (u.passes m .read R.TW_TIME_HI 4 = true → ∃ v, exec (.access m .read R.TW_TIME_HI 4 [] false e) u = .next v ∧
        v.reply.data = leBytes (s.now / 2 ^ 32 % 2 ^ 32) 4) ∧
      (u.passes m .read R.TW_FRAC 4 = true → ∃ v, exec (.access m .read R.TW_FRAC 4 [] false e) u = .next v ∧
        v.reply.data = leBytes (s.time.toNat % 2 ^ 32) 4)

/-- R496. `v` is the state after the effects of severity that come with every arrival. That `REPEAT` stops at 2^32 − 1 is the
model's choice (log entry 28). -/
def Obligations.RecordsCoalesce : Prop :=
  ∀ (s t v : State) (u : Nat) (r x : ErrRecord) (l : List ErrRecord),
  takeFrom u s.posting = some (r, l) → v = State.severityActs { s with posting := l } r → x ∈ v.collector → x.acting = false → x.phase = 0 →
  (x.source = r.source ∧ x.status = r.status ∧ x.subsource = r.subsource ∧ x.partition = r.partition ∧ x.context = r.context ∧ x.address = r.address) →
  exec (.errorRecordArrival u) s = .next t →
  t.collector = v.collector.map fun y =>
    if y.acting = false ∧ y.phase = 0 ∧ y.source = r.source ∧ y.status = r.status ∧ y.subsource = r.subsource ∧ y.partition = r.partition ∧
      y.context = r.context ∧ y.address = r.address
    then { y with rep := min (y.rep + 1) (2 ^ 32 - 1), lastShort := v.now % 2 ^ 32 } else y

/-- R35, for the register and for the mailbox command. -/
def Obligations.StepRefusedWhileEnabled : Prop :=
  (∀ (s : State) (m : Nat) (v : Dword), s.passes m .write R.TW_STEP_GO 4 = true → v.toNat % 2 = 1 → s.anyWheel = true →
    exec (.twStepGo m v) s = .next (s.busFail m .write R.TW_STEP_GO 4 ST.TIME_STEP_REFUSED 0x02) ∧
    (State.time (s.busFail m .write R.TW_STEP_GO 4 ST.TIME_STEP_REFUSED 0x02)) = s.time) ∧
  (∀ (s : State) (n : Nat), s.runs n 0x0102 = true → s.anyWheel = true →
    exec (.timeStep n) s = .next (s.respond n ST.TIME_STEP_REFUSED []) ∧ (s.respond n ST.TIME_STEP_REFUSED []).time = s.time)
end

