-- ==== Sys2Proof/Laws/Tables.lean ====
section
/-! SUPPORT. Laws of the sparse tables: a read after a write, and the canonical form that every table operation keeps. -/

namespace Sys2Proof.Machine

variable {β : Type}

/-! ### Reading after writing -/

@[simp] theorem mget_nil (d : β) (k : Nat) : mget d [] k = d := rfl

/-- Below every key of a rising table nothing is listed. -/
theorem mget_below (d : β) : ∀ (m : SMap β) (k : Nat), (∀ x ∈ m, k < x.1) → mget d m k = d
  | [], _, _ => rfl
  | (a, v) :: r, k, h => by
    have ha : k < a := h (a, v) (by simp)
    have hr := mget_below d r k fun x hx => h x (by simp [hx])
    simp [mget, Nat.ne_of_gt ha, hr]

/-- Rising keys as a pairwise relation. -/
theorem mrising_iff : ∀ m : SMap β, mrising m = true ↔ m.Pairwise fun x y => x.1 < y.1
  | [] => by simp [mrising]
  | [x] => by obtain ⟨a, v⟩ := x; simp [mrising]
  | (a, v) :: (b, w) :: r => by
    simp only [mrising, Bool.and_eq_true, decide_eq_true_eq, mrising_iff ((b, w) :: r), List.pairwise_cons]
    constructor
    · rintro ⟨hab, hb, hr⟩
      refine ⟨fun x hx => ?_, hb, hr⟩
      rcases List.mem_cons.1 hx with rfl | hx
      · exact hab
      · exact Nat.lt_trans hab (hb x hx)
    · rintro ⟨ha, hb, hr⟩
      exact ⟨ha (b, w) (by simp), hb, hr⟩

theorem mget_merase_same (d : β) : ∀ (m : SMap β) (k : Nat), mrising m = true → mget d (merase m k) k = d
  | [], _, _ => rfl
  | (a, v) :: r, k, h => by
    have hp := (mrising_iff _).1 h
    rw [List.pairwise_cons] at hp
    by_cases e : a = k
    · subst e
      simp only [merase, if_true]
      exact mget_below d r a hp.1
    · simp only [merase, e, if_false, mget]
      exact mget_merase_same d r k ((mrising_iff _).2 hp.2)

@[simp] theorem mget_merase_ne (d : β) : ∀ (m : SMap β) (k j : Nat), k ≠ j → mget d (merase m k) j = mget d m j
  | [], _, _, _ => rfl
  | (a, v) :: r, k, j, h => by
    by_cases e : a = k
    · subst e; simp [merase, mget, h]
    · by_cases f : a = j
      · subst f; simp [merase, mget, e]
      · simp [merase, mget, e, f, mget_merase_ne d r k j h]

@[simp] theorem mget_minsert_same (d : β) : ∀ (m : SMap β) (k : Nat) (x : β), mget d (minsert m k x) k = x
  | [], k, x => by simp [minsert, mget]
  | (a, v) :: r, k, x => by
    by_cases e : k < a
    · simp [minsert, e, mget]
    · by_cases f : a = k
      · simp [minsert, f, mget]
      · simp [minsert, e, f, mget, mget_minsert_same d r k x]

@[simp] theorem mget_minsert_ne (d : β) : ∀ (m : SMap β) (k j : Nat) (x : β), k ≠ j → mget d (minsert m k x) j = mget d m j
  | [], k, j, x, h => by simp [minsert, mget, h]
  | (a, v) :: r, k, j, x, h => by
    by_cases e : k < a
    · simp [minsert, e, mget, h]
    · by_cases f : a = k
      · subst f; simp [minsert, mget, h]
      · by_cases g : a = j
        · subst g; simp [minsert, e, f, mget]
        · simp [minsert, e, f, mget, g, mget_minsert_ne d r k j x h]

/-- A read of the key just written. -/
theorem mget_mset_same [DecidableEq β] (d : β) (m : SMap β) (k : Nat) (x : β) (h : mrising m = true) :
    mget d (mset d m k x) k = x := by
  by_cases e : x = d
  · simp [mset, e, mget_merase_same d m k h]
  · simp [mset, e]

/-- A read of another key. -/
@[simp] theorem mget_mset_ne [DecidableEq β] (d e : β) (m : SMap β) (k j : Nat) (x : β) (h : k ≠ j) :
    mget e (mset d m k x) j = mget e m j := by
  unfold mset
  split <;> simp [h]

/-! ### The canonical form -/

/-- The canonical form spelled out. -/
theorem mwf_iff [DecidableEq β] (d : Nat → β) (m : SMap β) :
    mwf d m = true ↔ (m.Pairwise fun x y => x.1 < y.1) ∧ ∀ x ∈ m, x.2 ≠ d x.1 := by
  simp [mwf, mrising_iff]

@[simp] theorem mwf_nil [DecidableEq β] (d : Nat → β) : mwf d [] = true := rfl

theorem mwf_filter [DecidableEq β] (d : Nat → β) (m : SMap β) (p : Nat × β → Bool) (h : mwf d m = true) :
    mwf d (m.filter p) = true := by
  rw [mwf_iff] at h ⊢
  exact ⟨h.1.filter p, fun x hx => h.2 x (List.mem_filter.1 hx).1⟩

theorem mwf_mclear [DecidableEq β] (d : Nat → β) (m : SMap β) (lo hi : Nat) (h : mwf d m = true) :
    mwf d (mclear m lo hi) = true := mwf_filter d m _ h

theorem merase_sublist : ∀ (m : SMap β) (k : Nat), (merase m k).Sublist m
  | [], _ => List.Sublist.refl []
  | (a, v) :: r, k => by
    unfold merase
    split
    · exact List.sublist_cons_self _ _
    · exact (merase_sublist r k).cons_cons _

theorem mwf_merase [DecidableEq β] (d : Nat → β) (m : SMap β) (k : Nat) (h : mwf d m = true) :
    mwf d (merase m k) = true := by
  rw [mwf_iff] at h ⊢
  exact ⟨h.1.sublist (merase_sublist m k), fun x hx => h.2 x ((merase_sublist m k).subset hx)⟩

theorem mem_minsert : ∀ (m : SMap β) (k : Nat) (x : β) (y : Nat × β), y ∈ minsert m k x → y = (k, x) ∨ y ∈ m
  | [], k, x, y, h => by simpa [minsert] using h
  | (a, v) :: r, k, x, y, h => by
    by_cases e : k < a
    · simp [minsert, e] at h ⊢; exact h
    · by_cases f : a = k
      · simp [minsert, f] at h ⊢; rcases h with h | h
        · exact .inl h
        · exact .inr (.inr h)
      · simp [minsert, e, f] at h ⊢
        rcases h with h | h
        · exact .inr (.inl h)
        · rcases mem_minsert r k x y h with h | h
          · exact .inl h
          · exact .inr (.inr h)

theorem pairwise_minsert : ∀ (m : SMap β) (k : Nat) (x : β), (m.Pairwise fun x y => x.1 < y.1) →
    (minsert m k x).Pairwise fun x y => x.1 < y.1
  | [], k, x, _ => by simp [minsert]
  | (a, v) :: r, k, x, h => by
    have h' := List.pairwise_cons.1 h
    by_cases e : k < a
    · simp only [minsert, e, if_true]
      refine List.pairwise_cons.2 ⟨fun y hy => ?_, h⟩
      rcases List.mem_cons.1 hy with rfl | hy
      · exact e
      · exact Nat.lt_trans e (h'.1 y hy)
    · by_cases f : a = k
      · subst f
        simp only [minsert, Nat.lt_irrefl, if_false, if_true]
        exact List.pairwise_cons.2 ⟨h'.1, h'.2⟩
      · simp only [minsert, e, f, if_false]
        refine List.pairwise_cons.2 ⟨fun y hy => ?_, pairwise_minsert r k x h'.2⟩
        rcases mem_minsert r k x y hy with rfl | hy
        · exact Nat.lt_of_le_of_ne (Nat.le_of_not_lt e) f
        · exact h'.1 y hy

theorem mwf_minsert [DecidableEq β] (d : Nat → β) (m : SMap β) (k : Nat) (x : β) (hx : x ≠ d k) (h : mwf d m = true) :
    mwf d (minsert m k x) = true := by
  rw [mwf_iff] at h ⊢
  refine ⟨pairwise_minsert m k x h.1, fun y hy => ?_⟩
  rcases mem_minsert m k x y hy with rfl | hy
  · exact hx
  · exact h.2 y hy

/-- A write keeps the canonical form. -/
theorem mwf_mset [DecidableEq β] (d : Nat → β) (m : SMap β) (k : Nat) (x : β) (h : mwf d m = true) :
    mwf d (mset (d k) m k x) = true := by
  unfold mset
  split
  · exact mwf_merase d m k h
  · rename_i hx; exact mwf_minsert d m k x hx h

end Sys2Proof.Machine
end

