-- ==== Sys2Proof/Laws/Keeps.lean ====
section
/-! SUPPORT. What every operation of the model keeps: the queue of waiting commands, and the canonical form of registers, memory and TMR copies. The relation, and the operations that touch those fields. -/

namespace Sys2Proof.Machine

/-- From `s` to `t` the queue stays and a tidy state stays tidy. -/
def Keeps (s t : State) : Prop := t.pending = s.pending ∧ (s.Tidy → t.Tidy)

theorem Keeps.refl (s : State) : Keeps s s := ⟨rfl, id⟩

theorem Keeps.trans {r s t : State} (h : Keeps r s) (k : Keeps s t) : Keeps r t :=
  ⟨k.1.trans h.1, fun x => k.2 (h.2 x)⟩

/-- One state on the way, then the rest of it. -/
theorem Keeps.via {s0 x y : State} (h : Keeps s0 x) (k : Keeps s0 x → Keeps s0 y) : Keeps s0 y := k h

/-- Fields other than the queue, registers, memory and copies do not matter. -/
theorem Keeps.congr {s0 s t : State} (h : Keeps s0 s) (hp : t.pending = s.pending) (hr : t.regs = s.regs)
    (hm : t.mem = s.mem) (ho : t.poison = s.poison) (ht : t.tmr = s.tmr) : Keeps s0 t := by
  refine ⟨hp.trans h.1, fun x => ?_⟩
  obtain ⟨a, b, c⟩ := h.2 x
  refine ⟨?_, ?_, ?_⟩
  · simpa [State.regsTidy, hr] using a
  · simpa [State.memTidy, hm, ho] using b
  · simpa [State.tmrTidy, ht] using c

/-- An update of fields other than the queue, registers, memory and copies. -/
theorem Keeps.mk {s0 s : State}
    {f_pending : List Instr} {f_regs : SMap Dword} {f_tmr : SMap (Dword × Dword × Dword)} {f_mem : List Host.Cell}
    {f_poison : SMap Bool} {f_retiredHit : SMap Bool} {f_reply : Reply} {f_time : BitVec 96} {f_stepped : Int} {f_servo : Servo}
    {f_roundNext : Nat} {f_holds : SMap TimeHold} {f_wheels : SMap Wheel} {f_edge : Nat × Nat × Nat}
    {f_delayed : List Due} {f_handoffs : SMap Handoff} {f_windows : SMap Window} {f_landings : SMap Landing}
    {f_ports : SMap Port} {f_copyB : List (Due × Nat × Nat)} {f_fsync : SMap Nat} {f_hostIrq : BitVec 64}
    {f_tiles : SMap Tile} {f_parts : SMap Part} {f_nextInst : Nat} {f_streams : SMap Stream} {f_goldens : SMap Golden}
    {f_selfTests : SMap SelfTest} {f_access : SMap AccEntry} {f_pixProgs : SMap (BitVec 512)} {f_pixRuns : List PixRun}
    {f_pixWindow : List (Nat × Nat)} {f_kvPools : SMap KvPool} {f_kvCtxs : SMap KvCtx} {f_solSlots : SMap SolSlot}
    {f_solQueue : List SolStart} {f_solRun : Option SolRun} {f_channels : SMap Channel} {f_ctlInputs : SMap CtlInput}
    {f_testGen : TestGen} {f_capture : SMap (BitVec 128)} {f_camStrs : SMap CamStream} {f_ethPorts : SMap EthPort}
    {f_ethTables : SMap (BitVec 1024)} {f_ethRings : SMap Nat} {f_ethRsp : List Nat} {f_cans : SMap CanCtl}
    {f_pins : SMap Pin} {f_safeDiff : Option Nat × Bool} {f_sents : SMap Sent} {f_spis : SMap Spi}
    {f_bamPorts : SMap BamPort} {f_discovery : Discovery} {f_bamFlags : Bool × List Nat × Bool}
    {f_remotes : SMap Remote} {f_mirrors : SMap Mirror} {f_twins : SMap TwinBind} {f_posting : List ErrRecord}
    {f_collector : List ErrRecord} {f_errLog : List ErrRecord} {f_overflowed : Bool} {f_handled : Nat}
    {f_retains : Nat} {f_dump : Option Dump} {f_dumpSeq : Nat × Nat} {f_rungs : List Rung} {f_harts : BitVec 16}
    {f_resets : SMap (List Nat)} {f_searches : List Search} {f_hartKick : SMap Nat} {f_hostCe : SMap Nat}
    {f_chipReset : Option (Nat × Nat)} {f_mailboxes : SMap Mailbox} {f_locks : List ObjLock} {f_boot : Boot}
    {f_imageLog : BitVec 384 × Nat} {f_attest : Option Nat} {f_trng : Bool} {f_power : Power} {f_safety : Safety}
    {f_frz : Freeze} {f_recorder : Recorder} {f_dbg : Debug} {f_fresh : Nat}
    (h : Keeps s0 s) (hp : f_pending = s.pending) (hr : f_regs = s.regs) (hm : f_mem = s.mem) (ho : f_poison = s.poison)
    (ht : f_tmr = s.tmr) :
    Keeps s0 (State.mk
      f_pending f_regs f_tmr f_mem f_poison f_retiredHit f_reply f_time f_stepped f_servo f_roundNext f_holds f_wheels f_edge
      f_delayed f_handoffs f_windows f_landings f_ports f_copyB f_fsync f_hostIrq f_tiles f_parts f_nextInst f_streams
      f_goldens f_selfTests f_access f_pixProgs f_pixRuns f_pixWindow f_kvPools f_kvCtxs f_solSlots f_solQueue f_solRun
      f_channels f_ctlInputs f_testGen f_capture f_camStrs f_ethPorts f_ethTables f_ethRings f_ethRsp f_cans f_pins
      f_safeDiff f_sents f_spis f_bamPorts f_discovery f_bamFlags f_remotes f_mirrors f_twins f_posting f_collector
      f_errLog f_overflowed f_handled f_retains f_dump f_dumpSeq f_rungs f_harts f_resets f_searches f_hartKick f_hostCe
      f_chipReset f_mailboxes f_locks f_boot f_imageLog f_attest f_trng f_power f_safety f_frz f_recorder f_dbg f_fresh) :=
  Keeps.congr h hp hr hm ho ht

/-- The state of a pair. -/
theorem Keeps.pair1 {α : Type} {s0 t : State} {x : α} {p : State × α} (e : p = (t, x)) (h : Keeps s0 p.1) : Keeps s0 t := by
  rw [e] at h
  exact h

/-- What a meaning answers, when it answers a next state. -/
def KeepsO (s : State) (o : Host.Outcome State Fault Refusal) : Prop :=
  match o with
  | .next t => Keeps s t
  | _ => True

theorem KeepsO.via {s0 x : State} {o : Host.Outcome State Fault Refusal} (h : Keeps s0 x) (k : Keeps s0 x → KeepsO s0 o) :
    KeepsO s0 o := k h

theorem KeepsO.next {s t : State} (h : Keeps s t) : KeepsO s (.next t) := h

/-! ### The operations that touch those fields -/

theorem State.setReg_keeps {s0 s : State} (a : Nat) (v : Dword) (h : Keeps s0 s) : Keeps s0 (s.setReg a v) := by
  refine ⟨h.1, fun x => ?_⟩
  obtain ⟨hr, hm, ht⟩ := h.2 x
  refine ⟨mwf_mset regReset s.regs a v hr, hm, ?_⟩
  simp only [State.tmrTidy, Bool.and_eq_true, List.all_eq_true] at ht ⊢
  exact ⟨mwf_merase _ s.tmr a ht.1, fun y hy => ht.2 y ((merase_sublist s.tmr a).subset hy)⟩

theorem State.resetRegs_keeps {s0 s : State} (lo hi : Nat) (h : Keeps s0 s) : Keeps s0 (s.resetRegs lo hi) := by
  refine ⟨h.1, fun x => ?_⟩
  obtain ⟨hr, hm, ht⟩ := h.2 x
  refine ⟨mwf_mclear regReset s.regs lo hi hr, hm, ?_⟩
  simp only [State.tmrTidy, Bool.and_eq_true, List.all_eq_true] at ht ⊢
  exact ⟨mwf_mclear _ s.tmr lo hi ht.1, fun y hy => ht.2 y (List.mem_filter.1 hy).1⟩

theorem State.setByte_keeps {s0 s : State} (a : Nat) (b : Byte) (h : Keeps s0 s) : Keeps s0 (s.setByte a b) := by
  refine ⟨h.1, fun x => ?_⟩
  obtain ⟨hr, hm, ht⟩ := h.2 x
  refine ⟨hr, ?_, ht⟩
  simp only [State.memTidy, Bool.and_eq_true] at hm ⊢
  exact ⟨mwf_mset (fun _ => 0#8) s.mem a b hm.1, hm.2⟩

theorem State.setPoison_keeps {s0 s : State} (a : Nat) (p : Bool) (h : Keeps s0 s) : Keeps s0 (s.setPoison a p) := by
  refine ⟨h.1, fun x => ?_⟩
  obtain ⟨hr, hm, ht⟩ := h.2 x
  refine ⟨hr, ?_, ht⟩
  simp only [State.memTidy, Bool.and_eq_true] at hm ⊢
  exact ⟨hm.1, mwf_mset (fun _ => false) s.poison (a / 64) p hm.2⟩

theorem State.zero_keeps {s0 s : State} (lo hi : Nat) (h : Keeps s0 s) : Keeps s0 (s.zero lo hi) := by
  refine ⟨h.1, fun x => ?_⟩
  obtain ⟨hr, hm, ht⟩ := h.2 x
  refine ⟨hr, ?_, ht⟩
  simp only [State.memTidy, Bool.and_eq_true] at hm ⊢
  exact ⟨mwf_mclear _ s.mem lo hi hm.1, mwf_mclear _ s.poison (lo / 64) (hi / 64) hm.2⟩

theorem State.upset_keeps {s0 s : State} (u : Upset) (h : Keeps s0 s) : Keeps s0 (s.upset u) := by
  unfold State.upset
  split
  · exact h
  · rename_i hi
    refine ⟨h.1, fun x => ?_⟩
    obtain ⟨hr, hm, ht⟩ := h.2 x
    refine ⟨hr, hm, ?_⟩
    simp only [State.tmrTidy, Bool.and_eq_true, List.all_eq_true] at ht ⊢
    refine ⟨mwf_mset (fun _ => (0#64, 0#64, 0#64)) s.tmr u.reg _ ht.1, fun y hy => ?_⟩
    unfold mmod mset at hy
    split at hy
    · exact ht.2 y ((merase_sublist _ _).subset hy)
    · rcases mem_minsert _ _ _ _ hy with rfl | hy
      · simpa using hi
      · exact ht.2 y hy

theorem State.zeroSpad_keeps {s0 s : State} (t : Nat) (h : Keeps s0 s) : Keeps s0 (s.zeroSpad t) := by
  refine ⟨h.1, fun x => ?_⟩
  obtain ⟨hr, hm, ht⟩ := h.2 x
  refine ⟨hr, ?_, ht⟩
  simp only [State.memTidy, Bool.and_eq_true] at hm ⊢
  exact ⟨mwf_filter _ s.mem _ hm.1, mwf_filter _ s.poison _ hm.2⟩

/-! ### Repetition -/

theorem Keeps.foldl {α : Type} {s0 : State} (f : State → α → State) (hf : ∀ s x, Keeps s0 s → Keeps s0 (f s x)) :
    ∀ (l : List α) (s : State), Keeps s0 s → Keeps s0 (l.foldl f s)
  | [], _, h => h
  | x :: r, s, h => Keeps.foldl f hf r (f s x) (hf s x h)

theorem State.each_keeps {α : Type} {s0 s : State} (l : List α) (f : State → α → State) (h : Keeps s0 s)
    (hf : ∀ s x, Keeps s0 s → Keeps s0 (f s x)) : Keeps s0 (s.each l f) := Keeps.foldl f hf l s h

end Sys2Proof.Machine
end

