-- ==== Sys2Proof/Laws/KeepsOps.lean ====
section
/-! SUPPORT. Every operation of Machine/Ops.lean keeps the queue and the canonical form. -/

namespace Sys2Proof.Machine

theorem State.setRegN_keeps {s0 : State} (s : State) (a : Nat) (v : Nat) (kh : Keeps s0 s) : Keeps s0 (State.setRegN s a v) := by
  unfold State.setRegN
  repeat' first
    | with_reducible first | assumption | intro _
    | with_reducible first | apply State.setReg_keeps
    | with_reducible exact Keeps.refl _

theorem State.setFld_keeps {s0 : State} (s : State) (a lo w x : Nat) (kh : Keeps s0 s) : Keeps s0 (State.setFld s a lo w x) := by
  unfold State.setFld
  repeat' first
    | with_reducible first | assumption | intro _
    | with_reducible first | apply State.setRegN_keeps
    | with_reducible exact Keeps.refl _

theorem State.setBit_keeps {s0 : State} (s : State) (a i : Nat) (b : Bool) (kh : Keeps s0 s) : Keeps s0 (State.setBit s a i b) := by
  unfold State.setBit
  repeat' first
    | with_reducible first | assumption | intro _
    | with_reducible first | apply State.setFld_keeps
    | with_reducible exact Keeps.refl _

theorem State.incFld_keeps {s0 : State} (s : State) (a lo w : Nat) (kh : Keeps s0 s) : Keeps s0 (State.incFld s a lo w) := by
  unfold State.incFld
  repeat' first
    | with_reducible first | assumption | intro _
    | with_reducible first | apply State.setFld_keeps
    | split
    | with_reducible exact Keeps.refl _

theorem State.addReg_keeps {s0 : State} (s : State) (a k : Nat) (kh : Keeps s0 s) : Keeps s0 (State.addReg s a k) := by
  unfold State.addReg
  repeat' first
    | with_reducible first | assumption | intro _
    | with_reducible first | apply State.setRegN_keeps
    | with_reducible exact Keeps.refl _

theorem State.incReg_keeps {s0 : State} (s : State) (a : Nat) (kh : Keeps s0 s) : Keeps s0 (State.incReg s a) := by
  unfold State.incReg
  repeat' first
    | with_reducible first | assumption | intro _
    | with_reducible first | apply State.addReg_keeps
    | with_reducible exact Keeps.refl _

theorem State.wrapReg_keeps {s0 : State} (s : State) (a : Nat) (kh : Keeps s0 s) : Keeps s0 (State.wrapReg s a) := by
  unfold State.wrapReg
  repeat' first
    | with_reducible first | assumption | intro _
    | with_reducible first | apply State.setRegN_keeps
    | with_reducible exact Keeps.refl _

theorem State.setPieces_keeps {s0 : State} : ∀ (l : List Nat) (s : State) (a : Nat), Keeps s0 s → Keeps s0 (s.setPieces a l)
  | [], _, _, h => h
  | v :: r, s, a, h => State.setPieces_keeps r (s.setRegN a v) (a + 8) (State.setRegN_keeps s a v h)

theorem State.resetUnitRegs_keeps {s0 : State} (s : State) (u : Nat) (kh : Keeps s0 s) : Keeps s0 (State.resetUnitRegs s u) := by
  unfold State.resetUnitRegs
  repeat' first
    | with_reducible first | assumption | intro _
    | with_reducible first | apply State.resetRegs_keeps
    | with_reducible exact Keeps.refl _

theorem State.setBytes_keeps {s0 : State} : ∀ (l : List Byte) (s : State) (a : Nat), Keeps s0 s → Keeps s0 (s.setBytes a l)
  | [], _, _, h => h
  | b :: r, s, a, h => State.setBytes_keeps r (s.setByte a b) (a + 1) (State.setByte_keeps a b h)

theorem State.setLine_keeps {s0 : State} (s : State) (a : Nat) (v : VReg) (kh : Keeps s0 s) : Keeps s0 (State.setLine s a v) := by
  unfold State.setLine
  repeat' first
    | with_reducible first | assumption | intro _
    | with_reducible first | apply State.setPoison_keeps | apply State.setBytes_keeps
    | with_reducible exact Keeps.refl _

theorem State.mixPoison_keeps {s0 : State} (a n : Nat) (p : Bool) : ∀ (k : Nat) (s : State) (w : Nat), Keeps s0 s → Keeps s0 (s.mixPoison a n p w k)
  | 0, _, _, h => h
  | k + 1, s, w, h => by
    unfold State.mixPoison
    exact State.mixPoison_keeps a n p k _ (w + 1) (State.setPoison_keeps _ _ h)

theorem State.store_keeps {s0 : State} (s : State) (a : Nat) (data : List Byte) (p : Bool) (kh : Keeps s0 s) : Keeps s0 (State.store s a data p) := by
  unfold State.store
  repeat' first
    | with_reducible first | assumption | intro _
    | with_reducible first | apply State.mixPoison_keeps | apply State.setBytes_keeps
    | split
    | with_reducible exact Keeps.refl _

theorem State.modTile_keeps {s0 : State} (s : State) (t : Nat) (f : Tile → Tile) (kh : Keeps s0 s) : Keeps s0 (State.modTile s t f) := by
  unfold State.modTile
  repeat' first
    | with_reducible first | assumption | intro _
    | with_reducible exact Keeps.refl _
    | (with_reducible refine Keeps.mk ?_ rfl rfl rfl rfl rfl)

theorem State.modPart_keeps {s0 : State} (s : State) (p : Nat) (f : Part → Part) (kh : Keeps s0 s) : Keeps s0 (State.modPart s p f) := by
  unfold State.modPart
  repeat' first
    | with_reducible first | assumption | intro _
    | with_reducible exact Keeps.refl _
    | (with_reducible refine Keeps.mk ?_ rfl rfl rfl rfl rfl)

theorem State.modJob_keeps {s0 : State} (s : State) (p j : Nat) (f : Job → Job) (kh : Keeps s0 s) : Keeps s0 (State.modJob s p j f) := by
  unfold State.modJob
  repeat' first
    | with_reducible first | assumption | intro _
    | with_reducible first | apply State.modPart_keeps
    | with_reducible exact Keeps.refl _
    | (with_reducible refine Keeps.mk ?_ rfl rfl rfl rfl rfl)

theorem State.modWheel_keeps {s0 : State} (s : State) (w : Nat) (f : Wheel → Wheel) (kh : Keeps s0 s) : Keeps s0 (State.modWheel s w f) := by
  unfold State.modWheel
  repeat' first
    | with_reducible first | assumption | intro _
    | with_reducible exact Keeps.refl _
    | (with_reducible refine Keeps.mk ?_ rfl rfl rfl rfl rfl)

theorem State.modStream_keeps {s0 : State} (s : State) (i : Nat) (f : Stream → Stream) (kh : Keeps s0 s) : Keeps s0 (State.modStream s i f) := by
  unfold State.modStream
  repeat' first
    | with_reducible first | assumption | intro _
    | with_reducible exact Keeps.refl _
    | (with_reducible refine Keeps.mk ?_ rfl rfl rfl rfl rfl)

theorem State.modPort_keeps {s0 : State} (s : State) (u i : Nat) (f : Port → Port) (kh : Keeps s0 s) : Keeps s0 (State.modPort s u i f) := by
  unfold State.modPort
  repeat' first
    | with_reducible first | assumption | intro _
    | with_reducible exact Keeps.refl _
    | (with_reducible refine Keeps.mk ?_ rfl rfl rfl rfl rfl)

theorem State.modChan_keeps {s0 : State} (s : State) (i : Nat) (f : Channel → Channel) (kh : Keeps s0 s) : Keeps s0 (State.modChan s i f) := by
  unfold State.modChan
  repeat' first
    | with_reducible first | assumption | intro _
    | with_reducible exact Keeps.refl _
    | (with_reducible refine Keeps.mk ?_ rfl rfl rfl rfl rfl)

theorem State.modSlot_keeps {s0 : State} (s : State) (i : Nat) (f : SolSlot → SolSlot) (kh : Keeps s0 s) : Keeps s0 (State.modSlot s i f) := by
  unfold State.modSlot
  repeat' first
    | with_reducible first | assumption | intro _
    | with_reducible exact Keeps.refl _
    | (with_reducible refine Keeps.mk ?_ rfl rfl rfl rfl rfl)

theorem State.modPool_keeps {s0 : State} (s : State) (i : Nat) (f : KvPool → KvPool) (kh : Keeps s0 s) : Keeps s0 (State.modPool s i f) := by
  unfold State.modPool
  repeat' first
    | with_reducible first | assumption | intro _
    | with_reducible exact Keeps.refl _
    | (with_reducible refine Keeps.mk ?_ rfl rfl rfl rfl rfl)

theorem State.modCan_keeps {s0 : State} (s : State) (i : Nat) (f : CanCtl → CanCtl) (kh : Keeps s0 s) : Keeps s0 (State.modCan s i f) := by
  unfold State.modCan
  repeat' first
    | with_reducible first | assumption | intro _
    | with_reducible exact Keeps.refl _
    | (with_reducible refine Keeps.mk ?_ rfl rfl rfl rfl rfl)

theorem State.modEth_keeps {s0 : State} (s : State) (i : Nat) (f : EthPort → EthPort) (kh : Keeps s0 s) : Keeps s0 (State.modEth s i f) := by
  unfold State.modEth
  repeat' first
    | with_reducible first | assumption | intro _
    | with_reducible exact Keeps.refl _
    | (with_reducible refine Keeps.mk ?_ rfl rfl rfl rfl rfl)

theorem State.modPin_keeps {s0 : State} (s : State) (i : Nat) (f : Pin → Pin) (kh : Keeps s0 s) : Keeps s0 (State.modPin s i f) := by
  unfold State.modPin
  repeat' first
    | with_reducible first | assumption | intro _
    | with_reducible exact Keeps.refl _
    | (with_reducible refine Keeps.mk ?_ rfl rfl rfl rfl rfl)

theorem State.modMbox_keeps {s0 : State} (s : State) (i : Nat) (f : Mailbox → Mailbox) (kh : Keeps s0 s) : Keeps s0 (State.modMbox s i f) := by
  unfold State.modMbox
  repeat' first
    | with_reducible first | assumption | intro _
    | with_reducible exact Keeps.refl _
    | (with_reducible refine Keeps.mk ?_ rfl rfl rfl rfl rfl)

theorem State.modHo_keeps {s0 : State} (s : State) (i : Nat) (f : Handoff → Handoff) (kh : Keeps s0 s) : Keeps s0 (State.modHo s i f) := by
  unfold State.modHo
  repeat' first
    | with_reducible first | assumption | intro _
    | with_reducible exact Keeps.refl _
    | (with_reducible refine Keeps.mk ?_ rfl rfl rfl rfl rfl)

theorem State.loseRec_keeps {s0 : State} (s : State) (kh : Keeps s0 s) : Keeps s0 (State.loseRec s) := by
  unfold State.loseRec
  repeat' first
    | with_reducible first | assumption | intro _
    | (extract_lets +onlyGivenNames x
       first
       | (refine Keeps.via (x := x) ?_ fun kh1 => ?_; rotate_left; clear_value x; rotate_left; subst x)
       | clear_value x)
    | with_reducible first | apply State.incReg_keeps
    | split
    | with_reducible exact Keeps.refl _
    | (with_reducible refine Keeps.mk ?_ rfl rfl rfl rfl rfl)

theorem State.post_keeps {s0 : State} (s : State) (r : ErrRecord) (kh : Keeps s0 s) : Keeps s0 (State.post s r) := by
  unfold State.post
  repeat' first
    | with_reducible first | assumption | intro _
    | with_reducible first | apply State.loseRec_keeps
    | split
    | with_reducible exact Keeps.refl _
    | (with_reducible refine Keeps.mk ?_ rfl rfl rfl rfl rfl)

theorem State.postC_keeps {s0 : State} (s : State) (c : Status) (src sub : Nat) (kh : Keeps s0 s) : Keeps s0 (State.postC s c src sub) := by
  unfold State.postC
  repeat' first
    | with_reducible first | assumption | intro _
    | with_reducible first | apply State.post_keeps
    | with_reducible exact Keeps.refl _

theorem State.draw_keeps {s0 : State} (s : State) (kh : Keeps s0 s) : Keeps s0 (State.draw s).2 := by
  unfold State.draw
  repeat' first
    | with_reducible first | assumption | intro _
    | with_reducible exact Keeps.refl _
    | (with_reducible refine Keeps.mk ?_ rfl rfl rfl rfl rfl)
theorem State.draw_keeps_e {s0 : State} {s : State} {x0 x1} (ke : (State.draw s) = (x0, x1)) (kh : Keeps s0 s) : Keeps s0 x1 := by
  have k := State.draw_keeps s kh
  rw [ke] at k
  exact k

theorem ok_keeps {s0 : State} (s : State) (kh : Keeps s0 s) : KeepsO s0 (ok s) := by
  unfold ok
  repeat' first
    | with_reducible first | assumption | intro _
    | with_reducible first | apply KeepsO.next
    | with_reducible exact Keeps.refl _

end Sys2Proof.Machine
end

