-- ==== Sys2Proof/Laws/KeepsAccess.lean ====
section
/-! SUPPORT. Every operation of Machine/Access.lean keeps the queue and the canonical form. -/

namespace Sys2Proof.Machine

theorem State.refuseAccess_keeps {s0 : State} (s : State) (m : Nat) (k : AccessKind) (a len : Nat) (kh : Keeps s0 s) : Keeps s0 (State.refuseAccess s m k a len) := by
  unfold State.refuseAccess
  repeat' first
    | with_reducible first | assumption | intro _
    | with_reducible first | apply State.post_keeps | apply State.incReg_keeps
    | split
    | with_reducible exact Keeps.refl _
    | (with_reducible refine Keeps.mk ?_ rfl rfl rfl rfl rfl)

end Sys2Proof.Machine
end

