-- ==== Sys2Proof/Laws/KeepsRecorder.lean ====
section
/-! SUPPORT. Every operation of Machine/Recorder.lean keeps the queue and the canonical form. -/

namespace Sys2Proof.Machine

theorem ringWrite_keeps {s0 : State} (base size : Nat) : ∀ (l : List Byte) (s : State) (pos : Nat), Keeps s0 s → Keeps s0 (ringWrite s base size pos l)
  | [], _, _, h => h
  | b :: r, s, pos, h => by
    unfold ringWrite
    exact ringWrite_keeps base size r _ _ (State.setByte_keeps _ _ h)

theorem sinkStore_keeps {s0 : State} : ∀ (k : Nat) (s : State) (off : Nat) (l : List Byte), Keeps s0 s → Keeps s0 (sinkStore s off k l)
  | 0, _, _, _, h => h
  | k + 1, s, off, l, h => by
    unfold sinkStore
    repeat' first
      | with_reducible first | assumption | intro _
      | (extract_lets +onlyGivenNames x
         first
         | (refine Keeps.via (x := x) ?_ fun kh1 => ?_; rotate_left; clear_value x; rotate_left; subst x)
         | clear_value x)
      | with_reducible first | apply sinkStore_keeps k | apply State.modEth_keeps
      | split
      | with_reducible exact Keeps.refl _
      | (with_reducible refine Keeps.mk ?_ rfl rfl rfl rfl rfl)

theorem State.recPut_keeps {s0 : State} (s : State) (r : RecItem) (kh : Keeps s0 s) : Keeps s0 (State.recPut s r) := by
  unfold State.recPut
  repeat' first
    | with_reducible first | assumption | intro _
    | (extract_lets +onlyGivenNames x
       first
       | (refine Keeps.via (x := x) ?_ fun kh1 => ?_; rotate_left; clear_value x; rotate_left; subst x)
       | clear_value x)
    | with_reducible first | apply sinkStore_keeps | apply ringWrite_keeps | apply State.setBit_keeps | apply State.setRegN_keeps
    | split
    | with_reducible exact Keeps.refl _
    | (with_reducible refine Keeps.mk ?_ rfl rfl rfl rfl rfl)

theorem State.recNew_keeps {s0 : State} (s : State) (typ src sub time : Nat) (data : List Byte) (kh : Keeps s0 s) : Keeps s0 (State.recNew s typ src sub time data).1 := by
  unfold State.recNew
  repeat' first
    | with_reducible first | assumption | intro _
    | (extract_lets +onlyGivenNames x
       first
       | (refine Keeps.via (x := x) ?_ fun kh1 => ?_; rotate_left; clear_value x; rotate_left; subst x)
       | clear_value x)
    | with_reducible first | apply State.draw_keeps
    | refine State.draw_keeps_e (by with_reducible assumption) ?_
    | with_reducible first | apply State.setRegN_keeps
    | split
    | with_reducible exact Keeps.refl _
theorem State.recNew_keeps_e {s0 : State} {s : State} {typ src sub time : Nat} {data : List Byte} {x0 x1} (ke : (State.recNew s typ src sub time data) = (x0, x1)) (kh : Keeps s0 s) : Keeps s0 x0 := by
  have k := State.recNew_keeps s typ src sub time data kh
  rw [ke] at k
  exact k

theorem State.recGap_keeps {s0 : State} (s : State) (kh : Keeps s0 s) : Keeps s0 (State.recGap s) := by
  unfold State.recGap
  repeat' first
    | with_reducible first | assumption | intro _
    | (extract_lets +onlyGivenNames x
       first
       | (refine Keeps.via (x := x) ?_ fun kh1 => ?_; rotate_left; clear_value x; rotate_left; subst x)
       | clear_value x)
    | with_reducible first | apply State.recNew_keeps
    | refine State.recNew_keeps_e (by with_reducible assumption) ?_
    | with_reducible first | apply State.recPut_keeps | apply State.postC_keeps
    | split
    | with_reducible exact Keeps.refl _
    | (with_reducible refine Keeps.mk ?_ rfl rfl rfl rfl rfl)

theorem State.recLose_keeps {s0 : State} (s : State) (seq : Nat) (kh : Keeps s0 s) : Keeps s0 (State.recLose s seq) := by
  unfold State.recLose
  repeat' first
    | with_reducible first | assumption | intro _
    | (extract_lets +onlyGivenNames x
       first
       | (refine Keeps.via (x := x) ?_ fun kh1 => ?_; rotate_left; clear_value x; rotate_left; subst x)
       | clear_value x)
    | with_reducible first | apply State.incReg_keeps | apply State.setBit_keeps
    | split
    | with_reducible exact Keeps.refl _
    | (with_reducible refine Keeps.mk ?_ rfl rfl rfl rfl rfl)

theorem State.recStore_keeps {s0 : State} (s : State) (typ src sub time : Nat) (data : List Byte) (kh : Keeps s0 s) : Keeps s0 (State.recStore s typ src sub time data) := by
  unfold State.recStore
  repeat' first
    | with_reducible first | assumption | intro _
    | (extract_lets +onlyGivenNames x
       first
       | (refine Keeps.via (x := x) ?_ fun kh1 => ?_; rotate_left; clear_value x; rotate_left; subst x)
       | clear_value x)
    | with_reducible first | apply State.recLose_keeps | apply State.recGap_keeps | apply State.recNew_keeps
    | refine State.recNew_keeps_e (by with_reducible assumption) ?_
    | with_reducible first | apply State.recPut_keeps | apply State.postC_keeps | apply State.setBit_keeps
    | split
    | with_reducible exact Keeps.refl _

theorem State.tap_keeps {s0 : State} (s : State) (typ : Nat) (cls : Option Nat) (src sub time : Nat) (data : List Byte) (kh : Keeps s0 s) : Keeps s0 (State.tap s typ cls src sub time data) := by
  unfold State.tap
  repeat' first
    | with_reducible first | assumption | intro _
    | with_reducible first | apply State.recStore_keeps
    | split
    | with_reducible exact Keeps.refl _

theorem State.streamIn_keeps {s0 : State} (s : State) (frame : List Byte) (kh : Keeps s0 s) : Keeps s0 (State.streamIn s frame) := by
  unfold State.streamIn
  repeat' first
    | with_reducible first | assumption | intro _
    | split
    | with_reducible exact Keeps.refl _
    | (with_reducible refine Keeps.mk ?_ rfl rfl rfl rfl rfl)

end Sys2Proof.Machine
end

