-- ==== Sys2Proof/Laws/KeepsBusOps.lean ====
section
/-! SUPPORT. Every operation of Machine/BusOps.lean keeps the queue and the canonical form. -/

namespace Sys2Proof.Machine

theorem State.answer_keeps {s0 : State} (s : State) (m : Nat) (data : List Byte) (poison : Bool) (kh : Keeps s0 s) : Keeps s0 (State.answer s m data poison) := by
  unfold State.answer
  repeat' first
    | with_reducible first | assumption | intro _
    | with_reducible exact Keeps.refl _
    | (with_reducible refine Keeps.mk ?_ rfl rfl rfl rfl rfl)

theorem State.errorReply_keeps {s0 : State} (s : State) (m : Nat) (c : Status) (data : List Byte) (kh : Keeps s0 s) : Keeps s0 (State.errorReply s m c data) := by
  unfold State.errorReply
  repeat' first
    | with_reducible first | assumption | intro _
    | with_reducible exact Keeps.refl _
    | (with_reducible refine Keeps.mk ?_ rfl rfl rfl rfl rfl)

theorem State.busFail_keeps {s0 : State} (s : State) (m : Nat) (k : AccessKind) (a len : Nat) (c : Status) (u : Nat) (kh : Keeps s0 s) : Keeps s0 (State.busFail s m k a len c u) := by
  unfold State.busFail
  repeat' first
    | with_reducible first | assumption | intro _
    | with_reducible first | apply State.errorReply_keeps | apply State.post_keeps
    | with_reducible exact Keeps.refl _

theorem State.busDeny_keeps {s0 : State} (s : State) (tab m : Nat) (k : AccessKind) (a len : Nat) (kh : Keeps s0 s) : Keeps s0 (State.busDeny s tab m k a len) := by
  unfold State.busDeny
  repeat' first
    | with_reducible first | assumption | intro _
    | with_reducible first | apply State.errorReply_keeps | apply State.post_keeps | apply State.incReg_keeps
    | with_reducible exact Keeps.refl _

theorem State.viaBus_keeps {s0 : State} (s : State) (m : Nat) (k : AccessKind) (a len : Nat) (f : State → State × Sum Status (List Byte × Bool)) (kh : Keeps s0 s) (hf : ∀ a0, Keeps s0 a0 → Keeps s0 (f a0).1) : Keeps s0 (State.viaBus s m k a len f) := by
  unfold State.viaBus
  repeat' first
    | with_reducible first | assumption | intro _
    | with_reducible first | apply hf
    | refine Keeps.pair1 (by with_reducible assumption) (hf _ ?_)
    | with_reducible first | apply State.busDeny_keeps | apply State.busFail_keeps | apply State.answer_keeps
    | split
    | with_reducible exact Keeps.refl _

theorem State.regBus_keeps {s0 : State} (s : State) (m a len : Nat) (f : State → State × Option Status) (kh : Keeps s0 s) (hf : ∀ a0, Keeps s0 a0 → Keeps s0 (f a0).1) : Keeps s0 (State.regBus s m a len f) := by
  unfold State.regBus
  repeat' first
    | with_reducible first | assumption | intro _
    | with_reducible first | apply hf
    | refine Keeps.pair1 (by with_reducible assumption) (hf _ ?_)
    | with_reducible first | apply State.viaBus_keeps
    | split
    | with_reducible exact Keeps.refl _

theorem accept_keeps {s0 : State} (s : State) (kh : Keeps s0 s) : Keeps s0 (accept s).1 := by
  unfold accept
  repeat' first
    | with_reducible first | assumption | intro _
    | with_reducible exact Keeps.refl _
theorem accept_keeps_e {s0 : State} {s : State} {x0 x1} (ke : (accept s) = (x0, x1)) (kh : Keeps s0 s) : Keeps s0 x0 := by
  have k := accept_keeps s kh
  rw [ke] at k
  exact k

theorem refuse_keeps {s0 : State} (s : State) (c : Status) (kh : Keeps s0 s) : Keeps s0 (refuse s c).1 := by
  unfold refuse
  repeat' first
    | with_reducible first | assumption | intro _
    | with_reducible exact Keeps.refl _
theorem refuse_keeps_e {s0 : State} {s : State} {c : Status} {x0 x1} (ke : (refuse s c) = (x0, x1)) (kh : Keeps s0 s) : Keeps s0 x0 := by
  have k := refuse_keeps s c kh
  rw [ke] at k
  exact k

end Sys2Proof.Machine
end

