-- ==== Sys2Proof/Laws/KeepsEgress.lean ====
section
/-! SUPPORT. Every operation of Machine/Egress.lean keeps the queue and the canonical form. -/

namespace Sys2Proof.Machine

theorem State.expressOn_keeps {s0 : State} (s : State) (x : Express) (p : Nat) (kh : Keeps s0 s) : Keeps s0 (State.expressOn s x p) := by
  unfold State.expressOn
  repeat' first
    | with_reducible first | assumption | intro _
    | (extract_lets +onlyGivenNames x
       first
       | (refine Keeps.via (x := x) ?_ fun kh1 => ?_; rotate_left; clear_value x; rotate_left; subst x)
       | clear_value x)
    | with_reducible first | apply State.postC_keeps | apply State.modEth_keeps | apply State.incReg_keeps
    | split
    | with_reducible exact Keeps.refl _
    | (with_reducible refine Keeps.mk ?_ rfl rfl rfl rfl rfl)

theorem State.express_keeps {s0 : State} (s : State) (tpl : Nat) (payload : List Byte) (notify : Bool) (kh : Keeps s0 s) : Keeps s0 (State.express s tpl payload notify) := by
  unfold State.express
  repeat' first
    | with_reducible first | assumption | intro _
    | (extract_lets +onlyGivenNames x
       first
       | (refine Keeps.via (x := x) ?_ fun kh1 => ?_; rotate_left; clear_value x; rotate_left; subst x)
       | clear_value x)
    | with_reducible first | apply State.expressOn_keeps | apply State.each_keeps | apply State.postC_keeps
    | split
    | with_reducible exact Keeps.refl _
    | (with_reducible refine Keeps.mk ?_ rfl rfl rfl rfl rfl)

theorem State.canPick_keeps {s0 : State} (s : State) (n : Nat) (kh : Keeps s0 s) : Keeps s0 (State.canPick s n) := by
  unfold State.canPick
  repeat' first
    | with_reducible first | assumption | intro _
    | with_reducible first | apply State.modCan_keeps
    | split
    | with_reducible exact Keeps.refl _
    | (with_reducible refine Keeps.mk ?_ rfl rfl rfl rfl rfl)

theorem State.canLoad_keeps {s0 : State} (s : State) (n i : Nat) (data : List Byte) (kh : Keeps s0 s) : Keeps s0 (State.canLoad s n i data) := by
  unfold State.canLoad
  repeat' first
    | with_reducible first | assumption | intro _
    | (extract_lets +onlyGivenNames x
       first
       | (refine Keeps.via (x := x) ?_ fun kh1 => ?_; rotate_left; clear_value x; rotate_left; subst x)
       | clear_value x)
    | with_reducible first | apply State.modCan_keeps | apply State.setBit_keeps
    | split
    | with_reducible exact Keeps.refl _
    | (with_reducible refine Keeps.mk ?_ rfl rfl rfl rfl rfl)

theorem State.canSend_keeps {s0 : State} (s : State) (n i : Nat) (payload : List Byte) (counter flags : Nat) (kh : Keeps s0 s) : Keeps s0 (State.canSend s n i payload counter flags) := by
  unfold State.canSend
  repeat' first
    | with_reducible first | assumption | intro _
    | (extract_lets +onlyGivenNames x
       first
       | (refine Keeps.via (x := x) ?_ fun kh1 => ?_; rotate_left; clear_value x; rotate_left; subst x)
       | clear_value x)
    | with_reducible first | apply State.canLoad_keeps | apply State.canPick_keeps | apply State.postC_keeps | apply State.modCan_keeps
    | split
    | with_reducible exact Keeps.refl _
    | (with_reducible refine Keeps.mk ?_ rfl rfl rfl rfl rfl)

end Sys2Proof.Machine
end

