-- ==== Sys2Proof/Laws/KeepsSafetyOps.lean ====
section
/-! SUPPORT. Every operation of Machine/SafetyOps.lean keeps the queue and the canonical form. -/

namespace Sys2Proof.Machine

theorem State.modSafety_keeps {s0 : State} (s : State) (f : Safety → Safety) (kh : Keeps s0 s) : Keeps s0 (State.modSafety s f) := by
  unfold State.modSafety
  repeat' first
    | with_reducible first | assumption | intro _
    | with_reducible exact Keeps.refl _
    | (with_reducible refine Keeps.mk ?_ rfl rfl rfl rfl rfl)

theorem State.notify_keeps {s0 : State} (s : State) (t st cause stream fseq : Nat) (kh : Keeps s0 s) : Keeps s0 (State.notify s t st cause stream fseq) := by
  unfold State.notify
  repeat' first
    | with_reducible first | assumption | intro _
    | (extract_lets +onlyGivenNames x
       first
       | (refine Keeps.via (x := x) ?_ fun kh1 => ?_; rotate_left; clear_value x; rotate_left; subst x)
       | clear_value x)
    | with_reducible first | apply State.canSend_keeps | apply State.express_keeps | apply State.draw_keeps
    | refine State.draw_keeps_e (by with_reducible assumption) ?_
    | with_reducible first | apply State.wrapReg_keeps
    | split
    | with_reducible exact Keeps.refl _

theorem State.showSafe_keeps {s0 : State} (s : State) (st : Nat) (kh : Keeps s0 s) : Keeps s0 (State.showSafe s st) := by
  unfold State.showSafe
  repeat' first
    | with_reducible first | assumption | intro _
    | (extract_lets +onlyGivenNames x
       first
       | (refine Keeps.via (x := x) ?_ fun kh1 => ?_; rotate_left; clear_value x; rotate_left; subst x)
       | clear_value x)
    | with_reducible first | apply State.setFld_keeps
    | split
    | with_reducible exact Keeps.refl _

theorem State.putAmber_keeps {s0 : State} (s : State) (k : Nat) (on : Bool) (kh : Keeps s0 s) : Keeps s0 (State.putAmber s k on) := by
  unfold State.putAmber
  repeat' first
    | with_reducible first | assumption | intro _
    | with_reducible first | apply State.modSafety_keeps
    | split
    | with_reducible exact Keeps.refl _
    | (with_reducible refine Keeps.mk ?_ rfl rfl rfl rfl rfl)

theorem State.holdAmber_keeps {s0 : State} (s : State) (k : Nat) (kh : Keeps s0 s) : Keeps s0 (State.holdAmber s k) := by
  unfold State.holdAmber
  repeat' first
    | with_reducible first | assumption | intro _
    | with_reducible first | apply State.putAmber_keeps | apply State.modSafety_keeps
    | with_reducible exact Keeps.refl _
    | (with_reducible refine Keeps.mk ?_ rfl rfl rfl rfl rfl)

theorem State.moveTo_keeps {s0 : State} (s : State) (st t : Nat) (quiet : Bool) (kh : Keeps s0 s) : Keeps s0 (State.moveTo s st t quiet) := by
  unfold State.moveTo
  repeat' first
    | with_reducible first | assumption | intro _
    | (extract_lets +onlyGivenNames x
       first
       | (refine Keeps.via (x := x) ?_ fun kh1 => ?_; rotate_left; clear_value x; rotate_left; subst x)
       | clear_value x)
    | with_reducible first | apply State.showSafe_keeps | apply State.notify_keeps | apply State.modSafety_keeps | apply State.post_keeps | apply State.setBit_keeps | apply State.setFld_keeps
    | split
    | with_reducible exact Keeps.refl _
    | (with_reducible refine Keeps.mk ?_ rfl rfl rfl rfl rfl)

theorem State.settle_keeps {s0 : State} (s : State) (quiet : Bool) (kh : Keeps s0 s) : Keeps s0 (State.settle s quiet) := by
  unfold State.settle
  repeat' first
    | with_reducible first | assumption | intro _
    | with_reducible first | apply State.moveTo_keeps | apply State.holdAmber_keeps | apply State.showSafe_keeps
    | split
    | with_reducible exact Keeps.refl _

theorem State.setAmber_keeps {s0 : State} (s : State) (k : Nat) (on : Bool) (kh : Keeps s0 s) : Keeps s0 (State.setAmber s k on) := by
  unfold State.setAmber
  repeat' first
    | with_reducible first | assumption | intro _
    | with_reducible first | apply State.settle_keeps | apply State.putAmber_keeps
    | with_reducible exact Keeps.refl _

theorem State.amberHold_keeps {s0 : State} (s : State) (k : Nat) (kh : Keeps s0 s) : Keeps s0 (State.amberHold s k) := by
  unfold State.amberHold
  repeat' first
    | with_reducible first | assumption | intro _
    | with_reducible first | apply State.settle_keeps | apply State.holdAmber_keeps
    | with_reducible exact Keeps.refl _

theorem State.crimson_keeps {s0 : State} (s : State) (cause : Nat) (stream : Option Nat) (fseq : Nat) (kh : Keeps s0 s) : Keeps s0 (State.crimson s cause stream fseq) := by
  unfold State.crimson
  repeat' first
    | with_reducible first | assumption | intro _
    | (extract_lets +onlyGivenNames x
       first
       | (refine Keeps.via (x := x) ?_ fun kh1 => ?_; rotate_left; clear_value x; rotate_left; subst x)
       | clear_value x)
    | with_reducible first | apply State.settle_keeps | apply State.notify_keeps | apply State.modSafety_keeps | apply State.incReg_keeps | apply State.setBit_keeps
    | split
    | with_reducible exact Keeps.refl _
    | (with_reducible refine Keeps.mk ?_ rfl rfl rfl rfl rfl)

theorem State.uncrimson_keeps {s0 : State} (s : State) (i : Nat) (kh : Keeps s0 s) : Keeps s0 (State.uncrimson s i) := by
  unfold State.uncrimson
  repeat' first
    | with_reducible first | assumption | intro _
    | (extract_lets +onlyGivenNames x
       first
       | (refine Keeps.via (x := x) ?_ fun kh1 => ?_; rotate_left; clear_value x; rotate_left; subst x)
       | clear_value x)
    | with_reducible first | apply State.crimson_keeps | apply State.settle_keeps | apply State.modSafety_keeps | apply State.setBit_keeps
    | split
    | with_reducible exact Keeps.refl _
    | (with_reducible refine Keeps.mk ?_ rfl rfl rfl rfl rfl)

theorem State.unlatch_keeps {s0 : State} (s : State) (cause : Nat) (kh : Keeps s0 s) : Keeps s0 (State.unlatch s cause) := by
  unfold State.unlatch
  repeat' first
    | with_reducible first | assumption | intro _
    | with_reducible first | apply State.settle_keeps | apply State.modSafety_keeps
    | with_reducible exact Keeps.refl _
    | (with_reducible refine Keeps.mk ?_ rfl rfl rfl rfl rfl)

theorem State.modFrz_keeps {s0 : State} (s : State) (f : Freeze → Freeze) (kh : Keeps s0 s) : Keeps s0 (State.modFrz s f) := by
  unfold State.modFrz
  repeat' first
    | with_reducible first | assumption | intro _
    | with_reducible exact Keeps.refl _
    | (with_reducible refine Keeps.mk ?_ rfl rfl rfl rfl rfl)

theorem State.freezeAt_keeps {s0 : State} (s : State) (src node f : Nat) (kh : Keeps s0 s) : Keeps s0 (State.freezeAt s src node f) := by
  unfold State.freezeAt
  repeat' first
    | with_reducible first | assumption | intro _
    | (extract_lets +onlyGivenNames x
       first
       | (refine Keeps.via (x := x) ?_ fun kh1 => ?_; rotate_left; clear_value x; rotate_left; subst x)
       | clear_value x)
    | with_reducible first | apply State.modFrz_keeps | apply State.postC_keeps | apply State.incReg_keeps | apply State.setBit_keeps | apply State.setRegN_keeps
    | split
    | with_reducible exact Keeps.refl _
    | (with_reducible refine Keeps.mk ?_ rfl rfl rfl rfl rfl)

theorem State.freezeReq_keeps {s0 : State} (s : State) (src : Nat) (enable : Option Nat) (t : Nat) (kh : Keeps s0 s) : Keeps s0 (State.freezeReq s src enable t) := by
  unfold State.freezeReq
  repeat' first
    | with_reducible first | assumption | intro _
    | with_reducible first | apply State.freezeAt_keeps
    | split
    | with_reducible exact Keeps.refl _

end Sys2Proof.Machine
end

