-- ==== Sys2Proof/Laws/KeepsTime.lean ====
section
/-! SUPPORT. Every operation of Machine/Time.lean keeps the queue and the canonical form. -/

namespace Sys2Proof.Machine

theorem State.advance_keeps {s0 : State} (s : State) (kh : Keeps s0 s) : Keeps s0 (State.advance s) := by
  unfold State.advance
  repeat' first
    | with_reducible first | assumption | intro _
    | split
    | with_reducible exact Keeps.refl _
    | (with_reducible refine Keeps.mk ?_ rfl rfl rfl rfl rfl)

theorem State.setRate_keeps {s0 : State} (s : State) (r : Int) (kh : Keeps s0 s) : Keeps s0 (State.setRate s r) := by
  unfold State.setRate
  repeat' first
    | with_reducible first | assumption | intro _
    | with_reducible first | apply State.setRegN_keeps
    | with_reducible exact Keeps.refl _

theorem actRate_keeps {s0 : State} (s : State) (v : Nat) (kh : Keeps s0 s) : Keeps s0 (actRate s v).1 := by
  unfold actRate
  repeat' first
    | with_reducible first | assumption | intro _
    | (extract_lets +onlyGivenNames x
       first
       | (refine Keeps.via (x := x) ?_ fun kh1 => ?_; rotate_left; clear_value x; rotate_left; subst x)
       | clear_value x)
    | with_reducible first | apply State.setRate_keeps | apply accept_keeps
    | refine accept_keeps_e (by with_reducible assumption) ?_
    | with_reducible first | apply State.postC_keeps
    | split
    | with_reducible exact Keeps.refl _
theorem actRate_keeps_e {s0 : State} {s : State} {v : Nat} {x0 x1} (ke : (actRate s v) = (x0, x1)) (kh : Keeps s0 s) : Keeps s0 x0 := by
  have k := actRate_keeps s v kh
  rw [ke] at k
  exact k

theorem State.stepTime_keeps {s0 : State} (s : State) (t : Nat) (kh : Keeps s0 s) : Keeps s0 (State.stepTime s t) := by
  unfold State.stepTime
  repeat' first
    | with_reducible first | assumption | intro _
    | with_reducible exact Keeps.refl _
    | (with_reducible refine Keeps.mk ?_ rfl rfl rfl rfl rfl)

theorem actStepGo_keeps {s0 : State} (s : State) (v : Nat) (kh : Keeps s0 s) : Keeps s0 (actStepGo s v).1 := by
  unfold actStepGo
  repeat' first
    | with_reducible first | assumption | intro _
    | with_reducible first | apply State.stepTime_keeps | apply refuse_keeps
    | refine refuse_keeps_e (by with_reducible assumption) ?_
    | with_reducible first | apply accept_keeps
    | refine accept_keeps_e (by with_reducible assumption) ?_
    | split
    | with_reducible exact Keeps.refl _
theorem actStepGo_keeps_e {s0 : State} {s : State} {v : Nat} {x0 x1} (ke : (actStepGo s v) = (x0, x1)) (kh : Keeps s0 s) : Keeps s0 x0 := by
  have k := actStepGo_keeps s v kh
  rw [ke] at k
  exact k

theorem State.latchTime_keeps {s0 : State} (s : State) (m : Nat) (kh : Keeps s0 s) : Keeps s0 (State.latchTime s m) := by
  unfold State.latchTime
  repeat' first
    | with_reducible first | assumption | intro _
    | (extract_lets +onlyGivenNames x
       first
       | (refine Keeps.via (x := x) ?_ fun kh1 => ?_; rotate_left; clear_value x; rotate_left; subst x)
       | clear_value x)
    | split
    | with_reducible exact Keeps.refl _
    | (with_reducible refine Keeps.mk ?_ rfl rfl rfl rfl rfl)

theorem execTwTimeLoRead_keeps {s0 : State} (m : Nat) (s : State) (kh : Keeps s0 s) : KeepsO s0 (execTwTimeLoRead m s) := by
  unfold execTwTimeLoRead
  repeat' first
    | with_reducible first | assumption | intro _
    | with_reducible first | apply State.latchTime_keeps | apply State.viaBus_keeps | apply KeepsO.next
    | with_reducible exact Keeps.refl _

theorem execTwStepGo_keeps {s0 : State} (m : Nat) (v : Dword) (s : State) (kh : Keeps s0 s) : KeepsO s0 (execTwStepGo m v s) := by
  unfold execTwStepGo
  repeat' first
    | with_reducible first | assumption | intro _
    | with_reducible first | apply actStepGo_keeps
    | refine actStepGo_keeps_e (by with_reducible assumption) ?_
    | with_reducible first | apply State.regBus_keeps | apply KeepsO.next
    | with_reducible exact Keeps.refl _

theorem execTwRateWrite_keeps {s0 : State} (m : Nat) (v : Dword) (s : State) (kh : Keeps s0 s) : KeepsO s0 (execTwRateWrite m v s) := by
  unfold execTwRateWrite
  repeat' first
    | with_reducible first | assumption | intro _
    | with_reducible first | apply actRate_keeps
    | refine actRate_keeps_e (by with_reducible assumption) ?_
    | with_reducible first | apply State.regBus_keeps | apply KeepsO.next
    | with_reducible exact Keeps.refl _

theorem State.servoTo_keeps {s0 : State} (s : State) (offset : Int) (kh : Keeps s0 s) : Keeps s0 (State.servoTo s offset) := by
  unfold State.servoTo
  repeat' first
    | with_reducible first | assumption | intro _
    | (extract_lets +onlyGivenNames x
       first
       | (refine Keeps.via (x := x) ?_ fun kh1 => ?_; rotate_left; clear_value x; rotate_left; subst x)
       | clear_value x)
    | with_reducible first | apply State.setRate_keeps | apply State.draw_keeps
    | refine State.draw_keeps_e (by with_reducible assumption) ?_
    | with_reducible first | apply State.postC_keeps | apply State.setBit_keeps
    | split
    | with_reducible exact Keeps.refl _
    | (with_reducible refine Keeps.mk ?_ rfl rfl rfl rfl rfl)

theorem execSyncReceived_keeps {s0 : State} (offset : Int) (s : State) (kh : Keeps s0 s) : KeepsO s0 (execSyncReceived offset s) := by
  unfold execSyncReceived
  repeat' first
    | with_reducible first | assumption | intro _
    | with_reducible first | apply State.servoTo_keeps | apply KeepsO.next
    | split
    | with_reducible exact Keeps.refl _

theorem State.enterHoldover_keeps {s0 : State} (s : State) (kh : Keeps s0 s) : Keeps s0 (State.enterHoldover s) := by
  unfold State.enterHoldover
  repeat' first
    | with_reducible first | assumption | intro _
    | (extract_lets +onlyGivenNames x
       first
       | (refine Keeps.via (x := x) ?_ fun kh1 => ?_; rotate_left; clear_value x; rotate_left; subst x)
       | clear_value x)
    | with_reducible first | apply State.postC_keeps | apply State.setBit_keeps
    | split
    | with_reducible exact Keeps.refl _
    | (with_reducible refine Keeps.mk ?_ rfl rfl rfl rfl rfl)

theorem State.leaveHoldover_keeps {s0 : State} (s : State) (kh : Keeps s0 s) : Keeps s0 (State.leaveHoldover s) := by
  unfold State.leaveHoldover
  repeat' first
    | with_reducible first | assumption | intro _
    | (extract_lets +onlyGivenNames x
       first
       | (refine Keeps.via (x := x) ?_ fun kh1 => ?_; rotate_left; clear_value x; rotate_left; subst x)
       | clear_value x)
    | with_reducible first | apply State.setAmber_keeps | apply State.postC_keeps | apply State.setBit_keeps
    | split
    | with_reducible exact Keeps.refl _
    | (with_reducible refine Keeps.mk ?_ rfl rfl rfl rfl rfl)

theorem execHoldoverEntry_keeps {s0 : State} (s : State) (kh : Keeps s0 s) : KeepsO s0 (execHoldoverEntry s) := by
  unfold execHoldoverEntry
  repeat' first
    | with_reducible first | assumption | intro _
    | with_reducible first | apply State.enterHoldover_keeps | apply KeepsO.next
    | split
    | with_reducible exact Keeps.refl _

theorem execHoldoverExit_keeps {s0 : State} (s : State) (kh : Keeps s0 s) : KeepsO s0 (execHoldoverExit s) := by
  unfold execHoldoverExit
  repeat' first
    | with_reducible first | assumption | intro _
    | with_reducible first | apply State.leaveHoldover_keeps | apply KeepsO.next
    | with_reducible exact Keeps.refl _

end Sys2Proof.Machine
end

