-- ==== Sys2Proof/Laws/KeepsHandoffOps.lean ====
section
/-! SUPPORT. Every operation of Machine/HandoffOps.lean keeps the queue and the canonical form. -/

namespace Sys2Proof.Machine

theorem State.setHoD_keeps {s0 : State} (s : State) (i k : Nat) (kh : Keeps s0 s) : Keeps s0 (State.setHoD s i k) := by
  unfold State.setHoD
  repeat' first
    | with_reducible first | assumption | intro _
    | with_reducible first | apply State.setFld_keeps
    | with_reducible exact Keeps.refl _

theorem State.hoTake_keeps {s0 : State} (s : State) (i k : Nat) (kh : Keeps s0 s) : Keeps s0 (State.hoTake s i k) := by
  unfold State.hoTake
  repeat' first
    | with_reducible first | assumption | intro _
    | (extract_lets +onlyGivenNames x
       first
       | (refine Keeps.via (x := x) ?_ fun kh1 => ?_; rotate_left; clear_value x; rotate_left; subst x)
       | clear_value x)
    | with_reducible first | apply State.modHo_keeps | apply State.setFld_keeps
    | split
    | with_reducible exact Keeps.refl _
    | (with_reducible refine Keeps.mk ?_ rfl rfl rfl rfl rfl)

theorem State.mirrorStart_keeps {s0 : State} (s : State) (c i k seq : Nat) (kh : Keeps s0 s) : Keeps s0 (State.mirrorStart s c i k seq) := by
  unfold State.mirrorStart
  repeat' first
    | with_reducible first | assumption | intro _
    | (extract_lets +onlyGivenNames x
       first
       | (refine Keeps.via (x := x) ?_ fun kh1 => ?_; rotate_left; clear_value x; rotate_left; subst x)
       | clear_value x)
    | with_reducible first | apply State.setHoD_keeps | apply State.setBit_keeps
    | split
    | with_reducible exact Keeps.refl _
    | (with_reducible refine Keeps.mk ?_ rfl rfl rfl rfl rfl)

theorem State.mirrorNotice_keeps {s0 : State} (s : State) (i k : Nat) (kh : Keeps s0 s) : Keeps s0 (State.mirrorNotice s i k) := by
  unfold State.mirrorNotice
  repeat' first
    | with_reducible first | assumption | intro _
    | (extract_lets +onlyGivenNames x
       first
       | (refine Keeps.via (x := x) ?_ fun kh1 => ?_; rotate_left; clear_value x; rotate_left; subst x)
       | clear_value x)
    | with_reducible first | apply State.mirrorStart_keeps | apply State.each_keeps | apply State.incFld_keeps
    | split
    | with_reducible exact Keeps.refl _
    | (with_reducible refine Keeps.mk ?_ rfl rfl rfl rfl rfl)

theorem State.publish_keeps {s0 : State} (s : State) (m i k : Nat) (kh : Keeps s0 s) : Keeps s0 (State.publish s m i k) := by
  unfold State.publish
  repeat' first
    | with_reducible first | assumption | intro _
    | with_reducible first | apply State.mirrorNotice_keeps | apply State.hoTake_keeps | apply State.post_keeps
    | split
    | with_reducible exact Keeps.refl _

theorem State.landWrite_keeps {s0 : State} : ∀ (l : List Stripe) (s : State) (pos : Nat) (data : List Byte) (p : Bool), Keeps s0 s → Keeps s0 (s.landWrite l pos data p)
  | [], _, _, _, _, h => h
  | st :: r, s, pos, data, p, h => by
    unfold State.landWrite
    repeat' first
      | with_reducible first | assumption | intro _
      | (extract_lets +onlyGivenNames x
         first
         | (refine Keeps.via (x := x) ?_ fun kh1 => ?_; rotate_left; clear_value x; rotate_left; subst x)
         | clear_value x)
      | with_reducible first | apply State.landWrite_keeps r | apply State.store_keeps
      | split
      | with_reducible exact Keeps.refl _

theorem State.bumpStale_keeps {s0 : State} (s : State) (i : Nat) (kh : Keeps s0 s) : Keeps s0 (State.bumpStale s i) := by
  unfold State.bumpStale
  repeat' first
    | with_reducible first | assumption | intro _
    | (extract_lets +onlyGivenNames x
       first
       | (refine Keeps.via (x := x) ?_ fun kh1 => ?_; rotate_left; clear_value x; rotate_left; subst x)
       | clear_value x)
    | with_reducible first | apply State.postC_keeps | apply State.incReg_keeps | apply State.incFld_keeps
    | split
    | with_reducible exact Keeps.refl _

theorem State.openWindow_keeps {s0 : State} (s : State) (i h : Nat) (k : Option Nat) (kh : Keeps s0 s) : Keeps s0 (State.openWindow s i h k) := by
  unfold State.openWindow
  repeat' first
    | with_reducible first | assumption | intro _
    | (extract_lets +onlyGivenNames x
       first
       | (refine Keeps.via (x := x) ?_ fun kh1 => ?_; rotate_left; clear_value x; rotate_left; subst x)
       | clear_value x)
    | with_reducible first | apply State.setHoD_keeps
    | split
    | with_reducible exact Keeps.refl _
    | (with_reducible refine Keeps.mk ?_ rfl rfl rfl rfl rfl)

theorem State.landWords_keeps {s0 : State} (l : List Stripe) : ∀ (v : List VReg) (s : State) (pos : Nat), Keeps s0 s → Keeps s0 (s.landWords l pos v)
  | [], _, _, h => h
  | v :: r, s, pos, h => by
    unfold State.landWords
    exact State.landWords_keeps l r _ _ (State.landWrite_keeps _ _ _ _ _ h)

theorem State.deliver_keeps {s0 : State} (s : State) (w : Window) (ws : Option (List VReg)) (st : StatusWord) (kh : Keeps s0 s) : Keeps s0 (State.deliver s w ws st) := by
  unfold State.deliver
  repeat' first
    | with_reducible first | assumption | intro _
    | (extract_lets +onlyGivenNames x
       first
       | (refine Keeps.via (x := x) ?_ fun kh1 => ?_; rotate_left; clear_value x; rotate_left; subst x)
       | clear_value x)
    | with_reducible first | apply State.landWords_keeps | apply State.landWrite_keeps | apply State.each_keeps | apply State.modPort_keeps
    | split
    | with_reducible exact Keeps.refl _

theorem State.closeBooks_keeps {s0 : State} (s : State) (i : Nat) (w : Window) (kh : Keeps s0 s) : Keeps s0 (State.closeBooks s i w) := by
  unfold State.closeBooks
  repeat' first
    | with_reducible first | assumption | intro _
    | (extract_lets +onlyGivenNames x
       first
       | (refine Keeps.via (x := x) ?_ fun kh1 => ?_; rotate_left; clear_value x; rotate_left; subst x)
       | clear_value x)
    | with_reducible first | apply State.bumpStale_keeps | apply State.setHoD_keeps | apply State.modHo_keeps | apply State.setFld_keeps | apply State.setRegN_keeps
    | split
    | with_reducible exact Keeps.refl _
    | (with_reducible refine Keeps.mk ?_ rfl rfl rfl rfl rfl)

theorem State.triggerStreams_keeps {s0 : State} (s : State) (i : Nat) (kh : Keeps s0 s) : Keeps s0 (State.triggerStreams s i) := by
  unfold State.triggerStreams
  repeat' first
    | with_reducible first | assumption | intro _
    | with_reducible first | apply State.each_keeps | apply State.modStream_keeps
    | with_reducible exact Keeps.refl _
    | (with_reducible refine Keeps.mk ?_ rfl rfl rfl rfl rfl)

theorem State.bindStep_keeps {s0 : State} (s : State) (i seq : Nat) (kh : Keeps s0 s) : Keeps s0 (State.bindStep s i seq) := by
  unfold State.bindStep
  repeat' first
    | with_reducible first | assumption | intro _
    | with_reducible first | apply State.each_keeps | apply State.modPool_keeps
    | split
    | with_reducible exact Keeps.refl _
    | (with_reducible refine Keeps.mk ?_ rfl rfl rfl rfl rfl)

theorem State.closeWindow_keeps {s0 : State} (s : State) (i : Nat) (w : Window) (kh : Keeps s0 s) : Keeps s0 (State.closeWindow s i w) := by
  unfold State.closeWindow
  repeat' first
    | with_reducible first | assumption | intro _
    | (extract_lets +onlyGivenNames x
       first
       | (refine Keeps.via (x := x) ?_ fun kh1 => ?_; rotate_left; clear_value x; rotate_left; subst x)
       | clear_value x)
    | with_reducible first | apply State.bindStep_keeps | apply State.triggerStreams_keeps | apply State.closeBooks_keeps | apply State.deliver_keeps | apply State.tap_keeps | apply State.draw_keeps
    | refine State.draw_keeps_e (by with_reducible assumption) ?_
    | split
    | with_reducible exact Keeps.refl _
    | (with_reducible refine Keeps.mk ?_ rfl rfl rfl rfl rfl)

theorem execHandoffWindowClose_keeps {s0 : State} (i : Nat) (s : State) (kh : Keeps s0 s) : KeepsO s0 (execHandoffWindowClose i s) := by
  unfold execHandoffWindowClose
  repeat' first
    | with_reducible first | assumption | intro _
    | with_reducible first | apply State.closeWindow_keeps | apply KeepsO.next
    | split
    | with_reducible exact Keeps.refl _

theorem execTwHoPublish_keeps {s0 : State} (m d slot : Nat) (s : State) (kh : Keeps s0 s) : KeepsO s0 (execTwHoPublish m d slot s) := by
  unfold execTwHoPublish
  repeat' first
    | with_reducible first | assumption | intro _
    | with_reducible first | apply State.publish_keeps | apply accept_keeps
    | refine accept_keeps_e (by with_reducible assumption) ?_
    | with_reducible first | apply State.regBus_keeps | apply KeepsO.next
    | with_reducible exact Keeps.refl _

end Sys2Proof.Machine
end

