-- ==== Sys2Proof/Laws/KeepsReplayOps.lean ====
section
/-! SUPPORT. Every operation of Machine/ReplayOps.lean keeps the queue and the canonical form. -/

namespace Sys2Proof.Machine

theorem State.halt_keeps {s0 : State} (s : State) (kh : Keeps s0 s) : Keeps s0 (State.halt s) := by
  unfold State.halt
  repeat' first
    | with_reducible first | assumption | intro _
    | with_reducible first | apply State.setBit_keeps
    | with_reducible exact Keeps.refl _

theorem State.replayStop_keeps {s0 : State} (s : State) (kh : Keeps s0 s) : Keeps s0 (State.replayStop s) := by
  unfold State.replayStop
  repeat' first
    | with_reducible first | assumption | intro _
    | with_reducible first | apply State.setFld_keeps
    | with_reducible exact Keeps.refl _

theorem State.diverge_keeps {s0 : State} (s : State) (seq expected actual cyc : Nat) (kh : Keeps s0 s) : Keeps s0 (State.diverge s seq expected actual cyc) := by
  unfold State.diverge
  repeat' first
    | with_reducible first | assumption | intro _
    | (extract_lets +onlyGivenNames x
       first
       | (refine Keeps.via (x := x) ?_ fun kh1 => ?_; rotate_left; clear_value x; rotate_left; subst x)
       | clear_value x)
    | with_reducible first | apply State.replayStop_keeps | apply State.halt_keeps | apply State.post_keeps | apply State.setBit_keeps | apply State.setRegN_keeps
    | split
    | with_reducible exact Keeps.refl _
    | (with_reducible refine Keeps.mk ?_ rfl rfl rfl rfl rfl)

theorem State.replayCompare_keeps {s0 : State} (s : State) (m : Option RecItem) (data : List Byte) (same : List Byte → List Byte → Bool) (pick : List Byte → Nat) (cyc : Nat) (kh : Keeps s0 s) : Keeps s0 (State.replayCompare s m data same pick cyc) := by
  unfold State.replayCompare
  repeat' first
    | with_reducible first | assumption | intro _
    | with_reducible first | apply State.diverge_keeps
    | split
    | with_reducible exact Keeps.refl _

theorem State.replayCheck_keeps {s0 : State} (s : State) (typ keyLen : Nat) (data : List Byte) (same : List Byte → List Byte → Bool) (pick : List Byte → Nat) (cyc : Nat) (kh : Keeps s0 s) : Keeps s0 (State.replayCheck s typ keyLen data same pick cyc) := by
  unfold State.replayCheck
  repeat' first
    | with_reducible first | assumption | intro _
    | with_reducible first | apply State.replayCompare_keeps
    | with_reducible exact Keeps.refl _

theorem State.replayCommit_keeps {s0 : State} (s : State) (i : Nat) (data : List Byte) (same : List Byte → List Byte → Bool) (pick : List Byte → Nat) (cyc : Nat) (kh : Keeps s0 s) : Keeps s0 (State.replayCommit s i data same pick cyc) := by
  unfold State.replayCommit
  repeat' first
    | with_reducible first | assumption | intro _
    | (extract_lets +onlyGivenNames x
       first
       | (refine Keeps.via (x := x) ?_ fun kh1 => ?_; rotate_left; clear_value x; rotate_left; subst x)
       | clear_value x)
    | with_reducible first | apply State.replayCompare_keeps
    | split
    | with_reducible exact Keeps.refl _
    | (with_reducible refine Keeps.mk ?_ rfl rfl rfl rfl rfl)

end Sys2Proof.Machine
end

