-- ==== Sys2Proof/Laws/KeepsCommitOps.lean ====
section
/-! SUPPORT. Every operation of Machine/CommitOps.lean keeps the queue and the canonical form. -/

namespace Sys2Proof.Machine

theorem State.putWords_keeps {s0 : State} : ∀ (l : List VReg) (s : State) (a : Nat), Keeps s0 s → Keeps s0 (s.putWords a l)
  | [], _, _, h => h
  | v :: r, s, a, h => by
    unfold State.putWords
    exact State.putWords_keeps r _ _ (State.setLine_keeps _ _ _ h)

theorem State.deadlineAt_keeps {s0 : State} (s : State) (i k : Nat) (kh : Keeps s0 s) : Keeps s0 (State.deadlineAt s i k).2.2 := by
  unfold State.deadlineAt
  repeat' first
    | with_reducible first | assumption | intro _
    | (extract_lets +onlyGivenNames x
       first
       | (refine Keeps.via (x := x) ?_ fun kh1 => ?_; rotate_left; clear_value x; rotate_left; subst x)
       | clear_value x)
    | with_reducible first | apply State.postC_keeps | apply State.modStream_keeps | apply State.setBit_keeps
    | split
    | with_reducible exact Keeps.refl _
    | (with_reducible refine Keeps.mk ?_ rfl rfl rfl rfl rfl)
theorem State.deadlineAt_keeps_e {s0 : State} {s : State} {i k : Nat} {x0 x1 x2} (ke : (State.deadlineAt s i k) = (x0, x1, x2)) (kh : Keeps s0 s) : Keeps s0 x2 := by
  have k := State.deadlineAt_keeps s i k kh
  rw [ke] at k
  exact k

theorem State.commitBooks_keeps {s0 : State} (s : State) (i k flags : Nat) (hdr : Option Nat) (kh : Keeps s0 s) : Keeps s0 (State.commitBooks s i k flags hdr) := by
  unfold State.commitBooks
  repeat' first
    | with_reducible first | assumption | intro _
    | (extract_lets +onlyGivenNames x
       first
       | (refine Keeps.via (x := x) ?_ fun kh1 => ?_; rotate_left; clear_value x; rotate_left; subst x)
       | clear_value x)
    | with_reducible first | apply State.modStream_keeps | apply State.incFld_keeps | apply State.setFld_keeps | apply State.setRegN_keeps
    | split
    | with_reducible exact Keeps.refl _
    | (with_reducible refine Keeps.mk ?_ rfl rfl rfl rfl rfl)

theorem State.outPublish_keeps {s0 : State} (s : State) (i : Nat) (kh : Keeps s0 s) : Keeps s0 (State.outPublish s i) := by
  unfold State.outPublish
  repeat' first
    | with_reducible first | assumption | intro _
    | (extract_lets +onlyGivenNames x
       first
       | (refine Keeps.via (x := x) ?_ fun kh1 => ?_; rotate_left; clear_value x; rotate_left; subst x)
       | clear_value x)
    | with_reducible first | apply State.publish_keeps
    | split
    | with_reducible exact Keeps.refl _

theorem State.fillSlot_keeps {s0 : State} (s : State) (i : Nat) (ws : Option (List VReg)) (kh : Keeps s0 s) : Keeps s0 (State.fillSlot s i ws) := by
  unfold State.fillSlot
  repeat' first
    | with_reducible first | assumption | intro _
    | with_reducible first | apply State.putWords_keeps
    | split
    | with_reducible exact Keeps.refl _

theorem State.putSeal_keeps {s0 : State} (s : State) (i : Nat) (head : List Byte) (kh : Keeps s0 s) : Keeps s0 (State.putSeal s i head) := by
  unfold State.putSeal
  repeat' first
    | with_reducible first | assumption | intro _
    | with_reducible first | apply State.setPoison_keeps | apply State.setBytes_keeps
    | split
    | with_reducible exact Keeps.refl _

theorem State.markCommit_keeps {s0 : State} (s : State) (i ca : Nat) (mark : List Byte) (kh : Keeps s0 s) : Keeps s0 (State.markCommit s i ca mark) := by
  unfold State.markCommit
  repeat' first
    | with_reducible first | assumption | intro _
    | with_reducible first | apply State.replayCommit_keeps | apply State.tap_keeps
    | with_reducible exact Keeps.refl _

theorem State.publishWith_keeps {s0 : State} (s : State) (i k flags ca cb : Nat) (isB : Bool) (h : Nat) (hdr : Option Nat) (ws : Option (List VReg)) (kh : Keeps s0 s) : Keeps s0 (State.publishWith s i k flags ca cb isB h hdr ws) := by
  unfold State.publishWith
  repeat' first
    | with_reducible first | assumption | intro _
    | (extract_lets +onlyGivenNames x
       first
       | (refine Keeps.via (x := x) ?_ fun kh1 => ?_; rotate_left; clear_value x; rotate_left; subst x)
       | clear_value x)
    | with_reducible first | apply State.markCommit_keeps | apply State.putSeal_keeps | apply State.fillSlot_keeps | apply State.outPublish_keeps | apply State.commitBooks_keeps | apply State.uncrimson_keeps
    | split
    | with_reducible exact Keeps.refl _

theorem State.publishCommit_keeps {s0 : State} (s : State) (i k flags ca cb : Nat) (isB : Bool) (hdr : Option Nat) (ws : Option (List VReg)) (kh : Keeps s0 s) : Keeps s0 (State.publishCommit s i k flags ca cb isB hdr ws) := by
  unfold State.publishCommit
  repeat' first
    | with_reducible first | assumption | intro _
    | with_reducible first | apply State.publishWith_keeps | apply State.draw_keeps
    | refine State.draw_keeps_e (by with_reducible assumption) ?_
    | split
    | with_reducible exact Keeps.refl _

theorem State.amberEvent_keeps {s0 : State} (s : State) (i : Nat) (kh : Keeps s0 s) : Keeps s0 (State.amberEvent s i) := by
  unfold State.amberEvent
  repeat' first
    | with_reducible first | assumption | intro _
    | with_reducible first | apply State.amberHold_keeps | apply State.incReg_keeps | apply State.incFld_keeps
    | with_reducible exact Keeps.refl _

theorem State.applyVerdict_keeps {s0 : State} (s : State) (i : Nat) (c : Commit) (v : Verdict) (kh : Keeps s0 s) : Keeps s0 (State.applyVerdict s i c v) := by
  unfold State.applyVerdict
  repeat' first
    | with_reducible first | assumption | intro _
    | (extract_lets +onlyGivenNames x
       first
       | (refine Keeps.via (x := x) ?_ fun kh1 => ?_; rotate_left; clear_value x; rotate_left; subst x)
       | clear_value x)
    | with_reducible first | apply State.amberEvent_keeps | apply State.publishCommit_keeps | apply State.deadlineAt_keeps
    | refine State.deadlineAt_keeps_e (by with_reducible assumption) ?_
    | with_reducible first | apply State.deliver_keeps | apply State.publish_keeps | apply State.crimson_keeps | apply State.postC_keeps | apply State.modStream_keeps | apply State.setBit_keeps
    | split
    | with_reducible exact Keeps.refl _
    | (with_reducible refine Keeps.mk ?_ rfl rfl rfl rfl rfl)

theorem State.decideCommit_keeps {s0 : State} (s : State) (i : Nat) (c : Commit) (partner : Option PartnerRec) (bound : Bool) (kh : Keeps s0 s) : Keeps s0 (State.decideCommit s i c partner bound) := by
  unfold State.decideCommit
  repeat' first
    | with_reducible first | assumption | intro _
    | (extract_lets +onlyGivenNames x
       first
       | (refine Keeps.via (x := x) ?_ fun kh1 => ?_; rotate_left; clear_value x; rotate_left; subst x)
       | clear_value x)
    | with_reducible first | apply State.applyVerdict_keeps
    | split
    | with_reducible exact Keeps.refl _

theorem State.startCommit_keeps {s0 : State} (s : State) (i : Nat) (kh : Keeps s0 s) : Keeps s0 (State.startCommit s i) := by
  unfold State.startCommit
  repeat' first
    | with_reducible first | assumption | intro _
    | (extract_lets +onlyGivenNames x
       first
       | (refine Keeps.via (x := x) ?_ fun kh1 => ?_; rotate_left; clear_value x; rotate_left; subst x)
       | clear_value x)
    | with_reducible first | apply State.decideCommit_keeps | apply State.modStream_keeps | apply State.setBit_keeps
    | split
    | with_reducible exact Keeps.refl _
    | (with_reducible refine Keeps.mk ?_ rfl rfl rfl rfl rfl)

theorem State.takeReport_keeps {s0 : State} (s : State) (i : Nat) (b : Bool) (c : CopyState) (kh : Keeps s0 s) : Keeps s0 (State.takeReport s i b c) := by
  unfold State.takeReport
  repeat' first
    | with_reducible first | assumption | intro _
    | (extract_lets +onlyGivenNames x
       first
       | (refine Keeps.via (x := x) ?_ fun kh1 => ?_; rotate_left; clear_value x; rotate_left; subst x)
       | clear_value x)
    | with_reducible first | apply State.startCommit_keeps | apply State.modStream_keeps
    | split
    | with_reducible exact Keeps.refl _
    | (with_reducible refine Keeps.mk ?_ rfl rfl rfl rfl rfl)

theorem State.reportCopy_keeps {s0 : State} (s : State) (i : Nat) (b : Bool) (c : CopyState) (kh : Keeps s0 s) : Keeps s0 (State.reportCopy s i b c) := by
  unfold State.reportCopy
  repeat' first
    | with_reducible first | assumption | intro _
    | with_reducible first | apply State.takeReport_keeps | apply State.postC_keeps | apply State.modStream_keeps
    | split
    | with_reducible exact Keeps.refl _
    | (with_reducible refine Keeps.mk ?_ rfl rfl rfl rfl rfl)

theorem State.reportJob_keeps {s0 : State} (s : State) (p j : Nat) (c : CopyState) (kh : Keeps s0 s) : Keeps s0 (State.reportJob s p j c) := by
  unfold State.reportJob
  repeat' first
    | with_reducible first | assumption | intro _
    | with_reducible first | apply State.reportCopy_keeps | apply State.each_keeps
    | with_reducible exact Keeps.refl _

theorem State.reportRefused_keeps {s0 : State} (s : State) (p j : Nat) (kh : Keeps s0 s) : Keeps s0 (State.reportRefused s p j) := by
  unfold State.reportRefused
  repeat' first
    | with_reducible first | assumption | intro _
    | with_reducible first | apply State.takeReport_keeps | apply State.each_keeps
    | with_reducible exact Keeps.refl _

theorem State.nextFrame_keeps {s0 : State} (s : State) (i : Nat) (kh : Keeps s0 s) : Keeps s0 (State.nextFrame s i) := by
  unfold State.nextFrame
  repeat' first
    | with_reducible first | assumption | intro _
    | with_reducible first | apply State.startCommit_keeps
    | split
    | with_reducible exact Keeps.refl _

theorem State.sendTwin_keeps {s0 : State} (s : State) (k i : Nat) (c : Commit) (kh : Keeps s0 s) : Keeps s0 (State.sendTwin s k i c) := by
  unfold State.sendTwin
  repeat' first
    | with_reducible first | assumption | intro _
    | (extract_lets +onlyGivenNames x
       first
       | (refine Keeps.via (x := x) ?_ fun kh1 => ?_; rotate_left; clear_value x; rotate_left; subst x)
       | clear_value x)
    | split
    | with_reducible exact Keeps.refl _
    | (with_reducible refine Keeps.mk ?_ rfl rfl rfl rfl rfl)

theorem execCommitDecision_keeps {s0 : State} (st : Nat) (s : State) (kh : Keeps s0 s) : KeepsO s0 (execCommitDecision st s) := by
  unfold execCommitDecision
  repeat' first
    | with_reducible first | assumption | intro _
    | (extract_lets +onlyGivenNames x
       first
       | (refine Keeps.via (x := x) ?_ fun kh1 => ?_; rotate_left; clear_value x; rotate_left; subst x)
       | (refine KeepsO.via (x := x) ?_ fun kh1 => ?_; rotate_left; clear_value x; rotate_left; subst x)
       | clear_value x)
    | with_reducible first | apply State.sendTwin_keeps | apply State.nextFrame_keeps | apply State.decideCommit_keeps | apply State.modStream_keeps | apply KeepsO.next
    | split
    | with_reducible exact Keeps.refl _
    | (with_reducible refine Keeps.mk ?_ rfl rfl rfl rfl rfl)

theorem execPartnerRecord_keeps {s0 : State} (k : Nat) (rec : PartnerRec) (s : State) (kh : Keeps s0 s) : KeepsO s0 (execPartnerRecord k rec s) := by
  unfold execPartnerRecord
  repeat' first
    | with_reducible first | assumption | intro _
    | (extract_lets +onlyGivenNames x
       first
       | (refine Keeps.via (x := x) ?_ fun kh1 => ?_; rotate_left; clear_value x; rotate_left; subst x)
       | (refine KeepsO.via (x := x) ?_ fun kh1 => ?_; rotate_left; clear_value x; rotate_left; subst x)
       | clear_value x)
    | with_reducible first | apply State.nextFrame_keeps | apply State.decideCommit_keeps | apply State.postC_keeps | apply State.modStream_keeps | apply State.incFld_keeps | apply KeepsO.next
    | split
    | with_reducible exact Keeps.refl _
    | (with_reducible refine Keeps.mk ?_ rfl rfl rfl rfl rfl)

theorem execTwinWaitExpiry_keeps {s0 : State} (k : Nat) (s : State) (kh : Keeps s0 s) : KeepsO s0 (execTwinWaitExpiry k s) := by
  unfold execTwinWaitExpiry
  repeat' first
    | with_reducible first | assumption | intro _
    | (extract_lets +onlyGivenNames x
       first
       | (refine Keeps.via (x := x) ?_ fun kh1 => ?_; rotate_left; clear_value x; rotate_left; subst x)
       | (refine KeepsO.via (x := x) ?_ fun kh1 => ?_; rotate_left; clear_value x; rotate_left; subst x)
       | clear_value x)
    | with_reducible first | apply State.nextFrame_keeps | apply State.decideCommit_keeps | apply State.postC_keeps | apply State.incFld_keeps | apply KeepsO.next
    | split
    | with_reducible exact Keeps.refl _
    | (with_reducible refine Keeps.mk ?_ rfl rfl rfl rfl rfl)

theorem execRereadDone_keeps {s0 : State} (st : Nat) (s : State) (kh : Keeps s0 s) : KeepsO s0 (execRereadDone st s) := by
  unfold execRereadDone
  repeat' first
    | with_reducible first | assumption | intro _
    | (extract_lets +onlyGivenNames x
       first
       | (refine Keeps.via (x := x) ?_ fun kh1 => ?_; rotate_left; clear_value x; rotate_left; subst x)
       | (refine KeepsO.via (x := x) ?_ fun kh1 => ?_; rotate_left; clear_value x; rotate_left; subst x)
       | clear_value x)
    | with_reducible first | apply State.nextFrame_keeps | apply State.publishCommit_keeps | apply State.modStream_keeps | apply State.setBit_keeps | apply KeepsO.next
    | split
    | with_reducible exact Keeps.refl _
    | (with_reducible refine Keeps.mk ?_ rfl rfl rfl rfl rfl)

theorem execPairWaitExpiry_keeps {s0 : State} (st : Nat) (s : State) (kh : Keeps s0 s) : KeepsO s0 (execPairWaitExpiry st s) := by
  unfold execPairWaitExpiry
  repeat' first
    | with_reducible first | assumption | intro _
    | (extract_lets +onlyGivenNames x
       first
       | (refine Keeps.via (x := x) ?_ fun kh1 => ?_; rotate_left; clear_value x; rotate_left; subst x)
       | (refine KeepsO.via (x := x) ?_ fun kh1 => ?_; rotate_left; clear_value x; rotate_left; subst x)
       | clear_value x)
    | with_reducible first | apply State.startCommit_keeps | apply KeepsO.next
    | split
    | with_reducible exact Keeps.refl _

theorem execDeadlineExpiry_keeps {s0 : State} (st : Nat) (s : State) (kh : Keeps s0 s) : KeepsO s0 (execDeadlineExpiry st s) := by
  unfold execDeadlineExpiry
  repeat' first
    | with_reducible first | assumption | intro _
    | (extract_lets +onlyGivenNames x
       first
       | (refine Keeps.via (x := x) ?_ fun kh1 => ?_; rotate_left; clear_value x; rotate_left; subst x)
       | (refine KeepsO.via (x := x) ?_ fun kh1 => ?_; rotate_left; clear_value x; rotate_left; subst x)
       | clear_value x)
    | with_reducible first | apply State.crimson_keeps | apply State.postC_keeps | apply State.modStream_keeps | apply State.setBit_keeps | apply KeepsO.next
    | split
    | with_reducible exact Keeps.refl _
    | (with_reducible refine Keeps.mk ?_ rfl rfl rfl rfl rfl)

end Sys2Proof.Machine
end

