-- ==== Sys2Proof/Laws/KeepsKvOps.lean ====
section
/-! SUPPORT. Every operation of Machine/KvOps.lean keeps the queue and the canonical form. -/

namespace Sys2Proof.Machine

theorem State.showFree_keeps {s0 : State} (s : State) (p : Nat) (kh : Keeps s0 s) : Keeps s0 (State.showFree s p) := by
  unfold State.showFree
  repeat' first
    | with_reducible first | assumption | intro _
    | with_reducible first | apply State.setRegN_keeps
    | with_reducible exact Keeps.refl _

theorem State.showCtxCount_keeps {s0 : State} (s : State) (kh : Keeps s0 s) : Keeps s0 (State.showCtxCount s) := by
  unfold State.showCtxCount
  repeat' first
    | with_reducible first | assumption | intro _
    | with_reducible first | apply State.setRegN_keeps
    | with_reducible exact Keeps.refl _

theorem State.kvClose_keeps {s0 : State} (s : State) (p : Nat) (st : KvStep) (kh : Keeps s0 s) : Keeps s0 (State.kvClose s p st) := by
  unfold State.kvClose
  repeat' first
    | with_reducible first | assumption | intro _
    | (extract_lets +onlyGivenNames x
       first
       | (refine Keeps.via (x := x) ?_ fun kh1 => ?_; rotate_left; clear_value x; rotate_left; subst x)
       | clear_value x)
    | with_reducible first | apply State.showCtxCount_keeps | apply State.showFree_keeps | apply State.modPool_keeps | apply State.addReg_keeps | apply State.setRegN_keeps
    | split
    | with_reducible exact Keeps.refl _
    | (with_reducible refine Keeps.mk ?_ rfl rfl rfl rfl rfl)

theorem State.postPool_keeps {s0 : State} (s : State) (c : Status) (p step : Nat) (kh : Keeps s0 s) : Keeps s0 (State.postPool s c p step) := by
  unfold State.postPool
  repeat' first
    | with_reducible first | assumption | intro _
    | with_reducible first | apply State.post_keeps
    | with_reducible exact Keeps.refl _
    | (with_reducible refine Keeps.mk ?_ rfl rfl rfl rfl rfl)

theorem State.kvRollback_keeps {s0 : State} (s : State) (p : Nat) (st : KvStep) (kh : Keeps s0 s) : Keeps s0 (State.kvRollback s p st) := by
  unfold State.kvRollback
  repeat' first
    | with_reducible first | assumption | intro _
    | (extract_lets +onlyGivenNames x
       first
       | (refine Keeps.via (x := x) ?_ fun kh1 => ?_; rotate_left; clear_value x; rotate_left; subst x)
       | clear_value x)
    | with_reducible first | apply State.postPool_keeps | apply State.showCtxCount_keeps | apply State.showFree_keeps | apply State.modPool_keeps | apply State.incReg_keeps | apply State.setBit_keeps
    | split
    | with_reducible exact Keeps.refl _
    | (with_reducible refine Keeps.mk ?_ rfl rfl rfl rfl rfl)

theorem State.kvDiverge_keeps {s0 : State} (s : State) (p step : Nat) (kh : Keeps s0 s) : Keeps s0 (State.kvDiverge s p step) := by
  unfold State.kvDiverge
  repeat' first
    | with_reducible first | assumption | intro _
    | with_reducible first | apply State.postPool_keeps | apply State.setAmber_keeps | apply State.setBit_keeps
    | with_reducible exact Keeps.refl _

theorem State.kvSettle_keeps {s0 : State} (s : State) (p : Nat) (kh : Keeps s0 s) : Keeps s0 (State.kvSettle s p) := by
  unfold State.kvSettle
  repeat' first
    | with_reducible first | assumption | intro _
    | with_reducible first | apply State.kvDiverge_keeps | apply State.kvRollback_keeps | apply State.kvClose_keeps | apply State.modPool_keeps
    | split
    | with_reducible exact Keeps.refl _
    | (with_reducible refine Keeps.mk ?_ rfl rfl rfl rfl rfl)

theorem State.kvLaunch_keeps {s0 : State} (s : State) (p j : Nat) (kh : Keeps s0 s) : Keeps s0 (State.kvLaunch s p j) := by
  unfold State.kvLaunch
  repeat' first
    | with_reducible first | assumption | intro _
    | with_reducible first | apply State.each_keeps | apply State.modPool_keeps
    | split
    | with_reducible exact Keeps.refl _
    | (with_reducible refine Keeps.mk ?_ rfl rfl rfl rfl rfl)

theorem State.kvJobEnds_keeps {s0 : State} (s : State) (p j how : Nat) (kh : Keeps s0 s) : Keeps s0 (State.kvJobEnds s p j how) := by
  unfold State.kvJobEnds
  repeat' first
    | with_reducible first | assumption | intro _
    | with_reducible first | apply State.kvSettle_keeps | apply State.each_keeps | apply State.modPool_keeps
    | split
    | with_reducible exact Keeps.refl _
    | (with_reducible refine Keeps.mk ?_ rfl rfl rfl rfl rfl)

end Sys2Proof.Machine
end

