-- ==== Sys2Proof/Laws/KeepsWheelOps.lean ====
section
/-! SUPPORT. Every operation of Machine/WheelOps.lean keeps the queue and the canonical form. -/

namespace Sys2Proof.Machine

theorem State.targetGone_keeps {s0 : State} (s : State) (d : Due) (kh : Keeps s0 s) : Keeps s0 (State.targetGone s d) := by
  unfold State.targetGone
  repeat' first
    | with_reducible first | assumption | intro _
    | with_reducible first | apply State.post_keeps
    | with_reducible exact Keeps.refl _

theorem State.targetGoneIn_keeps {s0 : State} (s : State) (d : Due) (p : Nat) (kh : Keeps s0 s) : Keeps s0 (State.targetGoneIn s d p) := by
  unfold State.targetGoneIn
  repeat' first
    | with_reducible first | assumption | intro _
    | with_reducible first | apply State.post_keeps
    | with_reducible exact Keeps.refl _

theorem State.markTaken_keeps {s0 : State} (s : State) (d : Due) (wasDelayed : Bool) (kh : Keeps s0 s) : Keeps s0 (State.markTaken s d wasDelayed) := by
  unfold State.markTaken
  repeat' first
    | with_reducible first | assumption | intro _
    | with_reducible first | apply State.modWheel_keeps
    | split
    | with_reducible exact Keeps.refl _
    | (with_reducible refine Keeps.mk ?_ rfl rfl rfl rfl rfl)

theorem State.delayEntry_keeps {s0 : State} (s : State) (d : Due) (wasDelayed : Bool) (kh : Keeps s0 s) : Keeps s0 (State.delayEntry s d wasDelayed) := by
  unfold State.delayEntry
  repeat' first
    | with_reducible first | assumption | intro _
    | (extract_lets +onlyGivenNames x
       first
       | (refine Keeps.via (x := x) ?_ fun kh1 => ?_; rotate_left; clear_value x; rotate_left; subst x)
       | clear_value x)
    | with_reducible first | apply State.markTaken_keeps | apply State.post_keeps | apply State.incReg_keeps
    | split
    | with_reducible exact Keeps.refl _
    | (with_reducible refine Keeps.mk ?_ rfl rfl rfl rfl rfl)

theorem State.takeEntry_keeps {s0 : State} (s : State) (w e edge action lead : Nat) (kh : Keeps s0 s) : Keeps s0 (State.takeEntry s w e edge action lead).2 := by
  unfold State.takeEntry
  repeat' first
    | with_reducible first | assumption | intro _
    | (extract_lets +onlyGivenNames x
       first
       | (refine Keeps.via (x := x) ?_ fun kh1 => ?_; rotate_left; clear_value x; rotate_left; subst x)
       | clear_value x)
    | with_reducible first | apply State.delayEntry_keeps | apply State.markTaken_keeps
    | split
    | with_reducible exact Keeps.refl _
    | (with_reducible refine Keeps.mk ?_ rfl rfl rfl rfl rfl)
theorem State.takeEntry_keeps_e {s0 : State} {s : State} {w e edge action lead : Nat} {x0 x1} (ke : (State.takeEntry s w e edge action lead) = (x0, x1)) (kh : Keeps s0 s) : Keeps s0 x1 := by
  have k := State.takeEntry_keeps s w e edge action lead kh
  rw [ke] at k
  exact k

theorem State.onEntry_keeps {s0 : State} (s : State) (w e edge action lead : Nat) (f : State → Due → State) (kh : Keeps s0 s) (hf : ∀ a0 a1, Keeps s0 a0 → Keeps s0 (f a0 a1)) : Keeps s0 (State.onEntry s w e edge action lead f) := by
  unfold State.onEntry
  repeat' first
    | with_reducible first | assumption | intro _
    | with_reducible first | apply hf | apply State.takeEntry_keeps
    | refine State.takeEntry_keeps_e (by with_reducible assumption) ?_
    | split
    | with_reducible exact Keeps.refl _

theorem State.unitServed_keeps {s0 : State} (s : State) (u : Nat) (kh : Keeps s0 s) : Keeps s0 (State.unitServed s u) := by
  unfold State.unitServed
  repeat' first
    | with_reducible first | assumption | intro _
    | with_reducible exact Keeps.refl _
    | (with_reducible refine Keeps.mk ?_ rfl rfl rfl rfl rfl)

theorem State.ifPowered_keeps {s0 : State} (s : State) (u : Nat) (f : State → State) (kh : Keeps s0 s) (hf : ∀ a0, Keeps s0 a0 → Keeps s0 (f a0)) : Keeps s0 (State.ifPowered s u f) := by
  unfold State.ifPowered
  repeat' first
    | with_reducible first | assumption | intro _
    | with_reducible first | apply hf | apply State.unitServed_keeps | apply State.postC_keeps
    | split
    | with_reducible exact Keeps.refl _
    | (with_reducible refine Keeps.mk ?_ rfl rfl rfl rfl rfl)

theorem State.swapBank_keeps {s0 : State} (s : State) (w : Nat) (kh : Keeps s0 s) : Keeps s0 (State.swapBank s w) := by
  unfold State.swapBank
  repeat' first
    | with_reducible first | assumption | intro _
    | (extract_lets +onlyGivenNames x
       first
       | (refine Keeps.via (x := x) ?_ fun kh1 => ?_; rotate_left; clear_value x; rotate_left; subst x)
       | clear_value x)
    | with_reducible first | apply State.modWheel_keeps | apply State.setBit_keeps | apply State.setFld_keeps
    | split
    | with_reducible exact Keeps.refl _
    | (with_reducible refine Keeps.mk ?_ rfl rfl rfl rfl rfl)

theorem State.showAny_keeps {s0 : State} (s : State) (kh : Keeps s0 s) : Keeps s0 (State.showAny s) := by
  unfold State.showAny
  repeat' first
    | with_reducible first | assumption | intro _
    | with_reducible first | apply State.setBit_keeps
    | with_reducible exact Keeps.refl _

theorem State.passBoundary_keeps {s0 : State} (s : State) (w b : Nat) (kh : Keeps s0 s) : Keeps s0 (State.passBoundary s w b) := by
  unfold State.passBoundary
  repeat' first
    | with_reducible first | assumption | intro _
    | (extract_lets +onlyGivenNames x
       first
       | (refine Keeps.via (x := x) ?_ fun kh1 => ?_; rotate_left; clear_value x; rotate_left; subst x)
       | clear_value x)
    | with_reducible first | apply State.showAny_keeps | apply State.swapBank_keeps | apply State.modWheel_keeps | apply State.wrapReg_keeps | apply State.setBit_keeps | apply State.setRegN_keeps
    | split
    | with_reducible exact Keeps.refl _
    | (with_reducible refine Keeps.mk ?_ rfl rfl rfl rfl rfl)

theorem execWheelPeriodBoundary_keeps {s0 : State} (w : Nat) (s : State) (kh : Keeps s0 s) : KeepsO s0 (execWheelPeriodBoundary w s) := by
  unfold execWheelPeriodBoundary
  repeat' first
    | with_reducible first | assumption | intro _
    | with_reducible first | apply State.passBoundary_keeps | apply KeepsO.next
    | split
    | with_reducible exact Keeps.refl _

theorem actWheelBase_keeps {s0 : State} (w : Nat) (s : State) (v : Nat) (kh : Keeps s0 s) : Keeps s0 (actWheelBase w s v).1 := by
  unfold actWheelBase
  repeat' first
    | with_reducible first | assumption | intro _
    | with_reducible first | apply refuse_keeps
    | refine refuse_keeps_e (by with_reducible assumption) ?_
    | with_reducible first | apply accept_keeps
    | refine accept_keeps_e (by with_reducible assumption) ?_
    | with_reducible first | apply State.setRegN_keeps
    | split
    | with_reducible exact Keeps.refl _
theorem actWheelBase_keeps_e {s0 : State} {w : Nat} {s : State} {v : Nat} {x0 x1} (ke : (actWheelBase w s v) = (x0, x1)) (kh : Keeps s0 s) : Keeps s0 x0 := by
  have k := actWheelBase_keeps w s v kh
  rw [ke] at k
  exact k

theorem execTwWnBaseWrite_keeps {s0 : State} (m w : Nat) (v : Dword) (s : State) (kh : Keeps s0 s) : KeepsO s0 (execTwWnBaseWrite m w v s) := by
  unfold execTwWnBaseWrite
  repeat' first
    | with_reducible first | assumption | intro _
    | with_reducible first | apply actWheelBase_keeps
    | refine actWheelBase_keeps_e (by with_reducible assumption) ?_
    | with_reducible first | apply State.regBus_keeps | apply KeepsO.next
    | with_reducible exact Keeps.refl _

theorem State.wheelEnable_keeps {s0 : State} (s : State) (w base : Nat) (kh : Keeps s0 s) : Keeps s0 (State.wheelEnable s w base).1 := by
  unfold State.wheelEnable
  repeat' first
    | with_reducible first | assumption | intro _
    | (extract_lets +onlyGivenNames x
       first
       | (refine Keeps.via (x := x) ?_ fun kh1 => ?_; rotate_left; clear_value x; rotate_left; subst x)
       | clear_value x)
    | with_reducible first | apply State.showAny_keeps | apply State.modWheel_keeps | apply State.setBit_keeps | apply State.setRegN_keeps
    | split
    | with_reducible exact Keeps.refl _
    | (with_reducible refine Keeps.mk ?_ rfl rfl rfl rfl rfl)
theorem State.wheelEnable_keeps_e {s0 : State} {s : State} {w base : Nat} {x0 x1 x2} (ke : (State.wheelEnable s w base) = (x0, x1, x2)) (kh : Keeps s0 s) : Keeps s0 x0 := by
  have k := State.wheelEnable_keeps s w base kh
  rw [ke] at k
  exact k

theorem State.wheelDisable_keeps {s0 : State} (s : State) (w : Nat) (kh : Keeps s0 s) : Keeps s0 (State.wheelDisable s w).1 := by
  unfold State.wheelDisable
  repeat' first
    | with_reducible first | assumption | intro _
    | (extract_lets +onlyGivenNames x
       first
       | (refine Keeps.via (x := x) ?_ fun kh1 => ?_; rotate_left; clear_value x; rotate_left; subst x)
       | clear_value x)
    | with_reducible first | apply State.modWheel_keeps
    | split
    | with_reducible exact Keeps.refl _
    | (with_reducible refine Keeps.mk ?_ rfl rfl rfl rfl rfl)
theorem State.wheelDisable_keeps_e {s0 : State} {s : State} {w : Nat} {x0 x1 x2} (ke : (State.wheelDisable s w) = (x0, x1, x2)) (kh : Keeps s0 s) : Keeps s0 x0 := by
  have k := State.wheelDisable_keeps s w kh
  rw [ke] at k
  exact k

theorem State.wheelSwap_keeps {s0 : State} (s : State) (w : Nat) (kh : Keeps s0 s) : Keeps s0 (State.wheelSwap s w).1 := by
  unfold State.wheelSwap
  repeat' first
    | with_reducible first | assumption | intro _
    | (extract_lets +onlyGivenNames x
       first
       | (refine Keeps.via (x := x) ?_ fun kh1 => ?_; rotate_left; clear_value x; rotate_left; subst x)
       | clear_value x)
    | with_reducible first | apply State.swapBank_keeps | apply State.modWheel_keeps | apply State.setBit_keeps
    | split
    | with_reducible exact Keeps.refl _
    | (with_reducible refine Keeps.mk ?_ rfl rfl rfl rfl rfl)
theorem State.wheelSwap_keeps_e {s0 : State} {s : State} {w : Nat} {x0 x1 x2} (ke : (State.wheelSwap s w) = (x0, x1, x2)) (kh : Keeps s0 s) : Keeps s0 x0 := by
  have k := State.wheelSwap_keeps s w kh
  rw [ke] at k
  exact k

theorem actWheelCtrl_keeps {s0 : State} (w : Nat) (s : State) (v : Nat) (kh : Keeps s0 s) : Keeps s0 (actWheelCtrl w s v).1 := by
  unfold actWheelCtrl
  have h1 : Keeps s0 (if v % 2 = 1 then s.wheelEnable w (s.regN (R.TW_W_BASE w)) else s.wheelDisable w).1 := by
    repeat' first
      | with_reducible first | assumption | intro _
      | (extract_lets +onlyGivenNames x
         first
         | (refine Keeps.via (x := x) ?_ fun kh1 => ?_; rotate_left; clear_value x; rotate_left; subst x)
         | clear_value x)
      | exact kh
      | exact h1
      | with_reducible first | apply State.wheelSwap_keeps
      | refine State.wheelSwap_keeps_e (by with_reducible assumption) ?_
      | with_reducible first | apply State.wheelDisable_keeps
      | refine State.wheelDisable_keeps_e (by with_reducible assumption) ?_
      | with_reducible first | apply State.wheelEnable_keeps
      | refine State.wheelEnable_keeps_e (by with_reducible assumption) ?_
      | with_reducible first | apply refuse_keeps
      | refine refuse_keeps_e (by with_reducible assumption) ?_
      | with_reducible first | apply accept_keeps
      | refine accept_keeps_e (by with_reducible assumption) ?_
      | split
      | with_reducible exact Keeps.refl _
  generalize (if v % 2 = 1 then s.wheelEnable w (s.regN (R.TW_W_BASE w)) else s.wheelDisable w) = x at h1 ⊢
  obtain ⟨s1, c1, n1⟩ := x
  dsimp only at h1 ⊢
  repeat' first
    | with_reducible first | assumption | intro _
    | (extract_lets +onlyGivenNames x
       first
       | (refine Keeps.via (x := x) ?_ fun kh1 => ?_; rotate_left; clear_value x; rotate_left; subst x)
       | clear_value x)
    | exact kh
    | exact h1
    | with_reducible first | apply State.wheelSwap_keeps
    | refine State.wheelSwap_keeps_e (by with_reducible assumption) ?_
    | with_reducible first | apply State.wheelDisable_keeps
    | refine State.wheelDisable_keeps_e (by with_reducible assumption) ?_
    | with_reducible first | apply State.wheelEnable_keeps
    | refine State.wheelEnable_keeps_e (by with_reducible assumption) ?_
    | with_reducible first | apply refuse_keeps
    | refine refuse_keeps_e (by with_reducible assumption) ?_
    | with_reducible first | apply accept_keeps
    | refine accept_keeps_e (by with_reducible assumption) ?_
    | split
    | with_reducible exact Keeps.refl _
theorem actWheelCtrl_keeps_e {s0 s t : State} {w v : Nat} {c : Option Status} (ke : actWheelCtrl w s v = (t, c)) (kh : Keeps s0 s) : Keeps s0 t := by
  have k := actWheelCtrl_keeps w s v kh
  rw [ke] at k
  exact k

theorem execWheelNop_keeps {s0 : State} (w e edge : Nat) (s : State) (kh : Keeps s0 s) : KeepsO s0 (execWheelNop w e edge s) := by
  unfold execWheelNop
  repeat' first
    | with_reducible first | assumption | intro _
    | with_reducible first | apply State.onEntry_keeps | apply KeepsO.next
    | with_reducible exact Keeps.refl _

theorem execNotify_keeps {s0 : State} (w e edge : Nat) (s : State) (kh : Keeps s0 s) : KeepsO s0 (execNotify w e edge s) := by
  unfold execNotify
  repeat' first
    | with_reducible first | assumption | intro _
    | with_reducible first | apply State.onEntry_keeps | apply KeepsO.next
    | with_reducible exact Keeps.refl _
    | (with_reducible refine Keeps.mk ?_ rfl rfl rfl rfl rfl)

theorem execFreeze_keeps {s0 : State} (w e edge : Nat) (s : State) (kh : Keeps s0 s) : KeepsO s0 (execFreeze w e edge s) := by
  unfold execFreeze
  repeat' first
    | with_reducible first | assumption | intro _
    | with_reducible first | apply State.onEntry_keeps | apply State.freezeReq_keeps | apply KeepsO.next
    | with_reducible exact Keeps.refl _

theorem State.armDeadline_keeps {s0 : State} (s : State) (d : Due) (kh : Keeps s0 s) : Keeps s0 (State.armDeadline s d) := by
  unfold State.armDeadline
  repeat' first
    | with_reducible first | assumption | intro _
    | (extract_lets +onlyGivenNames x
       first
       | (refine Keeps.via (x := x) ?_ fun kh1 => ?_; rotate_left; clear_value x; rotate_left; subst x)
       | clear_value x)
    | with_reducible first | apply State.postC_keeps | apply State.setBit_keeps | apply State.setRegN_keeps
    | split
    | with_reducible exact Keeps.refl _

theorem execDeadline_keeps {s0 : State} (w e edge : Nat) (s : State) (kh : Keeps s0 s) : KeepsO s0 (execDeadline w e edge s) := by
  unfold execDeadline
  repeat' first
    | with_reducible first | assumption | intro _
    | with_reducible first | apply State.armDeadline_keeps | apply State.onEntry_keeps | apply KeepsO.next
    | with_reducible exact Keeps.refl _

theorem State.pulse_keeps {s0 : State} (s : State) (f from_ till : Nat) (kh : Keeps s0 s) : Keeps s0 (State.pulse s f from_ till) := by
  unfold State.pulse
  repeat' first
    | with_reducible first | assumption | intro _
    | with_reducible first | apply State.postC_keeps
    | split
    | with_reducible exact Keeps.refl _
    | (with_reducible refine Keeps.mk ?_ rfl rfl rfl rfl rfl)

theorem State.fireFsync_keeps {s0 : State} (s : State) (d : Due) (kh : Keeps s0 s) : Keeps s0 (State.fireFsync s d) := by
  unfold State.fireFsync
  repeat' first
    | with_reducible first | assumption | intro _
    | (extract_lets +onlyGivenNames x
       first
       | (refine Keeps.via (x := x) ?_ fun kh1 => ?_; rotate_left; clear_value x; rotate_left; subst x)
       | clear_value x)
    | with_reducible first | apply State.pulse_keeps | apply State.each_keeps | apply State.draw_keeps
    | refine State.draw_keeps_e (by with_reducible assumption) ?_
    | split
    | with_reducible exact Keeps.refl _

theorem execFsync_keeps {s0 : State} (w e edge : Nat) (s : State) (kh : Keeps s0 s) : KeepsO s0 (execFsync w e edge s) := by
  unfold execFsync
  repeat' first
    | with_reducible first | assumption | intro _
    | with_reducible first | apply State.fireFsync_keeps | apply State.ifPowered_keeps | apply State.onEntry_keeps | apply KeepsO.next
    | with_reducible exact Keeps.refl _

theorem execFsyncPulseEnd_keeps {s0 : State} (f : Nat) (s : State) (kh : Keeps s0 s) : KeepsO s0 (execFsyncPulseEnd f s) := by
  unfold execFsyncPulseEnd
  repeat' first
    | with_reducible first | assumption | intro _
    | with_reducible first | apply KeepsO.next
    | split
    | with_reducible exact Keeps.refl _
    | (with_reducible refine Keeps.mk ?_ rfl rfl rfl rfl rfl)

theorem State.slotMatches_keeps {s0 : State} (s : State) (i : Nat) (k : Option Nat) (r : RecItem) (kh : Keeps s0 s) : Keeps s0 (State.slotMatches s i k r) := by
  unfold State.slotMatches
  repeat' first
    | with_reducible first | assumption | intro _
    | (extract_lets +onlyGivenNames x
       first
       | (refine Keeps.via (x := x) ?_ fun kh1 => ?_; rotate_left; clear_value x; rotate_left; subst x)
       | clear_value x)
    | with_reducible first | apply State.diverge_keeps
    | split
    | with_reducible exact Keeps.refl _

theorem State.openRecorded_keeps {s0 : State} (s : State) (i h : Nat) (r : RecItem) (kh : Keeps s0 s) : Keeps s0 (State.openRecorded s i h r) := by
  unfold State.openRecorded
  repeat' first
    | with_reducible first | assumption | intro _
    | (extract_lets +onlyGivenNames x
       first
       | (refine Keeps.via (x := x) ?_ fun kh1 => ?_; rotate_left; clear_value x; rotate_left; subst x)
       | clear_value x)
    | with_reducible first | apply State.slotMatches_keeps | apply State.openWindow_keeps
    | split
    | with_reducible exact Keeps.refl _
    | (with_reducible refine Keeps.mk ?_ rfl rfl rfl rfl rfl)

theorem State.destBusy_keeps {s0 : State} (s : State) (i : Nat) (kh : Keeps s0 s) : Keeps s0 (State.destBusy s i) := by
  unfold State.destBusy
  repeat' first
    | with_reducible first | assumption | intro _
    | with_reducible first | apply State.bumpStale_keeps | apply State.postC_keeps
    | with_reducible exact Keeps.refl _

theorem State.fireHandoff_keeps {s0 : State} (s : State) (d : Due) (kh : Keeps s0 s) : Keeps s0 (State.fireHandoff s d) := by
  unfold State.fireHandoff
  repeat' first
    | with_reducible first | assumption | intro _
    | (extract_lets +onlyGivenNames x
       first
       | (refine Keeps.via (x := x) ?_ fun kh1 => ?_; rotate_left; clear_value x; rotate_left; subst x)
       | clear_value x)
    | with_reducible first | apply State.destBusy_keeps | apply State.openRecorded_keeps | apply State.targetGone_keeps | apply State.openWindow_keeps | apply State.postC_keeps
    | split
    | with_reducible exact Keeps.refl _

theorem execHandoff_keeps {s0 : State} (w e edge : Nat) (s : State) (kh : Keeps s0 s) : KeepsO s0 (execHandoff w e edge s) := by
  unfold execHandoff
  repeat' first
    | with_reducible first | assumption | intro _
    | (extract_lets +onlyGivenNames x
       first
       | (refine Keeps.via (x := x) ?_ fun kh1 => ?_; rotate_left; clear_value x; rotate_left; subst x)
       | (refine KeepsO.via (x := x) ?_ fun kh1 => ?_; rotate_left; clear_value x; rotate_left; subst x)
       | clear_value x)
    | with_reducible first | apply State.fireHandoff_keeps | apply State.ifPowered_keeps | apply State.onEntry_keeps | apply KeepsO.next
    | split
    | with_reducible exact Keeps.refl _

end Sys2Proof.Machine
end

