-- ==== Sys2Proof/Laws/KeepsJobOps.lean ====
section
/-! SUPPORT. Every operation of Machine/JobOps.lean keeps the queue and the canonical form. -/

namespace Sys2Proof.Machine

theorem State.setTileState_keeps {s0 : State} (s : State) (t k : Nat) (kh : Keeps s0 s) : Keeps s0 (State.setTileState s t k) := by
  unfold State.setTileState
  repeat' first
    | with_reducible first | assumption | intro _
    | with_reducible first | apply State.setFld_keeps
    | with_reducible exact Keeps.refl _

theorem State.setJobState_keeps {s0 : State} (s : State) (p j k : Nat) (kh : Keeps s0 s) : Keeps s0 (State.setJobState s p j k) := by
  unfold State.setJobState
  repeat' first
    | with_reducible first | assumption | intro _
    | with_reducible first | apply State.setFld_keeps
    | with_reducible exact Keeps.refl _

theorem State.bumpGen_keeps {s0 : State} (s : State) (p : Nat) (kh : Keeps s0 s) : Keeps s0 (State.bumpGen s p) := by
  unfold State.bumpGen
  repeat' first
    | with_reducible first | assumption | intro _
    | with_reducible first | apply State.modPart_keeps | apply State.setFld_keeps
    | with_reducible exact Keeps.refl _
    | (with_reducible refine Keeps.mk ?_ rfl rfl rfl rfl rfl)

theorem State.genDropped_keeps {s0 : State} (s : State) (p : Nat) (kh : Keeps s0 s) : Keeps s0 (State.genDropped s p) := by
  unfold State.genDropped
  repeat' first
    | with_reducible first | assumption | intro _
    | (extract_lets +onlyGivenNames x
       first
       | (refine Keeps.via (x := x) ?_ fun kh1 => ?_; rotate_left; clear_value x; rotate_left; subst x)
       | clear_value x)
    | with_reducible first | apply State.post_keeps | apply State.modPart_keeps | apply State.incReg_keeps
    | split
    | with_reducible exact Keeps.refl _
    | (with_reducible refine Keeps.mk ?_ rfl rfl rfl rfl rfl)

theorem State.incClient_keeps {s0 : State} (s : State) (a : Nat) (kh : Keeps s0 s) : Keeps s0 (State.incClient s a) := by
  unfold State.incClient
  repeat' first
    | with_reducible first | assumption | intro _
    | with_reducible first | apply State.setRegN_keeps
    | with_reducible exact Keeps.refl _

theorem State.postTile_keeps {s0 : State} (s : State) (c : Status) (t : Nat) (syn : Nat) (kh : Keeps s0 s) : Keeps s0 (State.postTile s c t syn) := by
  unfold State.postTile
  repeat' first
    | with_reducible first | assumption | intro _
    | with_reducible first | apply State.post_keeps
    | split
    | with_reducible exact Keeps.refl _
    | (with_reducible refine Keeps.mk ?_ rfl rfl rfl rfl rfl)

theorem State.markRetired_keeps {s0 : State} (s : State) (d : Nat) (kh : Keeps s0 s) : Keeps s0 (State.markRetired s d) := by
  unfold State.markRetired
  repeat' first
    | with_reducible first | assumption | intro _
    | (extract_lets +onlyGivenNames x
       first
       | (refine Keeps.via (x := x) ?_ fun kh1 => ?_; rotate_left; clear_value x; rotate_left; subst x)
       | clear_value x)
    | with_reducible first | apply State.each_keeps | apply State.setBit_keeps
    | split
    | with_reducible exact Keeps.refl _

theorem State.takeRetirements_keeps {s0 : State} (s : State) (kh : Keeps s0 s) : Keeps s0 (State.takeRetirements s) := by
  unfold State.takeRetirements
  repeat' first
    | with_reducible first | assumption | intro _
    | (extract_lets +onlyGivenNames x
       first
       | (refine Keeps.via (x := x) ?_ fun kh1 => ?_; rotate_left; clear_value x; rotate_left; subst x)
       | clear_value x)
    | with_reducible first | apply State.markRetired_keeps | apply State.each_keeps | apply State.setBit_keeps
    | split
    | with_reducible exact Keeps.refl _

theorem State.returnUnits_keeps {s0 : State} (s : State) (p j : Nat) (kh : Keeps s0 s) : Keeps s0 (State.returnUnits s p j) := by
  unfold State.returnUnits
  repeat' first
    | with_reducible first | assumption | intro _
    | (extract_lets +onlyGivenNames x
       first
       | (refine Keeps.via (x := x) ?_ fun kh1 => ?_; rotate_left; clear_value x; rotate_left; subst x)
       | clear_value x)
    | with_reducible first | apply State.modJob_keeps | apply State.modPart_keeps
    | split
    | with_reducible exact Keeps.refl _
    | (with_reducible refine Keeps.mk ?_ rfl rfl rfl rfl rfl)

theorem State.shedNow_keeps {s0 : State} (s : State) (p : Nat) (kh : Keeps s0 s) : Keeps s0 (State.shedNow s p) := by
  unfold State.shedNow
  repeat' first
    | with_reducible first | assumption | intro _
    | (extract_lets +onlyGivenNames x
       first
       | (refine Keeps.via (x := x) ?_ fun kh1 => ?_; rotate_left; clear_value x; rotate_left; subst x)
       | clear_value x)
    | with_reducible first | apply State.setAmber_keeps | apply State.post_keeps | apply State.modPart_keeps | apply State.setBit_keeps
    | split
    | with_reducible exact Keeps.refl _
    | (with_reducible refine Keeps.mk ?_ rfl rfl rfl rfl rfl)

theorem State.shedCheck_keeps {s0 : State} (s : State) (p : Nat) (kh : Keeps s0 s) : Keeps s0 (State.shedCheck s p) := by
  unfold State.shedCheck
  repeat' first
    | with_reducible first | assumption | intro _
    | with_reducible first | apply State.shedNow_keeps
    | split
    | with_reducible exact Keeps.refl _

theorem State.showDemand_keeps {s0 : State} (s : State) (p : Nat) (kh : Keeps s0 s) : Keeps s0 (State.showDemand s p) := by
  unfold State.showDemand
  repeat' first
    | with_reducible first | assumption | intro _
    | with_reducible first | apply State.setRegN_keeps
    | with_reducible exact Keeps.refl _

theorem State.modTest_keeps {s0 : State} (s : State) (b : Nat) (f : SelfTest → SelfTest) (kh : Keeps s0 s) : Keeps s0 (State.modTest s b f) := by
  unfold State.modTest
  repeat' first
    | with_reducible first | assumption | intro _
    | with_reducible exact Keeps.refl _
    | (with_reducible refine Keeps.mk ?_ rfl rfl rfl rfl rfl)

theorem State.chunkAbort_keeps {s0 : State} (s : State) (b : Nat) (byLaunch : Bool) (kh : Keeps s0 s) : Keeps s0 (State.chunkAbort s b byLaunch) := by
  unfold State.chunkAbort
  repeat' first
    | with_reducible first | assumption | intro _
    | (extract_lets +onlyGivenNames x
       first
       | (refine Keeps.via (x := x) ?_ fun kh1 => ?_; rotate_left; clear_value x; rotate_left; subst x)
       | clear_value x)
    | with_reducible first | apply State.modTest_keeps | apply State.postC_keeps
    | split
    | with_reducible exact Keeps.refl _
    | (with_reducible refine Keeps.mk ?_ rfl rfl rfl rfl rfl)

theorem State.suspectCheck_keeps {s0 : State} (s : State) (kh : Keeps s0 s) : Keeps s0 (State.suspectCheck s) := by
  unfold State.suspectCheck
  repeat' first
    | with_reducible first | assumption | intro _
    | with_reducible first | apply State.setAmber_keeps
    | with_reducible exact Keeps.refl _

theorem State.clearSuspects_keeps {s0 : State} (s : State) (p : Nat) (kh : Keeps s0 s) : Keeps s0 (State.clearSuspects s p) := by
  unfold State.clearSuspects
  repeat' first
    | with_reducible first | assumption | intro _
    | (extract_lets +onlyGivenNames x
       first
       | (refine Keeps.via (x := x) ?_ fun kh1 => ?_; rotate_left; clear_value x; rotate_left; subst x)
       | clear_value x)
    | with_reducible first | apply State.suspectCheck_keeps | apply State.each_keeps | apply State.setBit_keeps
    | split
    | with_reducible exact Keeps.refl _

theorem State.launchRegs_keeps {s0 : State} (s : State) (t p expend : Nat) (kh : Keeps s0 s) : Keeps s0 (State.launchRegs s t p expend) := by
  unfold State.launchRegs
  repeat' first
    | with_reducible first | assumption | intro _
    | (extract_lets +onlyGivenNames x
       first
       | (refine Keeps.via (x := x) ?_ fun kh1 => ?_; rotate_left; clear_value x; rotate_left; subst x)
       | clear_value x)
    | with_reducible first | apply State.setRegN_keeps
    | split
    | with_reducible exact Keeps.refl _

theorem State.startJob_keeps {s0 : State} (s : State) (p j : Nat) (golden : Bool) (kh : Keeps s0 s) : Keeps s0 (State.startJob s p j golden) := by
  unfold State.startJob
  repeat' first
    | with_reducible first | assumption | intro _
    | (extract_lets +onlyGivenNames x
       first
       | (refine Keeps.via (x := x) ?_ fun kh1 => ?_; rotate_left; clear_value x; rotate_left; subst x)
       | clear_value x)
    | with_reducible first | apply State.launchRegs_keeps | apply State.chunkAbort_keeps | apply State.incClient_keeps | apply State.setJobState_keeps | apply State.kvLaunch_keeps | apply State.each_keeps | apply State.modJob_keeps | apply State.modTile_keeps | apply State.setFld_keeps
    | split
    | with_reducible exact Keeps.refl _
    | (with_reducible refine Keeps.mk ?_ rfl rfl rfl rfl rfl)

theorem State.freeTile_keeps {s0 : State} (s : State) (t : Nat) (kh : Keeps s0 s) : Keeps s0 (State.freeTile s t) := by
  unfold State.freeTile
  repeat' first
    | with_reducible first | assumption | intro _
    | (extract_lets +onlyGivenNames x
       first
       | (refine Keeps.via (x := x) ?_ fun kh1 => ?_; rotate_left; clear_value x; rotate_left; subst x)
       | clear_value x)
    | with_reducible first | apply State.setTileState_keeps | apply State.modTile_keeps
    | split
    | with_reducible exact Keeps.refl _
    | (with_reducible refine Keeps.mk ?_ rfl rfl rfl rfl rfl)

theorem State.goldenCheck_keeps {s0 : State} (s : State) (p chk : Nat) (kh : Keeps s0 s) : Keeps s0 (State.goldenCheck s p chk) := by
  unfold State.goldenCheck
  repeat' first
    | with_reducible first | assumption | intro _
    | (extract_lets +onlyGivenNames x
       first
       | (refine Keeps.via (x := x) ?_ fun kh1 => ?_; rotate_left; clear_value x; rotate_left; subst x)
       | clear_value x)
    | with_reducible first | apply State.suspectCheck_keeps | apply State.post_keeps | apply State.setBit_keeps | apply State.setFld_keeps
    | split
    | with_reducible exact Keeps.refl _
    | (with_reducible refine Keeps.mk ?_ rfl rfl rfl rfl rfl)

theorem State.numReport_keeps {s0 : State} (s : State) (p j num : Nat) (kh : Keeps s0 s) : Keeps s0 (State.numReport s p j num) := by
  unfold State.numReport
  repeat' first
    | with_reducible first | assumption | intro _
    | (extract_lets +onlyGivenNames x
       first
       | (refine Keeps.via (x := x) ?_ fun kh1 => ?_; rotate_left; clear_value x; rotate_left; subst x)
       | clear_value x)
    | with_reducible first | apply State.post_keeps
    | split
    | with_reducible exact Keeps.refl _
    | (with_reducible refine Keeps.mk ?_ rfl rfl rfl rfl rfl)

theorem State.jobDone_keeps {s0 : State} (s : State) (p j : Nat) (kh : Keeps s0 s) : Keeps s0 (State.jobDone s p j) := by
  unfold State.jobDone
  repeat' first
    | with_reducible first | assumption | intro _
    | (extract_lets +onlyGivenNames x
       first
       | (refine Keeps.via (x := x) ?_ fun kh1 => ?_; rotate_left; clear_value x; rotate_left; subst x)
       | clear_value x)
    | with_reducible first | apply State.numReport_keeps | apply State.goldenCheck_keeps | apply State.freeTile_keeps | apply State.shedCheck_keeps | apply State.takeRetirements_keeps | apply State.incClient_keeps | apply State.setJobState_keeps | apply State.kvJobEnds_keeps | apply State.reportJob_keeps | apply State.each_keeps | apply State.modJob_keeps
    | split
    | with_reducible exact Keeps.refl _
    | (with_reducible refine Keeps.mk ?_ rfl rfl rfl rfl rfl)

theorem State.freeJob_keeps {s0 : State} (s : State) (p j : Nat) (kh : Keeps s0 s) : Keeps s0 (State.freeJob s p j) := by
  unfold State.freeJob
  repeat' first
    | with_reducible first | assumption | intro _
    | (extract_lets +onlyGivenNames x
       first
       | (refine Keeps.via (x := x) ?_ fun kh1 => ?_; rotate_left; clear_value x; rotate_left; subst x)
       | clear_value x)
    | with_reducible first | apply State.showDemand_keeps | apply State.setTileState_keeps | apply State.each_keeps | apply State.modPart_keeps | apply State.modTile_keeps | apply State.setRegN_keeps
    | split
    | with_reducible exact Keeps.refl _
    | (with_reducible refine Keeps.mk ?_ rfl rfl rfl rfl rfl)

theorem State.abortDone_keeps {s0 : State} (s : State) (p j : Nat) (kh : Keeps s0 s) : Keeps s0 (State.abortDone s p j) := by
  unfold State.abortDone
  repeat' first
    | with_reducible first | assumption | intro _
    | (extract_lets +onlyGivenNames x
       first
       | (refine Keeps.via (x := x) ?_ fun kh1 => ?_; rotate_left; clear_value x; rotate_left; subst x)
       | clear_value x)
    | refine State.retire_keeps_e (by with_reducible assumption) ?_
    | with_reducible first | apply State.freeJob_keeps | apply State.shedCheck_keeps | apply State.takeRetirements_keeps | apply State.incClient_keeps | apply State.setJobState_keeps | apply State.kvJobEnds_keeps | apply State.reportJob_keeps | apply State.modJob_keeps
    | split
    | with_reducible exact Keeps.refl _
    | (with_reducible refine Keeps.mk ?_ rfl rfl rfl rfl rfl)

theorem State.abortJob_keeps {s0 : State} (s : State) (p j : Nat) (kh : Keeps s0 s) : Keeps s0 (State.abortJob s p j) := by
  unfold State.abortJob
  repeat' first
    | with_reducible first | assumption | intro _
    | (extract_lets +onlyGivenNames x
       first
       | (refine Keeps.via (x := x) ?_ fun kh1 => ?_; rotate_left; clear_value x; rotate_left; subst x)
       | clear_value x)
    | with_reducible first | apply State.abortDone_keeps | apply State.returnUnits_keeps | apply State.setTileState_keeps | apply State.each_keeps | apply State.modJob_keeps | apply State.modTile_keeps
    | split
    | with_reducible exact Keeps.refl _
    | (with_reducible refine Keeps.mk ?_ rfl rfl rfl rfl rfl)

theorem State.tileAbort_keeps {s0 : State} (s : State) (t : Nat) (c : Status) (syn : Nat) (kh : Keeps s0 s) : Keeps s0 (State.tileAbort s t c syn) := by
  unfold State.tileAbort
  repeat' first
    | with_reducible first | assumption | intro _
    | (extract_lets +onlyGivenNames x
       first
       | (refine Keeps.via (x := x) ?_ fun kh1 => ?_; rotate_left; clear_value x; rotate_left; subst x)
       | clear_value x)
    | with_reducible first | apply State.abortJob_keeps | apply State.postTile_keeps
    | split
    | with_reducible exact Keeps.refl _

end Sys2Proof.Machine
end

