-- ==== Sys2Proof/Laws/KeepsMemOps.lean ====
section
/-! SUPPORT. Every operation of Machine/MemOps.lean keeps the queue and the canonical form. -/

namespace Sys2Proof.Machine

theorem State.setCet_keeps {s0 : State} (s : State) (d e v : Nat) (kh : Keeps s0 s) : Keeps s0 (State.setCet s d e v) := by
  unfold State.setCet
  repeat' first
    | with_reducible first | assumption | intro _
    | with_reducible first | apply State.setPieces_keeps
    | with_reducible exact Keeps.refl _

theorem State.postMem_keeps {s0 : State} (s : State) (c : Status) (x : MemEvent) (kh : Keeps s0 s) : Keeps s0 (State.postMem s c x) := by
  unfold State.postMem
  repeat' first
    | with_reducible first | assumption | intro _
    | with_reducible first | apply State.post_keeps
    | split
    | with_reducible exact Keeps.refl _
    | (with_reducible refine Keeps.mk ?_ rfl rfl rfl rfl rfl)

theorem State.cetRepeat_keeps {s0 : State} (s : State) (x : MemEvent) (v : Nat) (kh : Keeps s0 s) : Keeps s0 (State.cetRepeat s x v) := by
  unfold State.cetRepeat
  repeat' first
    | with_reducible first | assumption | intro _
    | with_reducible first | apply State.postMem_keeps
    | split
    | with_reducible exact Keeps.refl _

theorem State.cetAgain_keeps {s0 : State} (s : State) (x : MemEvent) (e : Nat) (kh : Keeps s0 s) : Keeps s0 (State.cetAgain s x e) := by
  unfold State.cetAgain
  repeat' first
    | with_reducible first | assumption | intro _
    | (extract_lets +onlyGivenNames x
       first
       | (refine Keeps.via (x := x) ?_ fun kh1 => ?_; rotate_left; clear_value x; rotate_left; subst x)
       | clear_value x)
    | with_reducible first | apply State.cetRepeat_keeps | apply State.postMem_keeps | apply State.setCet_keeps
    | split
    | with_reducible exact Keeps.refl _

theorem State.cetFirst_keeps {s0 : State} (s : State) (x : MemEvent) (o : Option Nat) (kh : Keeps s0 s) : Keeps s0 (State.cetFirst s x o) := by
  unfold State.cetFirst
  repeat' first
    | with_reducible first | assumption | intro _
    | (extract_lets +onlyGivenNames x
       first
       | (refine Keeps.via (x := x) ?_ fun kh1 => ?_; rotate_left; clear_value x; rotate_left; subst x)
       | clear_value x)
    | with_reducible first | apply State.cetRepeat_keeps | apply State.postMem_keeps | apply State.setCet_keeps | apply State.incReg_keeps
    | split
    | with_reducible exact Keeps.refl _

theorem State.cetNote_keeps {s0 : State} (s : State) (x : MemEvent) (o : Option Nat) (kh : Keeps s0 s) : Keeps s0 (State.cetNote s x o) := by
  unfold State.cetNote
  repeat' first
    | with_reducible first | assumption | intro _
    | with_reducible first | apply State.cetFirst_keeps | apply State.cetAgain_keeps
    | split
    | with_reducible exact Keeps.refl _

theorem State.memEvent_keeps {s0 : State} (s : State) (x : MemEvent) (kh : Keeps s0 s) : Keeps s0 (State.memEvent s x) := by
  unfold State.memEvent
  repeat' first
    | with_reducible first | assumption | intro _
    | (extract_lets +onlyGivenNames x
       first
       | (refine Keeps.via (x := x) ?_ fun kh1 => ?_; rotate_left; clear_value x; rotate_left; subst x)
       | clear_value x)
    | with_reducible first | apply State.cetNote_keeps | apply State.incReg_keeps
    | split
    | with_reducible exact Keeps.refl _

theorem State.decodePage_keeps {s0 : State} (s : State) (t page n : Nat) (scrub : Bool) (kh : Keeps s0 s) : Keeps s0 (State.decodePage s t page n scrub).2 := by
  unfold State.decodePage
  repeat' first
    | with_reducible first | assumption | intro _
    | (extract_lets +onlyGivenNames x
       first
       | (refine Keeps.via (x := x) ?_ fun kh1 => ?_; rotate_left; clear_value x; rotate_left; subst x)
       | clear_value x)
    | with_reducible first | apply State.memEvent_keeps | apply State.draw_keeps
    | refine State.draw_keeps_e (by with_reducible assumption) ?_
    | split
    | with_reducible exact Keeps.refl _
    | (with_reducible refine Keeps.mk ?_ rfl rfl rfl rfl rfl)
theorem State.decodePage_keeps_e {s0 : State} {s : State} {t page n : Nat} {scrub : Bool} {x0 x1} (ke : (State.decodePage s t page n scrub) = (x0, x1)) (kh : Keeps s0 s) : Keeps s0 x1 := by
  have k := State.decodePage_keeps s t page n scrub kh
  rw [ke] at k
  exact k

theorem State.touchRetired_keeps {s0 : State} (s : State) (t page : Nat) (kh : Keeps s0 s) : Keeps s0 (State.touchRetired s t page) := by
  unfold State.touchRetired
  repeat' first
    | with_reducible first | assumption | intro _
    | (extract_lets +onlyGivenNames x
       first
       | (refine Keeps.via (x := x) ?_ fun kh1 => ?_; rotate_left; clear_value x; rotate_left; subst x)
       | clear_value x)
    | with_reducible first | apply State.post_keeps
    | split
    | with_reducible exact Keeps.refl _
    | (with_reducible refine Keeps.mk ?_ rfl rfl rfl rfl rfl)

theorem State.dramWord_keeps {s0 : State} (s : State) (t off : Nat) (d : Decoded) (kh : Keeps s0 s) : Keeps s0 (State.dramWord s t off d).2 := by
  unfold State.dramWord
  repeat' first
    | with_reducible first | assumption | intro _
    | with_reducible first | apply State.touchRetired_keeps | apply State.draw_keeps
    | refine State.draw_keeps_e (by with_reducible assumption) ?_
    | split
    | with_reducible exact Keeps.refl _
theorem State.dramWord_keeps_e {s0 : State} {s : State} {t off : Nat} {d : Decoded} {x0 x1} (ke : (State.dramWord s t off d) = (x0, x1)) (kh : Keeps s0 s) : Keeps s0 x1 := by
  have k := State.dramWord_keeps s t off d kh
  rw [ke] at k
  exact k

theorem State.dramPut_keeps {s0 : State} (s : State) (t off : Nat) (v : VReg) (kh : Keeps s0 s) : Keeps s0 (State.dramPut s t off v) := by
  unfold State.dramPut
  repeat' first
    | with_reducible first | assumption | intro _
    | with_reducible first | apply State.touchRetired_keeps | apply State.setLine_keeps
    | split
    | with_reducible exact Keeps.refl _

theorem State.countPass_keeps {s0 : State} (s : State) (t : Nat) (kh : Keeps s0 s) : Keeps s0 (State.countPass s t) := by
  unfold State.countPass
  repeat' first
    | with_reducible first | assumption | intro _
    | (extract_lets +onlyGivenNames x
       first
       | (refine Keeps.via (x := x) ?_ fun kh1 => ?_; rotate_left; clear_value x; rotate_left; subst x)
       | clear_value x)
    | with_reducible first | apply State.each_keeps | apply State.modTile_keeps | apply State.incReg_keeps
    | split
    | with_reducible exact Keeps.refl _
    | (with_reducible refine Keeps.mk ?_ rfl rfl rfl rfl rfl)

theorem State.scrubPage_keeps {s0 : State} (s : State) (t syms : Nat) (kh : Keeps s0 s) : Keeps s0 (State.scrubPage s t syms) := by
  unfold State.scrubPage
  repeat' first
    | with_reducible first | assumption | intro _
    | (extract_lets +onlyGivenNames x
       first
       | (refine Keeps.via (x := x) ?_ fun kh1 => ?_; rotate_left; clear_value x; rotate_left; subst x)
       | clear_value x)
    | with_reducible first | apply State.countPass_keeps | apply State.decodePage_keeps
    | refine State.decodePage_keeps_e (by with_reducible assumption) ?_
    | with_reducible first | apply State.setFld_keeps
    | split
    | with_reducible exact Keeps.refl _

theorem State.beat_keeps {s0 : State} (s : State) (t syms : Nat) (kh : Keeps s0 s) : Keeps s0 (State.beat s t syms) := by
  unfold State.beat
  repeat' first
    | with_reducible first | assumption | intro _
    | (extract_lets +onlyGivenNames x
       first
       | (refine Keeps.via (x := x) ?_ fun kh1 => ?_; rotate_left; clear_value x; rotate_left; subst x)
       | clear_value x)
    | with_reducible first | apply State.scrubPage_keeps | apply State.setFld_keeps
    | split
    | with_reducible exact Keeps.refl _

theorem execRefreshBeat_keeps {s0 : State} (t symErrs : Nat) (s : State) (kh : Keeps s0 s) : KeepsO s0 (execRefreshBeat t symErrs s) := by
  unfold execRefreshBeat
  repeat' first
    | with_reducible first | assumption | intro _
    | with_reducible first | apply State.beat_keeps | apply KeepsO.next
    | split
    | with_reducible exact Keeps.refl _

end Sys2Proof.Machine
end

