-- ==== Sys2Proof/Laws/KeepsOperands.lean ====
section
/-! SUPPORT. Every operation of Machine/Operands.lean keeps the queue and the canonical form. -/

namespace Sys2Proof.Machine

theorem State.raiseChecks_keeps {s0 : State} (s : State) (t : Nat) (f : BitVec 5) (kh : Keeps s0 s) : Keeps s0 (State.raiseChecks s t f) := by
  unfold State.raiseChecks
  repeat' first
    | with_reducible first | assumption | intro _
    | (extract_lets +onlyGivenNames x
       first
       | (refine Keeps.via (x := x) ?_ fun kh1 => ?_; rotate_left; clear_value x; rotate_left; subst x)
       | clear_value x)
    | with_reducible first | apply State.postTile_keeps | apply State.modJob_keeps | apply State.setRegN_keeps
    | split
    | with_reducible exact Keeps.refl _
    | (with_reducible refine Keeps.mk ?_ rfl rfl rfl rfl rfl)

theorem State.raiseNum_keeps {s0 : State} (s : State) (t : Nat) (f : NumFlags) (kh : Keeps s0 s) : Keeps s0 (State.raiseNum s t f) := by
  unfold State.raiseNum
  repeat' first
    | with_reducible first | assumption | intro _
    | with_reducible first | apply State.setRegN_keeps
    | with_reducible exact Keeps.refl _

theorem State.enter_keeps {s0 : State} (s : State) (c : TCtl) (kh : Keeps s0 s) : Keeps s0 (State.enter s c) := by
  unfold State.enter
  repeat' first
    | with_reducible first | assumption | intro _
    | (extract_lets +onlyGivenNames x
       first
       | (refine Keeps.via (x := x) ?_ fun kh1 => ?_; rotate_left; clear_value x; rotate_left; subst x)
       | clear_value x)
    | with_reducible first | apply State.raiseChecks_keeps | apply State.modTile_keeps | apply State.setFld_keeps | apply State.setRegN_keeps
    | split
    | with_reducible exact Keeps.refl _

theorem State.bite_keeps {s0 : State} (s : State) (t : Nat) (kh : Keeps s0 s) : Keeps s0 (State.bite s t) := by
  unfold State.bite
  repeat' first
    | with_reducible first | assumption | intro _
    | with_reducible first | apply State.tileAbort_keeps
    | with_reducible exact Keeps.refl _

theorem State.fetched_keeps {s0 : State} (s : State) (c : TCtl) (f : State → State) (kh : Keeps s0 s) (hf : ∀ a0, Keeps s0 a0 → Keeps s0 (f a0)) : Keeps s0 (State.fetched s c f) := by
  unfold State.fetched
  repeat' first
    | with_reducible first | assumption | intro _
    | with_reducible first | apply hf | apply State.bite_keeps | apply State.enter_keeps
    | split
    | with_reducible exact Keeps.refl _

theorem State.issue_keeps {s0 : State} (s : State) (c : TCtl) (f : State → State) (kh : Keeps s0 s) (hf : ∀ a0, Keeps s0 a0 → Keeps s0 (f a0)) : Keeps s0 (State.issue s c f) := by
  unfold State.issue
  repeat' first
    | with_reducible first | assumption | intro _
    | with_reducible first | apply hf | apply State.fetched_keeps
    | split
    | with_reducible exact Keeps.refl _

theorem State.try'_keeps {s0 : State} {α : Type} (s : State) (t : Nat) (r : Try α) (f : α → State) (kh : Keeps s0 s) (hf : ∀ a0, Keeps s0 (f a0)) : Keeps s0 (State.try' s t r f) := by
  unfold State.try'
  repeat' first
    | with_reducible first | assumption | intro _
    | with_reducible first | apply hf | apply State.tileAbort_keeps
    | split
    | with_reducible exact Keeps.refl _

theorem State.walkOn_keeps {s0 : State} (s : State) (t k n : Nat) (kh : Keeps s0 s) : Keeps s0 (State.walkOn s t k n) := by
  unfold State.walkOn
  repeat' first
    | with_reducible first | assumption | intro _
    | with_reducible first | apply State.modTile_keeps
    | with_reducible exact Keeps.refl _
    | (with_reducible refine Keeps.mk ?_ rfl rfl rfl rfl rfl)

theorem State.claim_keeps {s0 : State} (s : State) (t : Nat) (l : List (Nat × Nat)) (f : State → State) (kh : Keeps s0 s) (hf : ∀ a0, Keeps s0 a0 → Keeps s0 (f a0)) : Keeps s0 (State.claim s t l f) := by
  unfold State.claim
  repeat' first
    | with_reducible first | assumption | intro _
    | (extract_lets +onlyGivenNames x
       first
       | (refine Keeps.via (x := x) ?_ fun kh1 => ?_; rotate_left; clear_value x; rotate_left; subst x)
       | clear_value x)
    | with_reducible first | apply hf | apply State.tileAbort_keeps | apply State.modTile_keeps
    | split
    | with_reducible exact Keeps.refl _
    | (with_reducible refine Keeps.mk ?_ rfl rfl rfl rfl rfl)

theorem State.spadCorrected_keeps {s0 : State} (s : State) (t : Nat) (kh : Keeps s0 s) : Keeps s0 (State.spadCorrected s t) := by
  unfold State.spadCorrected
  repeat' first
    | with_reducible first | assumption | intro _
    | (extract_lets +onlyGivenNames x
       first
       | (refine Keeps.via (x := x) ?_ fun kh1 => ?_; rotate_left; clear_value x; rotate_left; subst x)
       | clear_value x)
    | with_reducible first | apply State.postTile_keeps | apply State.modTile_keeps | apply State.incReg_keeps
    | split
    | with_reducible exact Keeps.refl _
    | (with_reducible refine Keeps.mk ?_ rfl rfl rfl rfl rfl)

theorem State.padRead_keeps {s0 : State} (s : State) (t w errs : Nat) (kh : Keeps s0 s) : Keeps s0 (State.padRead s t w errs).2 := by
  unfold State.padRead
  repeat' first
    | with_reducible first | assumption | intro _
    | (extract_lets +onlyGivenNames x
       first
       | (refine Keeps.via (x := x) ?_ fun kh1 => ?_; rotate_left; clear_value x; rotate_left; subst x)
       | clear_value x)
    | with_reducible first | apply State.spadCorrected_keeps | apply State.postTile_keeps | apply State.draw_keeps
    | refine State.draw_keeps_e (by with_reducible assumption) ?_
    | split
    | with_reducible exact Keeps.refl _
theorem State.padRead_keeps_e {s0 : State} {s : State} {t w errs : Nat} {x0 x1} (ke : (State.padRead s t w errs) = (x0, x1)) (kh : Keeps s0 s) : Keeps s0 x1 := by
  have k := State.padRead_keeps s t w errs kh
  rw [ke] at k
  exact k

theorem State.padWrite_keeps {s0 : State} (s : State) (t w : Nat) (v : VReg) (kh : Keeps s0 s) : Keeps s0 (State.padWrite s t w v) := by
  unfold State.padWrite
  repeat' first
    | with_reducible first | assumption | intro _
    | with_reducible first | apply State.modTile_keeps | apply State.setLine_keeps
    | with_reducible exact Keeps.refl _
    | (with_reducible refine Keeps.mk ?_ rfl rfl rfl rfl rfl)

theorem State.padReads_keeps {s0 : State} (t : Nat) : ∀ (l : List Nat) (s : State) (errs : Nat), Keeps s0 s → Keeps s0 (s.padReads t l errs).2
  | [], _, _, h => h
  | w :: r, s, errs, h => by
    unfold State.padReads
    exact State.padReads_keeps t r _ _ (State.padRead_keeps _ _ _ _ h)
theorem State.padReads_keeps_e {s0 s t1 : State} {t : Nat} {l : List Nat} {errs : Nat} {x : List VReg} (e : s.padReads t l errs = (x, t1)) (h : Keeps s0 s) : Keeps s0 t1 := by
  have k := State.padReads_keeps t l s errs h
  rw [e] at k
  exact k

theorem State.padWrites_keeps {s0 : State} (t : Nat) : ∀ (l : List (Nat × VReg)) (s : State), Keeps s0 s → Keeps s0 (s.padWrites t l)
  | [], _, h => h
  | (w, v) :: r, s, h => by
    unfold State.padWrites
    exact State.padWrites_keeps t r _ (State.padWrite_keeps _ _ _ _ h)

theorem State.setVreg_keeps {s0 : State} (s : State) (t k : Nat) (v : VReg) (kh : Keeps s0 s) : Keeps s0 (State.setVreg s t k v) := by
  unfold State.setVreg
  repeat' first
    | with_reducible first | assumption | intro _
    | with_reducible first | apply State.modTile_keeps
    | with_reducible exact Keeps.refl _
    | (with_reducible refine Keeps.mk ?_ rfl rfl rfl rfl rfl)

theorem State.setAcc_keeps {s0 : State} (s : State) (t k : Nat) (v : VReg) (kh : Keeps s0 s) : Keeps s0 (State.setAcc s t k v) := by
  unfold State.setAcc
  repeat' first
    | with_reducible first | assumption | intro _
    | with_reducible first | apply State.modTile_keeps
    | with_reducible exact Keeps.refl _
    | (with_reducible refine Keeps.mk ?_ rfl rfl rfl rfl rfl)

theorem State.placeReads_keeps {s0 : State} (t : Nat) : ∀ (l : List (Sum Nat Nat)) (s : State) (errs : Nat), Keeps s0 s → Keeps s0 (s.placeReads t l errs).2
  | [], _, _, h => h
  | .inl w :: r, s, errs, h => by
    unfold State.placeReads
    exact State.placeReads_keeps t r _ _ (State.padRead_keeps _ _ _ _ h)
  | .inr k :: r, s, errs, h => by
    unfold State.placeReads
    exact State.placeReads_keeps t r _ _ h
theorem State.placeReads_keeps_e {s0 s t1 : State} {t : Nat} {l : List (Sum Nat Nat)} {errs : Nat} {x : List VReg} (e : s.placeReads t l errs = (x, t1)) (h : Keeps s0 s) : Keeps s0 t1 := by
  have k := State.placeReads_keeps t l s errs h
  rw [e] at k
  exact k

theorem State.placeWrite_keeps {s0 : State} (s : State) (t : Nat) (a : Sum Nat Nat) (v : VReg) (kh : Keeps s0 s) : Keeps s0 (State.placeWrite s t a v) := by
  unfold State.placeWrite
  repeat' first
    | with_reducible first | assumption | intro _
    | with_reducible first | apply State.setAcc_keeps | apply State.padWrite_keeps
    | split
    | with_reducible exact Keeps.refl _

theorem State.putSpan_keeps {s0 : State} (s : State) (t h row w e : Nat) (v : List Nat) (p : Bool) (k : State → State) (kh : Keeps s0 s) (hk : ∀ a0, Keeps s0 a0 → Keeps s0 (k a0)) : Keeps s0 (State.putSpan s t h row w e v p k) := by
  unfold State.putSpan
  repeat' first
    | with_reducible first | assumption | intro _
    | (extract_lets +onlyGivenNames x
       first
       | (refine Keeps.via (x := x) ?_ fun kh1 => ?_; rotate_left; clear_value x; rotate_left; subst x)
       | clear_value x)
    | with_reducible first | apply hk | apply State.padWrites_keeps | apply State.padRead_keeps
    | refine State.padRead_keeps_e (by with_reducible assumption) ?_
    | with_reducible first | apply State.try'_keeps
    | split
    | with_reducible exact Keeps.refl _

end Sys2Proof.Machine
end

