-- ==== Sys2Proof/Laws/KeepsSpad.lean ====
section
/-! SUPPORT. Every operation of Machine/Spad.lean keeps the queue and the canonical form. -/

namespace Sys2Proof.Machine

theorem execAgset_keeps {s0 : State} (c : TCtl) (ctx : Nat) (v : AgCtx) (s : State) (kh : Keeps s0 s) : KeepsO s0 (execAgset c ctx v s) := by
  unfold execAgset
  repeat' first
    | with_reducible first | assumption | intro _
    | with_reducible first | apply State.issue_keeps | apply State.modTile_keeps | apply KeepsO.next
    | with_reducible exact Keeps.refl _
    | (with_reducible refine Keeps.mk ?_ rfl rfl rfl rfl rfl)

theorem State.loadWindow_keeps {s0 : State} (s : State) (c : TCtl) (ctx vreg : Nat) (d : Conv) (kh : Keeps s0 s) : Keeps s0 (State.loadWindow s c ctx vreg d) := by
  unfold State.loadWindow
  repeat' first
    | with_reducible first | assumption | intro _
    | (extract_lets +onlyGivenNames x
       first
       | (refine Keeps.via (x := x) ?_ fun kh1 => ?_; rotate_left; clear_value x; rotate_left; subst x)
       | clear_value x)
    | with_reducible first | apply State.setVreg_keeps | apply State.padRead_keeps
    | refine State.padRead_keeps_e (by with_reducible assumption) ?_
    | with_reducible first | apply State.claim_keeps | apply State.walkOn_keeps | apply State.try'_keeps
    | split
    | with_reducible exact Keeps.refl _

theorem State.loadLine_keeps {s0 : State} (s : State) (c : TCtl) (ctx : Nat) (l : List Nat) (kh : Keeps s0 s) : Keeps s0 (State.loadLine s c ctx l) := by
  unfold State.loadLine
  repeat' first
    | with_reducible first | assumption | intro _
    | (extract_lets +onlyGivenNames x
       first
       | (refine Keeps.via (x := x) ?_ fun kh1 => ?_; rotate_left; clear_value x; rotate_left; subst x)
       | clear_value x)
    | with_reducible first | apply State.padReads_keeps
    | refine State.padReads_keeps_e (by with_reducible assumption) ?_
    | with_reducible first | apply State.claim_keeps | apply State.try'_keeps | apply State.modTile_keeps
    | split
    | with_reducible exact Keeps.refl _
    | (with_reducible refine Keeps.mk ?_ rfl rfl rfl rfl rfl)

theorem State.storeLine_keeps {s0 : State} (s : State) (c : TCtl) (ctx : Nat) (l : List Nat) (kh : Keeps s0 s) : Keeps s0 (State.storeLine s c ctx l) := by
  unfold State.storeLine
  repeat' first
    | with_reducible first | assumption | intro _
    | with_reducible first | apply State.padWrites_keeps | apply State.claim_keeps | apply State.try'_keeps
    | with_reducible exact Keeps.refl _

theorem State.loadWord_keeps {s0 : State} (s : State) (c : TCtl) (ctx vreg : Nat) (kh : Keeps s0 s) : Keeps s0 (State.loadWord s c ctx vreg) := by
  unfold State.loadWord
  repeat' first
    | with_reducible first | assumption | intro _
    | (extract_lets +onlyGivenNames x
       first
       | (refine Keeps.via (x := x) ?_ fun kh1 => ?_; rotate_left; clear_value x; rotate_left; subst x)
       | clear_value x)
    | with_reducible first | apply State.loadWindow_keeps | apply State.setVreg_keeps | apply State.padRead_keeps
    | refine State.padRead_keeps_e (by with_reducible assumption) ?_
    | with_reducible first | apply State.claim_keeps | apply State.walkOn_keeps | apply State.try'_keeps
    | split
    | with_reducible exact Keeps.refl _

theorem execSld_keeps {s0 : State} (c : TCtl) (ctx : Nat) (form : SpadForm) (s : State) (kh : Keeps s0 s) : KeepsO s0 (execSld c ctx form s) := by
  unfold execSld
  repeat' first
    | with_reducible first | assumption | intro _
    | with_reducible first | apply State.loadWord_keeps | apply State.loadLine_keeps | apply State.issue_keeps | apply KeepsO.next
    | split
    | with_reducible exact Keeps.refl _

theorem State.storeWord_keeps {s0 : State} (s : State) (c : TCtl) (ctx vreg : Nat) (kh : Keeps s0 s) : Keeps s0 (State.storeWord s c ctx vreg) := by
  unfold State.storeWord
  repeat' first
    | with_reducible first | assumption | intro _
    | (extract_lets +onlyGivenNames x
       first
       | (refine Keeps.via (x := x) ?_ fun kh1 => ?_; rotate_left; clear_value x; rotate_left; subst x)
       | clear_value x)
    | with_reducible first | apply State.padWrite_keeps | apply State.claim_keeps | apply State.walkOn_keeps | apply State.try'_keeps
    | split
    | with_reducible exact Keeps.refl _

theorem execSst_keeps {s0 : State} (c : TCtl) (ctx : Nat) (form : SpadForm) (s : State) (kh : Keeps s0 s) : KeepsO s0 (execSst c ctx form s) := by
  unfold execSst
  repeat' first
    | with_reducible first | assumption | intro _
    | with_reducible first | apply State.storeWord_keeps | apply State.storeLine_keeps | apply State.issue_keeps | apply KeepsO.next
    | split
    | with_reducible exact Keeps.refl _

end Sys2Proof.Machine
end

