-- ==== Sys2Proof/Laws/KeepsArray.lean ====
section
/-! SUPPORT. Every operation of Machine/Array.lean keeps the queue and the canonical form. -/

namespace Sys2Proof.Machine

theorem execWload_keeps {s0 : State} (c : TCtl) (h off fmt : Nat) (s : State) (kh : Keeps s0 s) : KeepsO s0 (execWload c h off fmt s) := by
  unfold execWload
  repeat' first
    | with_reducible first | assumption | intro _
    | (extract_lets +onlyGivenNames x
       first
       | (refine Keeps.via (x := x) ?_ fun kh1 => ?_; rotate_left; clear_value x; rotate_left; subst x)
       | (refine KeepsO.via (x := x) ?_ fun kh1 => ?_; rotate_left; clear_value x; rotate_left; subst x)
       | clear_value x)
    | with_reducible first | apply State.padReads_keeps
    | refine State.padReads_keeps_e (by with_reducible assumption) ?_
    | with_reducible first | apply State.claim_keeps | apply State.try'_keeps | apply State.issue_keeps | apply State.modTile_keeps | apply KeepsO.next
    | split
    | with_reducible exact Keeps.refl _
    | (with_reducible refine Keeps.mk ?_ rfl rfl rfl rfl rfl)

theorem State.accumulate_keeps {s0 : State} (s : State) (t : Nat) (aFmt wFmt row : Nat) (r : ActRow) (ws : List (Nat × Bool)) (bias : Option (List Nat × Bool)) (o : Option (List (Sum32 × Bool))) (kh : Keeps s0 s) : Keeps s0 (State.accumulate s t aFmt wFmt row r ws bias o) := by
  unfold State.accumulate
  repeat' first
    | with_reducible first | assumption | intro _
    | (extract_lets +onlyGivenNames x
       first
       | (refine Keeps.via (x := x) ?_ fun kh1 => ?_; rotate_left; clear_value x; rotate_left; subst x)
       | clear_value x)
    | with_reducible first | apply State.setAcc_keeps | apply State.raiseNum_keeps | apply State.raiseChecks_keeps
    | split
    | with_reducible exact Keeps.refl _

theorem State.streamRows_keeps {s0 : State} (t : Nat) (a : AgCtx) (cyc row : Nat) (bias : Option (List Nat × Bool)) (ws : List (Nat × Bool)) :
    ∀ (n : Nat) (s : State) (m : Nat), Keeps s0 s → Keeps s0 (s.streamRows t a cyc row bias ws m n)
  | 0, _, _, h => h
  | n + 1, s, m, h => by
    unfold State.streamRows
    repeat' first
      | with_reducible first | assumption | intro _
      | (extract_lets +onlyGivenNames x
         first
         | (refine Keeps.via (x := x) ?_ fun kh1 => ?_; rotate_left; clear_value x; rotate_left; subst x)
         | clear_value x)
      | with_reducible first | apply State.streamRows_keeps t a cyc row bias ws n | apply State.accumulate_keeps | apply State.tileAbort_keeps | apply State.modTile_keeps
      | split
      | with_reducible exact Keeps.refl _
      | (with_reducible refine Keeps.mk ?_ rfl rfl rfl rfl rfl)

theorem execMstream_keeps {s0 : State} (c : TCtl) (n ctx row : Nat) (s : State) (kh : Keeps s0 s) : KeepsO s0 (execMstream c n ctx row s) := by
  unfold execMstream
  repeat' first
    | with_reducible first | assumption | intro _
    | (extract_lets +onlyGivenNames x
       first
       | (refine Keeps.via (x := x) ?_ fun kh1 => ?_; rotate_left; clear_value x; rotate_left; subst x)
       | (refine KeepsO.via (x := x) ?_ fun kh1 => ?_; rotate_left; clear_value x; rotate_left; subst x)
       | clear_value x)
    | with_reducible first | apply State.streamRows_keeps | apply State.walkOn_keeps | apply State.issue_keeps | apply State.tileAbort_keeps | apply State.modTile_keeps | apply KeepsO.next
    | split
    | with_reducible exact Keeps.refl _
    | (with_reducible refine Keeps.mk ?_ rfl rfl rfl rfl rfl)

theorem execAclr_keeps {s0 : State} (c : TCtl) (row n : Nat) (s : State) (kh : Keeps s0 s) : KeepsO s0 (execAclr c row n s) := by
  unfold execAclr
  repeat' first
    | with_reducible first | assumption | intro _
    | with_reducible first | apply State.issue_keeps | apply State.modTile_keeps | apply KeepsO.next
    | with_reducible exact Keeps.refl _
    | (with_reducible refine Keeps.mk ?_ rfl rfl rfl rfl rfl)

end Sys2Proof.Machine
end

