-- ==== Sys2Proof/Laws/KeepsBamset.lean ====
section
/-! SUPPORT. Every operation of Machine/Bamset.lean keeps the queue and the canonical form. -/

namespace Sys2Proof.Machine

theorem State.modBam_keeps {s0 : State} (s : State) (p : Nat) (f : BamPort → BamPort) (kh : Keeps s0 s) : Keeps s0 (State.modBam s p f) := by
  unfold State.modBam
  repeat' first
    | with_reducible first | assumption | intro _
    | with_reducible exact Keeps.refl _
    | (with_reducible refine Keeps.mk ?_ rfl rfl rfl rfl rfl)

theorem State.linkTrain_keeps {s0 : State} (s : State) (p lanes : Nat) (kh : Keeps s0 s) : Keeps s0 (State.linkTrain s p lanes) := by
  unfold State.linkTrain
  repeat' first
    | with_reducible first | assumption | intro _
    | with_reducible first | apply State.modBam_keeps | apply State.setRegN_keeps
    | with_reducible exact Keeps.refl _
    | (with_reducible refine Keeps.mk ?_ rfl rfl rfl rfl rfl)

theorem State.linkDown_keeps {s0 : State} (s : State) (p : Nat) (kh : Keeps s0 s) : Keeps s0 (State.linkDown s p) := by
  unfold State.linkDown
  repeat' first
    | with_reducible first | assumption | intro _
    | (extract_lets +onlyGivenNames x
       first
       | (refine Keeps.via (x := x) ?_ fun kh1 => ?_; rotate_left; clear_value x; rotate_left; subst x)
       | clear_value x)
    | with_reducible first | apply State.modBam_keeps | apply State.setRegN_keeps
    | split
    | with_reducible exact Keeps.refl _
    | (with_reducible refine Keeps.mk ?_ rfl rfl rfl rfl rfl)

theorem State.bamCfgWrite_keeps {s0 : State} (s : State) (p v : Nat) (kh : Keeps s0 s) : Keeps s0 (State.bamCfgWrite s p v).1 := by
  unfold State.bamCfgWrite
  repeat' first
    | with_reducible first | assumption | intro _
    | (extract_lets +onlyGivenNames x
       first
       | (refine Keeps.via (x := x) ?_ fun kh1 => ?_; rotate_left; clear_value x; rotate_left; subst x)
       | clear_value x)
    | with_reducible first | apply State.linkDown_keeps | apply State.linkTrain_keeps | apply accept_keeps
    | refine accept_keeps_e (by with_reducible assumption) ?_
    | with_reducible first | apply State.setRegN_keeps
    | split
    | with_reducible exact Keeps.refl _
theorem State.bamCfgWrite_keeps_e {s0 : State} {s : State} {p v : Nat} {x0 x1} (ke : (State.bamCfgWrite s p v) = (x0, x1)) (kh : Keeps s0 s) : Keeps s0 x0 := by
  have k := State.bamCfgWrite_keeps s p v kh
  rw [ke] at k
  exact k

theorem execBamPortEnable_keeps {s0 : State} (m p : Nat) (v : Dword) (s : State) (kh : Keeps s0 s) : KeepsO s0 (execBamPortEnable m p v s) := by
  unfold execBamPortEnable
  repeat' first
    | with_reducible first | assumption | intro _
    | with_reducible first | apply State.bamCfgWrite_keeps
    | refine State.bamCfgWrite_keeps_e (by with_reducible assumption) ?_
    | with_reducible first | apply State.regBus_keeps | apply KeepsO.next
    | with_reducible exact Keeps.refl _

theorem execTrainingDone_keeps {s0 : State} (p lat : Nat) (good : Bool) (s : State) (kh : Keeps s0 s) : KeepsO s0 (execTrainingDone p lat good s) := by
  unfold execTrainingDone
  repeat' first
    | with_reducible first | assumption | intro _
    | (extract_lets +onlyGivenNames x
       first
       | (refine Keeps.via (x := x) ?_ fun kh1 => ?_; rotate_left; clear_value x; rotate_left; subst x)
       | (refine KeepsO.via (x := x) ?_ fun kh1 => ?_; rotate_left; clear_value x; rotate_left; subst x)
       | clear_value x)
    | with_reducible first | apply State.linkDown_keeps | apply State.postC_keeps | apply State.setRegN_keeps | apply KeepsO.next
    | split
    | with_reducible exact Keeps.refl _

theorem State.linkLost_keeps {s0 : State} (s : State) (p : Nat) (kh : Keeps s0 s) : Keeps s0 (State.linkLost s p) := by
  unfold State.linkLost
  repeat' first
    | with_reducible first | assumption | intro _
    | (extract_lets +onlyGivenNames x
       first
       | (refine Keeps.via (x := x) ?_ fun kh1 => ?_; rotate_left; clear_value x; rotate_left; subst x)
       | clear_value x)
    | with_reducible first | apply State.linkDown_keeps | apply State.linkTrain_keeps | apply State.postC_keeps
    | split
    | with_reducible exact Keeps.refl _

theorem execLaneLoss_keeps {s0 : State} (p : Nat) (s : State) (kh : Keeps s0 s) : KeepsO s0 (execLaneLoss p s) := by
  unfold execLaneLoss
  repeat' first
    | with_reducible first | assumption | intro _
    | with_reducible first | apply State.linkLost_keeps | apply KeepsO.next
    | split
    | with_reducible exact Keeps.refl _

theorem State.flitRetry_keeps {s0 : State} (s : State) (p : Nat) (kh : Keeps s0 s) : Keeps s0 (State.flitRetry s p) := by
  unfold State.flitRetry
  repeat' first
    | with_reducible first | assumption | intro _
    | (extract_lets +onlyGivenNames x
       first
       | (refine Keeps.via (x := x) ?_ fun kh1 => ?_; rotate_left; clear_value x; rotate_left; subst x)
       | clear_value x)
    | with_reducible first | apply State.postC_keeps | apply State.incReg_keeps
    | split
    | with_reducible exact Keeps.refl _

theorem execHello_keeps {s0 : State} (p : Nat) (s : State) (kh : Keeps s0 s) : KeepsO s0 (execHello p s) := by
  unfold execHello
  repeat' first
    | with_reducible first | assumption | intro _
    | (extract_lets +onlyGivenNames x
       first
       | (refine Keeps.via (x := x) ?_ fun kh1 => ?_; rotate_left; clear_value x; rotate_left; subst x)
       | (refine KeepsO.via (x := x) ?_ fun kh1 => ?_; rotate_left; clear_value x; rotate_left; subst x)
       | clear_value x)
    | with_reducible first | apply State.modBam_keeps | apply KeepsO.next
    | split
    | with_reducible exact Keeps.refl _
    | (with_reducible refine Keeps.mk ?_ rfl rfl rfl rfl rfl)

theorem State.meet_keeps {s0 : State} (s : State) (p : Nat) (h : Hello) (kh : Keeps s0 s) : Keeps s0 (State.meet s p h) := by
  unfold State.meet
  repeat' first
    | with_reducible first | assumption | intro _
    | (extract_lets +onlyGivenNames x
       first
       | (refine Keeps.via (x := x) ?_ fun kh1 => ?_; rotate_left; clear_value x; rotate_left; subst x)
       | clear_value x)
    | with_reducible first | apply State.modBam_keeps | apply State.postC_keeps | apply State.setRegN_keeps
    | split
    | with_reducible exact Keeps.refl _
    | (with_reducible refine Keeps.mk ?_ rfl rfl rfl rfl rfl)

theorem execHelloReceive_keeps {s0 : State} (p : Nat) (direct : Bool) (h : Hello) (s : State) (kh : Keeps s0 s) : KeepsO s0 (execHelloReceive p direct h s) := by
  unfold execHelloReceive
  repeat' first
    | with_reducible first | assumption | intro _
    | (extract_lets +onlyGivenNames x
       first
       | (refine Keeps.via (x := x) ?_ fun kh1 => ?_; rotate_left; clear_value x; rotate_left; subst x)
       | (refine KeepsO.via (x := x) ?_ fun kh1 => ?_; rotate_left; clear_value x; rotate_left; subst x)
       | clear_value x)
    | with_reducible first | apply State.meet_keeps | apply State.modBam_keeps | apply State.each_keeps | apply KeepsO.next
    | split
    | with_reducible exact Keeps.refl _
    | (with_reducible refine Keeps.mk ?_ rfl rfl rfl rfl rfl)

theorem State.startDiscovery_keeps {s0 : State} (s : State) (kh : Keeps s0 s) : Keeps s0 (State.startDiscovery s) := by
  unfold State.startDiscovery
  repeat' first
    | with_reducible first | assumption | intro _
    | (extract_lets +onlyGivenNames x
       first
       | (refine Keeps.via (x := x) ?_ fun kh1 => ?_; rotate_left; clear_value x; rotate_left; subst x)
       | clear_value x)
    | with_reducible first | apply State.setBit_keeps
    | split
    | with_reducible exact Keeps.refl _
    | (with_reducible refine Keeps.mk ?_ rfl rfl rfl rfl rfl)

theorem State.endDiscovery_keeps {s0 : State} (s : State) (kh : Keeps s0 s) : Keeps s0 (State.endDiscovery s) := by
  unfold State.endDiscovery
  repeat' first
    | with_reducible first | assumption | intro _
    | (extract_lets +onlyGivenNames x
       first
       | (refine Keeps.via (x := x) ?_ fun kh1 => ?_; rotate_left; clear_value x; rotate_left; subst x)
       | clear_value x)
    | with_reducible first | apply State.setBit_keeps
    | split
    | with_reducible exact Keeps.refl _
    | (with_reducible refine Keeps.mk ?_ rfl rfl rfl rfl rfl)

theorem State.bamCtrlWrite_keeps {s0 : State} (s : State) (v : Nat) (kh : Keeps s0 s) : Keeps s0 (State.bamCtrlWrite s v).1 := by
  unfold State.bamCtrlWrite
  repeat' first
    | with_reducible first | assumption | intro _
    | (extract_lets +onlyGivenNames x
       first
       | (refine Keeps.via (x := x) ?_ fun kh1 => ?_; rotate_left; clear_value x; rotate_left; subst x)
       | clear_value x)
    | with_reducible first | apply State.startDiscovery_keeps | apply accept_keeps
    | refine accept_keeps_e (by with_reducible assumption) ?_
    | with_reducible first | apply State.setBit_keeps
    | split
    | with_reducible exact Keeps.refl _
theorem State.bamCtrlWrite_keeps_e {s0 : State} {s : State} {v : Nat} {x0 x1} (ke : (State.bamCtrlWrite s v) = (x0, x1)) (kh : Keeps s0 s) : Keeps s0 x0 := by
  have k := State.bamCtrlWrite_keeps s v kh
  rw [ke] at k
  exact k

theorem execDiscover_keeps {s0 : State} (m : Nat) (v : Dword) (s : State) (kh : Keeps s0 s) : KeepsO s0 (execDiscover m v s) := by
  unfold execDiscover
  repeat' first
    | with_reducible first | assumption | intro _
    | with_reducible first | apply State.bamCtrlWrite_keeps
    | refine State.bamCtrlWrite_keeps_e (by with_reducible assumption) ?_
    | with_reducible first | apply State.regBus_keeps | apply KeepsO.next
    | with_reducible exact Keeps.refl _

theorem execDiscoveryRun_keeps {s0 : State} (s : State) (kh : Keeps s0 s) : KeepsO s0 (execDiscoveryRun s) := by
  unfold execDiscoveryRun
  repeat' first
    | with_reducible first | assumption | intro _
    | with_reducible first | apply State.startDiscovery_keeps | apply KeepsO.next
    | split
    | with_reducible exact Keeps.refl _

theorem State.computeResult_keeps {s0 : State} (s : State) (ds : List Hello) (kh : Keeps s0 s) : Keeps s0 (State.computeResult s ds) := by
  unfold State.computeResult
  repeat' first
    | with_reducible first | assumption | intro _
    | (extract_lets +onlyGivenNames x
       first
       | (refine Keeps.via (x := x) ?_ fun kh1 => ?_; rotate_left; clear_value x; rotate_left; subst x)
       | clear_value x)
    | with_reducible first | apply State.each_keeps | apply State.post_keeps
    | split
    | with_reducible exact Keeps.refl _
    | (with_reducible refine Keeps.mk ?_ rfl rfl rfl rfl rfl)

theorem execDiscoveryQuiet_keeps {s0 : State} (s : State) (kh : Keeps s0 s) : KeepsO s0 (execDiscoveryQuiet s) := by
  unfold execDiscoveryQuiet
  repeat' first
    | with_reducible first | assumption | intro _
    | (extract_lets +onlyGivenNames x
       first
       | (refine Keeps.via (x := x) ?_ fun kh1 => ?_; rotate_left; clear_value x; rotate_left; subst x)
       | (refine KeepsO.via (x := x) ?_ fun kh1 => ?_; rotate_left; clear_value x; rotate_left; subst x)
       | clear_value x)
    | with_reducible first | apply State.computeResult_keeps | apply State.endDiscovery_keeps | apply State.postC_keeps | apply KeepsO.next
    | split
    | with_reducible exact Keeps.refl _

theorem execDiscoveryResultReceive_keeps {s0 : State} (r : DiscResult) (s : State) (kh : Keeps s0 s) : KeepsO s0 (execDiscoveryResultReceive r s) := by
  unfold execDiscoveryResultReceive
  repeat' first
    | with_reducible first | assumption | intro _
    | with_reducible first | apply KeepsO.next
    | split
    | with_reducible exact Keeps.refl _
    | (with_reducible refine Keeps.mk ?_ rfl rfl rfl rfl rfl)

theorem execDiscoveryAcknowledgement_keeps {s0 : State} (fp : Nat) (s : State) (kh : Keeps s0 s) : KeepsO s0 (execDiscoveryAcknowledgement fp s) := by
  unfold execDiscoveryAcknowledgement
  repeat' first
    | with_reducible first | assumption | intro _
    | (extract_lets +onlyGivenNames x
       first
       | (refine Keeps.via (x := x) ?_ fun kh1 => ?_; rotate_left; clear_value x; rotate_left; subst x)
       | (refine KeepsO.via (x := x) ?_ fun kh1 => ?_; rotate_left; clear_value x; rotate_left; subst x)
       | clear_value x)
    | with_reducible first | apply KeepsO.next
    | split
    | with_reducible exact Keeps.refl _
    | (with_reducible refine Keeps.mk ?_ rfl rfl rfl rfl rfl)

theorem State.commitResult_keeps {s0 : State} (s : State) (r : DiscResult) (kh : Keeps s0 s) : Keeps s0 (State.commitResult s r) := by
  unfold State.commitResult
  repeat' first
    | with_reducible first | assumption | intro _
    | (extract_lets +onlyGivenNames x
       first
       | (refine Keeps.via (x := x) ?_ fun kh1 => ?_; rotate_left; clear_value x; rotate_left; subst x)
       | clear_value x)
    | with_reducible first | apply State.endDiscovery_keeps | apply State.each_keeps | apply State.postC_keeps | apply State.resetRegs_keeps | apply State.setFld_keeps | apply State.setRegN_keeps
    | split
    | with_reducible exact Keeps.refl _
    | (with_reducible refine Keeps.mk ?_ rfl rfl rfl rfl rfl)

theorem execDiscoveryCommit_keeps {s0 : State} (s : State) (kh : Keeps s0 s) : KeepsO s0 (execDiscoveryCommit s) := by
  unfold execDiscoveryCommit
  repeat' first
    | with_reducible first | assumption | intro _
    | with_reducible first | apply State.commitResult_keeps | apply KeepsO.next
    | split
    | with_reducible exact Keeps.refl _

theorem execAckTimeout_keeps {s0 : State} (s : State) (kh : Keeps s0 s) : KeepsO s0 (execAckTimeout s) := by
  unfold execAckTimeout
  repeat' first
    | with_reducible first | assumption | intro _
    | with_reducible first | apply State.endDiscovery_keeps | apply State.post_keeps | apply KeepsO.next
    | split
    | with_reducible exact Keeps.refl _
    | (with_reducible refine Keeps.mk ?_ rfl rfl rfl rfl rfl)

theorem State.sendPacket_keeps {s0 : State} (s : State) (q : Nat) (k : BamPacket) (kh : Keeps s0 s) : Keeps s0 (State.sendPacket s q k) := by
  unfold State.sendPacket
  repeat' first
    | with_reducible first | assumption | intro _
    | (extract_lets +onlyGivenNames x
       first
       | (refine Keeps.via (x := x) ?_ fun kh1 => ?_; rotate_left; clear_value x; rotate_left; subst x)
       | clear_value x)
    | with_reducible first | apply State.modBam_keeps | apply State.post_keeps
    | split
    | with_reducible exact Keeps.refl _
    | (with_reducible refine Keeps.mk ?_ rfl rfl rfl rfl rfl)

theorem execTimeMessageSend_keeps {s0 : State} (s : State) (kh : Keeps s0 s) : KeepsO s0 (execTimeMessageSend s) := by
  unfold execTimeMessageSend
  repeat' first
    | with_reducible first | assumption | intro _
    | with_reducible first | apply State.modBam_keeps | apply State.each_keeps | apply KeepsO.next
    | split
    | with_reducible exact Keeps.refl _
    | (with_reducible refine Keeps.mk ?_ rfl rfl rfl rfl rfl)

theorem execTimeMessageReceive_keeps {s0 : State} (p t residence : Nat) (retried : Bool) (s : State) (kh : Keeps s0 s) : KeepsO s0 (execTimeMessageReceive p t residence retried s) := by
  unfold execTimeMessageReceive
  repeat' first
    | with_reducible first | assumption | intro _
    | (extract_lets +onlyGivenNames x
       first
       | (refine Keeps.via (x := x) ?_ fun kh1 => ?_; rotate_left; clear_value x; rotate_left; subst x)
       | (refine KeepsO.via (x := x) ?_ fun kh1 => ?_; rotate_left; clear_value x; rotate_left; subst x)
       | clear_value x)
    | with_reducible first | apply State.flitRetry_keeps | apply State.modBam_keeps | apply State.servoTo_keeps | apply State.each_keeps | apply KeepsO.next
    | split
    | with_reducible exact Keeps.refl _
    | (with_reducible refine Keeps.mk ?_ rfl rfl rfl rfl rfl)

theorem State.mirrorWrite_keeps {s0 : State} (s : State) (c v producer : Nat) (kh : Keeps s0 s) : Keeps s0 (State.mirrorWrite s c v producer).1 := by
  unfold State.mirrorWrite
  repeat' first
    | with_reducible first | assumption | intro _
    | (extract_lets +onlyGivenNames x
       first
       | (refine Keeps.via (x := x) ?_ fun kh1 => ?_; rotate_left; clear_value x; rotate_left; subst x)
       | clear_value x)
    | with_reducible first | apply State.setHoD_keeps | apply refuse_keeps
    | refine refuse_keeps_e (by with_reducible assumption) ?_
    | with_reducible first | apply accept_keeps
    | refine accept_keeps_e (by with_reducible assumption) ?_
    | with_reducible first | apply State.setBit_keeps | apply State.setRegN_keeps
    | split
    | with_reducible exact Keeps.refl _
    | (with_reducible refine Keeps.mk ?_ rfl rfl rfl rfl rfl)
theorem State.mirrorWrite_keeps_e {s0 : State} {s : State} {c v producer : Nat} {x0 x1} (ke : (State.mirrorWrite s c v producer) = (x0, x1)) (kh : Keeps s0 s) : Keeps s0 x0 := by
  have k := State.mirrorWrite_keeps s c v producer kh
  rw [ke] at k
  exact k

theorem execMirrorEnable_keeps {s0 : State} (m c : Nat) (v : Dword) (producer : Nat) (s : State) (kh : Keeps s0 s) : KeepsO s0 (execMirrorEnable m c v producer s) := by
  unfold execMirrorEnable
  repeat' first
    | with_reducible first | assumption | intro _
    | with_reducible first | apply State.mirrorWrite_keeps
    | refine State.mirrorWrite_keeps_e (by with_reducible assumption) ?_
    | with_reducible first | apply State.regBus_keeps | apply KeepsO.next
    | with_reducible exact Keeps.refl _

theorem execMirrorCopyDone_keeps {s0 : State} (c : Nat) (good : Bool) (s : State) (kh : Keeps s0 s) : KeepsO s0 (execMirrorCopyDone c good s) := by
  unfold execMirrorCopyDone
  repeat' first
    | with_reducible first | assumption | intro _
    | (extract_lets +onlyGivenNames x
       first
       | (refine Keeps.via (x := x) ?_ fun kh1 => ?_; rotate_left; clear_value x; rotate_left; subst x)
       | (refine KeepsO.via (x := x) ?_ fun kh1 => ?_; rotate_left; clear_value x; rotate_left; subst x)
       | clear_value x)
    | with_reducible first | apply State.mirrorStart_keeps | apply State.setHoD_keeps | apply State.refuseAccess_keeps | apply State.postC_keeps | apply State.setBit_keeps | apply State.setFld_keeps | apply KeepsO.next
    | split
    | with_reducible exact Keeps.refl _
    | (with_reducible refine Keeps.mk ?_ rfl rfl rfl rfl rfl)

theorem State.twinWrite_keeps {s0 : State} (s : State) (k v tiles : Nat) (hash : Dword) (kh : Keeps s0 s) : Keeps s0 (State.twinWrite s k v tiles hash).1 := by
  unfold State.twinWrite
  repeat' first
    | with_reducible first | assumption | intro _
    | (extract_lets +onlyGivenNames x
       first
       | (refine Keeps.via (x := x) ?_ fun kh1 => ?_; rotate_left; clear_value x; rotate_left; subst x)
       | clear_value x)
    | with_reducible first | apply refuse_keeps
    | refine refuse_keeps_e (by with_reducible assumption) ?_
    | with_reducible first | apply accept_keeps
    | refine accept_keeps_e (by with_reducible assumption) ?_
    | with_reducible first | apply State.setBit_keeps | apply State.setRegN_keeps
    | split
    | with_reducible exact Keeps.refl _
    | (with_reducible refine Keeps.mk ?_ rfl rfl rfl rfl rfl)
theorem State.twinWrite_keeps_e {s0 : State} {s : State} {k v tiles : Nat} {hash : Dword} {x0 x1} (ke : (State.twinWrite s k v tiles hash) = (x0, x1)) (kh : Keeps s0 s) : Keeps s0 x0 := by
  have k := State.twinWrite_keeps s k v tiles hash kh
  rw [ke] at k
  exact k

theorem execTwinBindingEnable_keeps {s0 : State} (m k : Nat) (v : Dword) (tiles : Nat) (hash : Dword) (s : State) (kh : Keeps s0 s) : KeepsO s0 (execTwinBindingEnable m k v tiles hash s) := by
  unfold execTwinBindingEnable
  repeat' first
    | with_reducible first | assumption | intro _
    | with_reducible first | apply State.twinWrite_keeps
    | refine State.twinWrite_keeps_e (by with_reducible assumption) ?_
    | with_reducible first | apply State.regBus_keeps | apply KeepsO.next
    | with_reducible exact Keeps.refl _

theorem State.bamPortReset_keeps {s0 : State} (s : State) (p : Nat) (kh : Keeps s0 s) : Keeps s0 (State.bamPortReset s p) := by
  unfold State.bamPortReset
  repeat' first
    | with_reducible first | assumption | intro _
    | (extract_lets +onlyGivenNames x
       first
       | (refine Keeps.via (x := x) ?_ fun kh1 => ?_; rotate_left; clear_value x; rotate_left; subst x)
       | clear_value x)
    | with_reducible first | apply State.linkDown_keeps | apply State.linkTrain_keeps
    | split
    | with_reducible exact Keeps.refl _

end Sys2Proof.Machine
end

