-- ==== Sys2Proof/Laws/KeepsMemory.lean ====
section
/-! SUPPORT. Every operation of Machine/Memory.lean keeps the queue and the canonical form. -/

namespace Sys2Proof.Machine

theorem State.vote_keeps {s0 : State} (s : State) (a : Nat) (kh : Keeps s0 s) : Keeps s0 (State.vote s a) := by
  unfold State.vote
  repeat' first
    | with_reducible first | assumption | intro _
    | (extract_lets +onlyGivenNames x
       first
       | (refine Keeps.via (x := x) ?_ fun kh1 => ?_; rotate_left; clear_value x; rotate_left; subst x)
       | clear_value x)
    | with_reducible first | apply State.post_keeps | apply State.setReg_keeps
    | split
    | with_reducible exact Keeps.refl _

theorem execTmrSweep_keeps {s0 : State} (upsets : List Upset) (s : State) (kh : Keeps s0 s) : KeepsO s0 (execTmrSweep upsets s) := by
  unfold execTmrSweep
  repeat' first
    | with_reducible first | assumption | intro _
    | with_reducible first | apply State.upset_keeps | apply State.vote_keeps | apply State.each_keeps | apply KeepsO.next
    | with_reducible exact Keeps.refl _

theorem State.clearCet_keeps {s0 : State} (s : State) (d v : Nat) (kh : Keeps s0 s) : Keeps s0 (State.clearCet s d v) := by
  unfold State.clearCet
  repeat' first
    | with_reducible first | assumption | intro _
    | with_reducible first | apply State.setCet_keeps | apply State.each_keeps
    | split
    | with_reducible exact Keeps.refl _

theorem execCdnCetClr_keeps {s0 : State} (m n : Nat) (v : Dword) (s : State) (kh : Keeps s0 s) : KeepsO s0 (execCdnCetClr m n v s) := by
  unfold execCdnCetClr
  repeat' first
    | with_reducible first | assumption | intro _
    | with_reducible first | apply State.clearCet_keeps | apply accept_keeps
    | refine accept_keeps_e (by with_reducible assumption) ?_
    | with_reducible first | apply State.regBus_keeps | apply KeepsO.next
    | with_reducible exact Keeps.refl _

end Sys2Proof.Machine
end

