-- ==== Sys2Proof/Laws/KeepsLaunch.lean ====
section
/-! SUPPORT. Every operation of Machine/Launch.lean keeps the queue and the canonical form. -/

namespace Sys2Proof.Machine

theorem State.tryLaunch_keeps {s0 : State} (s : State) (d : Due) (p j slice : Nat) (golden : Bool) (kh : Keeps s0 s) : Keeps s0 (State.tryLaunch s d p j slice golden).2 := by
  unfold State.tryLaunch
  extract_lets +onlyGivenNames f
  have hf : ∀ t, Keeps s0 t → Keeps s0 (f t).2 := by
    intro t ht
    subst f
    dsimp only
    repeat' first
      | with_reducible first | assumption | intro _
      | (extract_lets +onlyGivenNames x
         first
         | (refine Keeps.via (x := x) ?_ fun kh1 => ?_; rotate_left; clear_value x; rotate_left; subst x)
         | clear_value x)
      | with_reducible first | apply hf | apply State.startJob_keeps | apply State.targetGoneIn_keeps | apply State.reportRefused_keeps | apply refuse_keeps
      | refine refuse_keeps_e (by with_reducible assumption) ?_
      | with_reducible first | apply State.post_keeps | apply State.incReg_keeps
      | split
      | with_reducible exact Keeps.refl _
  clear_value f
  repeat' first
    | with_reducible first | assumption | intro _
    | (extract_lets +onlyGivenNames x
       first
       | (refine Keeps.via (x := x) ?_ fun kh1 => ?_; rotate_left; clear_value x; rotate_left; subst x)
       | clear_value x)
    | with_reducible first | apply hf | apply State.startJob_keeps | apply State.targetGoneIn_keeps | apply State.reportRefused_keeps | apply refuse_keeps
    | refine refuse_keeps_e (by with_reducible assumption) ?_
    | with_reducible first | apply State.post_keeps | apply State.incReg_keeps
    | split
    | with_reducible exact Keeps.refl _
theorem State.tryLaunch_keeps_e {s0 s t : State} {d : Due} {p j slice : Nat} {golden b : Bool} (ke : State.tryLaunch s d p j slice golden = (b, t)) (kh : Keeps s0 s) : Keeps s0 t := by
  have k := State.tryLaunch_keeps s d p j slice golden kh
  rw [ke] at k
  exact k

theorem execLaunch_keeps {s0 : State} (w e edge : Nat) (s : State) (kh : Keeps s0 s) : KeepsO s0 (execLaunch w e edge s) := by
  unfold execLaunch
  repeat' first
    | with_reducible first | assumption | intro _
    | with_reducible first | apply State.tryLaunch_keeps
    | refine State.tryLaunch_keeps_e (by with_reducible assumption) ?_
    | with_reducible first | apply State.onEntry_keeps | apply KeepsO.next
    | with_reducible exact Keeps.refl _

theorem State.withhold_keeps {s0 : State} (s : State) (p j i : Nat) (kh : Keeps s0 s) : Keeps s0 (State.withhold s p j i) := by
  unfold State.withhold
  repeat' first
    | with_reducible first | assumption | intro _
    | with_reducible first | apply State.reportRefused_keeps | apply State.modStream_keeps
    | with_reducible exact Keeps.refl _
    | (with_reducible refine Keeps.mk ?_ rfl rfl rfl rfl rfl)

theorem State.fireTwin_keeps {s0 : State} (s : State) (d : Due) (kh : Keeps s0 s) : Keeps s0 (State.fireTwin s d) := by
  unfold State.fireTwin
  repeat' first
    | with_reducible first | assumption | intro _
    | (extract_lets +onlyGivenNames x
       first
       | (refine Keeps.via (x := x) ?_ fun kh1 => ?_; rotate_left; clear_value x; rotate_left; subst x)
       | clear_value x)
    | with_reducible first | apply State.withhold_keeps | apply State.tryLaunch_keeps
    | refine State.tryLaunch_keeps_e (by with_reducible assumption) ?_
    | with_reducible first | apply State.targetGone_keeps
    | split
    | with_reducible exact Keeps.refl _
    | (with_reducible refine Keeps.mk ?_ rfl rfl rfl rfl rfl)

theorem execTwinLaunch_keeps {s0 : State} (w e edge : Nat) (s : State) (kh : Keeps s0 s) : KeepsO s0 (execTwinLaunch w e edge s) := by
  unfold execTwinLaunch
  repeat' first
    | with_reducible first | assumption | intro _
    | with_reducible first | apply State.fireTwin_keeps | apply State.onEntry_keeps | apply KeepsO.next
    | with_reducible exact Keeps.refl _

theorem execCopyBLaunch_keeps {s0 : State} (p : Nat) (s : State) (kh : Keeps s0 s) : KeepsO s0 (execCopyBLaunch p s) := by
  unfold execCopyBLaunch
  repeat' first
    | with_reducible first | assumption | intro _
    | (extract_lets +onlyGivenNames x
       first
       | (refine Keeps.via (x := x) ?_ fun kh1 => ?_; rotate_left; clear_value x; rotate_left; subst x)
       | (refine KeepsO.via (x := x) ?_ fun kh1 => ?_; rotate_left; clear_value x; rotate_left; subst x)
       | clear_value x)
    | with_reducible first | apply State.tryLaunch_keeps
    | refine State.tryLaunch_keeps_e (by with_reducible assumption) ?_
    | with_reducible first | apply KeepsO.next
    | split
    | with_reducible exact Keeps.refl _
    | (with_reducible refine Keeps.mk ?_ rfl rfl rfl rfl rfl)

theorem State.goldenDefer_keeps {s0 : State} (s : State) (i : Nat) (isB : Bool) (kh : Keeps s0 s) : Keeps s0 (State.goldenDefer s i isB) := by
  unfold State.goldenDefer
  repeat' first
    | with_reducible first | assumption | intro _
    | with_reducible first | apply State.post_keeps | apply State.incFld_keeps
    | split
    | with_reducible exact Keeps.refl _

theorem State.fireGolden_keeps {s0 : State} (s : State) (d : Due) (kh : Keeps s0 s) : Keeps s0 (State.fireGolden s d) := by
  unfold State.fireGolden
  repeat' first
    | with_reducible first | assumption | intro _
    | (extract_lets +onlyGivenNames x
       first
       | (refine Keeps.via (x := x) ?_ fun kh1 => ?_; rotate_left; clear_value x; rotate_left; subst x)
       | clear_value x)
    | with_reducible first | apply State.goldenDefer_keeps | apply State.tryLaunch_keeps
    | refine State.tryLaunch_keeps_e (by with_reducible assumption) ?_
    | with_reducible first | apply State.targetGone_keeps
    | split
    | with_reducible exact Keeps.refl _
    | (with_reducible refine Keeps.mk ?_ rfl rfl rfl rfl rfl)

theorem execGoldenSlot_keeps {s0 : State} (w e edge : Nat) (s : State) (kh : Keeps s0 s) : KeepsO s0 (execGoldenSlot w e edge s) := by
  unfold execGoldenSlot
  repeat' first
    | with_reducible first | assumption | intro _
    | with_reducible first | apply State.fireGolden_keeps | apply State.onEntry_keeps | apply KeepsO.next
    | with_reducible exact Keeps.refl _

theorem execGoldenSlotEnd_keeps {s0 : State} (p : Nat) (s : State) (kh : Keeps s0 s) : KeepsO s0 (execGoldenSlotEnd p s) := by
  unfold execGoldenSlotEnd
  repeat' first
    | with_reducible first | assumption | intro _
    | (extract_lets +onlyGivenNames x
       first
       | (refine Keeps.via (x := x) ?_ fun kh1 => ?_; rotate_left; clear_value x; rotate_left; subst x)
       | (refine KeepsO.via (x := x) ?_ fun kh1 => ?_; rotate_left; clear_value x; rotate_left; subst x)
       | clear_value x)
    | with_reducible first | apply State.abortJob_keeps | apply State.post_keeps | apply KeepsO.next
    | split
    | with_reducible exact Keeps.refl _
    | (with_reducible refine Keeps.mk ?_ rfl rfl rfl rfl rfl)

end Sys2Proof.Machine
end

