-- ==== Sys2Proof/Laws/KeepsHubMem.lean ====
section
/-! SUPPORT. Every operation of Machine/HubMem.lean keeps the queue and the canonical form. -/

namespace Sys2Proof.Machine

theorem State.touchPage_keeps {s0 : State} (s : State) (a : Nat) (kh : Keeps s0 s) : Keeps s0 (State.touchPage s a) := by
  unfold State.touchPage
  repeat' first
    | with_reducible first | assumption | intro _
    | with_reducible first | apply State.post_keeps
    | split
    | with_reducible exact Keeps.refl _
    | (with_reducible refine Keeps.mk ?_ rfl rfl rfl rfl rfl)

theorem State.dramGet_keeps {s0 : State} (s : State) (a n : Nat) (h : Keeps s0 s) : Keeps s0 (s.dramGet a n).2.2 := by
  unfold State.dramGet
  have k : ∀ (l : List (Nat × Nat)) (x : List Byte × Bool × State), Keeps s0 x.2.2 →
      Keeps s0 (l.foldl (fun (x : List Byte × Bool × State) y =>
        let (d, p, s) := x
        if s.pageGone y.1 then (d ++ List.replicate y.2 0#8, true, s.touchPage y.1)
        else (d ++ s.bytes y.1 y.2, p || s.anyPoison y.1 y.2, s)) x).2.2 := by
    intro l
    induction l with
    | nil => intro x hx; exact hx
    | cons y r ih =>
      intro x hx
      obtain ⟨d, p, t⟩ := x
      refine ih _ ?_
      dsimp only
      split
      · exact State.touchPage_keeps _ _ hx
      · exact hx
  exact k _ _ h
theorem State.dramGet_keeps_e {s0 s t : State} {a n : Nat} {d : List Byte} {p : Bool} (e : s.dramGet a n = (d, p, t)) (h : Keeps s0 s) : Keeps s0 t := by
  have q := State.dramGet_keeps s a n h
  rw [e] at q
  exact q

theorem State.dramSet_keeps {s0 : State} (s : State) (a : Nat) (d : List Byte) (p : Bool) (h : Keeps s0 s) : Keeps s0 (s.dramSet a d p) := by
  unfold State.dramSet
  have k : ∀ (l : List (Nat × Nat)) (x : List Byte × State), Keeps s0 x.2 →
      Keeps s0 (l.foldl (fun (x : List Byte × State) y =>
        let (d, s) := x
        (d.drop y.2, if s.pageGone y.1 then s.touchPage y.1 else s.store y.1 (d.take y.2) p)) x).2 := by
    intro l
    induction l with
    | nil => intro x hx; exact hx
    | cons y r ih =>
      intro x hx
      obtain ⟨d, t⟩ := x
      refine ih _ ?_
      dsimp only
      split
      · exact State.touchPage_keeps _ _ hx
      · exact State.store_keeps _ _ _ _ hx
  exact k _ _ h

theorem State.hubGet_keeps {s0 : State} (s : State) (m a n : Nat) (kh : Keeps s0 s) : Keeps s0 (State.hubGet s m a n).2.2 := by
  unfold State.hubGet
  repeat' first
    | with_reducible first | assumption | intro _
    | with_reducible first | apply State.dramGet_keeps
    | refine State.dramGet_keeps_e (by with_reducible assumption) ?_
    | with_reducible first | apply State.refuseAccess_keeps
    | split
    | with_reducible exact Keeps.refl _
theorem State.hubGet_keeps_e {s0 : State} {s : State} {m a n : Nat} {x0 x1 x2} (ke : (State.hubGet s m a n) = (x0, x1, x2)) (kh : Keeps s0 s) : Keeps s0 x2 := by
  have k := State.hubGet_keeps s m a n kh
  rw [ke] at k
  exact k

theorem State.hubSet_keeps {s0 : State} (s : State) (m a : Nat) (d : List Byte) (p : Bool) (kh : Keeps s0 s) : Keeps s0 (State.hubSet s m a d p) := by
  unfold State.hubSet
  repeat' first
    | with_reducible first | assumption | intro _
    | with_reducible first | apply State.dramSet_keeps | apply State.refuseAccess_keeps
    | split
    | with_reducible exact Keeps.refl _

theorem State.poisonBites_keeps {s0 : State} (s : State) (u sub ctx : Nat) (kh : Keeps s0 s) : Keeps s0 (State.poisonBites s u sub ctx) := by
  unfold State.poisonBites
  repeat' first
    | with_reducible first | assumption | intro _
    | with_reducible first | apply State.post_keeps
    | with_reducible exact Keeps.refl _
    | (with_reducible refine Keeps.mk ?_ rfl rfl rfl rfl rfl)

end Sys2Proof.Machine
end

