-- ==== Sys2Proof/Laws/KeepsMailbox.lean ====
section
/-! SUPPORT. Every operation of Machine/Mailbox.lean keeps the queue and the canonical form. -/

namespace Sys2Proof.Machine

theorem State.unlock_keeps {s0 : State} (s : State) (n : Nat) (kh : Keeps s0 s) : Keeps s0 (State.unlock s n) := by
  unfold State.unlock
  repeat' first
    | with_reducible first | assumption | intro _
    | with_reducible exact Keeps.refl _
    | (with_reducible refine Keeps.mk ?_ rfl rfl rfl rfl rfl)

theorem State.setRegBytes_keeps {s0 : State} (s : State) (a : Nat) (l : List Byte) (kh : Keeps s0 s) : Keeps s0 (State.setRegBytes s a l) := by
  unfold State.setRegBytes
  repeat' first
    | with_reducible first | assumption | intro _
    | with_reducible first | apply State.setPieces_keeps
    | with_reducible exact Keeps.refl _

theorem State.cmdRecord_keeps {s0 : State} (s : State) (n : Nat) (c : Status) (r : List Byte) (kh : Keeps s0 s) : Keeps s0 (State.cmdRecord s n c r) := by
  unfold State.cmdRecord
  repeat' first
    | with_reducible first | assumption | intro _
    | with_reducible first | apply State.post_keeps
    | with_reducible exact Keeps.refl _
    | (with_reducible refine Keeps.mk ?_ rfl rfl rfl rfl rfl)

theorem State.respond_keeps {s0 : State} (s : State) (n : Nat) (c : Status) (ret : List Byte) (kh : Keeps s0 s) : Keeps s0 (State.respond s n c ret) := by
  unfold State.respond
  repeat' first
    | with_reducible first | assumption | intro _
    | (extract_lets +onlyGivenNames x
       first
       | (refine Keeps.via (x := x) ?_ fun kh1 => ?_; rotate_left; clear_value x; rotate_left; subst x)
       | clear_value x)
    | with_reducible first | apply State.cmdRecord_keeps | apply State.setRegBytes_keeps | apply State.unlock_keeps | apply State.tap_keeps | apply State.modMbox_keeps | apply State.incReg_keeps | apply State.setFld_keeps | apply State.setRegN_keeps
    | split
    | with_reducible exact Keeps.refl _
    | (with_reducible refine Keeps.mk ?_ rfl rfl rfl rfl rfl)

theorem State.writeRequest_keeps {s0 : State} (s : State) (n off : Nat) (data : List Byte) (kh : Keeps s0 s) : Keeps s0 (State.writeRequest s n off data).1 := by
  unfold State.writeRequest
  repeat' first
    | with_reducible first | assumption | intro _
    | (extract_lets +onlyGivenNames x
       first
       | (refine Keeps.via (x := x) ?_ fun kh1 => ?_; rotate_left; clear_value x; rotate_left; subst x)
       | clear_value x)
    | with_reducible first | apply State.setRegBytes_keeps | apply refuse_keeps
    | refine refuse_keeps_e (by with_reducible assumption) ?_
    | with_reducible first | apply accept_keeps
    | refine accept_keeps_e (by with_reducible assumption) ?_
    | split
    | with_reducible exact Keeps.refl _
theorem State.writeRequest_keeps_e {s0 : State} {s : State} {n off : Nat} {data : List Byte} {x0 x1} (ke : (State.writeRequest s n off data) = (x0, x1)) (kh : Keeps s0 s) : Keeps s0 x0 := by
  have k := State.writeRequest_keeps s n off data kh
  rw [ke] at k
  exact k

theorem State.submit_keeps {s0 : State} (s : State) (n seq : Nat) (kh : Keeps s0 s) : Keeps s0 (State.submit s n seq).1 := by
  unfold State.submit
  repeat' first
    | with_reducible first | assumption | intro _
    | (extract_lets +onlyGivenNames x
       first
       | (refine Keeps.via (x := x) ?_ fun kh1 => ?_; rotate_left; clear_value x; rotate_left; subst x)
       | clear_value x)
    | with_reducible first | apply refuse_keeps
    | refine refuse_keeps_e (by with_reducible assumption) ?_
    | with_reducible first | apply accept_keeps
    | refine accept_keeps_e (by with_reducible assumption) ?_
    | with_reducible first | apply State.modMbox_keeps | apply State.setFld_keeps | apply State.setRegN_keeps
    | split
    | with_reducible exact Keeps.refl _
theorem State.submit_keeps_e {s0 : State} {s : State} {n seq : Nat} {x0 x1} (ke : (State.submit s n seq) = (x0, x1)) (kh : Keeps s0 s) : Keeps s0 x0 := by
  have k := State.submit_keeps s n seq kh
  rw [ke] at k
  exact k

theorem execSupMbnReqSeq_keeps {s0 : State} (m n : Nat) (v : Dword) (s : State) (kh : Keeps s0 s) : KeepsO s0 (execSupMbnReqSeq m n v s) := by
  unfold execSupMbnReqSeq
  repeat' first
    | with_reducible first | assumption | intro _
    | with_reducible first | apply State.submit_keeps
    | refine State.submit_keeps_e (by with_reducible assumption) ?_
    | with_reducible first | apply State.regBus_keeps | apply KeepsO.next
    | with_reducible exact Keeps.refl _

theorem State.argAccess_keeps_e {s0 s t : State} {n : Nat} {x : Option (Nat × Nat × Bool)} (e : s.argAccess n x = some t) (h : Keeps s0 s) : Keeps s0 t := by
  have k : ∀ y, s.argAccess n x = y → (∀ z, y = some z → Keeps s0 z) := by
    intro y hy z hz
    subst hy
    revert hz
    unfold State.argAccess
    dsimp only
    repeat' first
      | split
      | (intro hz; cases hz; done)
      | (intro hz; cases hz; exact h)
      | (intro hz; cases hz; exact State.refuseAccess_keeps _ _ _ _ _ h)
  exact k _ rfl _ e

theorem State.mbCheck_keeps_e {s0 s t : State} {n : Nat} {c : Status} (e : s.mbCheck n = some (c, t)) (h : Keeps s0 s) : Keeps s0 t := by
  revert e
  unfold State.mbCheck
  dsimp only
  repeat' first
    | split
    | (intro e; cases e; exact h)
    | (intro e; cases e; done)
  intro e
  cases g : s.argAccess n (s.cmdAddr n (numAt (s.request n) 0 2)) with
  | none => rw [g] at e; cases e
  | some z => rw [g] at e; cases e; exact State.argAccess_keeps_e g h

theorem State.acceptReq_keeps {s0 : State} (s : State) (n round : Nat) (kh : Keeps s0 s) : Keeps s0 (State.acceptReq s n round) := by
  unfold State.acceptReq
  repeat' first
    | with_reducible first | assumption | intro _
    | (extract_lets +onlyGivenNames x
       first
       | (refine Keeps.via (x := x) ?_ fun kh1 => ?_; rotate_left; clear_value x; rotate_left; subst x)
       | clear_value x)
    | refine State.mbCheck_keeps_e (by with_reducible assumption) ?_
    | with_reducible first | apply State.respond_keeps | apply State.modMbox_keeps
    | split
    | with_reducible exact Keeps.refl _
    | (with_reducible refine Keeps.mk ?_ rfl rfl rfl rfl rfl)

theorem State.takeReq_keeps {s0 : State} (s : State) (n round : Nat) (kh : Keeps s0 s) : Keeps s0 (State.takeReq s n round) := by
  unfold State.takeReq
  repeat' first
    | with_reducible first | assumption | intro _
    | with_reducible first | apply State.acceptReq_keeps | apply State.respond_keeps | apply State.modMbox_keeps
    | split
    | with_reducible exact Keeps.refl _
    | (with_reducible refine Keeps.mk ?_ rfl rfl rfl rfl rfl)

theorem State.restoreRequest_keeps_e {s0 s t : State} {n : Nat} {r : RecItem} (e : s.restoreRequest n r = some t) (h : Keeps s0 s) : Keeps s0 t := by
  have k1 : Keeps s0 ((((s.setRegBytes (R.SUP_MB_REQ n) ((r.data.drop 8).take 256)).setRegN (R.SUP_MB_REQ_SEQ n)
      (((s.setRegBytes (R.SUP_MB_REQ n) ((r.data.drop 8).take 256)).regN (R.SUP_MB_RSP_SEQ n) + 1) % 2 ^ 32)).setFld (R.SUP_MB_STATE n) 0 1 1).modMbox n
        fun _ => { landed := ((s.setRegBytes (R.SUP_MB_REQ n) ((r.data.drop 8).take 256)).setRegN (R.SUP_MB_REQ_SEQ n)
      (((s.setRegBytes (R.SUP_MB_REQ n) ((r.data.drop 8).take 256)).regN (R.SUP_MB_RSP_SEQ n) + 1) % 2 ^ 32)).now }) :=
    State.modMbox_keeps _ _ _ (State.setFld_keeps _ _ _ _ _ (State.setRegN_keeps _ _ _ (State.setRegBytes_keeps _ _ _ h)))
  revert e
  unfold State.restoreRequest
  dsimp only
  split
  · intro e
    rcases Option.map_eq_some_iff.1 e with ⟨d, _, rfl⟩
    exact State.store_keeps _ _ _ _ k1
  · intro e
    cases e
    exact k1

theorem State.reissue_keeps {s0 : State} (s : State) (n round : Nat) (kh : Keeps s0 s) : Keeps s0 (State.reissue s n round) := by
  unfold State.reissue
  repeat' first
    | with_reducible first | assumption | intro _
    | (extract_lets +onlyGivenNames x
       first
       | (refine Keeps.via (x := x) ?_ fun kh1 => ?_; rotate_left; clear_value x; rotate_left; subst x)
       | clear_value x)
    | refine State.restoreRequest_keeps_e (by with_reducible assumption) ?_
    | with_reducible first | apply State.acceptReq_keeps | apply State.replayStop_keeps | apply State.postC_keeps
    | split
    | with_reducible exact Keeps.refl _
    | (with_reducible refine Keeps.mk ?_ rfl rfl rfl rfl rfl)

theorem State.slotOf_keeps {s0 : State} (s : State) (t0 round n : Nat) (kh : Keeps s0 s) : Keeps s0 (State.slotOf s t0 round n) := by
  unfold State.slotOf
  repeat' first
    | with_reducible first | assumption | intro _
    | with_reducible first | apply State.reissue_keeps | apply State.takeReq_keeps | apply State.incFld_keeps
    | split
    | with_reducible exact Keeps.refl _

theorem execServiceRound_keeps {s0 : State} (s : State) (kh : Keeps s0 s) : KeepsO s0 (execServiceRound s) := by
  unfold execServiceRound
  repeat' first
    | with_reducible first | assumption | intro _
    | (extract_lets +onlyGivenNames x
       first
       | (refine Keeps.via (x := x) ?_ fun kh1 => ?_; rotate_left; clear_value x; rotate_left; subst x)
       | (refine KeepsO.via (x := x) ?_ fun kh1 => ?_; rotate_left; clear_value x; rotate_left; subst x)
       | clear_value x)
    | with_reducible first | apply State.slotOf_keeps | apply State.each_keeps | apply State.wrapReg_keeps | apply KeepsO.next
    | split
    | with_reducible exact Keeps.refl _
    | (with_reducible refine Keeps.mk ?_ rfl rfl rfl rfl rfl)

theorem okay_keeps {s0 : State} (s : State) (kh : Keeps s0 s) : Keeps s0 (okay s).1 := by
  unfold okay
  repeat' first
    | with_reducible first | assumption | intro _
    | with_reducible exact Keeps.refl _
theorem okay_keeps_e {s0 : State} {s : State} {x0 x1} (ke : (okay s) = (x0, x1)) (kh : Keeps s0 s) : Keeps s0 x0 := by
  have k := okay_keeps s kh
  rw [ke] at k
  exact k

theorem giving_keeps {s0 : State} (s : State) (l : List Byte) (kh : Keeps s0 s) : Keeps s0 (giving s l).1 := by
  unfold giving
  repeat' first
    | with_reducible first | assumption | intro _
    | with_reducible exact Keeps.refl _
theorem giving_keeps_e {s0 : State} {s : State} {l : List Byte} {x0 x1} (ke : (giving s l) = (x0, x1)) (kh : Keeps s0 s) : Keeps s0 x0 := by
  have k := giving_keeps s l kh
  rw [ke] at k
  exact k

theorem denied_keeps {s0 : State} (s : State) (c : Status) (kh : Keeps s0 s) : Keeps s0 (denied s c).1 := by
  unfold denied
  repeat' first
    | with_reducible first | assumption | intro _
    | with_reducible exact Keeps.refl _
theorem denied_keeps_e {s0 : State} {s : State} {c : Status} {x0 x1} (ke : (denied s c) = (x0, x1)) (kh : Keeps s0 s) : Keeps s0 x0 := by
  have k := denied_keeps s c kh
  rw [ke] at k
  exact k

theorem State.runCmd_keeps {s0 : State} (s : State) (n code : Nat) (pick : Bool) (f : State → State × Done) (kh : Keeps s0 s) (hf : ∀ a0, Keeps s0 a0 → Keeps s0 (f a0).1) : Keeps s0 (State.runCmd s n code pick f) := by
  unfold State.runCmd
  repeat' first
    | with_reducible first | assumption | intro _
    | with_reducible first | apply hf
    | refine Keeps.pair1 (by with_reducible assumption) (hf _ ?_)
    | with_reducible first | apply State.respond_keeps | apply State.modMbox_keeps
    | split
    | with_reducible exact Keeps.refl _
    | (with_reducible refine Keeps.mk ?_ rfl rfl rfl rfl rfl)

theorem State.finish_keeps {s0 : State} (s : State) (n : Nat) (c : Status) (ret : List Byte) (kh : Keeps s0 s) : Keeps s0 (State.finish s n c ret) := by
  unfold State.finish
  repeat' first
    | with_reducible first | assumption | intro _
    | with_reducible first | apply State.respond_keeps
    | split
    | with_reducible exact Keeps.refl _

theorem State.overtake_keeps {s0 : State} (s : State) (kind id : Nat) (but_ : Option Nat) (kh : Keeps s0 s) : Keeps s0 (State.overtake s kind id but_) := by
  unfold State.overtake
  repeat' first
    | with_reducible first | assumption | intro _
    | with_reducible first | apply State.respond_keeps | apply State.each_keeps
    | with_reducible exact Keeps.refl _

end Sys2Proof.Machine
end

