-- ==== Sys2Proof/Laws/KeepsSafe.lean ====
section
/-! SUPPORT. Every operation of Machine/Safe.lean keeps the queue and the canonical form. -/

namespace Sys2Proof.Machine

theorem State.leaveGrey_keeps {s0 : State} (s : State) (kh : Keeps s0 s) : Keeps s0 (State.leaveGrey s) := by
  unfold State.leaveGrey
  repeat' first
    | with_reducible first | assumption | intro _
    | with_reducible first | apply State.moveTo_keeps
    | split
    | with_reducible exact Keeps.refl _

theorem State.watchdogExpires_keeps {s0 : State} (s : State) (kh : Keeps s0 s) : Keeps s0 (State.watchdogExpires s) := by
  unfold State.watchdogExpires
  repeat' first
    | with_reducible first | assumption | intro _
    | (extract_lets +onlyGivenNames x
       first
       | (refine Keeps.via (x := x) ?_ fun kh1 => ?_; rotate_left; clear_value x; rotate_left; subst x)
       | clear_value x)
    | with_reducible first | apply State.crimson_keeps | apply State.modSafety_keeps | apply State.post_keeps
    | split
    | with_reducible exact Keeps.refl _
    | (with_reducible refine Keeps.mk ?_ rfl rfl rfl rfl rfl)

theorem actKick_keeps {s0 : State} (s : State) (kh : Keeps s0 s) : Keeps s0 (actKick s) := by
  unfold actKick
  repeat' first
    | with_reducible first | assumption | intro _
    | (extract_lets +onlyGivenNames x
       first
       | (refine Keeps.via (x := x) ?_ fun kh1 => ?_; rotate_left; clear_value x; rotate_left; subst x)
       | clear_value x)
    | with_reducible first | apply State.watchdogExpires_keeps | apply State.leaveGrey_keeps | apply State.modSafety_keeps
    | split
    | with_reducible exact Keeps.refl _
    | (with_reducible refine Keeps.mk ?_ rfl rfl rfl rfl rfl)

theorem execCfgSafeKick_keeps {s0 : State} (m : Nat) (s : State) (kh : Keeps s0 s) : KeepsO s0 (execCfgSafeKick m s) := by
  unfold execCfgSafeKick
  repeat' first
    | with_reducible first | assumption | intro _
    | with_reducible first | apply actKick_keeps | apply accept_keeps
    | refine accept_keeps_e (by with_reducible assumption) ?_
    | with_reducible first | apply State.regBus_keeps | apply KeepsO.next
    | with_reducible exact Keeps.refl _

theorem execSupervisorWatchdog_keeps {s0 : State} (s : State) (kh : Keeps s0 s) : KeepsO s0 (execSupervisorWatchdog s) := by
  unfold execSupervisorWatchdog
  repeat' first
    | with_reducible first | assumption | intro _
    | with_reducible first | apply State.watchdogExpires_keeps | apply KeepsO.next
    | split
    | with_reducible exact Keeps.refl _

theorem execHealthToggle_keeps {s0 : State} (s : State) (kh : Keeps s0 s) : KeepsO s0 (execHealthToggle s) := by
  unfold execHealthToggle
  repeat' first
    | with_reducible first | assumption | intro _
    | (extract_lets +onlyGivenNames x
       first
       | (refine Keeps.via (x := x) ?_ fun kh1 => ?_; rotate_left; clear_value x; rotate_left; subst x)
       | (refine KeepsO.via (x := x) ?_ fun kh1 => ?_; rotate_left; clear_value x; rotate_left; subst x)
       | clear_value x)
    | with_reducible first | apply State.modSafety_keeps | apply State.setBit_keeps | apply KeepsO.next
    | split
    | with_reducible exact Keeps.refl _
    | (with_reducible refine Keeps.mk ?_ rfl rfl rfl rfl rfl)

theorem execAmberHoldEnd_keeps {s0 : State} (cause : Nat) (s : State) (kh : Keeps s0 s) : KeepsO s0 (execAmberHoldEnd cause s) := by
  unfold execAmberHoldEnd
  repeat' first
    | with_reducible first | assumption | intro _
    | with_reducible first | apply State.setAmber_keeps | apply State.modSafety_keeps | apply KeepsO.next
    | split
    | with_reducible exact Keeps.refl _
    | (with_reducible refine Keeps.mk ?_ rfl rfl rfl rfl rfl)

theorem execHoldoverAmber_keeps {s0 : State} (s : State) (kh : Keeps s0 s) : KeepsO s0 (execHoldoverAmber s) := by
  unfold execHoldoverAmber
  repeat' first
    | with_reducible first | assumption | intro _
    | with_reducible first | apply State.setAmber_keeps | apply State.postC_keeps | apply KeepsO.next
    | split
    | with_reducible exact Keeps.refl _

theorem execSafeRequestRelease_keeps {s0 : State} (s : State) (kh : Keeps s0 s) : KeepsO s0 (execSafeRequestRelease s) := by
  unfold execSafeRequestRelease
  repeat' first
    | with_reducible first | assumption | intro _
    | with_reducible first | apply State.unlatch_keeps | apply KeepsO.next
    | split
    | with_reducible exact Keeps.refl _

theorem execThermalCrimsonExit_keeps {s0 : State} (s : State) (kh : Keeps s0 s) : KeepsO s0 (execThermalCrimsonExit s) := by
  unfold execThermalCrimsonExit
  repeat' first
    | with_reducible first | assumption | intro _
    | with_reducible first | apply State.unlatch_keeps | apply KeepsO.next
    | split
    | with_reducible exact Keeps.refl _

theorem State.revokeDebug_keeps {s0 : State} (s : State) (kh : Keeps s0 s) : Keeps s0 (State.revokeDebug s) := by
  unfold State.revokeDebug
  repeat' first
    | with_reducible first | assumption | intro _
    | with_reducible first | apply State.postC_keeps | apply State.setBit_keeps
    | split
    | with_reducible exact Keeps.refl _

theorem actStream_keeps {s0 : State} (i : Nat) (s : State) (v : Nat) (kh : Keeps s0 s) : Keeps s0 (actStream i s v).1 := by
  unfold actStream
  repeat' first
    | with_reducible first | assumption | intro _
    | (extract_lets +onlyGivenNames x
       first
       | (refine Keeps.via (x := x) ?_ fun kh1 => ?_; rotate_left; clear_value x; rotate_left; subst x)
       | clear_value x)
    | with_reducible first | apply State.revokeDebug_keeps | apply refuse_keeps
    | refine refuse_keeps_e (by with_reducible assumption) ?_
    | with_reducible first | apply accept_keeps
    | refine accept_keeps_e (by with_reducible assumption) ?_
    | with_reducible first | apply State.setBit_keeps | apply State.setRegN_keeps
    | split
    | with_reducible exact Keeps.refl _
theorem actStream_keeps_e {s0 : State} {i : Nat} {s : State} {v : Nat} {x0 x1} (ke : (actStream i s v) = (x0, x1)) (kh : Keeps s0 s) : Keeps s0 x0 := by
  have k := actStream_keeps i s v kh
  rw [ke] at k
  exact k

theorem execStreamEnable_keeps {s0 : State} (m st : Nat) (v : Dword) (s : State) (kh : Keeps s0 s) : KeepsO s0 (execStreamEnable m st v s) := by
  unfold execStreamEnable
  repeat' first
    | with_reducible first | assumption | intro _
    | with_reducible first | apply actStream_keeps
    | refine actStream_keeps_e (by with_reducible assumption) ?_
    | with_reducible first | apply State.regBus_keeps | apply KeepsO.next
    | with_reducible exact Keeps.refl _

end Sys2Proof.Machine
end

