-- ==== Sys2Proof/Laws/KeepsTimeCmd.lean ====
section
/-! SUPPORT. Every operation of Machine/TimeCmd.lean keeps the queue and the canonical form. -/

namespace Sys2Proof.Machine

theorem State.supRead_keeps {s0 : State} (s : State) (a n : Nat) (kh : Keeps s0 s) : Keeps s0 (State.supRead s a n).2 := by
  unfold State.supRead
  repeat' first
    | with_reducible first | assumption | intro _
    | (extract_lets +onlyGivenNames x
       first
       | (refine Keeps.via (x := x) ?_ fun kh1 => ?_; rotate_left; clear_value x; rotate_left; subst x)
       | clear_value x)
    | with_reducible first | apply State.dramGet_keeps
    | refine State.dramGet_keeps_e (by with_reducible assumption) ?_
    | split
    | with_reducible exact Keeps.refl _
theorem State.supRead_keeps_e {s0 : State} {s : State} {a n : Nat} {x0 x1} (ke : (State.supRead s a n) = (x0, x1)) (kh : Keeps s0 s) : Keeps s0 x1 := by
  have k := State.supRead_keeps s a n kh
  rw [ke] at k
  exact k

theorem State.supWrite_keeps {s0 : State} (s : State) (a : Nat) (d : List Byte) (kh : Keeps s0 s) : Keeps s0 (State.supWrite s a d) := by
  unfold State.supWrite
  repeat' first
    | with_reducible first | assumption | intro _
    | with_reducible first | apply State.dramSet_keeps | apply State.store_keeps
    | split
    | with_reducible exact Keeps.refl _

theorem State.putBank_keeps {s0 : State} (s : State) (w period : Nat) (l : List WheelEntry) (kh : Keeps s0 s) : Keeps s0 (State.putBank s w period l) := by
  unfold State.putBank
  repeat' first
    | with_reducible first | assumption | intro _
    | with_reducible first | apply State.modWheel_keeps | apply State.setFld_keeps | apply State.setRegN_keeps
    | split
    | with_reducible exact Keeps.refl _
    | (with_reducible refine Keeps.mk ?_ rfl rfl rfl rfl rfl)

theorem execWheelLoad_keeps {s0 : State} (n : Nat) (s : State) (kh : Keeps s0 s) : KeepsO s0 (execWheelLoad n s) := by
  unfold execWheelLoad
  repeat' first
    | with_reducible first | assumption | intro _
    | (extract_lets +onlyGivenNames x
       first
       | (refine Keeps.via (x := x) ?_ fun kh1 => ?_; rotate_left; clear_value x; rotate_left; subst x)
       | (refine KeepsO.via (x := x) ?_ fun kh1 => ?_; rotate_left; clear_value x; rotate_left; subst x)
       | clear_value x)
    | with_reducible first | apply State.putBank_keeps | apply State.supRead_keeps
    | refine State.supRead_keeps_e (by with_reducible assumption) ?_
    | with_reducible first | apply State.runCmd_keeps | apply denied_keeps
    | refine denied_keeps_e (by with_reducible assumption) ?_
    | with_reducible first | apply okay_keeps
    | refine okay_keeps_e (by with_reducible assumption) ?_
    | with_reducible first | apply KeepsO.next
    | split
    | with_reducible exact Keeps.refl _

theorem wheelDone_keeps {s0 : State} (x : State × Status × Nat) (h : Keeps s0 x.1) : Keeps s0 (wheelDone x).1 := by
  unfold wheelDone
  repeat' first
    | with_reducible first | assumption | intro _
    | with_reducible first | apply denied_keeps
    | refine denied_keeps_e (by with_reducible assumption) ?_
    | with_reducible first | apply giving_keeps
    | refine giving_keeps_e (by with_reducible assumption) ?_
    | split
    | with_reducible exact Keeps.refl _

theorem execWheelEnable_keeps {s0 : State} (n : Nat) (s : State) (kh : Keeps s0 s) : KeepsO s0 (execWheelEnable n s) := by
  unfold execWheelEnable
  repeat' first
    | with_reducible first | assumption | intro _
    | with_reducible first | apply wheelDone_keeps | apply State.runCmd_keeps | apply State.wheelEnable_keeps
    | refine State.wheelEnable_keeps_e (by with_reducible assumption) ?_
    | with_reducible first | apply KeepsO.next
    | with_reducible exact Keeps.refl _

theorem execWheelDisable_keeps {s0 : State} (n : Nat) (s : State) (kh : Keeps s0 s) : KeepsO s0 (execWheelDisable n s) := by
  unfold execWheelDisable
  repeat' first
    | with_reducible first | assumption | intro _
    | with_reducible first | apply wheelDone_keeps | apply State.runCmd_keeps | apply State.wheelDisable_keeps
    | refine State.wheelDisable_keeps_e (by with_reducible assumption) ?_
    | with_reducible first | apply KeepsO.next
    | with_reducible exact Keeps.refl _

theorem execWheelSwap_keeps {s0 : State} (n : Nat) (s : State) (kh : Keeps s0 s) : KeepsO s0 (execWheelSwap n s) := by
  unfold execWheelSwap
  repeat' first
    | with_reducible first | assumption | intro _
    | with_reducible first | apply wheelDone_keeps | apply State.runCmd_keeps | apply State.wheelSwap_keeps
    | refine State.wheelSwap_keeps_e (by with_reducible assumption) ?_
    | with_reducible first | apply KeepsO.next
    | with_reducible exact Keeps.refl _

theorem execTimeStep_keeps {s0 : State} (n : Nat) (s : State) (kh : Keeps s0 s) : KeepsO s0 (execTimeStep n s) := by
  unfold execTimeStep
  repeat' first
    | with_reducible first | assumption | intro _
    | with_reducible first | apply State.runCmd_keeps | apply denied_keeps
    | refine denied_keeps_e (by with_reducible assumption) ?_
    | with_reducible first | apply okay_keeps
    | refine okay_keeps_e (by with_reducible assumption) ?_
    | with_reducible first | apply State.stepTime_keeps | apply KeepsO.next
    | split
    | with_reducible exact Keeps.refl _

theorem State.freshHo_keeps {s0 : State} (s : State) (i : Nat) (kh : Keeps s0 s) : Keeps s0 (State.freshHo s i) := by
  unfold State.freshHo
  repeat' first
    | with_reducible first | assumption | intro _
    | with_reducible first | apply State.setRegN_keeps
    | with_reducible exact Keeps.refl _

theorem execHoCreate_keeps {s0 : State} (n : Nat) (s : State) (kh : Keeps s0 s) : KeepsO s0 (execHoCreate n s) := by
  unfold execHoCreate
  repeat' first
    | with_reducible first | assumption | intro _
    | (extract_lets +onlyGivenNames x
       first
       | (refine Keeps.via (x := x) ?_ fun kh1 => ?_; rotate_left; clear_value x; rotate_left; subst x)
       | (refine KeepsO.via (x := x) ?_ fun kh1 => ?_; rotate_left; clear_value x; rotate_left; subst x)
       | clear_value x)
    | with_reducible first | apply State.freshHo_keeps | apply State.runCmd_keeps | apply denied_keeps
    | refine denied_keeps_e (by with_reducible assumption) ?_
    | with_reducible first | apply okay_keeps
    | refine okay_keeps_e (by with_reducible assumption) ?_
    | with_reducible first | apply KeepsO.next
    | split
    | with_reducible exact Keeps.refl _
    | (with_reducible refine Keeps.mk ?_ rfl rfl rfl rfl rfl)

theorem execHoDestroy_keeps {s0 : State} (n : Nat) (s : State) (kh : Keeps s0 s) : KeepsO s0 (execHoDestroy n s) := by
  unfold execHoDestroy
  repeat' first
    | with_reducible first | assumption | intro _
    | (extract_lets +onlyGivenNames x
       first
       | (refine Keeps.via (x := x) ?_ fun kh1 => ?_; rotate_left; clear_value x; rotate_left; subst x)
       | (refine KeepsO.via (x := x) ?_ fun kh1 => ?_; rotate_left; clear_value x; rotate_left; subst x)
       | clear_value x)
    | with_reducible first | apply State.freshHo_keeps | apply State.runCmd_keeps | apply okay_keeps
    | refine okay_keeps_e (by with_reducible assumption) ?_
    | with_reducible first | apply KeepsO.next
    | split
    | with_reducible exact Keeps.refl _
    | (with_reducible refine Keeps.mk ?_ rfl rfl rfl rfl rfl)

theorem State.putLanding_keeps {s0 : State} (s : State) (die l p : Nat) (st : List Stripe) (kh : Keeps s0 s) : Keeps s0 (State.putLanding s die l p st) := by
  unfold State.putLanding
  repeat' first
    | with_reducible first | assumption | intro _
    | with_reducible exact Keeps.refl _
    | (with_reducible refine Keeps.mk ?_ rfl rfl rfl rfl rfl)

theorem execHoLanding_keeps {s0 : State} (n : Nat) (s : State) (kh : Keeps s0 s) : KeepsO s0 (execHoLanding n s) := by
  unfold execHoLanding
  repeat' first
    | with_reducible first | assumption | intro _
    | (extract_lets +onlyGivenNames x
       first
       | (refine Keeps.via (x := x) ?_ fun kh1 => ?_; rotate_left; clear_value x; rotate_left; subst x)
       | (refine KeepsO.via (x := x) ?_ fun kh1 => ?_; rotate_left; clear_value x; rotate_left; subst x)
       | clear_value x)
    | with_reducible first | apply State.putLanding_keeps | apply State.supRead_keeps
    | refine State.supRead_keeps_e (by with_reducible assumption) ?_
    | with_reducible first | apply State.runCmd_keeps | apply denied_keeps
    | refine denied_keeps_e (by with_reducible assumption) ?_
    | with_reducible first | apply okay_keeps
    | refine okay_keeps_e (by with_reducible assumption) ?_
    | with_reducible first | apply KeepsO.next
    | split
    | with_reducible exact Keeps.refl _

end Sys2Proof.Machine
end

