-- ==== Sys2Proof/Laws/KeepsMemCmd.lean ====
section
/-! SUPPORT. Every operation of Machine/MemCmd.lean keeps the queue and the canonical form. -/

namespace Sys2Proof.Machine

theorem execAccWrite_keeps {s0 : State} (n : Nat) (s : State) (kh : Keeps s0 s) : KeepsO s0 (execAccWrite n s) := by
  unfold execAccWrite
  repeat' first
    | with_reducible first | assumption | intro _
    | (extract_lets +onlyGivenNames x
       first
       | (refine Keeps.via (x := x) ?_ fun kh1 => ?_; rotate_left; clear_value x; rotate_left; subst x)
       | (refine KeepsO.via (x := x) ?_ fun kh1 => ?_; rotate_left; clear_value x; rotate_left; subst x)
       | clear_value x)
    | with_reducible first | apply State.runCmd_keeps | apply denied_keeps
    | refine denied_keeps_e (by with_reducible assumption) ?_
    | with_reducible first | apply okay_keeps
    | refine okay_keeps_e (by with_reducible assumption) ?_
    | with_reducible first | apply KeepsO.next
    | split
    | with_reducible exact Keeps.refl _
    | (with_reducible refine Keeps.mk ?_ rfl rfl rfl rfl rfl)

theorem execAccRead_keeps {s0 : State} (n : Nat) (s : State) (kh : Keeps s0 s) : KeepsO s0 (execAccRead n s) := by
  unfold execAccRead
  repeat' first
    | with_reducible first | assumption | intro _
    | (extract_lets +onlyGivenNames x
       first
       | (refine Keeps.via (x := x) ?_ fun kh1 => ?_; rotate_left; clear_value x; rotate_left; subst x)
       | (refine KeepsO.via (x := x) ?_ fun kh1 => ?_; rotate_left; clear_value x; rotate_left; subst x)
       | clear_value x)
    | with_reducible first | apply State.runCmd_keeps | apply denied_keeps
    | refine denied_keeps_e (by with_reducible assumption) ?_
    | with_reducible first | apply giving_keeps
    | refine giving_keeps_e (by with_reducible assumption) ?_
    | with_reducible first | apply KeepsO.next
    | split
    | with_reducible exact Keeps.refl _

theorem execMemCetClear_keeps {s0 : State} (n : Nat) (s : State) (kh : Keeps s0 s) : KeepsO s0 (execMemCetClear n s) := by
  unfold execMemCetClear
  repeat' first
    | with_reducible first | assumption | intro _
    | with_reducible first | apply State.clearCet_keeps | apply State.runCmd_keeps | apply okay_keeps
    | refine okay_keeps_e (by with_reducible assumption) ?_
    | with_reducible first | apply KeepsO.next
    | with_reducible exact Keeps.refl _

theorem State.showRetired_keeps {s0 : State} (s : State) (d : Nat) (kh : Keeps s0 s) : Keeps s0 (State.showRetired s d) := by
  unfold State.showRetired
  repeat' first
    | with_reducible first | assumption | intro _
    | (extract_lets +onlyGivenNames x
       first
       | (refine Keeps.via (x := x) ?_ fun kh1 => ?_; rotate_left; clear_value x; rotate_left; subst x)
       | clear_value x)
    | with_reducible first | apply State.setRegN_keeps
    | split
    | with_reducible exact Keeps.refl _

theorem State.retire_keeps_e {s0 s t : State} {x : Retirement} {b : Bool} (e : s.retire x = some (b, t)) (h : Keeps s0 s) : Keeps s0 t := by
  revert e
  unfold State.retire
  dsimp only
  repeat' first
    | split
    | (intro e; cases e; exact State.markRetired_keeps _ _ (State.showRetired_keeps _ _ (State.setRegN_keeps _ _ _ h)))
    | (intro e; cases e; done)

theorem State.retireOne_keeps {s0 : State} (s : State) (x : Retirement) (kh : Keeps s0 s) : Keeps s0 (State.retireOne s x).1 := by
  unfold State.retireOne
  repeat' first
    | with_reducible first | assumption | intro _
    | refine State.retire_keeps_e (by with_reducible assumption) ?_
    | with_reducible first | apply denied_keeps
    | refine denied_keeps_e (by with_reducible assumption) ?_
    | split
    | with_reducible exact Keeps.refl _
theorem State.retireOne_keeps_e {s0 : State} {s : State} {x : Retirement} {x0 x1} (ke : (State.retireOne s x) = (x0, x1)) (kh : Keeps s0 s) : Keeps s0 x0 := by
  have k := State.retireOne_keeps s x kh
  rw [ke] at k
  exact k

theorem execMemRetirePage_keeps {s0 : State} (n : Nat) (s : State) (kh : Keeps s0 s) : KeepsO s0 (execMemRetirePage n s) := by
  unfold execMemRetirePage
  repeat' first
    | with_reducible first | assumption | intro _
    | with_reducible first | apply State.retireOne_keeps
    | refine State.retireOne_keeps_e (by with_reducible assumption) ?_
    | with_reducible first | apply State.runCmd_keeps | apply KeepsO.next
    | with_reducible exact Keeps.refl _

theorem execMemRetireBank_keeps {s0 : State} (n : Nat) (s : State) (kh : Keeps s0 s) : KeepsO s0 (execMemRetireBank n s) := by
  unfold execMemRetireBank
  repeat' first
    | with_reducible first | assumption | intro _
    | with_reducible first | apply State.retireOne_keeps
    | refine State.retireOne_keeps_e (by with_reducible assumption) ?_
    | with_reducible first | apply State.runCmd_keeps | apply KeepsO.next
    | with_reducible exact Keeps.refl _

theorem State.retireAllOf_keeps {s0 : State} : ∀ (l : List Retirement) (s : State) (k : Nat) (w : Bool), Keeps s0 s → Keeps s0 (s.retireAllOf l k w).1
  | [], _, _, _, h => h
  | x :: r, s, k, w, h => by
    unfold State.retireAllOf
    split
    · exact h
    · rename_i g
      exact State.retireAllOf_keeps r _ _ _ (State.retire_keeps_e g h)
theorem State.retireAllOf_keeps_e {s0 s t : State} {l : List Retirement} {k k1 : Nat} {w w1 f : Bool} (e : s.retireAllOf l k w = (t, k1, w1, f)) (h : Keeps s0 s) : Keeps s0 t := by
  have q := State.retireAllOf_keeps l s k w h
  rw [e] at q
  exact q

theorem execMemRetireList_keeps {s0 : State} (n : Nat) (s : State) (kh : Keeps s0 s) : KeepsO s0 (execMemRetireList n s) := by
  unfold execMemRetireList
  repeat' first
    | with_reducible first | assumption | intro _
    | (extract_lets +onlyGivenNames x
       first
       | (refine Keeps.via (x := x) ?_ fun kh1 => ?_; rotate_left; clear_value x; rotate_left; subst x)
       | (refine KeepsO.via (x := x) ?_ fun kh1 => ?_; rotate_left; clear_value x; rotate_left; subst x)
       | clear_value x)
    | with_reducible first | apply State.retireAllOf_keeps
    | refine State.retireAllOf_keeps_e (by with_reducible assumption) ?_
    | with_reducible first | apply State.supRead_keeps
    | refine State.supRead_keeps_e (by with_reducible assumption) ?_
    | with_reducible first | apply State.runCmd_keeps | apply denied_keeps
    | refine denied_keeps_e (by with_reducible assumption) ?_
    | with_reducible first | apply KeepsO.next
    | split
    | with_reducible exact Keeps.refl _

end Sys2Proof.Machine
end

