-- ==== Sys2Proof/Laws/KeepsGpio.lean ====
section
/-! SUPPORT. Every operation of Machine/Gpio.lean keeps the queue and the canonical form. -/

namespace Sys2Proof.Machine

theorem State.modPower_keeps {s0 : State} (s : State) (f : Power → Power) (kh : Keeps s0 s) : Keeps s0 (State.modPower s f) := by
  unfold State.modPower
  repeat' first
    | with_reducible first | assumption | intro _
    | with_reducible exact Keeps.refl _
    | (with_reducible refine Keeps.mk ?_ rfl rfl rfl rfl rfl)

theorem State.wakeOn_keeps {s0 : State} (s : State) (cause ctl : Nat) (kh : Keeps s0 s) : Keeps s0 (State.wakeOn s cause ctl) := by
  unfold State.wakeOn
  repeat' first
    | with_reducible first | assumption | intro _
    | (extract_lets +onlyGivenNames x
       first
       | (refine Keeps.via (x := x) ?_ fun kh1 => ?_; rotate_left; clear_value x; rotate_left; subst x)
       | clear_value x)
    | with_reducible first | apply State.modPower_keeps | apply State.postC_keeps | apply State.setFld_keeps
    | split
    | with_reducible exact Keeps.refl _
    | (with_reducible refine Keeps.mk ?_ rfl rfl rfl rfl rfl)

theorem State.tapEdge_keeps {s0 : State} (s : State) (p : Nat) (on chatter : Bool) (kh : Keeps s0 s) : Keeps s0 (State.tapEdge s p on chatter) := by
  unfold State.tapEdge
  repeat' first
    | with_reducible first | assumption | intro _
    | with_reducible first | apply State.tap_keeps
    | with_reducible exact Keeps.refl _

theorem State.safeRequest_keeps {s0 : State} (s : State) (kh : Keeps s0 s) : Keeps s0 (State.safeRequest s) := by
  unfold State.safeRequest
  repeat' first
    | with_reducible first | assumption | intro _
    | (extract_lets +onlyGivenNames x
       first
       | (refine Keeps.via (x := x) ?_ fun kh1 => ?_; rotate_left; clear_value x; rotate_left; subst x)
       | clear_value x)
    | with_reducible first | apply State.crimson_keeps | apply State.modSafety_keeps | apply State.postC_keeps | apply State.setRegN_keeps
    | split
    | with_reducible exact Keeps.refl _
    | (with_reducible refine Keeps.mk ?_ rfl rfl rfl rfl rfl)

theorem State.pinTake_keeps {s0 : State} (s : State) (p : Nat) (on : Bool) (kh : Keeps s0 s) : Keeps s0 (State.pinTake s p on) := by
  unfold State.pinTake
  repeat' first
    | with_reducible first | assumption | intro _
    | (extract_lets +onlyGivenNames x
       first
       | (refine Keeps.via (x := x) ?_ fun kh1 => ?_; rotate_left; clear_value x; rotate_left; subst x)
       | clear_value x)
    | with_reducible first | apply State.safeRequest_keeps | apply State.wakeOn_keeps | apply State.modPin_keeps | apply State.setBit_keeps
    | split
    | with_reducible exact Keeps.refl _
    | (with_reducible refine Keeps.mk ?_ rfl rfl rfl rfl rfl)

theorem State.pinChatters_keeps {s0 : State} (s : State) (p : Nat) (kh : Keeps s0 s) : Keeps s0 (State.pinChatters s p) := by
  unfold State.pinChatters
  repeat' first
    | with_reducible first | assumption | intro _
    | (extract_lets +onlyGivenNames x
       first
       | (refine Keeps.via (x := x) ?_ fun kh1 => ?_; rotate_left; clear_value x; rotate_left; subst x)
       | clear_value x)
    | with_reducible first | apply State.pinTake_keeps | apply State.tapEdge_keeps | apply State.postC_keeps | apply State.modPin_keeps | apply State.incFld_keeps | apply State.setBit_keeps
    | split
    | with_reducible exact Keeps.refl _
    | (with_reducible refine Keeps.mk ?_ rfl rfl rfl rfl rfl)

theorem State.pinChange_keeps {s0 : State} (s : State) (p : Nat) (on : Bool) (kh : Keeps s0 s) : Keeps s0 (State.pinChange s p on) := by
  unfold State.pinChange
  repeat' first
    | with_reducible first | assumption | intro _
    | (extract_lets +onlyGivenNames x
       first
       | (refine Keeps.via (x := x) ?_ fun kh1 => ?_; rotate_left; clear_value x; rotate_left; subst x)
       | clear_value x)
    | with_reducible first | apply State.pinChatters_keeps | apply State.pinTake_keeps | apply State.tapEdge_keeps | apply State.modPin_keeps
    | split
    | with_reducible exact Keeps.refl _
    | (with_reducible refine Keeps.mk ?_ rfl rfl rfl rfl rfl)

theorem execRawExcursion_keeps {s0 : State} (pin : Nat) (s : State) (kh : Keeps s0 s) : KeepsO s0 (execRawExcursion pin s) := by
  unfold execRawExcursion
  repeat' first
    | with_reducible first | assumption | intro _
    | (extract_lets +onlyGivenNames x
       first
       | (refine Keeps.via (x := x) ?_ fun kh1 => ?_; rotate_left; clear_value x; rotate_left; subst x)
       | (refine KeepsO.via (x := x) ?_ fun kh1 => ?_; rotate_left; clear_value x; rotate_left; subst x)
       | clear_value x)
    | with_reducible first | apply State.pinChatters_keeps | apply State.modPin_keeps | apply KeepsO.next
    | split
    | with_reducible exact Keeps.refl _
    | (with_reducible refine Keeps.mk ?_ rfl rfl rfl rfl rfl)

theorem execFilteredChange_keeps {s0 : State} (pin : Nat) (level : Bool) (s : State) (kh : Keeps s0 s) : KeepsO s0 (execFilteredChange pin level s) := by
  unfold execFilteredChange
  repeat' first
    | with_reducible first | assumption | intro _
    | (extract_lets +onlyGivenNames x
       first
       | (refine Keeps.via (x := x) ?_ fun kh1 => ?_; rotate_left; clear_value x; rotate_left; subst x)
       | (refine KeepsO.via (x := x) ?_ fun kh1 => ?_; rotate_left; clear_value x; rotate_left; subst x)
       | clear_value x)
    | with_reducible first | apply State.pinChange_keeps | apply State.modPin_keeps | apply KeepsO.next
    | split
    | with_reducible exact Keeps.refl _
    | (with_reducible refine Keeps.mk ?_ rfl rfl rfl rfl rfl)

theorem execChatterClear_keeps {s0 : State} (pin : Nat) (s : State) (kh : Keeps s0 s) : KeepsO s0 (execChatterClear pin s) := by
  unfold execChatterClear
  repeat' first
    | with_reducible first | assumption | intro _
    | with_reducible first | apply State.pinChange_keeps | apply State.setBit_keeps | apply KeepsO.next
    | split
    | with_reducible exact Keeps.refl _

theorem execStuckLatch_keeps {s0 : State} (pin : Nat) (s : State) (kh : Keeps s0 s) : KeepsO s0 (execStuckLatch pin s) := by
  unfold execStuckLatch
  repeat' first
    | with_reducible first | assumption | intro _
    | (extract_lets +onlyGivenNames x
       first
       | (refine Keeps.via (x := x) ?_ fun kh1 => ?_; rotate_left; clear_value x; rotate_left; subst x)
       | (refine KeepsO.via (x := x) ?_ fun kh1 => ?_; rotate_left; clear_value x; rotate_left; subst x)
       | clear_value x)
    | with_reducible first | apply State.postC_keeps | apply State.setBit_keeps | apply KeepsO.next
    | split
    | with_reducible exact Keeps.refl _

theorem execStuckClear_keeps {s0 : State} (pin : Nat) (s : State) (kh : Keeps s0 s) : KeepsO s0 (execStuckClear pin s) := by
  unfold execStuckClear
  repeat' first
    | with_reducible first | assumption | intro _
    | with_reducible first | apply State.postC_keeps | apply State.setBit_keeps | apply KeepsO.next
    | split
    | with_reducible exact Keeps.refl _

theorem execSafeDiscrepancy_keeps {s0 : State} (s : State) (kh : Keeps s0 s) : KeepsO s0 (execSafeDiscrepancy s) := by
  unfold execSafeDiscrepancy
  repeat' first
    | with_reducible first | assumption | intro _
    | with_reducible first | apply State.postC_keeps | apply KeepsO.next
    | split
    | with_reducible exact Keeps.refl _
    | (with_reducible refine Keeps.mk ?_ rfl rfl rfl rfl rfl)

end Sys2Proof.Machine
end

