-- ==== Sys2Proof/Laws/KeepsSensor.lean ====
section
/-! SUPPORT. Every operation of Machine/Sensor.lean keeps the queue and the canonical form. -/

namespace Sys2Proof.Machine

theorem State.ctlArrive_keeps {s0 : State} (s : State) (kind index : Nat) (data : BitVec 512) (kh : Keeps s0 s) : Keeps s0 (State.ctlArrive s kind index data) := by
  unfold State.ctlArrive
  repeat' first
    | with_reducible first | assumption | intro _
    | with_reducible exact Keeps.refl _
    | (with_reducible refine Keeps.mk ?_ rfl rfl rfl rfl rfl)

theorem State.modSent_keeps {s0 : State} (s : State) (i : Nat) (f : Sent → Sent) (kh : Keeps s0 s) : Keeps s0 (State.modSent s i f) := by
  unfold State.modSent
  repeat' first
    | with_reducible first | assumption | intro _
    | with_reducible exact Keeps.refl _
    | (with_reducible refine Keeps.mk ?_ rfl rfl rfl rfl rfl)

theorem State.sentWordIn_keeps {s0 : State} (s : State) (j w : Nat) (kh : Keeps s0 s) : Keeps s0 (State.sentWordIn s j w) := by
  unfold State.sentWordIn
  repeat' first
    | with_reducible first | assumption | intro _
    | (extract_lets +onlyGivenNames x
       first
       | (refine Keeps.via (x := x) ?_ fun kh1 => ?_; rotate_left; clear_value x; rotate_left; subst x)
       | clear_value x)
    | with_reducible first | apply State.modSent_keeps | apply State.ctlArrive_keeps | apply State.setRegN_keeps
    | split
    | with_reducible exact Keeps.refl _

theorem execSentMessage_keeps {s0 : State} (i status : Nat) (nibbles : List Nat) (valid : Bool) (s : State) (kh : Keeps s0 s) : KeepsO s0 (execSentMessage i status nibbles valid s) := by
  unfold execSentMessage
  repeat' first
    | with_reducible first | assumption | intro _
    | (extract_lets +onlyGivenNames x
       first
       | (refine Keeps.via (x := x) ?_ fun kh1 => ?_; rotate_left; clear_value x; rotate_left; subst x)
       | (refine KeepsO.via (x := x) ?_ fun kh1 => ?_; rotate_left; clear_value x; rotate_left; subst x)
       | clear_value x)
    | with_reducible first | apply State.sentWordIn_keeps | apply State.modSent_keeps | apply State.tap_keeps | apply State.postC_keeps | apply KeepsO.next
    | split
    | with_reducible exact Keeps.refl _
    | (with_reducible refine Keeps.mk ?_ rfl rfl rfl rfl rfl)

theorem execSentSilent_keeps {s0 : State} (i : Nat) (s : State) (kh : Keeps s0 s) : KeepsO s0 (execSentSilent i s) := by
  unfold execSentSilent
  repeat' first
    | with_reducible first | assumption | intro _
    | (extract_lets +onlyGivenNames x
       first
       | (refine Keeps.via (x := x) ?_ fun kh1 => ?_; rotate_left; clear_value x; rotate_left; subst x)
       | (refine KeepsO.via (x := x) ?_ fun kh1 => ?_; rotate_left; clear_value x; rotate_left; subst x)
       | clear_value x)
    | with_reducible first | apply State.modSent_keeps | apply State.postC_keeps | apply KeepsO.next
    | split
    | with_reducible exact Keeps.refl _
    | (with_reducible refine Keeps.mk ?_ rfl rfl rfl rfl rfl)

theorem State.modSpi_keeps {s0 : State} (s : State) (j : Nat) (f : Spi → Spi) (kh : Keeps s0 s) : Keeps s0 (State.modSpi s j f) := by
  unfold State.modSpi
  repeat' first
    | with_reducible first | assumption | intro _
    | with_reducible exact Keeps.refl _
    | (with_reducible refine Keeps.mk ?_ rfl rfl rfl rfl rfl)

theorem State.spiInput_keeps {s0 : State} (s : State) (j : Nat) (kh : Keeps s0 s) : Keeps s0 (State.spiInput s j) := by
  unfold State.spiInput
  repeat' first
    | with_reducible first | assumption | intro _
    | (extract_lets +onlyGivenNames x
       first
       | (refine Keeps.via (x := x) ?_ fun kh1 => ?_; rotate_left; clear_value x; rotate_left; subst x)
       | clear_value x)
    | with_reducible first | apply State.modSpi_keeps | apply State.draw_keeps
    | refine State.draw_keeps_e (by with_reducible assumption) ?_
    | split
    | with_reducible exact Keeps.refl _
    | (with_reducible refine Keeps.mk ?_ rfl rfl rfl rfl rfl)

theorem State.spiNext_keeps {s0 : State} (s : State) (j : Nat) (kh : Keeps s0 s) : Keeps s0 (State.spiNext s j) := by
  unfold State.spiNext
  repeat' first
    | with_reducible first | assumption | intro _
    | (extract_lets +onlyGivenNames x
       first
       | (refine Keeps.via (x := x) ?_ fun kh1 => ?_; rotate_left; clear_value x; rotate_left; subst x)
       | clear_value x)
    | with_reducible first | apply State.spiInput_keeps | apply State.modSpi_keeps | apply State.postC_keeps
    | split
    | with_reducible exact Keeps.refl _
    | (with_reducible refine Keeps.mk ?_ rfl rfl rfl rfl rfl)

theorem execSpiInputDue_keeps {s0 : State} (j : Nat) (s : State) (kh : Keeps s0 s) : KeepsO s0 (execSpiInputDue j s) := by
  unfold execSpiInputDue
  repeat' first
    | with_reducible first | assumption | intro _
    | (extract_lets +onlyGivenNames x
       first
       | (refine Keeps.via (x := x) ?_ fun kh1 => ?_; rotate_left; clear_value x; rotate_left; subst x)
       | (refine KeepsO.via (x := x) ?_ fun kh1 => ?_; rotate_left; clear_value x; rotate_left; subst x)
       | clear_value x)
    | with_reducible first | apply State.spiNext_keeps | apply State.modSpi_keeps | apply KeepsO.next
    | split
    | with_reducible exact Keeps.refl _
    | (with_reducible refine Keeps.mk ?_ rfl rfl rfl rfl rfl)

theorem State.spiSend_keeps {s0 : State} (s : State) (j : Nat) (payload : List Byte) (kh : Keeps s0 s) : Keeps s0 (State.spiSend s j payload) := by
  unfold State.spiSend
  repeat' first
    | with_reducible first | assumption | intro _
    | with_reducible first | apply State.spiNext_keeps | apply State.modSpi_keeps
    | split
    | with_reducible exact Keeps.refl _
    | (with_reducible refine Keeps.mk ?_ rfl rfl rfl rfl rfl)

theorem State.spiFrameIn_keeps {s0 : State} (s : State) (j cs w : Nat) (kh : Keeps s0 s) : Keeps s0 (State.spiFrameIn s j cs w) := by
  unfold State.spiFrameIn
  repeat' first
    | with_reducible first | assumption | intro _
    | (extract_lets +onlyGivenNames x
       first
       | (refine Keeps.via (x := x) ?_ fun kh1 => ?_; rotate_left; clear_value x; rotate_left; subst x)
       | clear_value x)
    | with_reducible first | apply State.ctlArrive_keeps | apply State.setPieces_keeps
    | split
    | with_reducible exact Keeps.refl _

theorem execSpiTransferDone_keeps {s0 : State} (j : Nat) (data : List Byte) (s : State) (kh : Keeps s0 s) : KeepsO s0 (execSpiTransferDone j data s) := by
  unfold execSpiTransferDone
  repeat' first
    | with_reducible first | assumption | intro _
    | (extract_lets +onlyGivenNames x
       first
       | (refine Keeps.via (x := x) ?_ fun kh1 => ?_; rotate_left; clear_value x; rotate_left; subst x)
       | (refine KeepsO.via (x := x) ?_ fun kh1 => ?_; rotate_left; clear_value x; rotate_left; subst x)
       | clear_value x)
    | with_reducible first | apply State.spiFrameIn_keeps | apply State.spiNext_keeps | apply State.modSpi_keeps | apply State.tap_keeps | apply KeepsO.next
    | split
    | with_reducible exact Keeps.refl _
    | (with_reducible refine Keeps.mk ?_ rfl rfl rfl rfl rfl)

end Sys2Proof.Machine
end

