-- ==== Sys2Proof/Laws/KeepsCan.lean ====
section
/-! SUPPORT. Every operation of Machine/Can.lean keeps the queue and the canonical form. -/

namespace Sys2Proof.Machine

theorem actCanRam_keeps {s0 : State} (n : Nat) (s : State) (v : Nat) (kh : Keeps s0 s) : Keeps s0 (actCanRam n s v).1 := by
  unfold actCanRam
  repeat' first
    | with_reducible first | assumption | intro _
    | (extract_lets +onlyGivenNames x
       first
       | (refine Keeps.via (x := x) ?_ fun kh1 => ?_; rotate_left; clear_value x; rotate_left; subst x)
       | clear_value x)
    | with_reducible first | apply refuse_keeps
    | refine refuse_keeps_e (by with_reducible assumption) ?_
    | with_reducible first | apply accept_keeps
    | refine accept_keeps_e (by with_reducible assumption) ?_
    | with_reducible first | apply State.setRegN_keeps
    | split
    | with_reducible exact Keeps.refl _
theorem actCanRam_keeps_e {s0 : State} {n : Nat} {s : State} {v : Nat} {x0 x1} (ke : (actCanRam n s v) = (x0, x1)) (kh : Keeps s0 s) : Keeps s0 x0 := by
  have k := actCanRam_keeps n s v kh
  rw [ke] at k
  exact k

theorem State.canShow_keeps {s0 : State} (s : State) (n : Nat) (kh : Keeps s0 s) : Keeps s0 (State.canShow s n) := by
  unfold State.canShow
  repeat' first
    | with_reducible first | assumption | intro _
    | (extract_lets +onlyGivenNames x
       first
       | (refine Keeps.via (x := x) ?_ fun kh1 => ?_; rotate_left; clear_value x; rotate_left; subst x)
       | clear_value x)
    | with_reducible first | apply State.postC_keeps | apply State.setFld_keeps
    | split
    | with_reducible exact Keeps.refl _

theorem State.canBack_keeps {s0 : State} (s : State) (n : Nat) (kh : Keeps s0 s) : Keeps s0 (State.canBack s n) := by
  unfold State.canBack
  repeat' first
    | with_reducible first | assumption | intro _
    | with_reducible first | apply State.setFld_keeps
    | with_reducible exact Keeps.refl _

theorem State.canRest_keeps {s0 : State} (s : State) (n : Nat) (kh : Keeps s0 s) : Keeps s0 (State.canRest s n) := by
  unfold State.canRest
  repeat' first
    | with_reducible first | assumption | intro _
    | with_reducible first | apply State.setFld_keeps
    | split
    | with_reducible exact Keeps.refl _

theorem actCanCtrl_keeps {s0 : State} (n : Nat) (s : State) (v : Nat) (kh : Keeps s0 s) : Keeps s0 (actCanCtrl n s v).1 := by
  unfold actCanCtrl
  repeat' first
    | with_reducible first | assumption | intro _
    | (extract_lets +onlyGivenNames x
       first
       | (refine Keeps.via (x := x) ?_ fun kh1 => ?_; rotate_left; clear_value x; rotate_left; subst x)
       | clear_value x)
    | with_reducible first | apply State.canRest_keeps | apply State.canBack_keeps | apply State.canShow_keeps | apply State.canPick_keeps | apply refuse_keeps
    | refine refuse_keeps_e (by with_reducible assumption) ?_
    | with_reducible first | apply accept_keeps
    | refine accept_keeps_e (by with_reducible assumption) ?_
    | with_reducible first | apply State.modCan_keeps | apply State.setFld_keeps | apply State.setRegN_keeps
    | split
    | with_reducible exact Keeps.refl _
    | (with_reducible refine Keeps.mk ?_ rfl rfl rfl rfl rfl)
theorem actCanCtrl_keeps_e {s0 : State} {n : Nat} {s : State} {v : Nat} {x0 x1} (ke : (actCanCtrl n s v) = (x0, x1)) (kh : Keeps s0 s) : Keeps s0 x0 := by
  have k := actCanCtrl_keeps n s v kh
  rw [ke] at k
  exact k

theorem execCanInitClear_keeps {s0 : State} (m n : Nat) (v : Dword) (s : State) (kh : Keeps s0 s) : KeepsO s0 (execCanInitClear m n v s) := by
  unfold execCanInitClear
  repeat' first
    | with_reducible first | assumption | intro _
    | with_reducible first | apply actCanCtrl_keeps
    | refine actCanCtrl_keeps_e (by with_reducible assumption) ?_
    | with_reducible first | apply State.regBus_keeps | apply KeepsO.next
    | with_reducible exact Keeps.refl _

theorem execCanSleep_keeps {s0 : State} (m n : Nat) (v : Dword) (s : State) (kh : Keeps s0 s) : KeepsO s0 (execCanSleep m n v s) := by
  unfold execCanSleep
  repeat' first
    | with_reducible first | assumption | intro _
    | with_reducible first | apply actCanCtrl_keeps
    | refine actCanCtrl_keeps_e (by with_reducible assumption) ?_
    | with_reducible first | apply State.regBus_keeps | apply KeepsO.next
    | with_reducible exact Keeps.refl _

theorem actCanTx_keeps {s0 : State} (n : Nat) (s : State) (v : Nat) (kh : Keeps s0 s) : Keeps s0 (actCanTx n s v).1 := by
  unfold actCanTx
  repeat' first
    | with_reducible first | assumption | intro _
    | (extract_lets +onlyGivenNames x
       first
       | (refine Keeps.via (x := x) ?_ fun kh1 => ?_; rotate_left; clear_value x; rotate_left; subst x)
       | clear_value x)
    | with_reducible first | apply State.canPick_keeps | apply accept_keeps
    | refine accept_keeps_e (by with_reducible assumption) ?_
    | with_reducible first | apply State.setRegN_keeps
    | split
    | with_reducible exact Keeps.refl _
theorem actCanTx_keeps_e {s0 : State} {n : Nat} {s : State} {v : Nat} {x0 x1} (ke : (actCanTx n s v) = (x0, x1)) (kh : Keeps s0 s) : Keeps s0 x0 := by
  have k := actCanTx_keeps n s v kh
  rw [ke] at k
  exact k

theorem execCannTxReq_keeps {s0 : State} (m n : Nat) (v : Dword) (s : State) (kh : Keeps s0 s) : KeepsO s0 (execCannTxReq m n v s) := by
  unfold execCannTxReq
  repeat' first
    | with_reducible first | assumption | intro _
    | with_reducible first | apply actCanTx_keeps
    | refine actCanTx_keeps_e (by with_reducible assumption) ?_
    | with_reducible first | apply State.regBus_keeps | apply KeepsO.next
    | with_reducible exact Keeps.refl _

theorem State.canLeave_keeps {s0 : State} (s : State) (n i : Nat) (kh : Keeps s0 s) : Keeps s0 (State.canLeave s n i) := by
  unfold State.canLeave
  repeat' first
    | with_reducible first | assumption | intro _
    | (extract_lets +onlyGivenNames x
       first
       | (refine Keeps.via (x := x) ?_ fun kh1 => ?_; rotate_left; clear_value x; rotate_left; subst x)
       | clear_value x)
    | with_reducible first | apply State.canRest_keeps | apply State.canLoad_keeps | apply State.canPick_keeps | apply State.modCan_keeps | apply State.setBit_keeps
    | split
    | with_reducible exact Keeps.refl _
    | (with_reducible refine Keeps.mk ?_ rfl rfl rfl rfl rfl)

theorem execCanFrameTransmitted_keeps {s0 : State} (n : Nat) (s : State) (kh : Keeps s0 s) : KeepsO s0 (execCanFrameTransmitted n s) := by
  unfold execCanFrameTransmitted
  repeat' first
    | with_reducible first | assumption | intro _
    | (extract_lets +onlyGivenNames x
       first
       | (refine Keeps.via (x := x) ?_ fun kh1 => ?_; rotate_left; clear_value x; rotate_left; subst x)
       | (refine KeepsO.via (x := x) ?_ fun kh1 => ?_; rotate_left; clear_value x; rotate_left; subst x)
       | clear_value x)
    | with_reducible first | apply State.canLeave_keeps | apply State.canShow_keeps | apply State.setFld_keeps | apply KeepsO.next
    | split
    | with_reducible exact Keeps.refl _

theorem State.canAttempt_keeps {s0 : State} (s : State) (n i : Nat) (kh : Keeps s0 s) : Keeps s0 (State.canAttempt s n i) := by
  unfold State.canAttempt
  repeat' first
    | with_reducible first | assumption | intro _
    | (extract_lets +onlyGivenNames x
       first
       | (refine Keeps.via (x := x) ?_ fun kh1 => ?_; rotate_left; clear_value x; rotate_left; subst x)
       | clear_value x)
    | with_reducible first | apply State.canLeave_keeps | apply State.canRest_keeps | apply State.canPick_keeps | apply State.postC_keeps | apply State.modCan_keeps
    | split
    | with_reducible exact Keeps.refl _
    | (with_reducible refine Keeps.mk ?_ rfl rfl rfl rfl rfl)

theorem execCanArbitrationLost_keeps {s0 : State} (n : Nat) (s : State) (kh : Keeps s0 s) : KeepsO s0 (execCanArbitrationLost n s) := by
  unfold execCanArbitrationLost
  repeat' first
    | with_reducible first | assumption | intro _
    | (extract_lets +onlyGivenNames x
       first
       | (refine Keeps.via (x := x) ?_ fun kh1 => ?_; rotate_left; clear_value x; rotate_left; subst x)
       | (refine KeepsO.via (x := x) ?_ fun kh1 => ?_; rotate_left; clear_value x; rotate_left; subst x)
       | clear_value x)
    | with_reducible first | apply State.canAttempt_keeps | apply KeepsO.next
    | split
    | with_reducible exact Keeps.refl _

theorem State.canOff_keeps {s0 : State} (s : State) (n : Nat) (kh : Keeps s0 s) : Keeps s0 (State.canOff s n) := by
  unfold State.canOff
  repeat' first
    | with_reducible first | assumption | intro _
    | (extract_lets +onlyGivenNames x
       first
       | (refine Keeps.via (x := x) ?_ fun kh1 => ?_; rotate_left; clear_value x; rotate_left; subst x)
       | clear_value x)
    | with_reducible first | apply State.postC_keeps | apply State.modCan_keeps | apply State.setBit_keeps | apply State.setFld_keeps
    | split
    | with_reducible exact Keeps.refl _
    | (with_reducible refine Keeps.mk ?_ rfl rfl rfl rfl rfl)

theorem execCanBusError_keeps {s0 : State} (n : Nat) (tx : Bool) (s : State) (kh : Keeps s0 s) : KeepsO s0 (execCanBusError n tx s) := by
  unfold execCanBusError
  repeat' first
    | with_reducible first | assumption | intro _
    | (extract_lets +onlyGivenNames x
       first
       | (refine Keeps.via (x := x) ?_ fun kh1 => ?_; rotate_left; clear_value x; rotate_left; subst x)
       | (refine KeepsO.via (x := x) ?_ fun kh1 => ?_; rotate_left; clear_value x; rotate_left; subst x)
       | clear_value x)
    | with_reducible first | apply State.canOff_keeps | apply State.canAttempt_keeps | apply State.canShow_keeps | apply State.setFld_keeps | apply KeepsO.next
    | split
    | with_reducible exact Keeps.refl _

theorem execCanRecovered_keeps {s0 : State} (n : Nat) (s : State) (kh : Keeps s0 s) : KeepsO s0 (execCanRecovered n s) := by
  unfold execCanRecovered
  repeat' first
    | with_reducible first | assumption | intro _
    | (extract_lets +onlyGivenNames x
       first
       | (refine Keeps.via (x := x) ?_ fun kh1 => ?_; rotate_left; clear_value x; rotate_left; subst x)
       | (refine KeepsO.via (x := x) ?_ fun kh1 => ?_; rotate_left; clear_value x; rotate_left; subst x)
       | clear_value x)
    | with_reducible first | apply State.canBack_keeps | apply State.canPick_keeps | apply State.postC_keeps | apply KeepsO.next
    | split
    | with_reducible exact Keeps.refl _

theorem State.canStore_keeps {s0 : State} (s : State) (n : Nat) (second : Bool) (f : CanFrame) (kh : Keeps s0 s) : Keeps s0 (State.canStore s n second f) := by
  unfold State.canStore
  repeat' first
    | with_reducible first | assumption | intro _
    | (extract_lets +onlyGivenNames x
       first
       | (refine Keeps.via (x := x) ?_ fun kh1 => ?_; rotate_left; clear_value x; rotate_left; subst x)
       | clear_value x)
    | with_reducible first | apply State.postC_keeps | apply State.modCan_keeps
    | split
    | with_reducible exact Keeps.refl _
    | (with_reducible refine Keeps.mk ?_ rfl rfl rfl rfl rfl)

theorem State.canDeliver_keeps {s0 : State} (s : State) (n k a : Nat) (f : CanFrame) (kh : Keeps s0 s) : Keeps s0 (State.canDeliver s n k a f) := by
  unfold State.canDeliver
  repeat' first
    | with_reducible first | assumption | intro _
    | with_reducible first | apply State.canStore_keeps | apply State.ctlArrive_keeps
    | split
    | with_reducible exact Keeps.refl _

theorem execCanFrameReceive_keeps {s0 : State} (n : Nat) (frame : CanFrame) (s : State) (kh : Keeps s0 s) : KeepsO s0 (execCanFrameReceive n frame s) := by
  unfold execCanFrameReceive
  repeat' first
    | with_reducible first | assumption | intro _
    | (extract_lets +onlyGivenNames x
       first
       | (refine Keeps.via (x := x) ?_ fun kh1 => ?_; rotate_left; clear_value x; rotate_left; subst x)
       | (refine KeepsO.via (x := x) ?_ fun kh1 => ?_; rotate_left; clear_value x; rotate_left; subst x)
       | clear_value x)
    | with_reducible first | apply State.canDeliver_keeps | apply State.canShow_keeps | apply State.tap_keeps | apply State.setFld_keeps | apply KeepsO.next
    | split
    | with_reducible exact Keeps.refl _

theorem execCanWake_keeps {s0 : State} (n : Nat) (s : State) (kh : Keeps s0 s) : KeepsO s0 (execCanWake n s) := by
  unfold execCanWake
  repeat' first
    | with_reducible first | assumption | intro _
    | (extract_lets +onlyGivenNames x
       first
       | (refine Keeps.via (x := x) ?_ fun kh1 => ?_; rotate_left; clear_value x; rotate_left; subst x)
       | (refine KeepsO.via (x := x) ?_ fun kh1 => ?_; rotate_left; clear_value x; rotate_left; subst x)
       | clear_value x)
    | with_reducible first | apply State.wakeOn_keeps | apply State.postC_keeps | apply KeepsO.next
    | split
    | with_reducible exact Keeps.refl _

end Sys2Proof.Machine
end

