-- ==== Sys2Proof/Laws/KeepsControlEngine.lean ====
section
/-! SUPPORT. Every operation of Machine/ControlEngine.lean keeps the queue and the canonical form. -/

namespace Sys2Proof.Machine

theorem State.setChState_keeps {s0 : State} (s : State) (c x : Nat) (kh : Keeps s0 s) : Keeps s0 (State.setChState s c x) := by
  unfold State.setChState
  repeat' first
    | with_reducible first | assumption | intro _
    | with_reducible first | apply State.setFld_keeps
    | with_reducible exact Keeps.refl _

theorem State.postCtl_keeps {s0 : State} (s : State) (code : Status) (c n : Nat) (kh : Keeps s0 s) : Keeps s0 (State.postCtl s code c n) := by
  unfold State.postCtl
  repeat' first
    | with_reducible first | assumption | intro _
    | with_reducible first | apply State.post_keeps
    | with_reducible exact Keeps.refl _
    | (with_reducible refine Keeps.mk ?_ rfl rfl rfl rfl rfl)

theorem State.showCtl_keeps {s0 : State} (s : State) (kh : Keeps s0 s) : Keeps s0 (State.showCtl s) := by
  unfold State.showCtl
  repeat' first
    | with_reducible first | assumption | intro _
    | with_reducible first | apply State.setRegN_keeps
    | with_reducible exact Keeps.refl _

theorem State.sampleOne_keeps {s0 : State} (s : State) (t c : Nat) (kh : Keeps s0 s) : Keeps s0 (State.sampleOne s t c) := by
  unfold State.sampleOne
  repeat' first
    | with_reducible first | assumption | intro _
    | (extract_lets +onlyGivenNames x
       first
       | (refine Keeps.via (x := x) ?_ fun kh1 => ?_; rotate_left; clear_value x; rotate_left; subst x)
       | clear_value x)
    | with_reducible first | apply State.postCtl_keeps | apply State.modChan_keeps | apply State.wrapReg_keeps | apply State.incReg_keeps
    | split
    | with_reducible exact Keeps.refl _
    | (with_reducible refine Keeps.mk ?_ rfl rfl rfl rfl rfl)

theorem execCtlSample_keeps {s0 : State} (w e edge : Nat) (s : State) (kh : Keeps s0 s) : KeepsO s0 (execCtlSample w e edge s) := by
  unfold execCtlSample
  repeat' first
    | with_reducible first | assumption | intro _
    | with_reducible first | apply State.sampleOne_keeps | apply State.showCtl_keeps | apply State.ifPowered_keeps | apply State.onEntry_keeps | apply State.each_keeps | apply KeepsO.next
    | with_reducible exact Keeps.refl _

theorem State.tgNext_keeps {s0 : State} (s : State) (kh : Keeps s0 s) : Keeps s0 (State.tgNext s) := by
  unfold State.tgNext
  repeat' first
    | with_reducible first | assumption | intro _
    | (extract_lets +onlyGivenNames x
       first
       | (refine Keeps.via (x := x) ?_ fun kh1 => ?_; rotate_left; clear_value x; rotate_left; subst x)
       | clear_value x)
    | split
    | with_reducible exact Keeps.refl _
    | (with_reducible refine Keeps.mk ?_ rfl rfl rfl rfl rfl)

theorem State.tgStop_keeps {s0 : State} (s : State) (c : Nat) (kh : Keeps s0 s) : Keeps s0 (State.tgStop s c) := by
  unfold State.tgStop
  repeat' first
    | with_reducible first | assumption | intro _
    | with_reducible first | apply State.setBit_keeps
    | split
    | with_reducible exact Keeps.refl _

theorem State.ctlEmit_keeps {s0 : State} (s : State) (c : Nat) (payload : List Byte) (n flags : Nat) (kh : Keeps s0 s) : Keeps s0 (State.ctlEmit s c payload n flags) := by
  unfold State.ctlEmit
  repeat' first
    | with_reducible first | assumption | intro _
    | (extract_lets +onlyGivenNames x
       first
       | (refine Keeps.via (x := x) ?_ fun kh1 => ?_; rotate_left; clear_value x; rotate_left; subst x)
       | clear_value x)
    | with_reducible first | apply State.spiSend_keeps | apply State.canSend_keeps | apply State.express_keeps
    | split
    | with_reducible exact Keeps.refl _

theorem State.ctlOut_keeps {s0 : State} (s : State) (c t q flags : Nat) (kh : Keeps s0 s) : Keeps s0 (State.ctlOut s c t q flags) := by
  unfold State.ctlOut
  repeat' first
    | with_reducible first | assumption | intro _
    | (extract_lets +onlyGivenNames x
       first
       | (refine Keeps.via (x := x) ?_ fun kh1 => ?_; rotate_left; clear_value x; rotate_left; subst x)
       | clear_value x)
    | with_reducible first | apply State.ctlEmit_keeps | apply State.replayCheck_keeps | apply State.tap_keeps | apply State.setFld_keeps
    | split
    | with_reducible exact Keeps.refl _

theorem State.ctlFaultOut_keeps {s0 : State} (s : State) (c t : Nat) (kh : Keeps s0 s) : Keeps s0 (State.ctlFaultOut s c t) := by
  unfold State.ctlFaultOut
  repeat' first
    | with_reducible first | assumption | intro _
    | with_reducible first | apply State.ctlOut_keeps
    | with_reducible exact Keeps.refl _

theorem State.ctlFault_keeps {s0 : State} (s : State) (c t : Nat) (kh : Keeps s0 s) : Keeps s0 (State.ctlFault s c t) := by
  unfold State.ctlFault
  repeat' first
    | with_reducible first | assumption | intro _
    | with_reducible first | apply State.ctlFaultOut_keeps | apply State.tgStop_keeps | apply State.postCtl_keeps | apply State.setChState_keeps
    | with_reducible exact Keeps.refl _

theorem State.capturePut_keeps {s0 : State} (s : State) (v : BitVec 128) (kh : Keeps s0 s) : Keeps s0 (State.capturePut s v) := by
  unfold State.capturePut
  repeat' first
    | with_reducible first | assumption | intro _
    | with_reducible exact Keeps.refl _
    | (with_reducible refine Keeps.mk ?_ rfl rfl rfl rfl rfl)

theorem State.captureCount_keeps {s0 : State} (s : State) (mode : Nat) (kh : Keeps s0 s) : Keeps s0 (State.captureCount s mode) := by
  unfold State.captureCount
  repeat' first
    | with_reducible first | assumption | intro _
    | (extract_lets +onlyGivenNames x
       first
       | (refine Keeps.via (x := x) ?_ fun kh1 => ?_; rotate_left; clear_value x; rotate_left; subst x)
       | clear_value x)
    | with_reducible first | apply State.setBit_keeps | apply State.setFld_keeps
    | split
    | with_reducible exact Keeps.refl _

theorem State.captureOne_keeps {s0 : State} (s : State) (c t sig : Nat) (k : Chain) (kh : Keeps s0 s) : Keeps s0 (State.captureOne s c t sig k) := by
  unfold State.captureOne
  repeat' first
    | with_reducible first | assumption | intro _
    | (extract_lets +onlyGivenNames x
       first
       | (refine Keeps.via (x := x) ?_ fun kh1 => ?_; rotate_left; clear_value x; rotate_left; subst x)
       | clear_value x)
    | with_reducible first | apply State.captureCount_keeps | apply State.capturePut_keeps
    | split
    | with_reducible exact Keeps.refl _

theorem State.ctlSwap_keeps {s0 : State} (s : State) (c t : Nat) (kh : Keeps s0 s) : Keeps s0 (State.ctlSwap s c t) := by
  unfold State.ctlSwap
  repeat' first
    | with_reducible first | assumption | intro _
    | (extract_lets +onlyGivenNames x
       first
       | (refine Keeps.via (x := x) ?_ fun kh1 => ?_; rotate_left; clear_value x; rotate_left; subst x)
       | clear_value x)
    | with_reducible first | apply State.tap_keeps | apply State.modChan_keeps | apply State.setBit_keeps
    | split
    | with_reducible exact Keeps.refl _
    | (with_reducible refine Keeps.mk ?_ rfl rfl rfl rfl rfl)

theorem State.ctlPoison_keeps {s0 : State} (s : State) (c : Nat) (p : Bool) (kh : Keeps s0 s) : Keeps s0 (State.ctlPoison s c p) := by
  unfold State.ctlPoison
  repeat' first
    | with_reducible first | assumption | intro _
    | (extract_lets +onlyGivenNames x
       first
       | (refine Keeps.via (x := x) ?_ fun kh1 => ?_; rotate_left; clear_value x; rotate_left; subst x)
       | clear_value x)
    | with_reducible first | apply State.poisonBites_keeps | apply State.modChan_keeps
    | split
    | with_reducible exact Keeps.refl _
    | (with_reducible refine Keeps.mk ?_ rfl rfl rfl rfl rfl)

theorem State.ctlStale_keeps {s0 : State} (s : State) (c : Nat) (stale : Bool) (kh : Keeps s0 s) : Keeps s0 (State.ctlStale s c stale) := by
  unfold State.ctlStale
  repeat' first
    | with_reducible first | assumption | intro _
    | (extract_lets +onlyGivenNames x
       first
       | (refine Keeps.via (x := x) ?_ fun kh1 => ?_; rotate_left; clear_value x; rotate_left; subst x)
       | clear_value x)
    | with_reducible first | apply State.postCtl_keeps | apply State.incFld_keeps | apply State.setFld_keeps
    | split
    | with_reducible exact Keeps.refl _

theorem State.ctlImpl_keeps {s0 : State} (s : State) (c : Nat) (good : Bool) (kh : Keeps s0 s) : Keeps s0 (State.ctlImpl s c good) := by
  unfold State.ctlImpl
  repeat' first
    | with_reducible first | assumption | intro _
    | with_reducible first | apply State.incFld_keeps | apply State.setFld_keeps
    | split
    | with_reducible exact Keeps.refl _

theorem State.ctlApply_keeps {s0 : State} (s : State) (c t sig : Nat) (test : Bool) (flags : Nat) (k : Chain) (kh : Keeps s0 s) : Keeps s0 (State.ctlApply s c t sig test flags k) := by
  unfold State.ctlApply
  repeat' first
    | with_reducible first | assumption | intro _
    | (extract_lets +onlyGivenNames x
       first
       | (refine Keeps.via (x := x) ?_ fun kh1 => ?_; rotate_left; clear_value x; rotate_left; subst x)
       | clear_value x)
    | with_reducible first | apply State.captureOne_keeps | apply State.ctlFault_keeps | apply State.ctlOut_keeps | apply State.tgNext_keeps | apply State.postCtl_keeps | apply State.setChState_keeps | apply State.modChan_keeps | apply State.setFld_keeps
    | split
    | with_reducible exact Keeps.refl _

theorem State.ctlChain_keeps {s0 : State} (s : State) (c t x m : Nat) (good stale : Bool) (g : SetPoint) (kh : Keeps s0 s) : Keeps s0 (State.ctlChain s c t x m good stale g) := by
  unfold State.ctlChain
  repeat' first
    | with_reducible first | assumption | intro _
    | (extract_lets +onlyGivenNames x
       first
       | (refine Keeps.via (x := x) ?_ fun kh1 => ?_; rotate_left; clear_value x; rotate_left; subst x)
       | clear_value x)
    | with_reducible first | apply State.ctlApply_keeps | apply State.modChan_keeps
    | split
    | with_reducible exact Keeps.refl _
    | (with_reducible refine Keeps.mk ?_ rfl rfl rfl rfl rfl)

theorem State.ctlLive_keeps {s0 : State} (s : State) (c t : Nat) (kh : Keeps s0 s) : Keeps s0 (State.ctlLive s c t) := by
  unfold State.ctlLive
  repeat' first
    | with_reducible first | assumption | intro _
    | (extract_lets +onlyGivenNames x
       first
       | (refine Keeps.via (x := x) ?_ fun kh1 => ?_; rotate_left; clear_value x; rotate_left; subst x)
       | clear_value x
       | subst x)
    | with_reducible first | apply State.ctlChain_keeps | apply State.ctlImpl_keeps | apply State.ctlStale_keeps | apply State.ctlPoison_keeps | apply State.ctlFault_keeps | apply State.modChan_keeps
    | split
    | with_reducible exact Keeps.refl _

theorem execCtlEvaluation_keeps {s0 : State} (s : State) (kh : Keeps s0 s) : KeepsO s0 (execCtlEvaluation s) := by
  unfold execCtlEvaluation
  repeat' first
    | with_reducible first | assumption | intro _
    | (extract_lets +onlyGivenNames x
       first
       | (refine Keeps.via (x := x) ?_ fun kh1 => ?_; rotate_left; clear_value x; rotate_left; subst x)
       | (refine KeepsO.via (x := x) ?_ fun kh1 => ?_; rotate_left; clear_value x; rotate_left; subst x)
       | clear_value x)
    | with_reducible first | apply State.ctlLive_keeps | apply State.ctlSwap_keeps | apply State.ctlFaultOut_keeps | apply State.showCtl_keeps | apply State.modChan_keeps | apply KeepsO.next
    | split
    | with_reducible exact Keeps.refl _
    | (with_reducible refine Keeps.mk ?_ rfl rfl rfl rfl rfl)

theorem execTestGeneratorEnd_keeps {s0 : State} (s : State) (kh : Keeps s0 s) : KeepsO s0 (execTestGeneratorEnd s) := by
  unfold execTestGeneratorEnd
  repeat' first
    | with_reducible first | assumption | intro _
    | with_reducible first | apply State.setBit_keeps | apply KeepsO.next
    | split
    | with_reducible exact Keeps.refl _

theorem State.tgWrite_keeps {s0 : State} (s : State) (v : Nat) (kh : Keeps s0 s) : Keeps s0 (State.tgWrite s v).1 := by
  unfold State.tgWrite
  repeat' first
    | with_reducible first | assumption | intro _
    | (extract_lets +onlyGivenNames x
       first
       | (refine Keeps.via (x := x) ?_ fun kh1 => ?_; rotate_left; clear_value x; rotate_left; subst x)
       | clear_value x)
    | with_reducible first | apply refuse_keeps
    | refine refuse_keeps_e (by with_reducible assumption) ?_
    | with_reducible first | apply accept_keeps
    | refine accept_keeps_e (by with_reducible assumption) ?_
    | with_reducible first | apply State.setBit_keeps | apply State.setRegN_keeps
    | split
    | with_reducible exact Keeps.refl _
    | (with_reducible refine Keeps.mk ?_ rfl rfl rfl rfl rfl)
theorem State.tgWrite_keeps_e {s0 : State} {s : State} {v : Nat} {x0 x1} (ke : (State.tgWrite s v) = (x0, x1)) (kh : Keeps s0 s) : Keeps s0 x0 := by
  have k := State.tgWrite_keeps s v kh
  rw [ke] at k
  exact k

theorem execCtlTgStart_keeps {s0 : State} (m : Nat) (v : Dword) (s : State) (kh : Keeps s0 s) : KeepsO s0 (execCtlTgStart m v s) := by
  unfold execCtlTgStart
  repeat' first
    | with_reducible first | assumption | intro _
    | with_reducible first | apply State.tgWrite_keeps
    | refine State.tgWrite_keeps_e (by with_reducible assumption) ?_
    | with_reducible first | apply State.regBus_keeps | apply KeepsO.next
    | with_reducible exact Keeps.refl _

theorem State.chDisable_keeps {s0 : State} (s : State) (c : Nat) (kh : Keeps s0 s) : Keeps s0 (State.chDisable s c) := by
  unfold State.chDisable
  repeat' first
    | with_reducible first | assumption | intro _
    | (extract_lets +onlyGivenNames x
       first
       | (refine Keeps.via (x := x) ?_ fun kh1 => ?_; rotate_left; clear_value x; rotate_left; subst x)
       | clear_value x)
    | with_reducible first | apply State.tgStop_keeps | apply State.showCtl_keeps | apply State.setChState_keeps | apply State.modChan_keeps | apply State.setBit_keeps
    | split
    | with_reducible exact Keeps.refl _
    | (with_reducible refine Keeps.mk ?_ rfl rfl rfl rfl rfl)

theorem State.chArm_keeps {s0 : State} (s : State) (c : Nat) (kh : Keeps s0 s) : Keeps s0 (State.chArm s c) := by
  unfold State.chArm
  repeat' first
    | with_reducible first | assumption | intro _
    | (extract_lets +onlyGivenNames x
       first
       | (refine Keeps.via (x := x) ?_ fun kh1 => ?_; rotate_left; clear_value x; rotate_left; subst x)
       | clear_value x)
    | with_reducible first | apply State.setChState_keeps | apply State.modChan_keeps | apply State.setFld_keeps
    | split
    | with_reducible exact Keeps.refl _
    | (with_reducible refine Keeps.mk ?_ rfl rfl rfl rfl rfl)

theorem State.chCfgWrite_keeps {s0 : State} (s : State) (c v : Nat) (kh : Keeps s0 s) : Keeps s0 (State.chCfgWrite s c v).1 := by
  unfold State.chCfgWrite
  repeat' first
    | with_reducible first | assumption | intro _
    | (extract_lets +onlyGivenNames x
       first
       | (refine Keeps.via (x := x) ?_ fun kh1 => ?_; rotate_left; clear_value x; rotate_left; subst x)
       | clear_value x)
    | with_reducible first | apply State.chArm_keeps | apply State.chDisable_keeps | apply refuse_keeps
    | refine refuse_keeps_e (by with_reducible assumption) ?_
    | with_reducible first | apply accept_keeps
    | refine accept_keeps_e (by with_reducible assumption) ?_
    | with_reducible first | apply State.setRegN_keeps
    | split
    | with_reducible exact Keeps.refl _
theorem State.chCfgWrite_keeps_e {s0 : State} {s : State} {c v : Nat} {x0 x1} (ke : (State.chCfgWrite s c v) = (x0, x1)) (kh : Keeps s0 s) : Keeps s0 x0 := by
  have k := State.chCfgWrite_keeps s c v kh
  rw [ke] at k
  exact k

theorem State.chOffWrite_keeps {s0 : State} (s : State) (c a v : Nat) (kh : Keeps s0 s) : Keeps s0 (State.chOffWrite s c a v).1 := by
  unfold State.chOffWrite
  repeat' first
    | with_reducible first | assumption | intro _
    | with_reducible first | apply refuse_keeps
    | refine refuse_keeps_e (by with_reducible assumption) ?_
    | with_reducible first | apply accept_keeps
    | refine accept_keeps_e (by with_reducible assumption) ?_
    | with_reducible first | apply State.setRegN_keeps
    | split
    | with_reducible exact Keeps.refl _
theorem State.chOffWrite_keeps_e {s0 : State} {s : State} {c a v : Nat} {x0 x1} (ke : (State.chOffWrite s c a v) = (x0, x1)) (kh : Keeps s0 s) : Keeps s0 x0 := by
  have k := State.chOffWrite_keeps s c a v kh
  rw [ke] at k
  exact k

theorem State.capWrite_keeps {s0 : State} (s : State) (v : Nat) (kh : Keeps s0 s) : Keeps s0 (State.capWrite s v).1 := by
  unfold State.capWrite
  repeat' first
    | with_reducible first | assumption | intro _
    | (extract_lets +onlyGivenNames x
       first
       | (refine Keeps.via (x := x) ?_ fun kh1 => ?_; rotate_left; clear_value x; rotate_left; subst x)
       | clear_value x)
    | with_reducible first | apply accept_keeps
    | refine accept_keeps_e (by with_reducible assumption) ?_
    | with_reducible first | apply State.setRegN_keeps
    | split
    | with_reducible exact Keeps.refl _
    | (with_reducible refine Keeps.mk ?_ rfl rfl rfl rfl rfl)
theorem State.capWrite_keeps_e {s0 : State} {s : State} {v : Nat} {x0 x1} (ke : (State.capWrite s v) = (x0, x1)) (kh : Keeps s0 s) : Keeps s0 x0 := by
  have k := State.capWrite_keeps s v kh
  rw [ke] at k
  exact k

theorem execChannelEnable_keeps {s0 : State} (m ch : Nat) (v : Dword) (s : State) (kh : Keeps s0 s) : KeepsO s0 (execChannelEnable m ch v s) := by
  unfold execChannelEnable
  repeat' first
    | with_reducible first | assumption | intro _
    | with_reducible first | apply State.chCfgWrite_keeps
    | refine State.chCfgWrite_keeps_e (by with_reducible assumption) ?_
    | with_reducible first | apply State.regBus_keeps | apply KeepsO.next
    | with_reducible exact Keeps.refl _

theorem execChannelDisable_keeps {s0 : State} (m ch : Nat) (v : Dword) (s : State) (kh : Keeps s0 s) : KeepsO s0 (execChannelDisable m ch v s) := by
  unfold execChannelDisable
  repeat' first
    | with_reducible first | assumption | intro _
    | with_reducible first | apply State.chCfgWrite_keeps
    | refine State.chCfgWrite_keeps_e (by with_reducible assumption) ?_
    | with_reducible first | apply State.regBus_keeps | apply KeepsO.next
    | with_reducible exact Keeps.refl _

theorem execCtlWriteBank_keeps {s0 : State} (n : Nat) (s : State) (kh : Keeps s0 s) : KeepsO s0 (execCtlWriteBank n s) := by
  unfold execCtlWriteBank
  repeat' first
    | with_reducible first | assumption | intro _
    | (extract_lets +onlyGivenNames x
       first
       | (refine Keeps.via (x := x) ?_ fun kh1 => ?_; rotate_left; clear_value x; rotate_left; subst x)
       | (refine KeepsO.via (x := x) ?_ fun kh1 => ?_; rotate_left; clear_value x; rotate_left; subst x)
       | clear_value x)
    | with_reducible first | apply State.runCmd_keeps | apply denied_keeps
    | refine denied_keeps_e (by with_reducible assumption) ?_
    | with_reducible first | apply okay_keeps
    | refine okay_keeps_e (by with_reducible assumption) ?_
    | with_reducible first | apply State.modChan_keeps | apply KeepsO.next
    | split
    | with_reducible exact Keeps.refl _
    | (with_reducible refine Keeps.mk ?_ rfl rfl rfl rfl rfl)

theorem execCtlBankSwap_keeps {s0 : State} (n : Nat) (s : State) (kh : Keeps s0 s) : KeepsO s0 (execCtlBankSwap n s) := by
  unfold execCtlBankSwap
  repeat' first
    | with_reducible first | assumption | intro _
    | (extract_lets +onlyGivenNames x
       first
       | (refine Keeps.via (x := x) ?_ fun kh1 => ?_; rotate_left; clear_value x; rotate_left; subst x)
       | (refine KeepsO.via (x := x) ?_ fun kh1 => ?_; rotate_left; clear_value x; rotate_left; subst x)
       | clear_value x)
    | with_reducible first | apply State.runCmd_keeps | apply denied_keeps
    | refine denied_keeps_e (by with_reducible assumption) ?_
    | with_reducible first | apply giving_keeps
    | refine giving_keeps_e (by with_reducible assumption) ?_
    | with_reducible first | apply State.modChan_keeps | apply State.setBit_keeps | apply KeepsO.next
    | split
    | with_reducible exact Keeps.refl _
    | (with_reducible refine Keeps.mk ?_ rfl rfl rfl rfl rfl)

theorem execCtlCaptureRead_keeps {s0 : State} (n : Nat) (s : State) (kh : Keeps s0 s) : KeepsO s0 (execCtlCaptureRead n s) := by
  unfold execCtlCaptureRead
  repeat' first
    | with_reducible first | assumption | intro _
    | (extract_lets +onlyGivenNames x
       first
       | (refine Keeps.via (x := x) ?_ fun kh1 => ?_; rotate_left; clear_value x; rotate_left; subst x)
       | (refine KeepsO.via (x := x) ?_ fun kh1 => ?_; rotate_left; clear_value x; rotate_left; subst x)
       | clear_value x)
    | with_reducible first | apply State.supWrite_keeps | apply State.runCmd_keeps | apply giving_keeps
    | refine giving_keeps_e (by with_reducible assumption) ?_
    | with_reducible first | apply KeepsO.next
    | split
    | with_reducible exact Keeps.refl _

theorem State.ctlReset_keeps {s0 : State} (s : State) (kh : Keeps s0 s) : Keeps s0 (State.ctlReset s) := by
  unfold State.ctlReset
  repeat' first
    | with_reducible first | assumption | intro _
    | (extract_lets +onlyGivenNames x
       first
       | (refine Keeps.via (x := x) ?_ fun kh1 => ?_; rotate_left; clear_value x; rotate_left; subst x)
       | clear_value x)
    | with_reducible first | apply State.chDisable_keeps | apply State.each_keeps | apply State.setBit_keeps | apply State.setFld_keeps
    | split
    | with_reducible exact Keeps.refl _

theorem State.ctlAbort_keeps {s0 : State} (s : State) (c : Nat) (kh : Keeps s0 s) : Keeps s0 (State.ctlAbort s c) := by
  unfold State.ctlAbort
  repeat' first
    | with_reducible first | assumption | intro _
    | (extract_lets +onlyGivenNames x
       first
       | (refine Keeps.via (x := x) ?_ fun kh1 => ?_; rotate_left; clear_value x; rotate_left; subst x)
       | clear_value x)
    | with_reducible first | apply State.tgStop_keeps | apply State.showCtl_keeps | apply State.postCtl_keeps | apply State.setChState_keeps | apply State.modChan_keeps
    | split
    | with_reducible exact Keeps.refl _
    | (with_reducible refine Keeps.mk ?_ rfl rfl rfl rfl rfl)

end Sys2Proof.Machine
end

