-- ==== Sys2Proof/Laws/KeepsNet.lean ====
section
/-! SUPPORT. Every operation of Machine/Net.lean keeps the queue and the canonical form. -/

namespace Sys2Proof.Machine

theorem State.ethDrop_keeps {s0 : State} (s : State) (p : Nat) (kh : Keeps s0 s) : Keeps s0 (State.ethDrop s p) := by
  unfold State.ethDrop
  repeat' first
    | with_reducible first | assumption | intro _
    | with_reducible first | apply State.incReg_keeps
    | split
    | with_reducible exact Keeps.refl _

theorem State.ringStep_keeps {s0 : State} (s : State) (tx : Bool) (r : Nat) (kh : Keeps s0 s) : Keeps s0 (State.ringStep s tx r) := by
  unfold State.ringStep
  repeat' first
    | with_reducible first | assumption | intro _
    | (extract_lets +onlyGivenNames x
       first
       | (refine Keeps.via (x := x) ?_ fun kh1 => ?_; rotate_left; clear_value x; rotate_left; subst x)
       | clear_value x)
    | split
    | with_reducible exact Keeps.refl _
    | (with_reducible refine Keeps.mk ?_ rfl rfl rfl rfl rfl)

theorem State.handBack_keeps {s0 : State} (s : State) (a : Nat) (stamp : Option Nat) (kh : Keeps s0 s) : Keeps s0 (State.handBack s a stamp) := by
  unfold State.handBack
  repeat' first
    | with_reducible first | assumption | intro _
    | (extract_lets +onlyGivenNames x
       first
       | (refine Keeps.via (x := x) ?_ fun kh1 => ?_; rotate_left; clear_value x; rotate_left; subst x)
       | clear_value x)
    | with_reducible first | apply State.hubSet_keeps | apply State.hubGet_keeps
    | refine State.hubGet_keeps_e (by with_reducible assumption) ?_
    | split
    | with_reducible exact Keeps.refl _

theorem State.hostReceive_keeps {s0 : State} (s : State) (f : EthFrame) (ingress stamp : Nat) (kh : Keeps s0 s) : Keeps s0 (State.hostReceive s f ingress stamp) := by
  unfold State.hostReceive
  repeat' first
    | with_reducible first | assumption | intro _
    | (extract_lets +onlyGivenNames x
       first
       | (refine Keeps.via (x := x) ?_ fun kh1 => ?_; rotate_left; clear_value x; rotate_left; subst x)
       | clear_value x)
    | with_reducible first | apply State.handBack_keeps | apply State.ringStep_keeps | apply State.ethDrop_keeps | apply State.hubSet_keeps | apply State.hubGet_keeps
    | refine State.hubGet_keeps_e (by with_reducible assumption) ?_
    | split
    | with_reducible exact Keeps.refl _

theorem State.ethQueue_keeps {s0 : State} (s : State) (p : Nat) (f : EthFrame) (kh : Keeps s0 s) : Keeps s0 (State.ethQueue s p f) := by
  unfold State.ethQueue
  repeat' first
    | with_reducible first | assumption | intro _
    | with_reducible first | apply State.ethDrop_keeps | apply State.modEth_keeps
    | split
    | with_reducible exact Keeps.refl _
    | (with_reducible refine Keeps.mk ?_ rfl rfl rfl rfl rfl)

theorem State.ethForward_keeps {s0 : State} (s : State) (f : EthFrame) (ingress stamp : Nat) (kh : Keeps s0 s) : Keeps s0 (State.ethForward s f ingress stamp) := by
  unfold State.ethForward
  repeat' first
    | with_reducible first | assumption | intro _
    | (extract_lets +onlyGivenNames x
       first
       | (refine Keeps.via (x := x) ?_ fun kh1 => ?_; rotate_left; clear_value x; rotate_left; subst x)
       | clear_value x)
    | with_reducible first | apply State.ethQueue_keeps | apply State.hostReceive_keeps | apply State.handBack_keeps | apply State.ethDrop_keeps | apply State.each_keeps
    | split
    | with_reducible exact Keeps.refl _
    | (with_reducible refine Keeps.mk ?_ rfl rfl rfl rfl rfl)

theorem State.ethBound_keeps {s0 : State} (s : State) (i p : Nat) (f : EthFrame) (stamp : Nat) (kh : Keeps s0 s) : Keeps s0 (State.ethBound s i p f stamp) := by
  unfold State.ethBound
  repeat' first
    | with_reducible first | assumption | intro _
    | (extract_lets +onlyGivenNames x
       first
       | (refine Keeps.via (x := x) ?_ fun kh1 => ?_; rotate_left; clear_value x; rotate_left; subst x)
       | clear_value x)
    | with_reducible first | apply State.ethDrop_keeps | apply State.hubSet_keeps | apply State.publish_keeps
    | split
    | with_reducible exact Keeps.refl _

theorem State.ethStream_keeps {s0 : State} (s : State) (p : Nat) (f : EthFrame) (stamp : Nat) (kh : Keeps s0 s) : Keeps s0 (State.ethStream s p f stamp) := by
  unfold State.ethStream
  repeat' first
    | with_reducible first | assumption | intro _
    | (extract_lets +onlyGivenNames x
       first
       | (refine Keeps.via (x := x) ?_ fun kh1 => ?_; rotate_left; clear_value x; rotate_left; subst x)
       | clear_value x)
    | with_reducible first | apply State.ethBound_keeps | apply State.ctlArrive_keeps
    | split
    | with_reducible exact Keeps.refl _

theorem State.ethAccept_keeps {s0 : State} (s : State) (p : Nat) (f : EthFrame) (stamp : Nat) (kh : Keeps s0 s) : Keeps s0 (State.ethAccept s p f stamp) := by
  unfold State.ethAccept
  repeat' first
    | with_reducible first | assumption | intro _
    | (extract_lets +onlyGivenNames x
       first
       | (refine Keeps.via (x := x) ?_ fun kh1 => ?_; rotate_left; clear_value x; rotate_left; subst x)
       | clear_value x)
    | with_reducible first | apply State.ethStream_keeps | apply State.ethForward_keeps | apply State.tap_keeps
    | split
    | with_reducible exact Keeps.refl _
    | (with_reducible refine Keeps.mk ?_ rfl rfl rfl rfl rfl)

theorem execEthFrameReceive_keeps {s0 : State} (port : Nat) (frame : EthFrame) (s : State) (kh : Keeps s0 s) : KeepsO s0 (execEthFrameReceive port frame s) := by
  unfold execEthFrameReceive
  repeat' first
    | with_reducible first | assumption | intro _
    | with_reducible first | apply State.ethAccept_keeps | apply State.ethDrop_keeps | apply State.streamIn_keeps | apply KeepsO.next
    | split
    | with_reducible exact Keeps.refl _

theorem State.ethLeave_keeps {s0 : State} (s : State) (p : Nat) (f : EthFrame) (kh : Keeps s0 s) : Keeps s0 (State.ethLeave s p f) := by
  unfold State.ethLeave
  repeat' first
    | with_reducible first | assumption | intro _
    | (extract_lets +onlyGivenNames x
       first
       | (refine Keeps.via (x := x) ?_ fun kh1 => ?_; rotate_left; clear_value x; rotate_left; subst x)
       | clear_value x)
    | with_reducible first | apply State.handBack_keeps | apply State.hubGet_keeps
    | refine State.hubGet_keeps_e (by with_reducible assumption) ?_
    | with_reducible first | apply State.modEth_keeps
    | split
    | with_reducible exact Keeps.refl _
    | (with_reducible refine Keeps.mk ?_ rfl rfl rfl rfl rfl)

theorem State.ringTake_keeps {s0 : State} (r : Nat) : ∀ (k : Nat) (s t : State) (acc l : List Byte) (n : Nat), s.ringTake r k acc = some (l, n, t) → Keeps s0 s → Keeps s0 t
  | 0, _, _, _, _, _, e, _ => by cases e
  | k + 1, s, t, acc, l, n, e, h => by
    unfold State.ringTake at e
    dsimp only at e
    have h1 := State.hubGet_keeps s 0x032 (s.ringDesc true r) 16 h
    generalize s.hubGet 0x032 (s.ringDesc true r) 16 = x at e h1
    obtain ⟨d, b, s1⟩ := x
    dsimp only at e h1
    split at e
    · cases e
    · have h2 := State.hubGet_keeps s1 0x032 (bitsOf (leNat d) 0 48) (bitsOf (leNat d) 48 16) h1
      generalize s1.hubGet 0x032 (bitsOf (leNat d) 0 48) (bitsOf (leNat d) 48 16) = y at e h2
      obtain ⟨d2, b2, s2⟩ := y
      dsimp only at e h2
      split at e
      · cases e
        exact State.ringStep_keeps _ _ _ h2
      · exact State.ringTake_keeps r k _ t _ l n e (State.handBack_keeps _ _ _ (State.ringStep_keeps _ _ _ h2))

theorem State.hostSend_keeps {s0 : State} (s : State) (r : Nat) (kh : Keeps s0 s) : Keeps s0 (State.hostSend s r) := by
  unfold State.hostSend
  repeat' first
    | with_reducible first | assumption | intro _
    | (extract_lets +onlyGivenNames x
       first
       | (refine Keeps.via (x := x) ?_ fun kh1 => ?_; rotate_left; clear_value x; rotate_left; subst x)
       | clear_value x)
    | refine State.ringTake_keeps _ _ _ _ _ _ _ (by with_reducible assumption) ?_
    | with_reducible first | apply State.ethForward_keeps
    | split
    | with_reducible exact Keeps.refl _

theorem execFrameTransmit_keeps {s0 : State} (port ring : Nat) (s : State) (kh : Keeps s0 s) : KeepsO s0 (execFrameTransmit port ring s) := by
  unfold execFrameTransmit
  repeat' first
    | with_reducible first | assumption | intro _
    | with_reducible first | apply State.hostSend_keeps | apply State.ethLeave_keeps | apply State.modEth_keeps | apply KeepsO.next
    | split
    | with_reducible exact Keeps.refl _
    | (with_reducible refine Keeps.mk ?_ rfl rfl rfl rfl rfl)

theorem execExpressTransmit_keeps {s0 : State} (port : Nat) (s : State) (kh : Keeps s0 s) : KeepsO s0 (execExpressTransmit port s) := by
  unfold execExpressTransmit
  repeat' first
    | with_reducible first | assumption | intro _
    | with_reducible first | apply State.express_keeps | apply State.modEth_keeps | apply KeepsO.next
    | split
    | with_reducible exact Keeps.refl _
    | (with_reducible refine Keeps.mk ?_ rfl rfl rfl rfl rfl)

theorem State.ethDown_keeps {s0 : State} (s : State) (p : Nat) (kh : Keeps s0 s) : Keeps s0 (State.ethDown s p) := by
  unfold State.ethDown
  repeat' first
    | with_reducible first | assumption | intro _
    | (extract_lets +onlyGivenNames x
       first
       | (refine Keeps.via (x := x) ?_ fun kh1 => ?_; rotate_left; clear_value x; rotate_left; subst x)
       | clear_value x)
    | with_reducible first | apply State.express_keeps | apply State.postC_keeps | apply State.modEth_keeps | apply State.addReg_keeps | apply State.setBit_keeps
    | split
    | with_reducible exact Keeps.refl _
    | (with_reducible refine Keeps.mk ?_ rfl rfl rfl rfl rfl)

theorem execEthLinkDown_keeps {s0 : State} (port : Nat) (s : State) (kh : Keeps s0 s) : KeepsO s0 (execEthLinkDown port s) := by
  unfold execEthLinkDown
  repeat' first
    | with_reducible first | assumption | intro _
    | with_reducible first | apply State.ethDown_keeps | apply KeepsO.next
    | with_reducible exact Keeps.refl _

theorem State.ethShowUp_keeps {s0 : State} (s : State) (p : Nat) (kh : Keeps s0 s) : Keeps s0 (State.ethShowUp s p) := by
  unfold State.ethShowUp
  repeat' first
    | with_reducible first | assumption | intro _
    | with_reducible first | apply State.draw_keeps
    | refine State.draw_keeps_e (by with_reducible assumption) ?_
    | with_reducible first | apply State.setFld_keeps
    | with_reducible exact Keeps.refl _

theorem execEthLinkUp_keeps {s0 : State} (port : Nat) (s : State) (kh : Keeps s0 s) : KeepsO s0 (execEthLinkUp port s) := by
  unfold execEthLinkUp
  repeat' first
    | with_reducible first | assumption | intro _
    | (extract_lets +onlyGivenNames x
       first
       | (refine Keeps.via (x := x) ?_ fun kh1 => ?_; rotate_left; clear_value x; rotate_left; subst x)
       | (refine KeepsO.via (x := x) ?_ fun kh1 => ?_; rotate_left; clear_value x; rotate_left; subst x)
       | clear_value x)
    | with_reducible first | apply State.ethShowUp_keeps | apply State.modEth_keeps | apply KeepsO.next
    | split
    | with_reducible exact Keeps.refl _
    | (with_reducible refine Keeps.mk ?_ rfl rfl rfl rfl rfl)

theorem execGateBankSwap_keeps {s0 : State} (port req : Nat) (s : State) (kh : Keeps s0 s) : KeepsO s0 (execGateBankSwap port req s) := by
  unfold execGateBankSwap
  repeat' first
    | with_reducible first | assumption | intro _
    | (extract_lets +onlyGivenNames x
       first
       | (refine Keeps.via (x := x) ?_ fun kh1 => ?_; rotate_left; clear_value x; rotate_left; subst x)
       | (refine KeepsO.via (x := x) ?_ fun kh1 => ?_; rotate_left; clear_value x; rotate_left; subst x)
       | clear_value x)
    | with_reducible first | apply State.postC_keeps | apply State.modEth_keeps | apply KeepsO.next
    | split
    | with_reducible exact Keeps.refl _
    | (with_reducible refine Keeps.mk ?_ rfl rfl rfl rfl rfl)

theorem actEthTbl_keeps {s0 : State} (s : State) (v : Nat) (kh : Keeps s0 s) : Keeps s0 (actEthTbl s v).1 := by
  unfold actEthTbl
  repeat' first
    | with_reducible first | assumption | intro _
    | (extract_lets +onlyGivenNames x
       first
       | (refine Keeps.via (x := x) ?_ fun kh1 => ?_; rotate_left; clear_value x; rotate_left; subst x)
       | clear_value x)
    | with_reducible first | apply State.setRegBytes_keeps | apply refuse_keeps
    | refine refuse_keeps_e (by with_reducible assumption) ?_
    | with_reducible first | apply accept_keeps
    | refine accept_keeps_e (by with_reducible assumption) ?_
    | split
    | with_reducible exact Keeps.refl _
    | (with_reducible refine Keeps.mk ?_ rfl rfl rfl rfl rfl)
theorem actEthTbl_keeps_e {s0 : State} {s : State} {v : Nat} {x0 x1} (ke : (actEthTbl s v) = (x0, x1)) (kh : Keeps s0 s) : Keeps s0 x0 := by
  have k := actEthTbl_keeps s v kh
  rw [ke] at k
  exact k

theorem execEthTblRead_keeps {s0 : State} (m : Nat) (v : Dword) (s : State) (kh : Keeps s0 s) : KeepsO s0 (execEthTblRead m v s) := by
  unfold execEthTblRead
  repeat' first
    | with_reducible first | assumption | intro _
    | with_reducible first | apply actEthTbl_keeps
    | refine actEthTbl_keeps_e (by with_reducible assumption) ?_
    | with_reducible first | apply State.regBus_keeps | apply KeepsO.next
    | with_reducible exact Keeps.refl _

theorem execEthTblWrite_keeps {s0 : State} (m : Nat) (v : Dword) (s : State) (kh : Keeps s0 s) : KeepsO s0 (execEthTblWrite m v s) := by
  unfold execEthTblWrite
  repeat' first
    | with_reducible first | assumption | intro _
    | with_reducible first | apply actEthTbl_keeps
    | refine actEthTbl_keeps_e (by with_reducible assumption) ?_
    | with_reducible first | apply State.regBus_keeps | apply KeepsO.next
    | with_reducible exact Keeps.refl _

theorem State.mbFrame_keeps {s0 : State} (s : State) (f : MbFrame) (kh : Keeps s0 s) : Keeps s0 (State.mbFrame s f) := by
  unfold State.mbFrame
  repeat' first
    | with_reducible first | assumption | intro _
    | (extract_lets +onlyGivenNames x
       first
       | (refine Keeps.via (x := x) ?_ fun kh1 => ?_; rotate_left; clear_value x; rotate_left; subst x)
       | clear_value x)
    | with_reducible first | apply State.submit_keeps
    | refine State.submit_keeps_e (by with_reducible assumption) ?_
    | with_reducible first | apply State.setRegBytes_keeps | apply State.answer_keeps | apply State.postC_keeps
    | split
    | with_reducible exact Keeps.refl _
    | (with_reducible refine Keeps.mk ?_ rfl rfl rfl rfl rfl)

theorem execMailboxFrame_keeps {s0 : State} (frame : MbFrame) (s : State) (kh : Keeps s0 s) : KeepsO s0 (execMailboxFrame frame s) := by
  unfold execMailboxFrame
  repeat' first
    | with_reducible first | assumption | intro _
    | with_reducible first | apply State.mbFrame_keeps | apply KeepsO.next
    | split
    | with_reducible exact Keeps.refl _

theorem execMailboxResponseFrame_keeps {s0 : State} (b : Nat) (s : State) (kh : Keeps s0 s) : KeepsO s0 (execMailboxResponseFrame b s) := by
  unfold execMailboxResponseFrame
  repeat' first
    | with_reducible first | assumption | intro _
    | with_reducible first | apply State.ethQueue_keeps | apply KeepsO.next
    | split
    | with_reducible exact Keeps.refl _
    | (with_reducible refine Keeps.mk ?_ rfl rfl rfl rfl rfl)

end Sys2Proof.Machine
end

