-- ==== Sys2Proof/Laws/KeepsVector.lean ====
section
/-! SUPPORT. Every operation of Machine/Vector.lean keeps the queue and the canonical form. -/

namespace Sys2Proof.Machine

theorem State.vecOut_keeps {s0 : State} (s : State) (t vd : Nat) (pred pois : Bool) (out : List Nat) (flags : NumFlags) (kh : Keeps s0 s) : Keeps s0 (State.vecOut s t vd pred pois out flags) := by
  unfold State.vecOut
  repeat' first
    | with_reducible first | assumption | intro _
    | (extract_lets +onlyGivenNames x
       first
       | (refine Keeps.via (x := x) ?_ fun kh1 => ?_; rotate_left; clear_value x; rotate_left; subst x)
       | clear_value x)
    | with_reducible first | apply State.setVreg_keeps | apply State.raiseNum_keeps
    | split
    | with_reducible exact Keeps.refl _

theorem State.vec1_keeps {s0 : State} (s : State) (c : TCtl) (vd va : Nat) (pred : Bool) (f : Nat → Nat) (kh : Keeps s0 s) : Keeps s0 (State.vec1 s c vd va pred f) := by
  unfold State.vec1
  repeat' first
    | with_reducible first | assumption | intro _
    | (extract_lets +onlyGivenNames x
       first
       | (refine Keeps.via (x := x) ?_ fun kh1 => ?_; rotate_left; clear_value x; rotate_left; subst x)
       | clear_value x)
    | with_reducible first | apply State.vecOut_keeps | apply State.issue_keeps
    | split
    | with_reducible exact Keeps.refl _

theorem State.vec2_keeps {s0 : State} (s : State) (c : TCtl) (vd va vb : Nat) (pred : Bool) (f : Nat → Nat → Nat) (kh : Keeps s0 s) : Keeps s0 (State.vec2 s c vd va vb pred f) := by
  unfold State.vec2
  repeat' first
    | with_reducible first | assumption | intro _
    | (extract_lets +onlyGivenNames x
       first
       | (refine Keeps.via (x := x) ?_ fun kh1 => ?_; rotate_left; clear_value x; rotate_left; subst x)
       | clear_value x)
    | with_reducible first | apply State.vecOut_keeps | apply State.issue_keeps
    | split
    | with_reducible exact Keeps.refl _

theorem execVadd_keeps {s0 : State} (c : TCtl) (vd va vb : Nat) (pred : Bool) (s : State) (kh : Keeps s0 s) : KeepsO s0 (execVadd c vd va vb pred s) := by
  unfold execVadd
  repeat' first
    | with_reducible first | assumption | intro _
    | with_reducible first | apply State.vec2_keeps | apply KeepsO.next
    | with_reducible exact Keeps.refl _

theorem execVsub_keeps {s0 : State} (c : TCtl) (vd va vb : Nat) (pred : Bool) (s : State) (kh : Keeps s0 s) : KeepsO s0 (execVsub c vd va vb pred s) := by
  unfold execVsub
  repeat' first
    | with_reducible first | assumption | intro _
    | with_reducible first | apply State.vec2_keeps | apply KeepsO.next
    | with_reducible exact Keeps.refl _

theorem execVmul_keeps {s0 : State} (c : TCtl) (vd va vb : Nat) (pred : Bool) (s : State) (kh : Keeps s0 s) : KeepsO s0 (execVmul c vd va vb pred s) := by
  unfold execVmul
  repeat' first
    | with_reducible first | assumption | intro _
    | with_reducible first | apply State.vec2_keeps | apply KeepsO.next
    | with_reducible exact Keeps.refl _

theorem execVmax_keeps {s0 : State} (c : TCtl) (vd va vb : Nat) (pred : Bool) (s : State) (kh : Keeps s0 s) : KeepsO s0 (execVmax c vd va vb pred s) := by
  unfold execVmax
  repeat' first
    | with_reducible first | assumption | intro _
    | with_reducible first | apply State.vec2_keeps | apply KeepsO.next
    | with_reducible exact Keeps.refl _

theorem execVmin_keeps {s0 : State} (c : TCtl) (vd va vb : Nat) (pred : Bool) (s : State) (kh : Keeps s0 s) : KeepsO s0 (execVmin c vd va vb pred s) := by
  unfold execVmin
  repeat' first
    | with_reducible first | assumption | intro _
    | with_reducible first | apply State.vec2_keeps | apply KeepsO.next
    | with_reducible exact Keeps.refl _

theorem execVfma_keeps {s0 : State} (c : TCtl) (vd va vb vc : Nat) (pred : Bool) (s : State) (kh : Keeps s0 s) : KeepsO s0 (execVfma c vd va vb vc pred s) := by
  unfold execVfma
  repeat' first
    | with_reducible first | assumption | intro _
    | (extract_lets +onlyGivenNames x
       first
       | (refine Keeps.via (x := x) ?_ fun kh1 => ?_; rotate_left; clear_value x; rotate_left; subst x)
       | (refine KeepsO.via (x := x) ?_ fun kh1 => ?_; rotate_left; clear_value x; rotate_left; subst x)
       | clear_value x)
    | with_reducible first | apply State.vecOut_keeps | apply State.issue_keeps | apply KeepsO.next
    | split
    | with_reducible exact Keeps.refl _

theorem execVabs_keeps {s0 : State} (c : TCtl) (vd va : Nat) (pred : Bool) (s : State) (kh : Keeps s0 s) : KeepsO s0 (execVabs c vd va pred s) := by
  unfold execVabs
  repeat' first
    | with_reducible first | assumption | intro _
    | with_reducible first | apply State.vec1_keeps | apply KeepsO.next
    | with_reducible exact Keeps.refl _

theorem execVneg_keeps {s0 : State} (c : TCtl) (vd va : Nat) (pred : Bool) (s : State) (kh : Keeps s0 s) : KeepsO s0 (execVneg c vd va pred s) := by
  unfold execVneg
  repeat' first
    | with_reducible first | assumption | intro _
    | with_reducible first | apply State.vec1_keeps | apply KeepsO.next
    | with_reducible exact Keeps.refl _

theorem execVcmp_keeps {s0 : State} (c : TCtl) (rel va vb : Nat) (s : State) (kh : Keeps s0 s) : KeepsO s0 (execVcmp c rel va vb s) := by
  unfold execVcmp
  repeat' first
    | with_reducible first | assumption | intro _
    | (extract_lets +onlyGivenNames x
       first
       | (refine Keeps.via (x := x) ?_ fun kh1 => ?_; rotate_left; clear_value x; rotate_left; subst x)
       | (refine KeepsO.via (x := x) ?_ fun kh1 => ?_; rotate_left; clear_value x; rotate_left; subst x)
       | clear_value x)
    | with_reducible first | apply State.issue_keeps | apply State.raiseNum_keeps | apply State.tileAbort_keeps | apply State.modTile_keeps | apply KeepsO.next
    | split
    | with_reducible exact Keeps.refl _
    | (with_reducible refine Keeps.mk ?_ rfl rfl rfl rfl rfl)

theorem execVsel_keeps {s0 : State} (c : TCtl) (vd va vb : Nat) (s : State) (kh : Keeps s0 s) : KeepsO s0 (execVsel c vd va vb s) := by
  unfold execVsel
  repeat' first
    | with_reducible first | assumption | intro _
    | (extract_lets +onlyGivenNames x
       first
       | (refine Keeps.via (x := x) ?_ fun kh1 => ?_; rotate_left; clear_value x; rotate_left; subst x)
       | (refine KeepsO.via (x := x) ?_ fun kh1 => ?_; rotate_left; clear_value x; rotate_left; subst x)
       | clear_value x)
    | with_reducible first | apply State.setVreg_keeps | apply State.issue_keeps | apply KeepsO.next
    | split
    | with_reducible exact Keeps.refl _

theorem execVmov_keeps {s0 : State} (c : TCtl) (vd va : Nat) (pred : Bool) (s : State) (kh : Keeps s0 s) : KeepsO s0 (execVmov c vd va pred s) := by
  unfold execVmov
  repeat' first
    | with_reducible first | assumption | intro _
    | (extract_lets +onlyGivenNames x
       first
       | (refine Keeps.via (x := x) ?_ fun kh1 => ?_; rotate_left; clear_value x; rotate_left; subst x)
       | (refine KeepsO.via (x := x) ?_ fun kh1 => ?_; rotate_left; clear_value x; rotate_left; subst x)
       | clear_value x)
    | with_reducible first | apply State.vecOut_keeps | apply State.issue_keeps | apply KeepsO.next
    | split
    | with_reducible exact Keeps.refl _

theorem execAmov_keeps {s0 : State} (c : TCtl) (vd row : Nat) (pred : Bool) (s : State) (kh : Keeps s0 s) : KeepsO s0 (execAmov c vd row pred s) := by
  unfold execAmov
  repeat' first
    | with_reducible first | assumption | intro _
    | (extract_lets +onlyGivenNames x
       first
       | (refine Keeps.via (x := x) ?_ fun kh1 => ?_; rotate_left; clear_value x; rotate_left; subst x)
       | (refine KeepsO.via (x := x) ?_ fun kh1 => ?_; rotate_left; clear_value x; rotate_left; subst x)
       | clear_value x)
    | with_reducible first | apply State.vecOut_keeps | apply State.issue_keeps | apply KeepsO.next
    | split
    | with_reducible exact Keeps.refl _

theorem execVscl2_keeps {s0 : State} (c : TCtl) (vd va vb : Nat) (pred : Bool) (s : State) (kh : Keeps s0 s) : KeepsO s0 (execVscl2 c vd va vb pred s) := by
  unfold execVscl2
  repeat' first
    | with_reducible first | assumption | intro _
    | (extract_lets +onlyGivenNames x
       first
       | (refine Keeps.via (x := x) ?_ fun kh1 => ?_; rotate_left; clear_value x; rotate_left; subst x)
       | (refine KeepsO.via (x := x) ?_ fun kh1 => ?_; rotate_left; clear_value x; rotate_left; subst x)
       | clear_value x)
    | with_reducible first | apply State.vecOut_keeps | apply State.issue_keeps | apply KeepsO.next
    | split
    | with_reducible exact Keeps.refl _

theorem State.vecReduce_keeps {s0 : State} (s : State) (c : TCtl) (vd va : Nat) (pred : Bool) (f : List Nat → Sum32) (kh : Keeps s0 s) : Keeps s0 (State.vecReduce s c vd va pred f) := by
  unfold State.vecReduce
  repeat' first
    | with_reducible first | assumption | intro _
    | (extract_lets +onlyGivenNames x
       first
       | (refine Keeps.via (x := x) ?_ fun kh1 => ?_; rotate_left; clear_value x; rotate_left; subst x)
       | clear_value x)
    | with_reducible first | apply State.vecOut_keeps | apply State.issue_keeps
    | split
    | with_reducible exact Keeps.refl _

theorem execVrsum_keeps {s0 : State} (c : TCtl) (vd va : Nat) (pred : Bool) (s : State) (kh : Keeps s0 s) : KeepsO s0 (execVrsum c vd va pred s) := by
  unfold execVrsum
  repeat' first
    | with_reducible first | assumption | intro _
    | with_reducible first | apply State.vecReduce_keeps | apply KeepsO.next
    | with_reducible exact Keeps.refl _

theorem execVrmax_keeps {s0 : State} (c : TCtl) (vd va : Nat) (pred : Bool) (s : State) (kh : Keeps s0 s) : KeepsO s0 (execVrmax c vd va pred s) := by
  unfold execVrmax
  repeat' first
    | with_reducible first | assumption | intro _
    | with_reducible first | apply State.vecReduce_keeps | apply KeepsO.next
    | with_reducible exact Keeps.refl _

theorem execVrmaxabs_keeps {s0 : State} (c : TCtl) (vd va : Nat) (pred : Bool) (s : State) (kh : Keeps s0 s) : KeepsO s0 (execVrmaxabs c vd va pred s) := by
  unfold execVrmaxabs
  repeat' first
    | with_reducible first | assumption | intro _
    | with_reducible first | apply State.vecReduce_keeps | apply KeepsO.next
    | split
    | with_reducible exact Keeps.refl _

theorem execVexp_keeps {s0 : State} (c : TCtl) (vd va : Nat) (pred : Bool) (s : State) (kh : Keeps s0 s) : KeepsO s0 (execVexp c vd va pred s) := by
  unfold execVexp
  repeat' first
    | with_reducible first | assumption | intro _
    | with_reducible first | apply State.vec1_keeps | apply KeepsO.next
    | with_reducible exact Keeps.refl _

theorem execVrcp_keeps {s0 : State} (c : TCtl) (vd va : Nat) (pred : Bool) (s : State) (kh : Keeps s0 s) : KeepsO s0 (execVrcp c vd va pred s) := by
  unfold execVrcp
  repeat' first
    | with_reducible first | assumption | intro _
    | with_reducible first | apply State.vec1_keeps | apply KeepsO.next
    | with_reducible exact Keeps.refl _

theorem execVrsqrt_keeps {s0 : State} (c : TCtl) (vd va : Nat) (pred : Bool) (s : State) (kh : Keeps s0 s) : KeepsO s0 (execVrsqrt c vd va pred s) := by
  unfold execVrsqrt
  repeat' first
    | with_reducible first | assumption | intro _
    | with_reducible first | apply State.vec1_keeps | apply KeepsO.next
    | with_reducible exact Keeps.refl _

theorem State.cvtNarrow_keeps {s0 : State} (s : State) (t vd va fmt part : Nat) (special pred : Bool) (kh : Keeps s0 s) : Keeps s0 (State.cvtNarrow s t vd va fmt part special pred) := by
  unfold State.cvtNarrow
  repeat' first
    | with_reducible first | assumption | intro _
    | (extract_lets +onlyGivenNames x
       first
       | (refine Keeps.via (x := x) ?_ fun kh1 => ?_; rotate_left; clear_value x; rotate_left; subst x)
       | clear_value x)
    | with_reducible first | apply State.setVreg_keeps | apply State.raiseNum_keeps | apply State.each_keeps
    | split
    | with_reducible exact Keeps.refl _

theorem State.cvtWiden_keeps {s0 : State} (s : State) (t vd va fmt part : Nat) (pred : Bool) (kh : Keeps s0 s) : Keeps s0 (State.cvtWiden s t vd va fmt part pred) := by
  unfold State.cvtWiden
  repeat' first
    | with_reducible first | assumption | intro _
    | (extract_lets +onlyGivenNames x
       first
       | (refine Keeps.via (x := x) ?_ fun kh1 => ?_; rotate_left; clear_value x; rotate_left; subst x)
       | clear_value x)
    | with_reducible first | apply State.vecOut_keeps
    | split
    | with_reducible exact Keeps.refl _

theorem State.vcvt_keeps {s0 : State} (s : State) (c : TCtl) (vd va fmt part : Nat) (widen special pred : Bool) (kh : Keeps s0 s) : Keeps s0 (State.vcvt s c vd va fmt part widen special pred) := by
  unfold State.vcvt
  repeat' first
    | with_reducible first | assumption | intro _
    | with_reducible first | apply State.cvtWiden_keeps | apply State.cvtNarrow_keeps | apply State.issue_keeps | apply State.tileAbort_keeps
    | split
    | with_reducible exact Keeps.refl _

theorem execVcvtS_keeps {s0 : State} (c : TCtl) (vd va fmt part : Nat) (widen pred : Bool) (s : State) (kh : Keeps s0 s) : KeepsO s0 (execVcvtS c vd va fmt part widen pred s) := by
  unfold execVcvtS
  repeat' first
    | with_reducible first | assumption | intro _
    | with_reducible first | apply State.vcvt_keeps | apply KeepsO.next
    | with_reducible exact Keeps.refl _

theorem execVcvtN_keeps {s0 : State} (c : TCtl) (vd va fmt part : Nat) (widen pred : Bool) (s : State) (kh : Keeps s0 s) : KeepsO s0 (execVcvtN c vd va fmt part widen pred s) := by
  unfold execVcvtN
  repeat' first
    | with_reducible first | assumption | intro _
    | with_reducible first | apply State.vcvt_keeps | apply KeepsO.next
    | with_reducible exact Keeps.refl _

theorem execVdq_keeps {s0 : State} (c : TCtl) (vd va vb vc fmt part : Nat) (zero : Int) (pred : Bool) (s : State) (kh : Keeps s0 s) : KeepsO s0 (execVdq c vd va vb vc fmt part zero pred s) := by
  unfold execVdq
  repeat' first
    | with_reducible first | assumption | intro _
    | (extract_lets +onlyGivenNames x
       first
       | (refine Keeps.via (x := x) ?_ fun kh1 => ?_; rotate_left; clear_value x; rotate_left; subst x)
       | (refine KeepsO.via (x := x) ?_ fun kh1 => ?_; rotate_left; clear_value x; rotate_left; subst x)
       | clear_value x)
    | with_reducible first | apply State.vecOut_keeps | apply State.issue_keeps | apply State.tileAbort_keeps | apply State.zero_keeps | apply KeepsO.next
    | split
    | with_reducible exact Keeps.refl _

end Sys2Proof.Machine
end

