-- ==== Sys2Proof/Laws/KeepsQuant.lean ====
section
/-! SUPPORT. Every operation of Machine/Quant.lean keeps the queue and the canonical form. -/

namespace Sys2Proof.Machine

theorem State.qClear_keeps {s0 : State} (s : State) (t v : Nat) (k : State → State) (kh : Keeps s0 s) (hk : ∀ a0, Keeps s0 a0 → Keeps s0 (k a0)) : Keeps s0 (State.qClear s t v k) := by
  unfold State.qClear
  repeat' first
    | with_reducible first | assumption | intro _
    | with_reducible first | apply hk | apply State.padWrites_keeps | apply State.try'_keeps
    | with_reducible exact Keeps.refl _

theorem State.qStatOne_keeps {s0 : State} (s : State) (t v g x : Nat) (p : Bool) (kh : Keeps s0 s) : Keeps s0 (State.qStatOne s t v g x p) := by
  unfold State.qStatOne
  repeat' first
    | with_reducible first | assumption | intro _
    | (extract_lets +onlyGivenNames x
       first
       | (refine Keeps.via (x := x) ?_ fun kh1 => ?_; rotate_left; clear_value x; rotate_left; subst x)
       | clear_value x)
    | with_reducible first | apply State.padWrite_keeps | apply State.padRead_keeps
    | refine State.padRead_keeps_e (by with_reducible assumption) ?_
    | with_reducible first | apply State.try'_keeps
    | split
    | with_reducible exact Keeps.refl _

theorem State.qStatWord_keeps {s0 : State} (s : State) (t v va row col : Nat) (kh : Keeps s0 s) : Keeps s0 (State.qStatWord s t v va row col) := by
  unfold State.qStatWord
  repeat' first
    | with_reducible first | assumption | intro _
    | (extract_lets +onlyGivenNames x
       first
       | (refine Keeps.via (x := x) ?_ fun kh1 => ?_; rotate_left; clear_value x; rotate_left; subst x)
       | clear_value x)
    | with_reducible first | apply State.qStatOne_keeps | apply State.raiseNum_keeps | apply State.tileAbort_keeps | apply State.each_keeps
    | split
    | with_reducible exact Keeps.refl _

theorem execQstat_keeps {s0 : State} (c : TCtl) (d va ctx row col : Nat) (s : State) (kh : Keeps s0 s) : KeepsO s0 (execQstat c d va ctx row col s) := by
  unfold execQstat
  repeat' first
    | with_reducible first | assumption | intro _
    | (extract_lets +onlyGivenNames x
       first
       | (refine Keeps.via (x := x) ?_ fun kh1 => ?_; rotate_left; clear_value x; rotate_left; subst x)
       | (refine KeepsO.via (x := x) ?_ fun kh1 => ?_; rotate_left; clear_value x; rotate_left; subst x)
       | clear_value x)
    | with_reducible first | apply State.qStatWord_keeps | apply State.qClear_keeps | apply State.issue_keeps | apply KeepsO.next
    | split
    | with_reducible exact Keeps.refl _

theorem State.qScales_keeps {s0 : State} (s : State) (t d v k : Nat) (st : VReg) (kh : Keeps s0 s) : Keeps s0 (State.qScales s t d v k st) := by
  unfold State.qScales
  repeat' first
    | with_reducible first | assumption | intro _
    | (extract_lets +onlyGivenNames x
       first
       | (refine Keeps.via (x := x) ?_ fun kh1 => ?_; rotate_left; clear_value x; rotate_left; subst x)
       | clear_value x)
    | with_reducible first | apply State.padWrite_keeps | apply State.padRead_keeps
    | refine State.padRead_keeps_e (by with_reducible assumption) ?_
    | with_reducible first | apply State.try'_keeps | apply State.raiseNum_keeps | apply State.modTile_keeps
    | split
    | with_reducible exact Keeps.refl _
    | (with_reducible refine Keeps.mk ?_ rfl rfl rfl rfl rfl)

theorem execQscale_keeps {s0 : State} (c : TCtl) (d k : Nat) (s : State) (kh : Keeps s0 s) : KeepsO s0 (execQscale c d k s) := by
  unfold execQscale
  repeat' first
    | with_reducible first | assumption | intro _
    | (extract_lets +onlyGivenNames x
       first
       | (refine Keeps.via (x := x) ?_ fun kh1 => ?_; rotate_left; clear_value x; rotate_left; subst x)
       | (refine KeepsO.via (x := x) ?_ fun kh1 => ?_; rotate_left; clear_value x; rotate_left; subst x)
       | clear_value x)
    | with_reducible first | apply State.qScales_keeps | apply State.padRead_keeps
    | refine State.padRead_keeps_e (by with_reducible assumption) ?_
    | with_reducible first | apply State.try'_keeps | apply State.issue_keeps | apply KeepsO.next
    | split
    | with_reducible exact Keeps.refl _

theorem State.qOutliers_keeps {s0 : State} (s : State) (t v row : Nat) (l : List ((Nat × Nat) × (Nat × NumFlags × Bool × Option Nat))) (p : Bool) (kh : Keeps s0 s) : Keeps s0 (State.qOutliers s t v row l p) := by
  unfold State.qOutliers
  repeat' first
    | with_reducible first | assumption | intro _
    | (extract_lets +onlyGivenNames x
       first
       | (refine Keeps.via (x := x) ?_ fun kh1 => ?_; rotate_left; clear_value x; rotate_left; subst x)
       | clear_value x)
    | with_reducible first | apply State.putSpan_keeps | apply State.raiseNum_keeps | apply State.each_keeps
    | split
    | with_reducible exact Keeps.refl _

theorem execQconv_keeps {s0 : State} (c : TCtl) (d va row col : Nat) (s : State) (kh : Keeps s0 s) : KeepsO s0 (execQconv c d va row col s) := by
  unfold execQconv
  repeat' first
    | with_reducible first | assumption | intro _
    | (extract_lets +onlyGivenNames x
       first
       | (refine Keeps.via (x := x) ?_ fun kh1 => ?_; rotate_left; clear_value x; rotate_left; subst x)
       | (refine KeepsO.via (x := x) ?_ fun kh1 => ?_; rotate_left; clear_value x; rotate_left; subst x)
       | clear_value x)
    | with_reducible first | apply State.qOutliers_keeps | apply State.putSpan_keeps | apply State.try'_keeps | apply State.issue_keeps | apply State.raiseNum_keeps | apply KeepsO.next
    | split
    | with_reducible exact Keeps.refl _

end Sys2Proof.Machine
end

