-- ==== Sys2Proof/Laws/KeepsImageLoad.lean ====
section
/-! SUPPORT. Every operation of Machine/ImageLoad.lean keeps the queue and the canonical form. -/

namespace Sys2Proof.Machine

theorem State.logImage_keeps {s0 : State} (s : State) (p k : Nat) (i : Image) (kh : Keeps s0 s) : Keeps s0 (State.logImage s p k i) := by
  unfold State.logImage
  repeat' first
    | with_reducible first | assumption | intro _
    | (extract_lets +onlyGivenNames x
       first
       | (refine Keeps.via (x := x) ?_ fun kh1 => ?_; rotate_left; clear_value x; rotate_left; subst x)
       | clear_value x)
    | split
    | with_reducible exact Keeps.refl _
    | (with_reducible refine Keeps.mk ?_ rfl rfl rfl rfl rfl)

theorem State.zeroWords_keeps {s0 : State} (s : State) (t : Nat) (l : List Nat) (kh : Keeps s0 s) : Keeps s0 (State.zeroWords s t l) := by
  unfold State.zeroWords
  repeat' first
    | with_reducible first | assumption | intro _
    | with_reducible first | apply State.each_keeps | apply State.setLine_keeps
    | with_reducible exact Keeps.refl _

theorem State.dropResidents_keeps {s0 : State} (s : State) (p k t : Nat) (kh : Keeps s0 s) : Keeps s0 (State.dropResidents s p k t) := by
  unfold State.dropResidents
  repeat' first
    | with_reducible first | assumption | intro _
    | (extract_lets +onlyGivenNames x
       first
       | (refine Keeps.via (x := x) ?_ fun kh1 => ?_; rotate_left; clear_value x; rotate_left; subst x)
       | clear_value x)
    | with_reducible first | apply State.zeroWords_keeps | apply State.setTileState_keeps | apply State.modTile_keeps
    | split
    | with_reducible exact Keeps.refl _
    | (with_reducible refine Keeps.mk ?_ rfl rfl rfl rfl rfl)

theorem State.unloadImage_keeps {s0 : State} (s : State) (p k : Nat) (kh : Keeps s0 s) : Keeps s0 (State.unloadImage s p k) := by
  unfold State.unloadImage
  repeat' first
    | with_reducible first | assumption | intro _
    | (extract_lets +onlyGivenNames x
       first
       | (refine Keeps.via (x := x) ?_ fun kh1 => ?_; rotate_left; clear_value x; rotate_left; subst x)
       | clear_value x)
    | with_reducible first | apply State.dropResidents_keeps | apply State.each_keeps | apply State.modPart_keeps
    | split
    | with_reducible exact Keeps.refl _
    | (with_reducible refine Keeps.mk ?_ rfl rfl rfl rfl rfl)

theorem execImgLoad_keeps {s0 : State} (n : Nat) (img : Image) (s : State) (kh : Keeps s0 s) : KeepsO s0 (execImgLoad n img s) := by
  unfold execImgLoad
  repeat' first
    | with_reducible first | assumption | intro _
    | (extract_lets +onlyGivenNames x
       first
       | (refine Keeps.via (x := x) ?_ fun kh1 => ?_; rotate_left; clear_value x; rotate_left; subst x)
       | (refine KeepsO.via (x := x) ?_ fun kh1 => ?_; rotate_left; clear_value x; rotate_left; subst x)
       | clear_value x)
    | with_reducible first | apply State.unloadImage_keeps | apply State.logImage_keeps | apply State.runCmd_keeps | apply denied_keeps
    | refine denied_keeps_e (by with_reducible assumption) ?_
    | with_reducible first | apply giving_keeps
    | refine giving_keeps_e (by with_reducible assumption) ?_
    | with_reducible first | apply State.modPart_keeps | apply KeepsO.next
    | split
    | with_reducible exact Keeps.refl _
    | (with_reducible refine Keeps.mk ?_ rfl rfl rfl rfl rfl)

end Sys2Proof.Machine
end

