-- ==== Sys2Proof/Laws/KeepsSlice.lean ====
section
/-! SUPPORT. Every operation of Machine/Slice.lean keeps the queue and the canonical form. -/

namespace Sys2Proof.Machine

theorem State.restoreTile_keeps {s0 : State} (s : State) (t p j : Nat) (kh : Keeps s0 s) : Keeps s0 (State.restoreTile s t p j) := by
  unfold State.restoreTile
  repeat' first
    | with_reducible first | assumption | intro _
    | (extract_lets +onlyGivenNames x
       first
       | (refine Keeps.via (x := x) ?_ fun kh1 => ?_; rotate_left; clear_value x; rotate_left; subst x)
       | clear_value x)
    | with_reducible first | apply State.beat_keeps | apply State.setTileState_keeps | apply State.each_keeps | apply State.modTile_keeps | apply State.setLine_keeps | apply State.setReg_keeps
    | split
    | with_reducible exact Keeps.refl _
    | (with_reducible refine Keeps.mk ?_ rfl rfl rfl rfl rfl)

theorem State.showSwitch_keeps {s0 : State} (s : State) (p : Nat) (kh : Keeps s0 s) : Keeps s0 (State.showSwitch s p) := by
  unfold State.showSwitch
  repeat' first
    | with_reducible first | assumption | intro _
    | with_reducible first | apply State.setBit_keeps
    | with_reducible exact Keeps.refl _

theorem State.preempt_keeps {s0 : State} (s : State) (p j : Nat) (kh : Keeps s0 s) : Keeps s0 (State.preempt s p j) := by
  unfold State.preempt
  repeat' first
    | with_reducible first | assumption | intro _
    | (extract_lets +onlyGivenNames x
       first
       | (refine Keeps.via (x := x) ?_ fun kh1 => ?_; rotate_left; clear_value x; rotate_left; subst x)
       | clear_value x)
    | with_reducible first | apply State.setJobState_keeps | apply State.setTileState_keeps | apply State.each_keeps | apply State.modJob_keeps
    | split
    | with_reducible exact Keeps.refl _
    | (with_reducible refine Keeps.mk ?_ rfl rfl rfl rfl rfl)

theorem State.takeTile_keeps {s0 : State} (s : State) (t p j : Nat) (kh : Keeps s0 s) : Keeps s0 (State.takeTile s t p j) := by
  unfold State.takeTile
  repeat' first
    | with_reducible first | assumption | intro _
    | with_reducible first | apply State.modTile_keeps
    | split
    | with_reducible exact Keeps.refl _
    | (with_reducible refine Keeps.mk ?_ rfl rfl rfl rfl rfl)

theorem State.beginRestore_keeps {s0 : State} (s : State) (p j : Nat) (kh : Keeps s0 s) : Keeps s0 (State.beginRestore s p j) := by
  unfold State.beginRestore
  repeat' first
    | with_reducible first | assumption | intro _
    | (extract_lets +onlyGivenNames x
       first
       | (refine Keeps.via (x := x) ?_ fun kh1 => ?_; rotate_left; clear_value x; rotate_left; subst x)
       | clear_value x)
    | with_reducible first | apply State.takeTile_keeps | apply State.chunkAbort_keeps | apply State.each_keeps | apply State.modJob_keeps
    | split
    | with_reducible exact Keeps.refl _
    | (with_reducible refine Keeps.mk ?_ rfl rfl rfl rfl rfl)

theorem State.sliceSwap_keeps {s0 : State} (s : State) (p : Nat) (kh : Keeps s0 s) : Keeps s0 (State.sliceSwap s p) := by
  unfold State.sliceSwap
  repeat' first
    | with_reducible first | assumption | intro _
    | with_reducible first | apply State.setBit_keeps
    | split
    | with_reducible exact Keeps.refl _

theorem State.creditCheck_keeps {s0 : State} (s : State) (p : Nat) (kh : Keeps s0 s) : Keeps s0 (State.creditCheck s p) := by
  unfold State.creditCheck
  repeat' first
    | with_reducible first | assumption | intro _
    | (extract_lets +onlyGivenNames x
       first
       | (refine Keeps.via (x := x) ?_ fun kh1 => ?_; rotate_left; clear_value x; rotate_left; subst x)
       | clear_value x)
    | with_reducible first | apply State.abortJob_keeps | apply State.each_keeps | apply State.post_keeps
    | split
    | with_reducible exact Keeps.refl _
    | (with_reducible refine Keeps.mk ?_ rfl rfl rfl rfl rfl)

theorem State.switchJobs_keeps {s0 : State} (s : State) (p k : Nat) (kh : Keeps s0 s) : Keeps s0 (State.switchJobs s p k) := by
  unfold State.switchJobs
  repeat' first
    | with_reducible first | assumption | intro _
    | (extract_lets +onlyGivenNames x
       first
       | (refine Keeps.via (x := x) ?_ fun kh1 => ?_; rotate_left; clear_value x; rotate_left; subst x)
       | clear_value x)
    | with_reducible first | apply State.beginRestore_keeps | apply State.preempt_keeps | apply State.showSwitch_keeps | apply State.shedNow_keeps | apply State.each_keeps
    | split
    | with_reducible exact Keeps.refl _

theorem State.fireSlice_keeps {s0 : State} (s : State) (d : Due) (kh : Keeps s0 s) : Keeps s0 (State.fireSlice s d) := by
  unfold State.fireSlice
  repeat' first
    | with_reducible first | assumption | intro _
    | (extract_lets +onlyGivenNames x
       first
       | (refine Keeps.via (x := x) ?_ fun kh1 => ?_; rotate_left; clear_value x; rotate_left; subst x)
       | clear_value x)
    | with_reducible first | apply State.switchJobs_keeps | apply State.creditCheck_keeps | apply State.sliceSwap_keeps | apply State.chunkAbort_keeps | apply State.targetGone_keeps | apply State.each_keeps | apply State.post_keeps | apply State.setFld_keeps
    | split
    | with_reducible exact Keeps.refl _

theorem execSlice_keeps {s0 : State} (w e edge : Nat) (s : State) (kh : Keeps s0 s) : KeepsO s0 (execSlice w e edge s) := by
  unfold execSlice
  repeat' first
    | with_reducible first | assumption | intro _
    | with_reducible first | apply State.fireSlice_keeps | apply State.onEntry_keeps | apply KeepsO.next
    | with_reducible exact Keeps.refl _

theorem execQuiesceEnd_keeps {s0 : State} (p j : Nat) (s : State) (kh : Keeps s0 s) : KeepsO s0 (execQuiesceEnd p j s) := by
  unfold execQuiesceEnd
  repeat' first
    | with_reducible first | assumption | intro _
    | (extract_lets +onlyGivenNames x
       first
       | (refine Keeps.via (x := x) ?_ fun kh1 => ?_; rotate_left; clear_value x; rotate_left; subst x)
       | (refine KeepsO.via (x := x) ?_ fun kh1 => ?_; rotate_left; clear_value x; rotate_left; subst x)
       | clear_value x)
    | with_reducible first | apply State.each_keeps | apply State.modJob_keeps | apply State.modTile_keeps | apply KeepsO.next
    | split
    | with_reducible exact Keeps.refl _
    | (with_reducible refine Keeps.mk ?_ rfl rfl rfl rfl rfl)

theorem State.saveCommit_keeps {s0 : State} (s : State) (t p j : Nat) (kh : Keeps s0 s) : Keeps s0 (State.saveCommit s t p j) := by
  unfold State.saveCommit
  repeat' first
    | with_reducible first | assumption | intro _
    | (extract_lets +onlyGivenNames x
       first
       | (refine Keeps.via (x := x) ?_ fun kh1 => ?_; rotate_left; clear_value x; rotate_left; subst x)
       | clear_value x)
    | with_reducible first | apply State.takeTile_keeps | apply State.showSwitch_keeps | apply State.modJob_keeps | apply State.modTile_keeps
    | split
    | with_reducible exact Keeps.refl _
    | (with_reducible refine Keeps.mk ?_ rfl rfl rfl rfl rfl)

theorem execSaveCommit_keeps {s0 : State} (t : Nat) (s : State) (kh : Keeps s0 s) : KeepsO s0 (execSaveCommit t s) := by
  unfold execSaveCommit
  repeat' first
    | with_reducible first | assumption | intro _
    | with_reducible first | apply State.saveCommit_keeps | apply KeepsO.next
    | split
    | with_reducible exact Keeps.refl _

theorem execRestoreEnd_keeps {s0 : State} (p j : Nat) (s : State) (kh : Keeps s0 s) : KeepsO s0 (execRestoreEnd p j s) := by
  unfold execRestoreEnd
  repeat' first
    | with_reducible first | assumption | intro _
    | (extract_lets +onlyGivenNames x
       first
       | (refine Keeps.via (x := x) ?_ fun kh1 => ?_; rotate_left; clear_value x; rotate_left; subst x)
       | (refine KeepsO.via (x := x) ?_ fun kh1 => ?_; rotate_left; clear_value x; rotate_left; subst x)
       | clear_value x)
    | with_reducible first | apply State.showSwitch_keeps | apply State.restoreTile_keeps | apply State.setJobState_keeps | apply State.each_keeps | apply State.modJob_keeps | apply KeepsO.next
    | split
    | with_reducible exact Keeps.refl _
    | (with_reducible refine Keeps.mk ?_ rfl rfl rfl rfl rfl)

theorem State.noteShed_keeps {s0 : State} (s : State) (kh : Keeps s0 s) : Keeps s0 (State.noteShed s) := by
  unfold State.noteShed
  repeat' first
    | with_reducible first | assumption | intro _
    | with_reducible exact Keeps.refl _
    | (with_reducible refine Keeps.mk ?_ rfl rfl rfl rfl rfl)

theorem State.noteUnshed_keeps {s0 : State} (s : State) (kh : Keeps s0 s) : Keeps s0 (State.noteUnshed s) := by
  unfold State.noteUnshed
  repeat' first
    | with_reducible first | assumption | intro _
    | with_reducible exact Keeps.refl _
    | (with_reducible refine Keeps.mk ?_ rfl rfl rfl rfl rfl)

theorem execPartitionShed_keeps {s0 : State} (s : State) (kh : Keeps s0 s) : KeepsO s0 (execPartitionShed s) := by
  unfold execPartitionShed
  repeat' first
    | with_reducible first | assumption | intro _
    | (extract_lets +onlyGivenNames x
       first
       | (refine Keeps.via (x := x) ?_ fun kh1 => ?_; rotate_left; clear_value x; rotate_left; subst x)
       | (refine KeepsO.via (x := x) ?_ fun kh1 => ?_; rotate_left; clear_value x; rotate_left; subst x)
       | clear_value x)
    | with_reducible first | apply State.noteShed_keeps | apply State.shedCheck_keeps | apply State.modPart_keeps | apply KeepsO.next
    | split
    | with_reducible exact Keeps.refl _
    | (with_reducible refine Keeps.mk ?_ rfl rfl rfl rfl rfl)

theorem execPartitionUnshed_keeps {s0 : State} (s : State) (kh : Keeps s0 s) : KeepsO s0 (execPartitionUnshed s) := by
  unfold execPartitionUnshed
  repeat' first
    | with_reducible first | assumption | intro _
    | (extract_lets +onlyGivenNames x
       first
       | (refine Keeps.via (x := x) ?_ fun kh1 => ?_; rotate_left; clear_value x; rotate_left; subst x)
       | (refine KeepsO.via (x := x) ?_ fun kh1 => ?_; rotate_left; clear_value x; rotate_left; subst x)
       | clear_value x)
    | with_reducible first | apply State.noteUnshed_keeps | apply State.setAmber_keeps | apply State.post_keeps | apply State.modPart_keeps | apply State.setBit_keeps | apply KeepsO.next
    | split
    | with_reducible exact Keeps.refl _
    | (with_reducible refine Keeps.mk ?_ rfl rfl rfl rfl rfl)

theorem actFabricLimit_keeps {s0 : State} (s : State) (v : Nat) (kh : Keeps s0 s) : Keeps s0 (actFabricLimit s v).1 := by
  unfold actFabricLimit
  repeat' first
    | with_reducible first | assumption | intro _
    | with_reducible first | apply refuse_keeps
    | refine refuse_keeps_e (by with_reducible assumption) ?_
    | with_reducible first | apply accept_keeps
    | refine accept_keeps_e (by with_reducible assumption) ?_
    | with_reducible first | apply State.setRegN_keeps
    | split
    | with_reducible exact Keeps.refl _
theorem actFabricLimit_keeps_e {s0 : State} {s : State} {v : Nat} {x0 x1} (ke : (actFabricLimit s v) = (x0, x1)) (kh : Keeps s0 s) : Keeps s0 x0 := by
  have k := actFabricLimit_keeps s v kh
  rw [ke] at k
  exact k

theorem execPmuFabricLimitWrite_keeps {s0 : State} (m : Nat) (v : Dword) (s : State) (kh : Keeps s0 s) : KeepsO s0 (execPmuFabricLimitWrite m v s) := by
  unfold execPmuFabricLimitWrite
  repeat' first
    | with_reducible first | assumption | intro _
    | with_reducible first | apply actFabricLimit_keeps
    | refine actFabricLimit_keeps_e (by with_reducible assumption) ?_
    | with_reducible first | apply State.regBus_keeps | apply KeepsO.next
    | with_reducible exact Keeps.refl _

end Sys2Proof.Machine
end

