-- ==== Sys2Proof/Laws/KeepsPartCmd.lean ====
section
/-! SUPPORT. Every operation of Machine/PartCmd.lean keeps the queue and the canonical form. -/

namespace Sys2Proof.Machine

theorem State.finishWaiting_keeps {s0 : State} (s : State) (kh : Keeps s0 s) : Keeps s0 (State.finishWaiting s) := by
  unfold State.finishWaiting
  repeat' first
    | with_reducible first | assumption | intro _
    | with_reducible first | apply State.finish_keeps | apply State.each_keeps
    | split
    | with_reducible exact Keeps.refl _

theorem doneOrLater_keeps {s0 : State} (s : State) (n : Nat) (kh : Keeps s0 s) : Keeps s0 (doneOrLater s n).1 := by
  unfold doneOrLater
  repeat' first
    | with_reducible first | assumption | intro _
    | with_reducible first | apply okay_keeps
    | refine okay_keeps_e (by with_reducible assumption) ?_
    | split
    | with_reducible exact Keeps.refl _
theorem doneOrLater_keeps_e {s0 : State} {s : State} {n : Nat} {x0 x1} (ke : (doneOrLater s n) = (x0, x1)) (kh : Keeps s0 s) : Keeps s0 x0 := by
  have k := doneOrLater_keeps s n kh
  rw [ke] at k
  exact k

theorem State.openPart_keeps {s0 : State} (s : State) (p rs bch rank alloc mask : Nat) (kh : Keeps s0 s) : Keeps s0 (State.openPart s p rs bch rank alloc mask) := by
  unfold State.openPart
  repeat' first
    | with_reducible first | assumption | intro _
    | (extract_lets +onlyGivenNames x
       first
       | (refine Keeps.via (x := x) ?_ fun kh1 => ?_; rotate_left; clear_value x; rotate_left; subst x)
       | clear_value x)
    | with_reducible first | apply State.modPart_keeps | apply State.setRegN_keeps
    | split
    | with_reducible exact Keeps.refl _

theorem State.setStrength_keeps {s0 : State} (s : State) (p rs bch : Nat) (kh : Keeps s0 s) : Keeps s0 (State.setStrength s p rs bch) := by
  unfold State.setStrength
  repeat' first
    | with_reducible first | assumption | intro _
    | with_reducible first | apply State.each_keeps | apply State.setFld_keeps
    | with_reducible exact Keeps.refl _

theorem execPartCreate_keeps {s0 : State} (n : Nat) (s : State) (kh : Keeps s0 s) : KeepsO s0 (execPartCreate n s) := by
  unfold execPartCreate
  repeat' first
    | with_reducible first | assumption | intro _
    | (extract_lets +onlyGivenNames x
       first
       | (refine Keeps.via (x := x) ?_ fun kh1 => ?_; rotate_left; clear_value x; rotate_left; subst x)
       | (refine KeepsO.via (x := x) ?_ fun kh1 => ?_; rotate_left; clear_value x; rotate_left; subst x)
       | clear_value x)
    | with_reducible first | apply State.setStrength_keeps | apply State.openPart_keeps | apply State.runCmd_keeps | apply denied_keeps
    | refine denied_keeps_e (by with_reducible assumption) ?_
    | with_reducible first | apply okay_keeps
    | refine okay_keeps_e (by with_reducible assumption) ?_
    | with_reducible first | apply State.modPart_keeps | apply State.setFld_keeps | apply KeepsO.next
    | split
    | with_reducible exact Keeps.refl _
    | (with_reducible refine Keeps.mk ?_ rfl rfl rfl rfl rfl)

theorem State.clearAccess_keeps {s0 : State} (s : State) (p : Nat) (kh : Keeps s0 s) : Keeps s0 (State.clearAccess s p) := by
  unfold State.clearAccess
  repeat' first
    | with_reducible first | assumption | intro _
    | with_reducible exact Keeps.refl _
    | (with_reducible refine Keeps.mk ?_ rfl rfl rfl rfl rfl)

theorem State.clearLandings_keeps {s0 : State} (s : State) (p : Nat) (kh : Keeps s0 s) : Keeps s0 (State.clearLandings s p) := by
  unfold State.clearLandings
  repeat' first
    | with_reducible first | assumption | intro _
    | with_reducible exact Keeps.refl _
    | (with_reducible refine Keeps.mk ?_ rfl rfl rfl rfl rfl)

theorem State.retireAll_keeps {s0 : State} (s : State) (p : Nat) (kh : Keeps s0 s) : Keeps s0 (State.retireAll s p) := by
  unfold State.retireAll
  repeat' first
    | with_reducible first | assumption | intro _
    | (extract_lets +onlyGivenNames x
       first
       | (refine Keeps.via (x := x) ?_ fun kh1 => ?_; rotate_left; clear_value x; rotate_left; subst x)
       | clear_value x)
    | refine State.retire_keeps_e (by with_reducible assumption) ?_
    | with_reducible first | apply State.abortJob_keeps | apply State.freeJob_keeps | apply State.each_keeps | apply State.modJob_keeps
    | split
    | with_reducible exact Keeps.refl _
    | (with_reducible refine Keeps.mk ?_ rfl rfl rfl rfl rfl)

theorem State.zeroAllTiles_keeps {s0 : State} (s : State) (p : Nat) (kh : Keeps s0 s) : Keeps s0 (State.zeroAllTiles s p) := by
  unfold State.zeroAllTiles
  repeat' first
    | with_reducible first | assumption | intro _
    | (extract_lets +onlyGivenNames x
       first
       | (refine Keeps.via (x := x) ?_ fun kh1 => ?_; rotate_left; clear_value x; rotate_left; subst x)
       | clear_value x)
    | with_reducible first | apply State.setTileState_keeps | apply State.each_keeps | apply State.modTile_keeps
    | split
    | with_reducible exact Keeps.refl _
    | (with_reducible refine Keeps.mk ?_ rfl rfl rfl rfl rfl)

theorem State.endPart_keeps {s0 : State} (s : State) (p : Nat) (kh : Keeps s0 s) : Keeps s0 (State.endPart s p) := by
  unfold State.endPart
  repeat' first
    | with_reducible first | assumption | intro _
    | (extract_lets +onlyGivenNames x
       first
       | (refine Keeps.via (x := x) ?_ fun kh1 => ?_; rotate_left; clear_value x; rotate_left; subst x)
       | clear_value x)
    | with_reducible first | apply State.each_keeps | apply State.setRegN_keeps
    | split
    | with_reducible exact Keeps.refl _
    | (with_reducible refine Keeps.mk ?_ rfl rfl rfl rfl rfl)

theorem State.endCheck_keeps {s0 : State} (s : State) (p : Nat) (kh : Keeps s0 s) : Keeps s0 (State.endCheck s p) := by
  unfold State.endCheck
  repeat' first
    | with_reducible first | assumption | intro _
    | with_reducible first | apply State.endPart_keeps
    | split
    | with_reducible exact Keeps.refl _

theorem State.unshedPart_keeps {s0 : State} (s : State) (p : Nat) (kh : Keeps s0 s) : Keeps s0 (State.unshedPart s p) := by
  unfold State.unshedPart
  repeat' first
    | with_reducible first | assumption | intro _
    | (extract_lets +onlyGivenNames x
       first
       | (refine Keeps.via (x := x) ?_ fun kh1 => ?_; rotate_left; clear_value x; rotate_left; subst x)
       | clear_value x)
    | with_reducible first | apply State.setAmber_keeps | apply State.setBit_keeps
    | split
    | with_reducible exact Keeps.refl _

theorem State.endHold_keeps {s0 : State} (s : State) (k : Nat) (kh : Keeps s0 s) : Keeps s0 (State.endHold s k) := by
  unfold State.endHold
  repeat' first
    | with_reducible first | assumption | intro _
    | (extract_lets +onlyGivenNames x
       first
       | (refine Keeps.via (x := x) ?_ fun kh1 => ?_; rotate_left; clear_value x; rotate_left; subst x)
       | clear_value x)
    | with_reducible first | apply State.setBit_keeps | apply State.setFld_keeps
    | split
    | with_reducible exact Keeps.refl _
    | (with_reducible refine Keeps.mk ?_ rfl rfl rfl rfl rfl)

theorem execPartDestroy_keeps {s0 : State} (n : Nat) (s : State) (kh : Keeps s0 s) : KeepsO s0 (execPartDestroy n s) := by
  unfold execPartDestroy
  repeat' first
    | with_reducible first | assumption | intro _
    | (extract_lets +onlyGivenNames x
       first
       | (refine Keeps.via (x := x) ?_ fun kh1 => ?_; rotate_left; clear_value x; rotate_left; subst x)
       | (refine KeepsO.via (x := x) ?_ fun kh1 => ?_; rotate_left; clear_value x; rotate_left; subst x)
       | clear_value x)
    | with_reducible first | apply State.endHold_keeps | apply State.unshedPart_keeps | apply State.zeroAllTiles_keeps | apply State.retireAll_keeps | apply State.clearLandings_keeps | apply State.clearAccess_keeps | apply State.runCmd_keeps | apply denied_keeps
    | refine denied_keeps_e (by with_reducible assumption) ?_
    | with_reducible first | apply State.clearSuspects_keeps | apply State.bumpGen_keeps | apply State.modPart_keeps | apply State.setFld_keeps | apply KeepsO.next
    | split
    | with_reducible exact Keeps.refl _
    | (with_reducible refine Keeps.mk ?_ rfl rfl rfl rfl rfl)

theorem execDramZeroingDone_keeps {s0 : State} (p : Nat) (s : State) (kh : Keeps s0 s) : KeepsO s0 (execDramZeroingDone p s) := by
  unfold execDramZeroingDone
  repeat' first
    | with_reducible first | assumption | intro _
    | (extract_lets +onlyGivenNames x
       first
       | (refine Keeps.via (x := x) ?_ fun kh1 => ?_; rotate_left; clear_value x; rotate_left; subst x)
       | (refine KeepsO.via (x := x) ?_ fun kh1 => ?_; rotate_left; clear_value x; rotate_left; subst x)
       | clear_value x)
    | with_reducible first | apply State.endCheck_keeps | apply State.finishWaiting_keeps | apply State.each_keeps | apply State.modPart_keeps | apply State.zero_keeps | apply State.setFld_keeps | apply KeepsO.next
    | split
    | with_reducible exact Keeps.refl _
    | (with_reducible refine Keeps.mk ?_ rfl rfl rfl rfl rfl)

theorem execZeroingPassDone_keeps {s0 : State} (t : Nat) (s : State) (kh : Keeps s0 s) : KeepsO s0 (execZeroingPassDone t s) := by
  unfold execZeroingPassDone
  repeat' first
    | with_reducible first | assumption | intro _
    | (extract_lets +onlyGivenNames x
       first
       | (refine Keeps.via (x := x) ?_ fun kh1 => ?_; rotate_left; clear_value x; rotate_left; subst x)
       | (refine KeepsO.via (x := x) ?_ fun kh1 => ?_; rotate_left; clear_value x; rotate_left; subst x)
       | clear_value x)
    | with_reducible first | apply State.endCheck_keeps | apply State.finishWaiting_keeps | apply State.abortDone_keeps | apply State.freeTile_keeps | apply State.zeroSpad_keeps | apply State.each_keeps | apply State.modTile_keeps | apply KeepsO.next
    | split
    | with_reducible exact Keeps.refl _

theorem execImgUnload_keeps {s0 : State} (n : Nat) (s : State) (kh : Keeps s0 s) : KeepsO s0 (execImgUnload n s) := by
  unfold execImgUnload
  repeat' first
    | with_reducible first | assumption | intro _
    | (extract_lets +onlyGivenNames x
       first
       | (refine Keeps.via (x := x) ?_ fun kh1 => ?_; rotate_left; clear_value x; rotate_left; subst x)
       | (refine KeepsO.via (x := x) ?_ fun kh1 => ?_; rotate_left; clear_value x; rotate_left; subst x)
       | clear_value x)
    | with_reducible first | apply doneOrLater_keeps
    | refine doneOrLater_keeps_e (by with_reducible assumption) ?_
    | with_reducible first | apply State.unloadImage_keeps | apply State.runCmd_keeps | apply denied_keeps
    | refine denied_keeps_e (by with_reducible assumption) ?_
    | with_reducible first | apply KeepsO.next
    | split
    | with_reducible exact Keeps.refl _

theorem State.addHandle_keeps_e {s0 s t : State} {n i : Nat} {d : Handle} (e : s.addHandle n i d = .inr t) (h : Keeps s0 s) : Keeps s0 t := by
  revert e
  unfold State.addHandle
  dsimp only
  repeat' first
    | split
    | (intro e; cases e; first | exact h | exact State.modTile_keeps _ _ _ h)
    | (intro e; cases e; done)

theorem State.addHandles_keeps {s0 : State} : ∀ (l : List (Nat × Nat × Handle)) (s t : State), s.addHandles l = .inr t → Keeps s0 s → Keeps s0 t
  | [], s, t, e, h => by
    cases e
    exact h
  | (n, i, d) :: r, s, t, e, h => by
    unfold State.addHandles at e
    split at e
    · cases e
    · rename_i g
      exact State.addHandles_keeps r _ t e (State.addHandle_keeps_e g h)

theorem State.admitJob_keeps {s0 : State} (s : State) (p j k slice client : Nat) (i : Image) (blocks : List Nat) (kh : Keeps s0 s) : Keeps s0 (State.admitJob s p j k slice client i blocks) := by
  unfold State.admitJob
  repeat' first
    | with_reducible first | assumption | intro _
    | (extract_lets +onlyGivenNames x
       first
       | (refine Keeps.via (x := x) ?_ fun kh1 => ?_; rotate_left; clear_value x; rotate_left; subst x)
       | clear_value x)
    | with_reducible first | apply State.showDemand_keeps | apply State.setTileState_keeps | apply State.each_keeps | apply State.modPart_keeps | apply State.setRegN_keeps
    | split
    | with_reducible exact Keeps.refl _
    | (with_reducible refine Keeps.mk ?_ rfl rfl rfl rfl rfl)

theorem execJobAdmit_keeps {s0 : State} (n : Nat) (s : State) (kh : Keeps s0 s) : KeepsO s0 (execJobAdmit n s) := by
  unfold execJobAdmit
  repeat' first
    | with_reducible first | assumption | intro _
    | (extract_lets +onlyGivenNames x
       first
       | (refine Keeps.via (x := x) ?_ fun kh1 => ?_; rotate_left; clear_value x; rotate_left; subst x)
       | (refine KeepsO.via (x := x) ?_ fun kh1 => ?_; rotate_left; clear_value x; rotate_left; subst x)
       | clear_value x)
    | with_reducible first | apply State.admitJob_keeps
    | refine State.addHandles_keeps _ _ _ (by with_reducible assumption) ?_
    | with_reducible first | apply State.runCmd_keeps | apply denied_keeps
    | refine denied_keeps_e (by with_reducible assumption) ?_
    | with_reducible first | apply giving_keeps
    | refine giving_keeps_e (by with_reducible assumption) ?_
    | with_reducible first | apply KeepsO.next
    | split
    | with_reducible exact Keeps.refl _

theorem execJobRetire_keeps {s0 : State} (n : Nat) (s : State) (kh : Keeps s0 s) : KeepsO s0 (execJobRetire n s) := by
  unfold execJobRetire
  repeat' first
    | with_reducible first | assumption | intro _
    | (extract_lets +onlyGivenNames x
       first
       | (refine Keeps.via (x := x) ?_ fun kh1 => ?_; rotate_left; clear_value x; rotate_left; subst x)
       | (refine KeepsO.via (x := x) ?_ fun kh1 => ?_; rotate_left; clear_value x; rotate_left; subst x)
       | clear_value x)
    | refine State.retire_keeps_e (by with_reducible assumption) ?_
    | with_reducible first | apply doneOrLater_keeps
    | refine doneOrLater_keeps_e (by with_reducible assumption) ?_
    | with_reducible first | apply State.runCmd_keeps | apply denied_keeps
    | refine denied_keeps_e (by with_reducible assumption) ?_
    | with_reducible first | apply okay_keeps
    | refine okay_keeps_e (by with_reducible assumption) ?_
    | with_reducible first | apply State.abortJob_keeps | apply State.freeJob_keeps | apply State.modJob_keeps | apply KeepsO.next
    | split
    | with_reducible exact Keeps.refl _
    | (with_reducible refine Keeps.mk ?_ rfl rfl rfl rfl rfl)

theorem execSliceTableLoad_keeps {s0 : State} (n : Nat) (s : State) (kh : Keeps s0 s) : KeepsO s0 (execSliceTableLoad n s) := by
  unfold execSliceTableLoad
  repeat' first
    | with_reducible first | assumption | intro _
    | (extract_lets +onlyGivenNames x
       first
       | (refine Keeps.via (x := x) ?_ fun kh1 => ?_; rotate_left; clear_value x; rotate_left; subst x)
       | (refine KeepsO.via (x := x) ?_ fun kh1 => ?_; rotate_left; clear_value x; rotate_left; subst x)
       | clear_value x)
    | with_reducible first | apply State.runCmd_keeps | apply denied_keeps
    | refine denied_keeps_e (by with_reducible assumption) ?_
    | with_reducible first | apply okay_keeps
    | refine okay_keeps_e (by with_reducible assumption) ?_
    | with_reducible first | apply State.modPart_keeps | apply State.setBit_keeps | apply KeepsO.next
    | split
    | with_reducible exact Keeps.refl _
    | (with_reducible refine Keeps.mk ?_ rfl rfl rfl rfl rfl)

theorem execPartCreditConfig_keeps {s0 : State} (n : Nat) (s : State) (kh : Keeps s0 s) : KeepsO s0 (execPartCreditConfig n s) := by
  unfold execPartCreditConfig
  repeat' first
    | with_reducible first | assumption | intro _
    | (extract_lets +onlyGivenNames x
       first
       | (refine Keeps.via (x := x) ?_ fun kh1 => ?_; rotate_left; clear_value x; rotate_left; subst x)
       | (refine KeepsO.via (x := x) ?_ fun kh1 => ?_; rotate_left; clear_value x; rotate_left; subst x)
       | clear_value x)
    | with_reducible first | apply State.supRead_keeps
    | refine State.supRead_keeps_e (by with_reducible assumption) ?_
    | with_reducible first | apply State.runCmd_keeps | apply denied_keeps
    | refine denied_keeps_e (by with_reducible assumption) ?_
    | with_reducible first | apply okay_keeps
    | refine okay_keeps_e (by with_reducible assumption) ?_
    | with_reducible first | apply State.modPart_keeps | apply KeepsO.next
    | split
    | with_reducible exact Keeps.refl _
    | (with_reducible refine Keeps.mk ?_ rfl rfl rfl rfl rfl)

end Sys2Proof.Machine
end

