-- ==== Sys2Proof/Laws/KeepsCamera.lean ====
section
/-! SUPPORT. Every operation of Machine/Camera.lean keeps the queue and the canonical form. -/

namespace Sys2Proof.Machine

theorem State.showCamBw_keeps {s0 : State} (s : State) (kh : Keeps s0 s) : Keeps s0 (State.showCamBw s) := by
  unfold State.showCamBw
  repeat' first
    | with_reducible first | assumption | intro _
    | with_reducible first | apply State.setRegN_keeps
    | with_reducible exact Keeps.refl _

theorem actCamPort_keeps {s0 : State} (p : Nat) (s : State) (v : Nat) (kh : Keeps s0 s) : Keeps s0 (actCamPort p s v).1 := by
  unfold actCamPort
  repeat' first
    | with_reducible first | assumption | intro _
    | (extract_lets +onlyGivenNames x
       first
       | (refine Keeps.via (x := x) ?_ fun kh1 => ?_; rotate_left; clear_value x; rotate_left; subst x)
       | clear_value x)
    | with_reducible first | apply State.showCamBw_keeps | apply refuse_keeps
    | refine refuse_keeps_e (by with_reducible assumption) ?_
    | with_reducible first | apply accept_keeps
    | refine accept_keeps_e (by with_reducible assumption) ?_
    | with_reducible first | apply State.setRegN_keeps
    | split
    | with_reducible exact Keeps.refl _
theorem actCamPort_keeps_e {s0 : State} {p : Nat} {s : State} {v : Nat} {x0 x1} (ke : (actCamPort p s v) = (x0, x1)) (kh : Keeps s0 s) : Keeps s0 x0 := by
  have k := actCamPort_keeps p s v kh
  rw [ke] at k
  exact k

theorem execCamPortEnable_keeps {s0 : State} (m p : Nat) (v : Dword) (s : State) (kh : Keeps s0 s) : KeepsO s0 (execCamPortEnable m p v s) := by
  unfold execCamPortEnable
  repeat' first
    | with_reducible first | assumption | intro _
    | with_reducible first | apply actCamPort_keeps
    | refine actCamPort_keeps_e (by with_reducible assumption) ?_
    | with_reducible first | apply State.regBus_keeps | apply KeepsO.next
    | with_reducible exact Keeps.refl _

theorem actCamStr_keeps {s0 : State} (i : Nat) (s : State) (v : Nat) (kh : Keeps s0 s) : Keeps s0 (actCamStr i s v).1 := by
  unfold actCamStr
  repeat' first
    | with_reducible first | assumption | intro _
    | with_reducible first | apply refuse_keeps
    | refine refuse_keeps_e (by with_reducible assumption) ?_
    | with_reducible first | apply accept_keeps
    | refine accept_keeps_e (by with_reducible assumption) ?_
    | with_reducible first | apply State.setRegN_keeps
    | split
    | with_reducible exact Keeps.refl _
theorem actCamStr_keeps_e {s0 : State} {i : Nat} {s : State} {v : Nat} {x0 x1} (ke : (actCamStr i s v) = (x0, x1)) (kh : Keeps s0 s) : Keeps s0 x0 := by
  have k := actCamStr_keeps i s v kh
  rw [ke] at k
  exact k

theorem State.modCamStr_keeps {s0 : State} (s : State) (i : Nat) (f : CamStream → CamStream) (kh : Keeps s0 s) : Keeps s0 (State.modCamStr s i f) := by
  unfold State.modCamStr
  repeat' first
    | with_reducible first | assumption | intro _
    | with_reducible exact Keeps.refl _
    | (with_reducible refine Keeps.mk ?_ rfl rfl rfl rfl rfl)

theorem State.camOpened_keeps {s0 : State} (s : State) (i k : Nat) (kh : Keeps s0 s) : Keeps s0 (State.camOpened s i k) := by
  unfold State.camOpened
  repeat' first
    | with_reducible first | assumption | intro _
    | split
    | with_reducible exact Keeps.refl _
    | (with_reducible refine Keeps.mk ?_ rfl rfl rfl rfl rfl)

theorem State.camSealed_keeps {s0 : State} (s : State) (i k : Nat) (kh : Keeps s0 s) : Keeps s0 (State.camSealed s i k) := by
  unfold State.camSealed
  repeat' first
    | with_reducible first | assumption | intro _
    | split
    | with_reducible exact Keeps.refl _
    | (with_reducible refine Keeps.mk ?_ rfl rfl rfl rfl rfl)

theorem State.camFlag_keeps {s0 : State} (s : State) (i f : Nat) (kh : Keeps s0 s) : Keeps s0 (State.camFlag s i f) := by
  unfold State.camFlag
  repeat' first
    | with_reducible first | assumption | intro _
    | with_reducible first | apply State.modCamStr_keeps
    | with_reducible exact Keeps.refl _
    | (with_reducible refine Keeps.mk ?_ rfl rfl rfl rfl rfl)

theorem State.camBadHeader_keeps {s0 : State} (s : State) (port : Nat) (kh : Keeps s0 s) : Keeps s0 (State.camBadHeader s port) := by
  unfold State.camBadHeader
  repeat' first
    | with_reducible first | assumption | intro _
    | (extract_lets +onlyGivenNames x
       first
       | (refine Keeps.via (x := x) ?_ fun kh1 => ?_; rotate_left; clear_value x; rotate_left; subst x)
       | clear_value x)
    | with_reducible first | apply State.camFlag_keeps | apply State.each_keeps | apply State.incFld_keeps
    | split
    | with_reducible exact Keeps.refl _

theorem State.camCounter_keeps {s0 : State} (s : State) (i : Nat) (g : CamFrame) (kh : Keeps s0 s) : Keeps s0 (State.camCounter s i g).2 := by
  unfold State.camCounter
  repeat' first
    | with_reducible first | assumption | intro _
    | (extract_lets +onlyGivenNames x
       first
       | (refine Keeps.via (x := x) ?_ fun kh1 => ?_; rotate_left; clear_value x; rotate_left; subst x)
       | clear_value x)
    | with_reducible first | apply State.draw_keeps
    | refine State.draw_keeps_e (by with_reducible assumption) ?_
    | split
    | with_reducible exact Keeps.refl _
theorem State.camCounter_keeps_e {s0 : State} {s : State} {i : Nat} {g : CamFrame} {x0 x1} (ke : (State.camCounter s i g) = (x0, x1)) (kh : Keeps s0 s) : Keeps s0 x1 := by
  have k := State.camCounter_keeps s i g kh
  rw [ke] at k
  exact k

theorem State.camBook_keeps {s0 : State} (s : State) (i slot c : Nat) (gap bad : Bool) (kh : Keeps s0 s) : Keeps s0 (State.camBook s i slot c gap bad) := by
  unfold State.camBook
  repeat' first
    | with_reducible first | assumption | intro _
    | (extract_lets +onlyGivenNames x
       first
       | (refine Keeps.via (x := x) ?_ fun kh1 => ?_; rotate_left; clear_value x; rotate_left; subst x)
       | clear_value x)
    | with_reducible first | apply State.camSealed_keeps | apply State.modCamStr_keeps | apply State.postC_keeps | apply State.incFld_keeps | apply State.setFld_keeps
    | split
    | with_reducible exact Keeps.refl _
    | (with_reducible refine Keeps.mk ?_ rfl rfl rfl rfl rfl)

theorem State.camClose_keeps {s0 : State} (s : State) (i : Nat) (g : CamFrame) (kh : Keeps s0 s) : Keeps s0 (State.camClose s i g) := by
  unfold State.camClose
  repeat' first
    | with_reducible first | assumption | intro _
    | (extract_lets +onlyGivenNames x
       first
       | (refine Keeps.via (x := x) ?_ fun kh1 => ?_; rotate_left; clear_value x; rotate_left; subst x)
       | clear_value x)
    | with_reducible first | apply State.camBook_keeps | apply State.camCounter_keeps
    | refine State.camCounter_keeps_e (by with_reducible assumption) ?_
    | with_reducible first | apply State.hubSet_keeps | apply State.tap_keeps
    | split
    | with_reducible exact Keeps.refl _

theorem State.camOpen_keeps {s0 : State} (s : State) (i : Nat) (kh : Keeps s0 s) : Keeps s0 (State.camOpen s i) := by
  unfold State.camOpen
  repeat' first
    | with_reducible first | assumption | intro _
    | (extract_lets +onlyGivenNames x
       first
       | (refine Keeps.via (x := x) ?_ fun kh1 => ?_; rotate_left; clear_value x; rotate_left; subst x)
       | clear_value x)
    | with_reducible first | apply State.camOpened_keeps | apply State.modCamStr_keeps | apply State.postC_keeps | apply State.incReg_keeps
    | split
    | with_reducible exact Keeps.refl _
    | (with_reducible refine Keeps.mk ?_ rfl rfl rfl rfl rfl)

theorem execFrameStartPacket_keeps {s0 : State} (port vc : Nat) (hdrOk : Bool) (s : State) (kh : Keeps s0 s) : KeepsO s0 (execFrameStartPacket port vc hdrOk s) := by
  unfold execFrameStartPacket
  repeat' first
    | with_reducible first | assumption | intro _
    | with_reducible first | apply State.camOpen_keeps | apply State.camClose_keeps | apply State.camBadHeader_keeps | apply State.incReg_keeps | apply KeepsO.next
    | split
    | with_reducible exact Keeps.refl _
    | (with_reducible refine Keeps.mk ?_ rfl rfl rfl rfl rfl)

theorem State.camLine_keeps {s0 : State} (s : State) (i : Nat) (g : CamFrame) (data : List Byte) (kh : Keeps s0 s) : Keeps s0 (State.camLine s i g data) := by
  unfold State.camLine
  repeat' first
    | with_reducible first | assumption | intro _
    | (extract_lets +onlyGivenNames x
       first
       | (refine Keeps.via (x := x) ?_ fun kh1 => ?_; rotate_left; clear_value x; rotate_left; subst x)
       | clear_value x)
    | with_reducible first | apply State.modCamStr_keeps | apply State.hubSet_keeps
    | split
    | with_reducible exact Keeps.refl _
    | (with_reducible refine Keeps.mk ?_ rfl rfl rfl rfl rfl)

theorem State.camData_keeps {s0 : State} (s : State) (i dt : Nat) (data : List Byte) (kh : Keeps s0 s) : Keeps s0 (State.camData s i dt data) := by
  unfold State.camData
  repeat' first
    | with_reducible first | assumption | intro _
    | (extract_lets +onlyGivenNames x
       first
       | (refine Keeps.via (x := x) ?_ fun kh1 => ?_; rotate_left; clear_value x; rotate_left; subst x)
       | clear_value x)
    | with_reducible first | apply State.camLine_keeps | apply State.modCamStr_keeps | apply State.incReg_keeps
    | split
    | with_reducible exact Keeps.refl _
    | (with_reducible refine Keeps.mk ?_ rfl rfl rfl rfl rfl)

theorem execLinePacket_keeps {s0 : State} (port vc dt : Nat) (data : List Byte) (hdrOk crcOk : Bool) (s : State) (kh : Keeps s0 s) : KeepsO s0 (execLinePacket port vc dt data hdrOk crcOk s) := by
  unfold execLinePacket
  repeat' first
    | with_reducible first | assumption | intro _
    | (extract_lets +onlyGivenNames x
       first
       | (refine Keeps.via (x := x) ?_ fun kh1 => ?_; rotate_left; clear_value x; rotate_left; subst x)
       | (refine KeepsO.via (x := x) ?_ fun kh1 => ?_; rotate_left; clear_value x; rotate_left; subst x)
       | clear_value x)
    | with_reducible first | apply State.camData_keeps | apply State.camBadHeader_keeps | apply State.camFlag_keeps | apply State.incReg_keeps | apply State.incFld_keeps | apply KeepsO.next
    | split
    | with_reducible exact Keeps.refl _

theorem execFrameEndPacket_keeps {s0 : State} (port vc : Nat) (hdrOk : Bool) (s : State) (kh : Keeps s0 s) : KeepsO s0 (execFrameEndPacket port vc hdrOk s) := by
  unfold execFrameEndPacket
  repeat' first
    | with_reducible first | assumption | intro _
    | with_reducible first | apply State.camClose_keeps | apply State.camBadHeader_keeps | apply State.incReg_keeps | apply KeepsO.next
    | split
    | with_reducible exact Keeps.refl _

end Sys2Proof.Machine
end

