-- ==== Sys2Proof/Laws/KeepsPixel.lean ====
section
/-! SUPPORT. Every operation of Machine/Pixel.lean keeps the queue and the canonical form. -/

namespace Sys2Proof.Machine

theorem State.showPix_keeps {s0 : State} (s : State) (kh : Keeps s0 s) : Keeps s0 (State.showPix s) := by
  unfold State.showPix
  repeat' first
    | with_reducible first | assumption | intro _
    | (extract_lets +onlyGivenNames x
       first
       | (refine Keeps.via (x := x) ?_ fun kh1 => ?_; rotate_left; clear_value x; rotate_left; subst x)
       | clear_value x)
    | with_reducible first | apply State.each_keeps | apply State.setFld_keeps | apply State.setRegN_keeps
    | split
    | with_reducible exact Keeps.refl _

theorem State.pixSkip_keeps {s0 : State} (s : State) (c : Status) (k : Nat) (kh : Keeps s0 s) : Keeps s0 (State.pixSkip s c k) := by
  unfold State.pixSkip
  repeat' first
    | with_reducible first | assumption | intro _
    | with_reducible first | apply State.postC_keeps | apply State.incReg_keeps
    | with_reducible exact Keeps.refl _

theorem State.modPixRuns_keeps {s0 : State} (s : State) (f : List PixRun → List PixRun) (kh : Keeps s0 s) : Keeps s0 (State.modPixRuns s f) := by
  unfold State.modPixRuns
  repeat' first
    | with_reducible first | assumption | intro _
    | with_reducible exact Keeps.refl _
    | (with_reducible refine Keeps.mk ?_ rfl rfl rfl rfl rfl)

theorem State.pixTake_keeps {s0 : State} (s : State) (n : Nat) (kh : Keeps s0 s) : Keeps s0 (State.pixTake s n) := by
  unfold State.pixTake
  repeat' first
    | with_reducible first | assumption | intro _
    | with_reducible exact Keeps.refl _
    | (with_reducible refine Keeps.mk ?_ rfl rfl rfl rfl rfl)

theorem State.firePix_keeps {s0 : State} (s : State) (d : Due) (kh : Keeps s0 s) : Keeps s0 (State.firePix s d) := by
  unfold State.firePix
  repeat' first
    | with_reducible first | assumption | intro _
    | (extract_lets +onlyGivenNames x
       first
       | (refine Keeps.via (x := x) ?_ fun kh1 => ?_; rotate_left; clear_value x; rotate_left; subst x)
       | clear_value x)
    | with_reducible first | apply State.pixTake_keeps | apply State.modPixRuns_keeps | apply State.pixSkip_keeps | apply State.showPix_keeps | apply State.targetGone_keeps | apply State.postC_keeps | apply State.setFld_keeps
    | split
    | with_reducible exact Keeps.refl _

theorem execPixStart_keeps {s0 : State} (w e edge : Nat) (s : State) (kh : Keeps s0 s) : KeepsO s0 (execPixStart w e edge s) := by
  unfold execPixStart
  repeat' first
    | with_reducible first | assumption | intro _
    | with_reducible first | apply State.firePix_keeps | apply State.ifPowered_keeps | apply State.onEntry_keeps | apply KeepsO.next
    | with_reducible exact Keeps.refl _

theorem State.pixLeave_keeps {s0 : State} (s : State) (k cam : Nat) (kh : Keeps s0 s) : Keeps s0 (State.pixLeave s k cam) := by
  unfold State.pixLeave
  repeat' first
    | with_reducible first | assumption | intro _
    | with_reducible first | apply State.modPixRuns_keeps | apply State.showPix_keeps
    | split
    | with_reducible exact Keeps.refl _
    | (with_reducible refine Keeps.mk ?_ rfl rfl rfl rfl rfl)

theorem State.pixPublish_keeps {s0 : State} (s : State) (i : Nat) (out : List Byte) (p : Bool) (kh : Keeps s0 s) : Keeps s0 (State.pixPublish s i out p) := by
  unfold State.pixPublish
  repeat' first
    | with_reducible first | assumption | intro _
    | (extract_lets +onlyGivenNames x
       first
       | (refine Keeps.via (x := x) ?_ fun kh1 => ?_; rotate_left; clear_value x; rotate_left; subst x)
       | clear_value x)
    | with_reducible first | apply State.hubSet_keeps | apply State.publish_keeps
    | split
    | with_reducible exact Keeps.refl _

theorem State.pixFrame_keeps {s0 : State} (s : State) (v : BitVec 512) (c : PixCam) (i slot : Nat) (kh : Keeps s0 s) : Keeps s0 (State.pixFrame s v c i slot) := by
  unfold State.pixFrame
  repeat' first
    | with_reducible first | assumption | intro _
    | (extract_lets +onlyGivenNames x
       first
       | (refine Keeps.via (x := x) ?_ fun kh1 => ?_; rotate_left; clear_value x; rotate_left; subst x)
       | clear_value x)
    | with_reducible first | apply State.pixPublish_keeps | apply State.hubGet_keeps
    | refine State.hubGet_keeps_e (by with_reducible assumption) ?_
    | with_reducible first | apply State.draw_keeps
    | refine State.draw_keeps_e (by with_reducible assumption) ?_
    | with_reducible first | apply State.postC_keeps | apply State.incReg_keeps
    | split
    | with_reducible exact Keeps.refl _

theorem State.pixLast_keeps {s0 : State} (s : State) (v : BitVec 512) (kh : Keeps s0 s) : Keeps s0 (State.pixLast s v) := by
  unfold State.pixLast
  repeat' first
    | with_reducible first | assumption | intro _
    | (extract_lets +onlyGivenNames x
       first
       | (refine Keeps.via (x := x) ?_ fun kh1 => ?_; rotate_left; clear_value x; rotate_left; subst x)
       | clear_value x)
    | with_reducible first | apply State.pixPublish_keeps | apply State.hubGet_keeps
    | refine State.hubGet_keeps_e (by with_reducible assumption) ?_
    | split
    | with_reducible exact Keeps.refl _

theorem execPixFrameDone_keeps {s0 : State} (prog cam : Nat) (s : State) (kh : Keeps s0 s) : KeepsO s0 (execPixFrameDone prog cam s) := by
  unfold execPixFrameDone
  repeat' first
    | with_reducible first | assumption | intro _
    | (extract_lets +onlyGivenNames x
       first
       | (refine Keeps.via (x := x) ?_ fun kh1 => ?_; rotate_left; clear_value x; rotate_left; subst x)
       | (refine KeepsO.via (x := x) ?_ fun kh1 => ?_; rotate_left; clear_value x; rotate_left; subst x)
       | clear_value x)
    | with_reducible first | apply State.pixLast_keeps | apply State.pixFrame_keeps | apply State.pixLeave_keeps | apply KeepsO.next
    | split
    | with_reducible exact Keeps.refl _

theorem execPixFrameTimeout_keeps {s0 : State} (prog cam : Nat) (s : State) (kh : Keeps s0 s) : KeepsO s0 (execPixFrameTimeout prog cam s) := by
  unfold execPixFrameTimeout
  repeat' first
    | with_reducible first | assumption | intro _
    | with_reducible first | apply State.pixLeave_keeps | apply State.postC_keeps | apply State.incReg_keeps | apply KeepsO.next
    | split
    | with_reducible exact Keeps.refl _

end Sys2Proof.Machine
end

