-- ==== Sys2Proof/Laws/KeepsSolver.lean ====
section
/-! SUPPORT. Every operation of Machine/Solver.lean keeps the queue and the canonical form. -/

namespace Sys2Proof.Machine

theorem State.showSolSlot_keeps {s0 : State} (s : State) (k : Nat) (kh : Keeps s0 s) : Keeps s0 (State.showSolSlot s k) := by
  unfold State.showSolSlot
  repeat' first
    | with_reducible first | assumption | intro _
    | (extract_lets +onlyGivenNames x
       first
       | (refine Keeps.via (x := x) ?_ fun kh1 => ?_; rotate_left; clear_value x; rotate_left; subst x)
       | clear_value x)
    | with_reducible first | apply State.setRegN_keeps
    | split
    | with_reducible exact Keeps.refl _

theorem State.showSol_keeps {s0 : State} (s : State) (kh : Keeps s0 s) : Keeps s0 (State.showSol s) := by
  unfold State.showSol
  repeat' first
    | with_reducible first | assumption | intro _
    | (extract_lets +onlyGivenNames x
       first
       | (refine Keeps.via (x := x) ?_ fun kh1 => ?_; rotate_left; clear_value x; rotate_left; subst x)
       | clear_value x)
    | with_reducible first | apply State.showSolSlot_keeps | apply State.each_keeps | apply State.setRegN_keeps
    | split
    | with_reducible exact Keeps.refl _

theorem State.showSram_keeps {s0 : State} (s : State) (kh : Keeps s0 s) : Keeps s0 (State.showSram s) := by
  unfold State.showSram
  repeat' first
    | with_reducible first | assumption | intro _
    | with_reducible first | apply State.setRegN_keeps
    | with_reducible exact Keeps.refl _

theorem State.putSlot_keeps {s0 : State} (s : State) (k : Nat) (x : SolSlot) (cfg nnzL wf : Nat) (kh : Keeps s0 s) : Keeps s0 (State.putSlot s k x cfg nnzL wf) := by
  unfold State.putSlot
  repeat' first
    | with_reducible first | assumption | intro _
    | (extract_lets +onlyGivenNames x
       first
       | (refine Keeps.via (x := x) ?_ fun kh1 => ?_; rotate_left; clear_value x; rotate_left; subst x)
       | clear_value x)
    | with_reducible first | apply State.showSram_keeps | apply State.showSol_keeps | apply State.setRegN_keeps
    | split
    | with_reducible exact Keeps.refl _
    | (with_reducible refine Keeps.mk ?_ rfl rfl rfl rfl rfl)

theorem State.solTake_keeps {s0 : State} (s : State) (k cfg : Nat) (x : SolSlot) (kh : Keeps s0 s) : Keeps s0 (State.solTake s k cfg x).1 := by
  unfold State.solTake
  repeat' first
    | with_reducible first | assumption | intro _
    | (extract_lets +onlyGivenNames x
       first
       | (refine Keeps.via (x := x) ?_ fun kh1 => ?_; rotate_left; clear_value x; rotate_left; subst x)
       | clear_value x)
    | with_reducible first | apply State.putSlot_keeps | apply denied_keeps
    | refine denied_keeps_e (by with_reducible assumption) ?_
    | with_reducible first | apply giving_keeps
    | refine giving_keeps_e (by with_reducible assumption) ?_
    | split
    | with_reducible exact Keeps.refl _
theorem State.solTake_keeps_e {s0 : State} {s : State} {k cfg : Nat} {x : SolSlot} {x0 x1} (ke : (State.solTake s k cfg x) = (x0, x1)) (kh : Keeps s0 s) : Keeps s0 x0 := by
  have k := State.solTake_keeps s k cfg x kh
  rw [ke] at k
  exact k

theorem execSolLoad_keeps {s0 : State} (n : Nat) (s : State) (kh : Keeps s0 s) : KeepsO s0 (execSolLoad n s) := by
  unfold execSolLoad
  repeat' first
    | with_reducible first | assumption | intro _
    | (extract_lets +onlyGivenNames x
       first
       | (refine Keeps.via (x := x) ?_ fun kh1 => ?_; rotate_left; clear_value x; rotate_left; subst x)
       | (refine KeepsO.via (x := x) ?_ fun kh1 => ?_; rotate_left; clear_value x; rotate_left; subst x)
       | clear_value x)
    | with_reducible first | apply State.solTake_keeps
    | refine State.solTake_keeps_e (by with_reducible assumption) ?_
    | with_reducible first | apply State.supRead_keeps
    | refine State.supRead_keeps_e (by with_reducible assumption) ?_
    | with_reducible first | apply State.runCmd_keeps | apply denied_keeps
    | refine denied_keeps_e (by with_reducible assumption) ?_
    | with_reducible first | apply State.slotOf_keeps | apply KeepsO.next
    | split
    | with_reducible exact Keeps.refl _

theorem State.solConfig_keeps {s0 : State} (s : State) (k cfg : Nat) (kh : Keeps s0 s) : Keeps s0 (State.solConfig s k cfg).1 := by
  unfold State.solConfig
  repeat' first
    | with_reducible first | assumption | intro _
    | with_reducible first | apply refuse_keeps
    | refine refuse_keeps_e (by with_reducible assumption) ?_
    | with_reducible first | apply accept_keeps
    | refine accept_keeps_e (by with_reducible assumption) ?_
    | with_reducible first | apply State.setRegN_keeps
    | split
    | with_reducible exact Keeps.refl _
theorem State.solConfig_keeps_e {s0 : State} {s : State} {k cfg : Nat} {x0 x1} (ke : (State.solConfig s k cfg) = (x0, x1)) (kh : Keeps s0 s) : Keeps s0 x0 := by
  have k := State.solConfig_keeps s k cfg kh
  rw [ke] at k
  exact k

theorem execSolConfig_keeps {s0 : State} (n : Nat) (s : State) (kh : Keeps s0 s) : KeepsO s0 (execSolConfig n s) := by
  unfold execSolConfig
  repeat' first
    | with_reducible first | assumption | intro _
    | with_reducible first | apply State.solConfig_keeps
    | refine State.solConfig_keeps_e (by with_reducible assumption) ?_
    | with_reducible first | apply State.runCmd_keeps | apply denied_keeps
    | refine denied_keeps_e (by with_reducible assumption) ?_
    | with_reducible first | apply okay_keeps
    | refine okay_keeps_e (by with_reducible assumption) ?_
    | with_reducible first | apply KeepsO.next
    | split
    | with_reducible exact Keeps.refl _

theorem execSolUnload_keeps {s0 : State} (n : Nat) (s : State) (kh : Keeps s0 s) : KeepsO s0 (execSolUnload n s) := by
  unfold execSolUnload
  repeat' first
    | with_reducible first | assumption | intro _
    | (extract_lets +onlyGivenNames x
       first
       | (refine Keeps.via (x := x) ?_ fun kh1 => ?_; rotate_left; clear_value x; rotate_left; subst x)
       | (refine KeepsO.via (x := x) ?_ fun kh1 => ?_; rotate_left; clear_value x; rotate_left; subst x)
       | clear_value x)
    | with_reducible first | apply State.showSram_keeps | apply State.showSol_keeps | apply State.runCmd_keeps | apply denied_keeps
    | refine denied_keeps_e (by with_reducible assumption) ?_
    | with_reducible first | apply okay_keeps
    | refine okay_keeps_e (by with_reducible assumption) ?_
    | with_reducible first | apply State.resetRegs_keeps | apply KeepsO.next
    | split
    | with_reducible exact Keeps.refl _
    | (with_reducible refine Keeps.mk ?_ rfl rfl rfl rfl rfl)

theorem State.solSkip_keeps {s0 : State} (s : State) (c : Status) (k : Nat) (kh : Keeps s0 s) : Keeps s0 (State.solSkip s c k) := by
  unfold State.solSkip
  repeat' first
    | with_reducible first | assumption | intro _
    | with_reducible first | apply State.postC_keeps | apply State.incReg_keeps
    | with_reducible exact Keeps.refl _

theorem State.fireSol_keeps {s0 : State} (s : State) (d : Due) (kh : Keeps s0 s) : Keeps s0 (State.fireSol s d) := by
  unfold State.fireSol
  repeat' first
    | with_reducible first | assumption | intro _
    | (extract_lets +onlyGivenNames x
       first
       | (refine Keeps.via (x := x) ?_ fun kh1 => ?_; rotate_left; clear_value x; rotate_left; subst x)
       | clear_value x)
    | with_reducible first | apply State.solSkip_keeps | apply State.showSol_keeps | apply State.targetGone_keeps
    | split
    | with_reducible exact Keeps.refl _
    | (with_reducible refine Keeps.mk ?_ rfl rfl rfl rfl rfl)

theorem execSolStart_keeps {s0 : State} (w e edge : Nat) (s : State) (kh : Keeps s0 s) : KeepsO s0 (execSolStart w e edge s) := by
  unfold execSolStart
  repeat' first
    | with_reducible first | assumption | intro _
    | with_reducible first | apply State.fireSol_keeps | apply State.ifPowered_keeps | apply State.onEntry_keeps | apply KeepsO.next
    | with_reducible exact Keeps.refl _

theorem State.solNotes_keeps {s0 : State} (s : State) (k flags : Nat) (x : SolSlot) (case_ : Nat) (kh : Keeps s0 s) : Keeps s0 (State.solNotes s k flags x case_) := by
  unfold State.solNotes
  repeat' first
    | with_reducible first | assumption | intro _
    | (extract_lets +onlyGivenNames x
       first
       | (refine Keeps.via (x := x) ?_ fun kh1 => ?_; rotate_left; clear_value x; rotate_left; subst x)
       | clear_value x)
    | with_reducible first | apply State.postC_keeps
    | split
    | with_reducible exact Keeps.refl _

theorem State.solAbort_keeps {s0 : State} (s : State) (st : SolStart) (kh : Keeps s0 s) : Keeps s0 (State.solAbort s st) := by
  unfold State.solAbort
  repeat' first
    | with_reducible first | assumption | intro _
    | (extract_lets +onlyGivenNames x
       first
       | (refine Keeps.via (x := x) ?_ fun kh1 => ?_; rotate_left; clear_value x; rotate_left; subst x)
       | clear_value x)
    | with_reducible first | apply State.poisonBites_keeps
    | split
    | with_reducible exact Keeps.refl _
    | (with_reducible refine Keeps.mk ?_ rfl rfl rfl rfl rfl)

theorem State.solFirst_keeps {s0 : State} (s : State) (k : Nat) (x : SolSlot) (run : SolRun) (kh : Keeps s0 s) : Keeps s0 (State.solFirst s k x run) := by
  unfold State.solFirst
  repeat' first
    | with_reducible first | assumption | intro _
    | split
    | with_reducible exact Keeps.refl _
    | (with_reducible refine Keeps.mk ?_ rfl rfl rfl rfl rfl)

theorem State.solWarmStart_keeps {s0 : State} (s : State) (st : SolStart) (x : SolSlot) (flags d : Nat) (r : Option WarmRec) (kh : Keeps s0 s) : Keeps s0 (State.solWarmStart s st x flags d r) := by
  unfold State.solWarmStart
  repeat' first
    | with_reducible first | assumption | intro _
    | (extract_lets +onlyGivenNames x
       first
       | (refine Keeps.via (x := x) ?_ fun kh1 => ?_; rotate_left; clear_value x; rotate_left; subst x)
       | clear_value x)
    | with_reducible first | apply State.solFirst_keeps | apply State.solNotes_keeps
    | split
    | with_reducible exact Keeps.refl _

theorem State.solBegin_keeps {s0 : State} (s : State) (st : SolStart) (kh : Keeps s0 s) : Keeps s0 (State.solBegin s st) := by
  unfold State.solBegin
  repeat' first
    | with_reducible first | assumption | intro _
    | (extract_lets +onlyGivenNames x
       first
       | (refine Keeps.via (x := x) ?_ fun kh1 => ?_; rotate_left; clear_value x; rotate_left; subst x)
       | clear_value x)
    | with_reducible first | apply State.solWarmStart_keeps | apply State.solAbort_keeps | apply State.setRegN_keeps
    | split
    | with_reducible exact Keeps.refl _
    | (with_reducible refine Keeps.mk ?_ rfl rfl rfl rfl rfl)

theorem execSolveDequeue_keeps {s0 : State} (s : State) (kh : Keeps s0 s) : KeepsO s0 (execSolveDequeue s) := by
  unfold execSolveDequeue
  repeat' first
    | with_reducible first | assumption | intro _
    | with_reducible first | apply State.solBegin_keeps | apply State.showSol_keeps | apply KeepsO.next
    | split
    | with_reducible exact Keeps.refl _
    | (with_reducible refine Keeps.mk ?_ rfl rfl rfl rfl rfl)

theorem State.solCut_keeps {s0 : State} (s : State) (r : SolRun) (kh : Keeps s0 s) : Keeps s0 (State.solCut s r) := by
  unfold State.solCut
  repeat' first
    | with_reducible first | assumption | intro _
    | (extract_lets +onlyGivenNames x
       first
       | (refine Keeps.via (x := x) ?_ fun kh1 => ?_; rotate_left; clear_value x; rotate_left; subst x)
       | clear_value x)
    | with_reducible first | apply State.showSol_keeps | apply State.finish_keeps | apply State.postC_keeps | apply State.incReg_keeps
    | split
    | with_reducible exact Keeps.refl _
    | (with_reducible refine Keeps.mk ?_ rfl rfl rfl rfl rfl)

theorem execSolDeadline_keeps {s0 : State} (s : State) (kh : Keeps s0 s) : KeepsO s0 (execSolDeadline s) := by
  unfold execSolDeadline
  repeat' first
    | with_reducible first | assumption | intro _
    | with_reducible first | apply State.solCut_keeps | apply KeepsO.next
    | split
    | with_reducible exact Keeps.refl _

theorem State.solFactor_keeps {s0 : State} (s : State) (r : SolRun) (kh : Keeps s0 s) : Keeps s0 (State.solFactor s r) := by
  unfold State.solFactor
  repeat' first
    | with_reducible first | assumption | intro _
    | (extract_lets +onlyGivenNames x
       first
       | (refine Keeps.via (x := x) ?_ fun kh1 => ?_; rotate_left; clear_value x; rotate_left; subst x)
       | clear_value x)
    | with_reducible first | apply State.postC_keeps | apply State.modSlot_keeps | apply State.setRegN_keeps
    | split
    | with_reducible exact Keeps.refl _
    | (with_reducible refine Keeps.mk ?_ rfl rfl rfl rfl rfl)

theorem execRefactorisationDone_keeps {s0 : State} (s : State) (kh : Keeps s0 s) : KeepsO s0 (execRefactorisationDone s) := by
  unfold execRefactorisationDone
  repeat' first
    | with_reducible first | assumption | intro _
    | with_reducible first | apply State.solFactor_keeps | apply State.showSol_keeps | apply KeepsO.next
    | split
    | with_reducible exact Keeps.refl _

theorem State.solIterate_keeps {s0 : State} (s : State) (r : SolRun) (f : Factor) (kh : Keeps s0 s) : Keeps s0 (State.solIterate s r f) := by
  unfold State.solIterate
  repeat' first
    | with_reducible first | assumption | intro _
    | (extract_lets +onlyGivenNames x
       first
       | (refine Keeps.via (x := x) ?_ fun kh1 => ?_; rotate_left; clear_value x; rotate_left; subst x)
       | clear_value x)
    | with_reducible first | apply State.finish_keeps
    | split
    | with_reducible exact Keeps.refl _
    | (with_reducible refine Keeps.mk ?_ rfl rfl rfl rfl rfl)

theorem execIterationDone_keeps {s0 : State} (s : State) (kh : Keeps s0 s) : KeepsO s0 (execIterationDone s) := by
  unfold execIterationDone
  repeat' first
    | with_reducible first | assumption | intro _
    | with_reducible first | apply State.solIterate_keeps | apply State.showSol_keeps | apply KeepsO.next
    | split
    | with_reducible exact Keeps.refl _

theorem State.solPublish_keeps {s0 : State} (s : State) (r : SolRun) (kh : Keeps s0 s) : Keeps s0 (State.solPublish s r) := by
  unfold State.solPublish
  repeat' first
    | with_reducible first | assumption | intro _
    | (extract_lets +onlyGivenNames x
       first
       | (refine Keeps.via (x := x) ?_ fun kh1 => ?_; rotate_left; clear_value x; rotate_left; subst x)
       | clear_value x)
    | with_reducible first | apply State.showSol_keeps | apply State.hubSet_keeps | apply State.replayCheck_keeps | apply State.publish_keeps | apply State.tap_keeps | apply State.modSlot_keeps | apply State.incReg_keeps | apply State.setRegN_keeps
    | split
    | with_reducible exact Keeps.refl _
    | (with_reducible refine Keeps.mk ?_ rfl rfl rfl rfl rfl)

theorem execSolvePublish_keeps {s0 : State} (s : State) (kh : Keeps s0 s) : KeepsO s0 (execSolvePublish s) := by
  unfold execSolvePublish
  repeat' first
    | with_reducible first | assumption | intro _
    | with_reducible first | apply State.solPublish_keeps | apply KeepsO.next
    | split
    | with_reducible exact Keeps.refl _

theorem State.solReset_keeps {s0 : State} (s : State) (kh : Keeps s0 s) : Keeps s0 (State.solReset s) := by
  unfold State.solReset
  repeat' first
    | with_reducible first | assumption | intro _
    | (extract_lets +onlyGivenNames x
       first
       | (refine Keeps.via (x := x) ?_ fun kh1 => ?_; rotate_left; clear_value x; rotate_left; subst x)
       | clear_value x)
    | with_reducible first | apply State.showSol_keeps | apply State.each_keeps | apply State.modSlot_keeps
    | split
    | with_reducible exact Keeps.refl _
    | (with_reducible refine Keeps.mk ?_ rfl rfl rfl rfl rfl)

end Sys2Proof.Machine
end

