-- ==== Sys2Proof/Laws/KeepsResetOps.lean ====
section
/-! SUPPORT. Every operation of Machine/ResetOps.lean keeps the queue and the canonical form. -/

namespace Sys2Proof.Machine

theorem State.solDrop_keeps {s0 : State} (s : State) (k : Nat) (kh : Keeps s0 s) : Keeps s0 (State.solDrop s k) := by
  unfold State.solDrop
  repeat' first
    | with_reducible first | assumption | intro _
    | with_reducible first | apply State.showSol_keeps
    | split
    | with_reducible exact Keeps.refl _
    | (with_reducible refine Keeps.mk ?_ rfl rfl rfl rfl rfl)

theorem State.pixDrop_keeps {s0 : State} (s : State) (k : Nat) (kh : Keeps s0 s) : Keeps s0 (State.pixDrop s k) := by
  unfold State.pixDrop
  repeat' first
    | with_reducible first | assumption | intro _
    | with_reducible first | apply State.modPixRuns_keeps | apply State.showPix_keeps
    | with_reducible exact Keeps.refl _

theorem State.kvDrop_keeps {s0 : State} (s : State) (p : Nat) (kh : Keeps s0 s) : Keeps s0 (State.kvDrop s p) := by
  unfold State.kvDrop
  repeat' first
    | with_reducible first | assumption | intro _
    | with_reducible first | apply State.kvRollback_keeps
    | split
    | with_reducible exact Keeps.refl _

theorem State.engineAbort_keeps {s0 : State} (s : State) (u sub : Nat) (kh : Keeps s0 s) : Keeps s0 (State.engineAbort s u sub) := by
  unfold State.engineAbort
  repeat' first
    | with_reducible first | assumption | intro _
    | with_reducible first | apply State.kvDrop_keeps | apply State.pixDrop_keeps | apply State.solDrop_keeps | apply State.ctlAbort_keeps
    | split
    | with_reducible exact Keeps.refl _

theorem State.camReset_keeps {s0 : State} (s : State) (kh : Keeps s0 s) : Keeps s0 (State.camReset s) := by
  unfold State.camReset
  repeat' first
    | with_reducible first | assumption | intro _
    | (extract_lets +onlyGivenNames x
       first
       | (refine Keeps.via (x := x) ?_ fun kh1 => ?_; rotate_left; clear_value x; rotate_left; subst x)
       | clear_value x)
    | with_reducible first | apply State.modPixRuns_keeps | apply State.modCamStr_keeps | apply State.each_keeps
    | split
    | with_reducible exact Keeps.refl _
    | (with_reducible refine Keeps.mk ?_ rfl rfl rfl rfl rfl)

theorem State.ethReset_keeps {s0 : State} (s : State) (kh : Keeps s0 s) : Keeps s0 (State.ethReset s) := by
  unfold State.ethReset
  repeat' first
    | with_reducible first | assumption | intro _
    | (extract_lets +onlyGivenNames x
       first
       | (refine Keeps.via (x := x) ?_ fun kh1 => ?_; rotate_left; clear_value x; rotate_left; subst x)
       | clear_value x)
    | with_reducible first | apply State.express_keeps | apply State.each_keeps | apply State.modEth_keeps
    | split
    | with_reducible exact Keeps.refl _
    | (with_reducible refine Keeps.mk ?_ rfl rfl rfl rfl rfl)

theorem State.canReset_keeps {s0 : State} (s : State) (n : Nat) (kh : Keeps s0 s) : Keeps s0 (State.canReset s n) := by
  unfold State.canReset
  repeat' first
    | with_reducible first | assumption | intro _
    | with_reducible first | apply actCanCtrl_keeps
    | refine actCanCtrl_keeps_e (by with_reducible assumption) ?_
    | with_reducible exact Keeps.refl _

theorem State.kvReset_keeps {s0 : State} (s : State) (kh : Keeps s0 s) : Keeps s0 (State.kvReset s) := by
  unfold State.kvReset
  repeat' first
    | with_reducible first | assumption | intro _
    | with_reducible first | apply State.kvDrop_keeps | apply State.each_keeps
    | with_reducible exact Keeps.refl _

theorem State.engineReset_keeps {s0 : State} (s : State) (u sub : Nat) (kh : Keeps s0 s) : Keeps s0 (State.engineReset s u sub) := by
  unfold State.engineReset
  repeat' first
    | with_reducible first | assumption | intro _
    | with_reducible first | apply State.kvReset_keeps | apply State.canReset_keeps | apply State.ethReset_keeps | apply State.camReset_keeps | apply State.ctlReset_keeps | apply State.solReset_keeps | apply State.showPix_keeps | apply State.bamPortReset_keeps
    | split
    | with_reducible exact Keeps.refl _
    | (with_reducible refine Keeps.mk ?_ rfl rfl rfl rfl rfl)

theorem State.overtakeUnit_keeps {s0 : State} (s : State) (u : Nat) (but_ : Option Nat) (kh : Keeps s0 s) : Keeps s0 (State.overtakeUnit s u but_) := by
  unfold State.overtakeUnit
  repeat' first
    | with_reducible first | assumption | intro _
    | with_reducible first | apply State.respond_keeps | apply State.each_keeps
    | with_reducible exact Keeps.refl _

theorem State.losePorts_keeps {s0 : State} (s : State) (u : Nat) (kh : Keeps s0 s) : Keeps s0 (State.losePorts s u) := by
  unfold State.losePorts
  repeat' first
    | with_reducible first | assumption | intro _
    | with_reducible exact Keeps.refl _
    | (with_reducible refine Keeps.mk ?_ rfl rfl rfl rfl rfl)

theorem State.loseDomain_keeps {s0 : State} (s : State) (d : Nat) (kh : Keeps s0 s) : Keeps s0 (State.loseDomain s d) := by
  unfold State.loseDomain
  repeat' first
    | with_reducible first | assumption | intro _
    | (extract_lets +onlyGivenNames x
       first
       | (refine Keeps.via (x := x) ?_ fun kh1 => ?_; rotate_left; clear_value x; rotate_left; subst x)
       | clear_value x)
    | with_reducible first | apply State.losePorts_keeps | apply State.camReset_keeps | apply State.resetUnitRegs_keeps | apply State.resetRegs_keeps
    | split
    | with_reducible exact Keeps.refl _
    | (with_reducible refine Keeps.mk ?_ rfl rfl rfl rfl rfl)

theorem State.setDomain_keeps {s0 : State} (s : State) (d k : Nat) (kh : Keeps s0 s) : Keeps s0 (State.setDomain s d k) := by
  unfold State.setDomain
  repeat' first
    | with_reducible first | assumption | intro _
    | with_reducible first | apply State.setFld_keeps
    | with_reducible exact Keeps.refl _

theorem State.switchDomain_keeps {s0 : State} (s : State) (d k : Nat) (kh : Keeps s0 s) : Keeps s0 (State.switchDomain s d k) := by
  unfold State.switchDomain
  repeat' first
    | with_reducible first | assumption | intro _
    | with_reducible first | apply State.setDomain_keeps | apply State.incFld_keeps
    | with_reducible exact Keeps.refl _

theorem State.domainReset_keeps {s0 : State} (s : State) (u sub : Nat) (kh : Keeps s0 s) : Keeps s0 (State.domainReset s u sub) := by
  unfold State.domainReset
  repeat' first
    | with_reducible first | assumption | intro _
    | (extract_lets +onlyGivenNames x
       first
       | (refine Keeps.via (x := x) ?_ fun kh1 => ?_; rotate_left; clear_value x; rotate_left; subst x)
       | clear_value x)
    | with_reducible first | apply State.switchDomain_keeps | apply State.loseDomain_keeps | apply State.postC_keeps
    | split
    | with_reducible exact Keeps.refl _

theorem State.resetTile_keeps {s0 : State} (s : State) (t : Nat) (kh : Keeps s0 s) : Keeps s0 (State.resetTile s t) := by
  unfold State.resetTile
  repeat' first
    | with_reducible first | assumption | intro _
    | with_reducible first | apply State.setTileState_keeps | apply State.modTile_keeps
    | with_reducible exact Keeps.refl _
    | (with_reducible refine Keeps.mk ?_ rfl rfl rfl rfl rfl)

theorem State.blockReset_keeps {s0 : State} (s : State) (p j : Nat) (kh : Keeps s0 s) : Keeps s0 (State.blockReset s p j) := by
  unfold State.blockReset
  repeat' first
    | with_reducible first | assumption | intro _
    | (extract_lets +onlyGivenNames x
       first
       | (refine Keeps.via (x := x) ?_ fun kh1 => ?_; rotate_left; clear_value x; rotate_left; subst x)
       | clear_value x)
    | with_reducible first | apply State.resetTile_keeps | apply State.abortJob_keeps | apply State.each_keeps
    | split
    | with_reducible exact Keeps.refl _

theorem State.kvPartReset_keeps {s0 : State} (s : State) (p : Nat) (kh : Keeps s0 s) : Keeps s0 (State.kvPartReset s p) := by
  unfold State.kvPartReset
  repeat' first
    | with_reducible first | assumption | intro _
    | (extract_lets +onlyGivenNames x
       first
       | (refine Keeps.via (x := x) ?_ fun kh1 => ?_; rotate_left; clear_value x; rotate_left; subst x)
       | clear_value x)
    | with_reducible first | apply State.kvRollback_keeps | apply State.each_keeps | apply State.modPool_keeps
    | split
    | with_reducible exact Keeps.refl _
    | (with_reducible refine Keeps.mk ?_ rfl rfl rfl rfl rfl)

theorem State.partReset_keeps {s0 : State} (s : State) (p : Nat) (but_ : Option Nat) (kh : Keeps s0 s) : Keeps s0 (State.partReset s p but_) := by
  unfold State.partReset
  repeat' first
    | with_reducible first | assumption | intro _
    | (extract_lets +onlyGivenNames x
       first
       | (refine Keeps.via (x := x) ?_ fun kh1 => ?_; rotate_left; clear_value x; rotate_left; subst x)
       | clear_value x)
    | with_reducible first | apply State.kvPartReset_keeps | apply State.resetTile_keeps | apply State.overtake_keeps | apply State.abortJob_keeps | apply State.clearSuspects_keeps | apply State.each_keeps | apply State.modPart_keeps
    | split
    | with_reducible exact Keeps.refl _

theorem State.countReset_keeps {s0 : State} (s : State) (k : Nat) (kh : Keeps s0 s) : Keeps s0 (State.countReset s k) := by
  unfold State.countReset
  repeat' first
    | with_reducible first | assumption | intro _
    | (extract_lets +onlyGivenNames x
       first
       | (refine Keeps.via (x := x) ?_ fun kh1 => ?_; rotate_left; clear_value x; rotate_left; subst x)
       | clear_value x)
    | with_reducible first | apply State.incFld_keeps | apply State.setFld_keeps
    | split
    | with_reducible exact Keeps.refl _
    | (with_reducible refine Keeps.mk ?_ rfl rfl rfl rfl rfl)

theorem State.holdTarget_keeps {s0 : State} (s : State) (k : Nat) (kh : Keeps s0 s) : Keeps s0 (State.holdTarget s k) := by
  unfold State.holdTarget
  repeat' first
    | with_reducible first | assumption | intro _
    | (extract_lets +onlyGivenNames x
       first
       | (refine Keeps.via (x := x) ?_ fun kh1 => ?_; rotate_left; clear_value x; rotate_left; subst x)
       | clear_value x)
    | with_reducible first | apply State.postC_keeps | apply State.post_keeps | apply State.setBit_keeps
    | split
    | with_reducible exact Keeps.refl _

theorem State.startChipReset_keeps {s0 : State} (s : State) (cause : Nat) (kh : Keeps s0 s) : Keeps s0 (State.startChipReset s cause) := by
  unfold State.startChipReset
  repeat' first
    | with_reducible first | assumption | intro _
    | with_reducible first | apply State.moveTo_keeps
    | split
    | with_reducible exact Keeps.refl _
    | (with_reducible refine Keeps.mk ?_ rfl rfl rfl rfl rfl)

end Sys2Proof.Machine
end

