-- ==== Sys2Proof/Laws/KeepsDumpOps.lean ====
section
/-! SUPPORT. Every operation of Machine/DumpOps.lean keeps the queue and the canonical form. -/

namespace Sys2Proof.Machine

theorem State.snapWrite_keeps {s0 : State} (s : State) (a : Nat) (d : List Byte) (kh : Keeps s0 s) : Keeps s0 (State.snapWrite s a d).1 := by
  unfold State.snapWrite
  repeat' first
    | with_reducible first | assumption | intro _
    | with_reducible first | apply State.refuseAccess_keeps | apply State.store_keeps
    | split
    | with_reducible exact Keeps.refl _
theorem State.snapWrite_keeps_e {s0 : State} {s : State} {a : Nat} {d : List Byte} {x0 x1} (ke : (State.snapWrite s a d) = (x0, x1)) (kh : Keeps s0 s) : Keeps s0 x0 := by
  have k := State.snapWrite_keeps s a d kh
  rw [ke] at k
  exact k

theorem State.writeDump_keeps {s0 : State} (s : State) (d : Dump) (lasted : Nat) (capped : Bool) (kh : Keeps s0 s) : Keeps s0 (State.writeDump s d lasted capped) := by
  unfold State.writeDump
  repeat' first
    | with_reducible first | assumption | intro _
    | (extract_lets +onlyGivenNames x
       first
       | (refine Keeps.via (x := x) ?_ fun kh1 => ?_; rotate_left; clear_value x; rotate_left; subst x)
       | clear_value x)
    | with_reducible first | apply State.snapWrite_keeps
    | refine State.snapWrite_keeps_e (by with_reducible assumption) ?_
    | with_reducible first | apply State.setRegN_keeps
    | split
    | with_reducible exact Keeps.refl _
    | (with_reducible refine Keeps.mk ?_ rfl rfl rfl rfl rfl)

theorem State.modRecs_keeps {s0 : State} (s : State) (f : ErrRecord → ErrRecord) (kh : Keeps s0 s) : Keeps s0 (State.modRecs s f) := by
  unfold State.modRecs
  repeat' first
    | with_reducible first | assumption | intro _
    | with_reducible exact Keeps.refl _
    | (with_reducible refine Keeps.mk ?_ rfl rfl rfl rfl rfl)

theorem State.endDump_keeps {s0 : State} (s : State) (d : Dump) (lasted : Nat) (capped : Bool) (kh : Keeps s0 s) : Keeps s0 (State.endDump s d lasted capped) := by
  unfold State.endDump
  repeat' first
    | with_reducible first | assumption | intro _
    | (extract_lets +onlyGivenNames x
       first
       | (refine Keeps.via (x := x) ?_ fun kh1 => ?_; rotate_left; clear_value x; rotate_left; subst x)
       | clear_value x)
    | with_reducible first | apply State.modRecs_keeps | apply State.writeDump_keeps | apply State.modFrz_keeps
    | split
    | with_reducible exact Keeps.refl _
    | (with_reducible refine Keeps.mk ?_ rfl rfl rfl rfl rfl)

theorem State.cutDump_keeps {s0 : State} (s : State) (kh : Keeps s0 s) : Keeps s0 (State.cutDump s) := by
  unfold State.cutDump
  repeat' first
    | with_reducible first | assumption | intro _
    | with_reducible first | apply State.endDump_keeps
    | split
    | with_reducible exact Keeps.refl _

theorem execDumpDone_keeps {s0 : State} (s : State) (kh : Keeps s0 s) : KeepsO s0 (execDumpDone s) := by
  unfold execDumpDone
  repeat' first
    | with_reducible first | assumption | intro _
    | (extract_lets +onlyGivenNames x
       first
       | (refine Keeps.via (x := x) ?_ fun kh1 => ?_; rotate_left; clear_value x; rotate_left; subst x)
       | (refine KeepsO.via (x := x) ?_ fun kh1 => ?_; rotate_left; clear_value x; rotate_left; subst x)
       | clear_value x)
    | with_reducible first | apply State.endDump_keeps | apply KeepsO.next
    | split
    | with_reducible exact Keeps.refl _

theorem execDumpCap_keeps {s0 : State} (s : State) (kh : Keeps s0 s) : KeepsO s0 (execDumpCap s) := by
  unfold execDumpCap
  repeat' first
    | with_reducible first | assumption | intro _
    | with_reducible first | apply State.endDump_keeps | apply KeepsO.next
    | split
    | with_reducible exact Keeps.refl _

theorem execSnapshotAccessTimeout_keeps {s0 : State} (u sub : Nat) (s : State) (kh : Keeps s0 s) : KeepsO s0 (execSnapshotAccessTimeout u sub s) := by
  unfold execSnapshotAccessTimeout
  repeat' first
    | with_reducible first | assumption | intro _
    | (extract_lets +onlyGivenNames x
       first
       | (refine Keeps.via (x := x) ?_ fun kh1 => ?_; rotate_left; clear_value x; rotate_left; subst x)
       | (refine KeepsO.via (x := x) ?_ fun kh1 => ?_; rotate_left; clear_value x; rotate_left; subst x)
       | clear_value x)
    | with_reducible first | apply KeepsO.next
    | split
    | with_reducible exact Keeps.refl _
    | (with_reducible refine Keeps.mk ?_ rfl rfl rfl rfl rfl)

end Sys2Proof.Machine
end

