-- ==== Sys2Proof/Laws/KeepsSearchOps.lean ====
section
/-! SUPPORT. Every operation of Machine/SearchOps.lean keeps the queue and the canonical form. -/

namespace Sys2Proof.Machine

theorem State.searchSkip_keeps {s0 : State} (s : State) (r : ErrRecord) (reason : Nat) (kh : Keeps s0 s) : Keeps s0 (State.searchSkip s r reason) := by
  unfold State.searchSkip
  repeat' first
    | with_reducible first | assumption | intro _
    | with_reducible first | apply State.post_keeps
    | with_reducible exact Keeps.refl _
    | (with_reducible refine Keeps.mk ?_ rfl rfl rfl rfl rfl)

theorem State.engineSkip_keeps {s0 : State} (s : State) (r : ErrRecord) (kh : Keeps s0 s) : Keeps s0 (State.engineSkip s r) := by
  unfold State.engineSkip
  repeat' first
    | with_reducible first | assumption | intro _
    | with_reducible first | apply State.post_keeps
    | with_reducible exact Keeps.refl _
    | (with_reducible refine Keeps.mk ?_ rfl rfl rfl rfl rfl)

theorem State.showSearch_keeps {s0 : State} (s : State) (kh : Keeps s0 s) : Keeps s0 (State.showSearch s) := by
  unfold State.showSearch
  repeat' first
    | with_reducible first | assumption | intro _
    | with_reducible first | apply State.setBit_keeps | apply State.setFld_keeps
    | with_reducible exact Keeps.refl _

theorem State.replaySuspect_keeps {s0 : State} (s : State) (q : Nat) (x : Nat × Nat) (kh : Keeps s0 s) : Keeps s0 (State.replaySuspect s q x) := by
  unfold State.replaySuspect
  repeat' first
    | with_reducible first | assumption | intro _
    | (extract_lets +onlyGivenNames x
       first
       | (refine Keeps.via (x := x) ?_ fun kh1 => ?_; rotate_left; clear_value x; rotate_left; subst x)
       | clear_value x)
    | with_reducible first | apply State.admitJob_keeps
    | refine State.addHandles_keeps _ _ _ (by with_reducible assumption) ?_
    | with_reducible first | apply State.startJob_keeps | apply State.modPart_keeps
    | split
    | with_reducible exact Keeps.refl _
    | (with_reducible refine Keeps.mk ?_ rfl rfl rfl rfl rfl)

theorem State.nextSuspect_keeps {s0 : State} (s : State) (x : Search) (kh : Keeps s0 s) : Keeps s0 (State.nextSuspect s x).1 := by
  unfold State.nextSuspect
  repeat' first
    | with_reducible first | assumption | intro _
    | with_reducible first | apply State.replaySuspect_keeps
    | split
    | with_reducible exact Keeps.refl _
    | (with_reducible refine Keeps.mk ?_ rfl rfl rfl rfl rfl)
theorem State.nextSuspect_keeps_e {s0 : State} {s : State} {x : Search} {x0 x1} (ke : (State.nextSuspect s x) = (x0, x1)) (kh : Keeps s0 s) : Keeps s0 x0 := by
  have k := State.nextSuspect_keeps s x kh
  rw [ke] at k
  exact k

theorem State.driveSearch_keeps {s0 : State} : ∀ (n : Nat) (s : State), Keeps s0 s → Keeps s0 (s.driveSearch n)
  | 0, _, h => h
  | n + 1, s, h => by
    unfold State.driveSearch
    repeat' first
      | with_reducible first | assumption | intro _
      | with_reducible first | apply State.driveSearch_keeps n | apply State.nextSuspect_keeps
      | refine State.nextSuspect_keeps_e (by with_reducible assumption) ?_
      | with_reducible first | apply State.showSearch_keeps
      | split
      | with_reducible exact Keeps.refl _
      | (with_reducible refine Keeps.mk ?_ rfl rfl rfl rfl rfl)

theorem State.startSearch_keeps {s0 : State} (s : State) (r : ErrRecord) (kh : Keeps s0 s) : Keeps s0 (State.startSearch s r) := by
  unfold State.startSearch
  repeat' first
    | with_reducible first | assumption | intro _
    | (extract_lets +onlyGivenNames x
       first
       | (refine Keeps.via (x := x) ?_ fun kh1 => ?_; rotate_left; clear_value x; rotate_left; subst x)
       | clear_value x)
    | with_reducible first | apply State.driveSearch_keeps | apply State.engineSkip_keeps | apply State.searchSkip_keeps
    | split
    | with_reducible exact Keeps.refl _
    | (with_reducible refine Keeps.mk ?_ rfl rfl rfl rfl rfl)

theorem State.endReplay_keeps {s0 : State} (s : State) (q : Nat) (kh : Keeps s0 s) : Keeps s0 (State.endReplay s q) := by
  unfold State.endReplay
  repeat' first
    | with_reducible first | assumption | intro _
    | (extract_lets +onlyGivenNames x
       first
       | (refine Keeps.via (x := x) ?_ fun kh1 => ?_; rotate_left; clear_value x; rotate_left; subst x)
       | clear_value x)
    | refine State.retire_keeps_e (by with_reducible assumption) ?_
    | with_reducible first | apply State.resetTile_keeps | apply State.abortJob_keeps | apply State.freeJob_keeps | apply State.each_keeps | apply State.modJob_keeps | apply State.modPart_keeps
    | split
    | with_reducible exact Keeps.refl _
    | (with_reducible refine Keeps.mk ?_ rfl rfl rfl rfl rfl)

theorem State.guilty_keeps {s0 : State} (s : State) (x : Nat × Nat) (kh : Keeps s0 s) : Keeps s0 (State.guilty s x) := by
  unfold State.guilty
  repeat' first
    | with_reducible first | assumption | intro _
    | with_reducible first | apply State.post_keeps | apply State.incReg_keeps
    | with_reducible exact Keeps.refl _
    | (with_reducible refine Keeps.mk ?_ rfl rfl rfl rfl rfl)

theorem State.transientHang_keeps {s0 : State} (s : State) (t : Nat) (kh : Keeps s0 s) : Keeps s0 (State.transientHang s t) := by
  unfold State.transientHang
  repeat' first
    | with_reducible first | assumption | intro _
    | with_reducible first | apply State.post_keeps | apply State.incReg_keeps
    | with_reducible exact Keeps.refl _
    | (with_reducible refine Keeps.mk ?_ rfl rfl rfl rfl rfl)

theorem execSuspectReplayEnd_keeps {s0 : State} (hung : Bool) (s : State) (kh : Keeps s0 s) : KeepsO s0 (execSuspectReplayEnd hung s) := by
  unfold execSuspectReplayEnd
  repeat' first
    | with_reducible first | assumption | intro _
    | (extract_lets +onlyGivenNames x
       first
       | (refine Keeps.via (x := x) ?_ fun kh1 => ?_; rotate_left; clear_value x; rotate_left; subst x)
       | (refine KeepsO.via (x := x) ?_ fun kh1 => ?_; rotate_left; clear_value x; rotate_left; subst x)
       | clear_value x)
    | with_reducible first | apply State.transientHang_keeps | apply State.guilty_keeps | apply State.endReplay_keeps | apply State.driveSearch_keeps | apply KeepsO.next
    | split
    | with_reducible exact Keeps.refl _
    | (with_reducible refine Keeps.mk ?_ rfl rfl rfl rfl rfl)

end Sys2Proof.Machine
end

