-- ==== Sys2Proof/Laws/KeepsCollector.lean ====
section
/-! SUPPORT. Every operation of Machine/Collector.lean keeps the queue and the canonical form. -/

namespace Sys2Proof.Machine

theorem State.showErr_keeps {s0 : State} (s : State) (kh : Keeps s0 s) : Keeps s0 (State.showErr s) := by
  unfold State.showErr
  repeat' first
    | with_reducible first | assumption | intro _
    | (extract_lets +onlyGivenNames x
       first
       | (refine Keeps.via (x := x) ?_ fun kh1 => ?_; rotate_left; clear_value x; rotate_left; subst x)
       | clear_value x)
    | with_reducible first | apply State.setBit_keeps | apply State.setFld_keeps
    | split
    | with_reducible exact Keeps.refl _

theorem State.freezeErr_keeps {s0 : State} (s : State) (enable : Option Nat) (seq : Nat) (kh : Keeps s0 s) : Keeps s0 (State.freezeErr s enable seq) := by
  unfold State.freezeErr
  repeat' first
    | with_reducible first | assumption | intro _
    | (extract_lets +onlyGivenNames x
       first
       | (refine Keeps.via (x := x) ?_ fun kh1 => ?_; rotate_left; clear_value x; rotate_left; subst x)
       | clear_value x)
    | with_reducible first | apply State.freezeReq_keeps | apply State.modFrz_keeps
    | split
    | with_reducible exact Keeps.refl _
    | (with_reducible refine Keeps.mk ?_ rfl rfl rfl rfl rfl)

theorem State.s4Arrives_keeps {s0 : State} (s : State) (r : ErrRecord) (kh : Keeps s0 s) : Keeps s0 (State.s4Arrives s r) := by
  unfold State.s4Arrives
  repeat' first
    | with_reducible first | assumption | intro _
    | (extract_lets +onlyGivenNames x
       first
       | (refine Keeps.via (x := x) ?_ fun kh1 => ?_; rotate_left; clear_value x; rotate_left; subst x)
       | clear_value x)
    | with_reducible first | apply State.freezeErr_keeps | apply State.crimson_keeps | apply State.modSafety_keeps | apply State.setFld_keeps
    | split
    | with_reducible exact Keeps.refl _
    | (with_reducible refine Keeps.mk ?_ rfl rfl rfl rfl rfl)

theorem State.severityActs_keeps {s0 : State} (s : State) (r : ErrRecord) (kh : Keeps s0 s) : Keeps s0 (State.severityActs s r) := by
  unfold State.severityActs
  repeat' first
    | with_reducible first | assumption | intro _
    | (extract_lets +onlyGivenNames x
       first
       | (refine Keeps.via (x := x) ?_ fun kh1 => ?_; rotate_left; clear_value x; rotate_left; subst x)
       | clear_value x)
    | with_reducible first | apply State.s4Arrives_keeps | apply State.freezeErr_keeps | apply State.amberHold_keeps
    | split
    | with_reducible exact Keeps.refl _

theorem State.errIrq_keeps {s0 : State} (s : State) (sev : Nat) (kh : Keeps s0 s) : Keeps s0 (State.errIrq s sev) := by
  unfold State.errIrq
  repeat' first
    | with_reducible first | assumption | intro _
    | split
    | with_reducible exact Keeps.refl _
    | (with_reducible refine Keeps.mk ?_ rfl rfl rfl rfl rfl)

theorem State.retain_keeps {s0 : State} (s : State) (r : ErrRecord) (kh : Keeps s0 s) : Keeps s0 (State.retain s r) := by
  unfold State.retain
  repeat' first
    | with_reducible first | assumption | intro _
    | with_reducible first | apply State.setRegBytes_keeps
    | split
    | with_reducible exact Keeps.refl _
    | (with_reducible refine Keeps.mk ?_ rfl rfl rfl rfl rfl)

theorem State.countSev_keeps {s0 : State} (s : State) (sev : Nat) (kh : Keeps s0 s) : Keeps s0 (State.countSev s sev) := by
  unfold State.countSev
  repeat' first
    | with_reducible first | assumption | intro _
    | with_reducible first | apply State.errIrq_keeps | apply State.incReg_keeps
    | with_reducible exact Keeps.refl _

theorem State.storeRec_keeps {s0 : State} (s : State) (r : ErrRecord) (kh : Keeps s0 s) : Keeps s0 (State.storeRec s r) := by
  unfold State.storeRec
  repeat' first
    | with_reducible first | assumption | intro _
    | (extract_lets +onlyGivenNames x
       first
       | (refine Keeps.via (x := x) ?_ fun kh1 => ?_; rotate_left; clear_value x; rotate_left; subst x)
       | clear_value x)
    | with_reducible first | apply State.countSev_keeps | apply State.retain_keeps | apply State.showErr_keeps | apply State.wrapReg_keeps
    | split
    | with_reducible exact Keeps.refl _
    | (with_reducible refine Keeps.mk ?_ rfl rfl rfl rfl rfl)

theorem State.coalesce_keeps {s0 : State} (s : State) (r : ErrRecord) (kh : Keeps s0 s) : Keeps s0 (State.coalesce s r) := by
  unfold State.coalesce
  repeat' first
    | with_reducible first | assumption | intro _
    | (extract_lets +onlyGivenNames x
       first
       | (refine Keeps.via (x := x) ?_ fun kh1 => ?_; rotate_left; clear_value x; rotate_left; subst x)
       | clear_value x)
    | with_reducible first | apply State.countSev_keeps | apply State.modRecs_keeps
    | split
    | with_reducible exact Keeps.refl _
    | (with_reducible refine Keeps.mk ?_ rfl rfl rfl rfl rfl)

theorem State.recArrive_keeps {s0 : State} (s : State) (r : ErrRecord) (kh : Keeps s0 s) : Keeps s0 (State.recArrive s r) := by
  unfold State.recArrive
  repeat' first
    | with_reducible first | assumption | intro _
    | (extract_lets +onlyGivenNames x
       first
       | (refine Keeps.via (x := x) ?_ fun kh1 => ?_; rotate_left; clear_value x; rotate_left; subst x)
       | clear_value x)
    | with_reducible first | apply State.coalesce_keeps | apply State.storeRec_keeps | apply State.severityActs_keeps | apply State.loseRec_keeps
    | split
    | with_reducible exact Keeps.refl _

theorem execErrorRecordArrival_keeps {s0 : State} (u : Nat) (s : State) (kh : Keeps s0 s) : KeepsO s0 (execErrorRecordArrival u s) := by
  unfold execErrorRecordArrival
  repeat' first
    | with_reducible first | assumption | intro _
    | with_reducible first | apply State.recArrive_keeps | apply KeepsO.next
    | split
    | with_reducible exact Keeps.refl _
    | (with_reducible refine Keeps.mk ?_ rfl rfl rfl rfl rfl)

theorem State.closeRec_keeps {s0 : State} (s : State) (r : ErrRecord) (superseded : Bool) (kh : Keeps s0 s) : Keeps s0 (State.closeRec s r superseded) := by
  unfold State.closeRec
  repeat' first
    | with_reducible first | assumption | intro _
    | (extract_lets +onlyGivenNames x
       first
       | (refine Keeps.via (x := x) ?_ fun kh1 => ?_; rotate_left; clear_value x; rotate_left; subst x)
       | clear_value x)
    | with_reducible first | apply State.showErr_keeps | apply State.setRegN_keeps
    | split
    | with_reducible exact Keeps.refl _
    | (with_reducible refine Keeps.mk ?_ rfl rfl rfl rfl rfl)

theorem execErrRead_keeps {s0 : State} (n : Nat) (s : State) (kh : Keeps s0 s) : KeepsO s0 (execErrRead n s) := by
  unfold execErrRead
  repeat' first
    | with_reducible first | assumption | intro _
    | (extract_lets +onlyGivenNames x
       first
       | (refine Keeps.via (x := x) ?_ fun kh1 => ?_; rotate_left; clear_value x; rotate_left; subst x)
       | (refine KeepsO.via (x := x) ?_ fun kh1 => ?_; rotate_left; clear_value x; rotate_left; subst x)
       | clear_value x)
    | with_reducible first | apply State.runCmd_keeps | apply giving_keeps
    | refine giving_keeps_e (by with_reducible assumption) ?_
    | with_reducible first | apply KeepsO.next
    | split
    | with_reducible exact Keeps.refl _

end Sys2Proof.Machine
end

