-- ==== Sys2Proof/Laws/KeepsCaps.lean ====
section
/-! SUPPORT. Every operation of Machine/Caps.lean keeps the queue and the canonical form. -/

namespace Sys2Proof.Machine

theorem execNop_keeps {s0 : State} (n : Nat) (s : State) (kh : Keeps s0 s) : KeepsO s0 (execNop n s) := by
  unfold execNop
  repeat' first
    | with_reducible first | assumption | intro _
    | with_reducible first | apply State.runCmd_keeps | apply okay_keeps
    | refine okay_keeps_e (by with_reducible assumption) ?_
    | with_reducible first | apply KeepsO.next
    | with_reducible exact Keeps.refl _

theorem execCapGet_keeps {s0 : State} (n : Nat) (s : State) (kh : Keeps s0 s) : KeepsO s0 (execCapGet n s) := by
  unfold execCapGet
  repeat' first
    | with_reducible first | assumption | intro _
    | with_reducible first | apply State.runCmd_keeps | apply denied_keeps
    | refine denied_keeps_e (by with_reducible assumption) ?_
    | with_reducible first | apply giving_keeps
    | refine giving_keeps_e (by with_reducible assumption) ?_
    | with_reducible first | apply KeepsO.next
    | split
    | with_reducible exact Keeps.refl _

theorem execVerGet_keeps {s0 : State} (n : Nat) (s : State) (kh : Keeps s0 s) : KeepsO s0 (execVerGet n s) := by
  unfold execVerGet
  repeat' first
    | with_reducible first | assumption | intro _
    | with_reducible first | apply State.runCmd_keeps | apply giving_keeps
    | refine giving_keeps_e (by with_reducible assumption) ?_
    | with_reducible first | apply KeepsO.next
    | with_reducible exact Keeps.refl _

theorem execMbAssign_keeps {s0 : State} (n : Nat) (s : State) (kh : Keeps s0 s) : KeepsO s0 (execMbAssign n s) := by
  unfold execMbAssign
  repeat' first
    | with_reducible first | assumption | intro _
    | (extract_lets +onlyGivenNames x
       first
       | (refine Keeps.via (x := x) ?_ fun kh1 => ?_; rotate_left; clear_value x; rotate_left; subst x)
       | (refine KeepsO.via (x := x) ?_ fun kh1 => ?_; rotate_left; clear_value x; rotate_left; subst x)
       | clear_value x)
    | with_reducible first | apply State.runCmd_keeps | apply denied_keeps
    | refine denied_keeps_e (by with_reducible assumption) ?_
    | with_reducible first | apply okay_keeps
    | refine okay_keeps_e (by with_reducible assumption) ?_
    | with_reducible first | apply State.setBit_keeps | apply State.setRegN_keeps | apply KeepsO.next
    | split
    | with_reducible exact Keeps.refl _

end Sys2Proof.Machine
end

