-- ==== Sys2Proof/Laws/KeepsBoot.lean ====
section
/-! SUPPORT. Every operation of Machine/Boot.lean keeps the queue and the canonical form. -/

namespace Sys2Proof.Machine

theorem State.modBoot_keeps {s0 : State} (s : State) (f : Boot → Boot) (kh : Keeps s0 s) : Keeps s0 (State.modBoot s f) := by
  unfold State.modBoot
  repeat' first
    | with_reducible first | assumption | intro _
    | with_reducible exact Keeps.refl _
    | (with_reducible refine Keeps.mk ?_ rfl rfl rfl rfl rfl)

theorem State.showBoot_keeps {s0 : State} (s : State) (k : Nat) (kh : Keeps s0 s) : Keeps s0 (State.showBoot s k) := by
  unfold State.showBoot
  repeat' first
    | with_reducible first | assumption | intro _
    | with_reducible first | apply State.setFld_keeps
    | with_reducible exact Keeps.refl _

theorem State.beacon_keeps {s0 : State} (s : State) (attempt code typ backoff : Nat) (kh : Keeps s0 s) : Keeps s0 (State.beacon s attempt code typ backoff) := by
  unfold State.beacon
  repeat' first
    | with_reducible first | assumption | intro _
    | (extract_lets +onlyGivenNames x
       first
       | (refine Keeps.via (x := x) ?_ fun kh1 => ?_; rotate_left; clear_value x; rotate_left; subst x)
       | clear_value x)
    | with_reducible first | apply State.modEth_keeps
    | split
    | with_reducible exact Keeps.refl _
    | (with_reducible refine Keeps.mk ?_ rfl rfl rfl rfl rfl)

theorem State.countFail_keeps {s0 : State} (s : State) (c : Status) (typ : Nat) (slotB : Bool) (kh : Keeps s0 s) : Keeps s0 (State.countFail s c typ slotB) := by
  unfold State.countFail
  repeat' first
    | with_reducible first | assumption | intro _
    | (extract_lets +onlyGivenNames x
       first
       | (refine Keeps.via (x := x) ?_ fun kh1 => ?_; rotate_left; clear_value x; rotate_left; subst x)
       | clear_value x)
    | with_reducible first | apply State.retain_keeps | apply State.incFld_keeps | apply State.setRegN_keeps
    | split
    | with_reducible exact Keeps.refl _
    | (with_reducible refine Keeps.mk ?_ rfl rfl rfl rfl rfl)

theorem State.failAttempt_keeps {s0 : State} (s : State) (c : Status) (typ : Nat) (kh : Keeps s0 s) : Keeps s0 (State.failAttempt s c typ) := by
  unfold State.failAttempt
  repeat' first
    | with_reducible first | assumption | intro _
    | (extract_lets +onlyGivenNames x
       first
       | (refine Keeps.via (x := x) ?_ fun kh1 => ?_; rotate_left; clear_value x; rotate_left; subst x)
       | clear_value x)
    | with_reducible first | apply State.countFail_keeps | apply State.beacon_keeps | apply State.showBoot_keeps | apply State.modBoot_keeps
    | split
    | with_reducible exact Keeps.refl _
    | (with_reducible refine Keeps.mk ?_ rfl rfl rfl rfl rfl)

theorem State.takeBlock_keeps {s0 : State} (s : State) (b cause : Nat) (r : Option ErrRecord) (kh : Keeps s0 s) : Keeps s0 (State.takeBlock s b cause r) := by
  unfold State.takeBlock
  repeat' first
    | with_reducible first | assumption | intro _
    | (extract_lets +onlyGivenNames x
       first
       | (refine Keeps.via (x := x) ?_ fun kh1 => ?_; rotate_left; clear_value x; rotate_left; subst x)
       | clear_value x)
    | with_reducible first | apply State.post_keeps | apply State.setBit_keeps | apply State.setFld_keeps
    | split
    | with_reducible exact Keeps.refl _

theorem State.repairListed_keeps {s0 : State} (s : State) (kh : Keeps s0 s) : Keeps s0 (State.repairListed s) := by
  unfold State.repairListed
  repeat' first
    | with_reducible first | assumption | intro _
    | with_reducible first | apply State.takeBlock_keeps | apply State.each_keeps
    | with_reducible exact Keeps.refl _

theorem State.repairLink_keeps {s0 : State} (s : State) (x : Nat × Bool × Nat) (kh : Keeps s0 s) : Keeps s0 (State.repairLink s x) := by
  unfold State.repairLink
  repeat' first
    | with_reducible first | assumption | intro _
    | (extract_lets +onlyGivenNames x
       first
       | (refine Keeps.via (x := x) ?_ fun kh1 => ?_; rotate_left; clear_value x; rotate_left; subst x)
       | clear_value x)
    | with_reducible first | apply State.takeBlock_keeps | apply State.setBit_keeps
    | split
    | with_reducible exact Keeps.refl _
    | (with_reducible refine Keeps.mk ?_ rfl rfl rfl rfl rfl)

theorem State.repairRow_keeps {s0 : State} (s : State) (d r : Nat) (kh : Keeps s0 s) : Keeps s0 (State.repairRow s d r) := by
  unfold State.repairRow
  repeat' first
    | with_reducible first | assumption | intro _
    | (extract_lets +onlyGivenNames x
       first
       | (refine Keeps.via (x := x) ?_ fun kh1 => ?_; rotate_left; clear_value x; rotate_left; subst x)
       | clear_value x)
    | with_reducible first | apply State.takeBlock_keeps | apply State.each_keeps | apply State.post_keeps | apply State.setFld_keeps
    | split
    | with_reducible exact Keeps.refl _
    | (with_reducible refine Keeps.mk ?_ rfl rfl rfl rfl rfl)

theorem State.repair_keeps {s0 : State} (s : State) (kh : Keeps s0 s) : Keeps s0 (State.repair s) := by
  unfold State.repair
  repeat' first
    | with_reducible first | assumption | intro _
    | (extract_lets +onlyGivenNames x
       first
       | (refine Keeps.via (x := x) ?_ fun kh1 => ?_; rotate_left; clear_value x; rotate_left; subst x)
       | clear_value x)
    | with_reducible first | apply State.repairRow_keeps | apply State.repairLink_keeps | apply State.repairListed_keeps | apply State.setTileState_keeps | apply State.each_keeps | apply State.setBit_keeps | apply State.setFld_keeps
    | split
    | with_reducible exact Keeps.refl _

theorem State.inject_keeps {s0 : State} (s : State) (kh : Keeps s0 s) : Keeps s0 (State.inject s) := by
  unfold State.inject
  repeat' first
    | with_reducible first | assumption | intro _
    | (extract_lets +onlyGivenNames x
       first
       | (refine Keeps.via (x := x) ?_ fun kh1 => ?_; rotate_left; clear_value x; rotate_left; subst x)
       | clear_value x)
    | with_reducible first | apply State.modSafety_keeps | apply State.each_keeps | apply State.post_keeps | apply State.setRegN_keeps
    | split
    | with_reducible exact Keeps.refl _
    | (with_reducible refine Keeps.mk ?_ rfl rfl rfl rfl rfl)

theorem State.compatible_keeps {s0 : State} (s : State) (kh : Keeps s0 s) : Keeps s0 (State.compatible s) := by
  unfold State.compatible
  repeat' first
    | with_reducible first | assumption | intro _
    | (extract_lets +onlyGivenNames x
       first
       | (refine Keeps.via (x := x) ?_ fun kh1 => ?_; rotate_left; clear_value x; rotate_left; subst x)
       | clear_value x)
    | with_reducible first | apply State.modBoot_keeps | apply State.post_keeps
    | split
    | with_reducible exact Keeps.refl _
    | (with_reducible refine Keeps.mk ?_ rfl rfl rfl rfl rfl)

theorem State.romSteps_keeps {s0 : State} (s : State) (kh : Keeps s0 s) : Keeps s0 (State.romSteps s) := by
  unfold State.romSteps
  repeat' first
    | with_reducible first | assumption | intro _
    | (extract_lets +onlyGivenNames x
       first
       | (refine Keeps.via (x := x) ?_ fun kh1 => ?_; rotate_left; clear_value x; rotate_left; subst x)
       | clear_value x)
    | with_reducible first | apply State.failAttempt_keeps | apply State.showBoot_keeps | apply State.modBoot_keeps | apply State.setPieces_keeps | apply State.setBit_keeps
    | split
    | with_reducible exact Keeps.refl _
    | (with_reducible refine Keeps.mk ?_ rfl rfl rfl rfl rfl)

theorem State.zeroHost_keeps {s0 : State} (s : State) (kh : Keeps s0 s) : Keeps s0 (State.zeroHost s) := by
  unfold State.zeroHost
  repeat' first
    | with_reducible first | assumption | intro _
    | (extract_lets +onlyGivenNames x
       first
       | (refine Keeps.via (x := x) ?_ fun kh1 => ?_; rotate_left; clear_value x; rotate_left; subst x)
       | clear_value x)
    | with_reducible first | apply State.zero_keeps
    | split
    | with_reducible exact Keeps.refl _

theorem State.zeroFabric_keeps {s0 : State} (s : State) (kh : Keeps s0 s) : Keeps s0 (State.zeroFabric s) := by
  unfold State.zeroFabric
  repeat' first
    | with_reducible first | assumption | intro _
    | with_reducible first | apply State.each_keeps | apply State.zero_keeps
    | with_reducible exact Keeps.refl _

theorem State.startSup_keeps {s0 : State} (s : State) (kh : Keeps s0 s) : Keeps s0 (State.startSup s) := by
  unfold State.startSup
  repeat' first
    | with_reducible first | assumption | intro _
    | (extract_lets +onlyGivenNames x
       first
       | (refine Keeps.via (x := x) ?_ fun kh1 => ?_; rotate_left; clear_value x; rotate_left; subst x)
       | clear_value x)
    | with_reducible first | apply State.beacon_keeps | apply State.showBoot_keeps | apply State.setRegN_keeps
    | split
    | with_reducible exact Keeps.refl _
    | (with_reducible refine Keeps.mk ?_ rfl rfl rfl rfl rfl)

theorem State.releaseDomains_keeps {s0 : State} (s : State) (kh : Keeps s0 s) : Keeps s0 (State.releaseDomains s) := by
  unfold State.releaseDomains
  repeat' first
    | with_reducible first | assumption | intro _
    | with_reducible first | apply State.switchDomain_keeps | apply State.setDomain_keeps | apply State.each_keeps | apply State.setBit_keeps
    | split
    | with_reducible exact Keeps.refl _

theorem State.unwrapKeys_keeps {s0 : State} (s : State) (kh : Keeps s0 s) : Keeps s0 (State.unwrapKeys s) := by
  unfold State.unwrapKeys
  repeat' first
    | with_reducible first | assumption | intro _
    | (extract_lets +onlyGivenNames x
       first
       | (refine Keeps.via (x := x) ?_ fun kh1 => ?_; rotate_left; clear_value x; rotate_left; subst x)
       | clear_value x)
    | with_reducible first | apply State.each_keeps | apply State.postC_keeps | apply State.setBit_keeps | apply State.setRegN_keeps
    | split
    | with_reducible exact Keeps.refl _

theorem State.startHost_keeps {s0 : State} (s : State) (kh : Keeps s0 s) : Keeps s0 (State.startHost s) := by
  unfold State.startHost
  repeat' first
    | with_reducible first | assumption | intro _
    | with_reducible first | apply State.store_keeps
    | split
    | with_reducible exact Keeps.refl _
    | (with_reducible refine Keeps.mk ?_ rfl rfl rfl rfl rfl)

theorem State.showGrey_keeps {s0 : State} (s : State) (kh : Keeps s0 s) : Keeps s0 (State.showGrey s) := by
  unfold State.showGrey
  repeat' first
    | with_reducible first | assumption | intro _
    | with_reducible first | apply State.showBoot_keeps
    | split
    | with_reducible exact Keeps.refl _

theorem State.supSteps_keeps {s0 : State} (s : State) (kh : Keeps s0 s) : Keeps s0 (State.supSteps s) := by
  unfold State.supSteps
  repeat' first
    | with_reducible first | assumption | intro _
    | (extract_lets +onlyGivenNames x
       first
       | (refine Keeps.via (x := x) ?_ fun kh1 => ?_; rotate_left; clear_value x; rotate_left; subst x)
       | clear_value x)
    | with_reducible first | apply State.showGrey_keeps | apply State.startHost_keeps | apply State.unwrapKeys_keeps | apply State.releaseDomains_keeps | apply State.startSup_keeps | apply State.zeroFabric_keeps | apply State.zeroHost_keeps | apply State.compatible_keeps | apply State.inject_keeps | apply State.repair_keeps | apply State.modBoot_keeps | apply State.leaveGrey_keeps
    | split
    | with_reducible exact Keeps.refl _
    | (with_reducible refine Keeps.mk ?_ rfl rfl rfl rfl rfl)

theorem State.bootGo_keeps {s0 : State} (s : State) (kh : Keeps s0 s) : Keeps s0 (State.bootGo s) := by
  unfold State.bootGo
  repeat' first
    | with_reducible first | assumption | intro _
    | (extract_lets +onlyGivenNames x
       first
       | (refine Keeps.via (x := x) ?_ fun kh1 => ?_; rotate_left; clear_value x; rotate_left; subst x)
       | clear_value x)
    | with_reducible first | apply State.supSteps_keeps | apply State.failAttempt_keeps | apply State.modBoot_keeps | apply State.setRegN_keeps
    | split
    | with_reducible exact Keeps.refl _
    | (with_reducible refine Keeps.mk ?_ rfl rfl rfl rfl rfl)

theorem State.notConfirmed_keeps {s0 : State} (s : State) (kh : Keeps s0 s) : Keeps s0 (State.notConfirmed s) := by
  unfold State.notConfirmed
  repeat' first
    | with_reducible first | assumption | intro _
    | with_reducible first | apply State.countFail_keeps | apply State.modBoot_keeps
    | split
    | with_reducible exact Keeps.refl _
    | (with_reducible refine Keeps.mk ?_ rfl rfl rfl rfl rfl)

theorem State.firstSteps_keeps {s0 : State} (s : State) (env : BootEnv) (kh : Keeps s0 s) : Keeps s0 (State.firstSteps s env) := by
  unfold State.firstSteps
  repeat' first
    | with_reducible first | assumption | intro _
    | (extract_lets +onlyGivenNames x
       first
       | (refine Keeps.via (x := x) ?_ fun kh1 => ?_; rotate_left; clear_value x; rotate_left; subst x)
       | clear_value x)
    | with_reducible first | apply State.showBoot_keeps | apply State.modBoot_keeps | apply State.each_keeps | apply State.setBit_keeps | apply State.setRegN_keeps
    | split
    | with_reducible exact Keeps.refl _
    | (with_reducible refine Keeps.mk ?_ rfl rfl rfl rfl rfl)

theorem execBootStart_keeps {s0 : State} (env : BootEnv) (s : State) (kh : Keeps s0 s) : KeepsO s0 (execBootStart env s) := by
  unfold execBootStart
  repeat' first
    | with_reducible first | assumption | intro _
    | with_reducible first | apply State.firstSteps_keeps | apply State.notConfirmed_keeps | apply State.bootGo_keeps | apply State.romSteps_keeps | apply KeepsO.next
    | split
    | with_reducible exact Keeps.refl _

theorem execEmmcReady_keeps {s0 : State} (blk : RpmbBlock) (s : State) (kh : Keeps s0 s) : KeepsO s0 (execEmmcReady blk s) := by
  unfold execEmmcReady
  repeat' first
    | with_reducible first | assumption | intro _
    | with_reducible first | apply State.bootGo_keeps | apply State.modBoot_keeps | apply KeepsO.next
    | split
    | with_reducible exact Keeps.refl _
    | (with_reducible refine Keeps.mk ?_ rfl rfl rfl rfl rfl)

theorem execEmmcTimeout_keeps {s0 : State} (s : State) (kh : Keeps s0 s) : KeepsO s0 (execEmmcTimeout s) := by
  unfold execEmmcTimeout
  repeat' first
    | with_reducible first | assumption | intro _
    | with_reducible first | apply State.failAttempt_keeps | apply KeepsO.next
    | split
    | with_reducible exact Keeps.refl _

theorem execBootTrngTimeout_keeps {s0 : State} (s : State) (kh : Keeps s0 s) : KeepsO s0 (execBootTrngTimeout s) := by
  unfold execBootTrngTimeout
  repeat' first
    | with_reducible first | assumption | intro _
    | with_reducible first | apply State.failAttempt_keeps | apply KeepsO.next
    | split
    | with_reducible exact Keeps.refl _

theorem execBootAttempt_keeps {s0 : State} (s : State) (kh : Keeps s0 s) : KeepsO s0 (execBootAttempt s) := by
  unfold execBootAttempt
  repeat' first
    | with_reducible first | assumption | intro _
    | with_reducible first | apply State.bootGo_keeps | apply State.romSteps_keeps | apply KeepsO.next
    | split
    | with_reducible exact Keeps.refl _

theorem State.confirm_keeps {s0 : State} (s : State) (kh : Keeps s0 s) : Keeps s0 (State.confirm s) := by
  unfold State.confirm
  repeat' first
    | with_reducible first | assumption | intro _
    | (extract_lets +onlyGivenNames x
       first
       | (refine Keeps.via (x := x) ?_ fun kh1 => ?_; rotate_left; clear_value x; rotate_left; subst x)
       | clear_value x)
    | with_reducible first | apply State.modBoot_keeps | apply State.postC_keeps | apply State.setBit_keeps | apply State.setFld_keeps
    | split
    | with_reducible exact Keeps.refl _
    | (with_reducible refine Keeps.mk ?_ rfl rfl rfl rfl rfl)

theorem execBootConfirmed_keeps {s0 : State} (s : State) (kh : Keeps s0 s) : KeepsO s0 (execBootConfirmed s) := by
  unfold execBootConfirmed
  repeat' first
    | with_reducible first | assumption | intro _
    | with_reducible first | apply State.confirm_keeps | apply KeepsO.next
    | split
    | with_reducible exact Keeps.refl _

theorem actAttest_keeps {s0 : State} (s : State) (v : Nat) (kh : Keeps s0 s) : Keeps s0 (actAttest s v).1 := by
  unfold actAttest
  repeat' first
    | with_reducible first | assumption | intro _
    | (extract_lets +onlyGivenNames x
       first
       | (refine Keeps.via (x := x) ?_ fun kh1 => ?_; rotate_left; clear_value x; rotate_left; subst x)
       | clear_value x)
    | with_reducible first | apply accept_keeps
    | refine accept_keeps_e (by with_reducible assumption) ?_
    | with_reducible first | apply State.setBit_keeps | apply State.setFld_keeps
    | split
    | with_reducible exact Keeps.refl _
    | (with_reducible refine Keeps.mk ?_ rfl rfl rfl rfl rfl)
theorem actAttest_keeps_e {s0 : State} {s : State} {v : Nat} {x0 x1} (ke : (actAttest s v) = (x0, x1)) (kh : Keeps s0 s) : Keeps s0 x0 := by
  have k := actAttest_keeps s v kh
  rw [ke] at k
  exact k

theorem execAttestationRequest_keeps {s0 : State} (m : Nat) (v : Dword) (s : State) (kh : Keeps s0 s) : KeepsO s0 (execAttestationRequest m v s) := by
  unfold execAttestationRequest
  repeat' first
    | with_reducible first | assumption | intro _
    | with_reducible first | apply actAttest_keeps
    | refine actAttest_keeps_e (by with_reducible assumption) ?_
    | with_reducible first | apply State.regBus_keeps | apply KeepsO.next
    | with_reducible exact Keeps.refl _

theorem execAttestationReportDone_keeps {s0 : State} (s : State) (kh : Keeps s0 s) : KeepsO s0 (execAttestationReportDone s) := by
  unfold execAttestationReportDone
  repeat' first
    | with_reducible first | assumption | intro _
    | (extract_lets +onlyGivenNames x
       first
       | (refine Keeps.via (x := x) ?_ fun kh1 => ?_; rotate_left; clear_value x; rotate_left; subst x)
       | (refine KeepsO.via (x := x) ?_ fun kh1 => ?_; rotate_left; clear_value x; rotate_left; subst x)
       | clear_value x)
    | with_reducible first | apply State.store_keeps | apply State.setRegN_keeps | apply KeepsO.next
    | split
    | with_reducible exact Keeps.refl _
    | (with_reducible refine Keeps.mk ?_ rfl rfl rfl rfl rfl)

theorem execTrngHealthFail_keeps {s0 : State} (s : State) (kh : Keeps s0 s) : KeepsO s0 (execTrngHealthFail s) := by
  unfold execTrngHealthFail
  repeat' first
    | with_reducible first | assumption | intro _
    | (extract_lets +onlyGivenNames x
       first
       | (refine Keeps.via (x := x) ?_ fun kh1 => ?_; rotate_left; clear_value x; rotate_left; subst x)
       | (refine KeepsO.via (x := x) ?_ fun kh1 => ?_; rotate_left; clear_value x; rotate_left; subst x)
       | clear_value x)
    | with_reducible first | apply State.postC_keeps | apply State.incReg_keeps | apply State.setBit_keeps | apply KeepsO.next
    | split
    | with_reducible exact Keeps.refl _
    | (with_reducible refine Keeps.mk ?_ rfl rfl rfl rfl rfl)

theorem execTrngResume_keeps {s0 : State} (s : State) (kh : Keeps s0 s) : KeepsO s0 (execTrngResume s) := by
  unfold execTrngResume
  repeat' first
    | with_reducible first | assumption | intro _
    | with_reducible first | apply State.bootGo_keeps | apply State.setBit_keeps | apply KeepsO.next
    | split
    | with_reducible exact Keeps.refl _
    | (with_reducible refine Keeps.mk ?_ rfl rfl rfl rfl rfl)

end Sys2Proof.Machine
end

