-- ==== Sys2Proof/Laws/KeepsDebugCmd.lean ====
section
/-! SUPPORT. Every operation of Machine/DebugCmd.lean keeps the queue and the canonical form. -/

namespace Sys2Proof.Machine

theorem State.modDebug_keeps {s0 : State} (s : State) (f : Debug → Debug) (kh : Keeps s0 s) : Keeps s0 (State.modDebug s f) := by
  unfold State.modDebug
  repeat' first
    | with_reducible first | assumption | intro _
    | with_reducible exact Keeps.refl _
    | (with_reducible refine Keeps.mk ?_ rfl rfl rfl rfl rfl)

theorem execDebugChallenge_keeps {s0 : State} (s : State) (kh : Keeps s0 s) : KeepsO s0 (execDebugChallenge s) := by
  unfold execDebugChallenge
  repeat' first
    | with_reducible first | assumption | intro _
    | (extract_lets +onlyGivenNames x
       first
       | (refine Keeps.via (x := x) ?_ fun kh1 => ?_; rotate_left; clear_value x; rotate_left; subst x)
       | (refine KeepsO.via (x := x) ?_ fun kh1 => ?_; rotate_left; clear_value x; rotate_left; subst x)
       | clear_value x)
    | with_reducible first | apply State.modDebug_keeps | apply State.setBit_keeps | apply KeepsO.next
    | split
    | with_reducible exact Keeps.refl _
    | (with_reducible refine Keeps.mk ?_ rfl rfl rfl rfl rfl)

theorem State.takeConsole_keeps {s0 : State} (s : State) (kh : Keeps s0 s) : Keeps s0 (State.takeConsole s) := by
  unfold State.takeConsole
  repeat' first
    | with_reducible first | assumption | intro _
    | (extract_lets +onlyGivenNames x
       first
       | (refine Keeps.via (x := x) ?_ fun kh1 => ?_; rotate_left; clear_value x; rotate_left; subst x)
       | clear_value x)
    | with_reducible first | apply State.modDebug_keeps | apply State.setBit_keeps | apply State.setRegN_keeps
    | split
    | with_reducible exact Keeps.refl _
    | (with_reducible refine Keeps.mk ?_ rfl rfl rfl rfl rfl)

theorem State.leaveConsole_keeps {s0 : State} (s : State) (kh : Keeps s0 s) : Keeps s0 (State.leaveConsole s) := by
  unfold State.leaveConsole
  repeat' first
    | with_reducible first | assumption | intro _
    | with_reducible first | apply State.modDebug_keeps | apply State.setBit_keeps | apply State.setRegN_keeps
    | split
    | with_reducible exact Keeps.refl _
    | (with_reducible refine Keeps.mk ?_ rfl rfl rfl rfl rfl)

theorem State.grant_keeps {s0 : State} (s : State) (rights : BitVec 4) (kh : Keeps s0 s) : Keeps s0 (State.grant s rights) := by
  unfold State.grant
  repeat' first
    | with_reducible first | assumption | intro _
    | (extract_lets +onlyGivenNames x
       first
       | (refine Keeps.via (x := x) ?_ fun kh1 => ?_; rotate_left; clear_value x; rotate_left; subst x)
       | clear_value x)
    | with_reducible first | apply State.takeConsole_keeps | apply State.postC_keeps | apply State.setFld_keeps
    | split
    | with_reducible exact Keeps.refl _

theorem execDebugAnswer_keeps {s0 : State} (rights : BitVec 4) (good : Bool) (s : State) (kh : Keeps s0 s) : KeepsO s0 (execDebugAnswer rights good s) := by
  unfold execDebugAnswer
  repeat' first
    | with_reducible first | assumption | intro _
    | (extract_lets +onlyGivenNames x
       first
       | (refine Keeps.via (x := x) ?_ fun kh1 => ?_; rotate_left; clear_value x; rotate_left; subst x)
       | (refine KeepsO.via (x := x) ?_ fun kh1 => ?_; rotate_left; clear_value x; rotate_left; subst x)
       | clear_value x)
    | with_reducible first | apply State.grant_keeps | apply State.modDebug_keeps | apply State.postC_keeps | apply State.incFld_keeps | apply State.setBit_keeps | apply KeepsO.next
    | split
    | with_reducible exact Keeps.refl _
    | (with_reducible refine Keeps.mk ?_ rfl rfl rfl rfl rfl)

theorem execUnlockRetryEnd_keeps {s0 : State} (s : State) (kh : Keeps s0 s) : KeepsO s0 (execUnlockRetryEnd s) := by
  unfold execUnlockRetryEnd
  repeat' first
    | with_reducible first | assumption | intro _
    | with_reducible first | apply State.modDebug_keeps | apply KeepsO.next
    | split
    | with_reducible exact Keeps.refl _
    | (with_reducible refine Keeps.mk ?_ rfl rfl rfl rfl rfl)

theorem actDebugLock_keeps {s0 : State} (s : State) (kh : Keeps s0 s) : Keeps s0 (actDebugLock s).1 := by
  unfold actDebugLock
  repeat' first
    | with_reducible first | assumption | intro _
    | with_reducible first | apply State.leaveConsole_keeps | apply accept_keeps
    | refine accept_keeps_e (by with_reducible assumption) ?_
    | with_reducible first | apply State.postC_keeps | apply State.setFld_keeps
    | split
    | with_reducible exact Keeps.refl _
theorem actDebugLock_keeps_e {s0 : State} {s : State} {x0 x1} (ke : (actDebugLock s) = (x0, x1)) (kh : Keeps s0 s) : Keeps s0 x0 := by
  have k := actDebugLock_keeps s kh
  rw [ke] at k
  exact k

theorem execDebugLock_keeps {s0 : State} (m : Nat) (_v : Dword) (s : State) (kh : Keeps s0 s) : KeepsO s0 (execDebugLock m _v s) := by
  unfold execDebugLock
  repeat' first
    | with_reducible first | assumption | intro _
    | with_reducible first | apply actDebugLock_keeps
    | refine actDebugLock_keeps_e (by with_reducible assumption) ?_
    | with_reducible first | apply State.regBus_keeps | apply KeepsO.next
    | with_reducible exact Keeps.refl _

theorem execConsoleFrame_keeps {s0 : State} (seq : Word) (buffer : List Byte) (s : State) (kh : Keeps s0 s) : KeepsO s0 (execConsoleFrame seq buffer s) := by
  unfold execConsoleFrame
  repeat' first
    | with_reducible first | assumption | intro _
    | (extract_lets +onlyGivenNames x
       first
       | (refine Keeps.via (x := x) ?_ fun kh1 => ?_; rotate_left; clear_value x; rotate_left; subst x)
       | (refine KeepsO.via (x := x) ?_ fun kh1 => ?_; rotate_left; clear_value x; rotate_left; subst x)
       | clear_value x)
    | with_reducible first | apply State.submit_keeps
    | refine State.submit_keeps_e (by with_reducible assumption) ?_
    | with_reducible first | apply State.writeRequest_keeps
    | refine State.writeRequest_keeps_e (by with_reducible assumption) ?_
    | with_reducible first | apply State.regBus_keeps | apply State.viaBus_keeps | apply KeepsO.next
    | split
    | with_reducible exact Keeps.refl _

end Sys2Proof.Machine
end

