-- ==== Sys2Proof/Laws/KeepsLadder.lean ====
section
/-! SUPPORT. Every operation of Machine/Ladder.lean keeps the queue and the canonical form. -/

namespace Sys2Proof.Machine

theorem State.contain_keeps {s0 : State} (s : State) (g : Rung) (kh : Keeps s0 s) : Keeps s0 (State.contain s g) := by
  unfold State.contain
  repeat' first
    | with_reducible first | assumption | intro _
    | with_reducible first | apply State.modRecs_keeps
    | split
    | with_reducible exact Keeps.refl _
    | (with_reducible refine Keeps.mk ?_ rfl rfl rfl rfl rfl)

theorem State.release_keeps {s0 : State} (s : State) (t : Target) (kh : Keeps s0 s) : Keeps s0 (State.release s t) := by
  unfold State.release
  repeat' first
    | with_reducible first | assumption | intro _
    | with_reducible first | apply State.closeRec_keeps | apply State.startSearch_keeps | apply State.each_keeps
    | with_reducible exact Keeps.refl _

theorem State.runRung_keeps {s0 : State} (s : State) (g : Rung) (kh : Keeps s0 s) : Keeps s0 (State.runRung s g) := by
  unfold State.runRung
  repeat' first
    | with_reducible first | assumption | intro _
    | with_reducible first | apply State.startChipReset_keeps | apply State.partReset_keeps | apply State.blockReset_keeps | apply State.domainReset_keeps | apply State.overtakeUnit_keeps | apply State.engineReset_keeps | apply State.engineAbort_keeps | apply State.respond_keeps | apply State.abortJob_keeps
    | split
    | with_reducible exact Keeps.refl _

theorem State.startRung_keeps {s0 : State} (s : State) (g : Rung) (kh : Keeps s0 s) : Keeps s0 (State.startRung s g) := by
  unfold State.startRung
  repeat' first
    | with_reducible first | assumption | intro _
    | (extract_lets +onlyGivenNames x
       first
       | (refine Keeps.via (x := x) ?_ fun kh1 => ?_; rotate_left; clear_value x; rotate_left; subst x)
       | clear_value x)
    | with_reducible first | apply State.runRung_keeps | apply State.contain_keeps | apply State.countReset_keeps | apply State.setAmber_keeps
    | split
    | with_reducible exact Keeps.refl _
    | (with_reducible refine Keeps.mk ?_ rfl rfl rfl rfl rfl)

theorem State.dropRung_keeps {s0 : State} (s : State) (k : Nat) (kh : Keeps s0 s) : Keeps s0 (State.dropRung s k) := by
  unfold State.dropRung
  repeat' first
    | with_reducible first | assumption | intro _
    | with_reducible exact Keeps.refl _
    | (with_reducible refine Keeps.mk ?_ rfl rfl rfl rfl rfl)

theorem State.settleSeven_keeps {s0 : State} (s : State) (kh : Keeps s0 s) : Keeps s0 (State.settleSeven s) := by
  unfold State.settleSeven
  repeat' first
    | with_reducible first | assumption | intro _
    | with_reducible first | apply State.setAmber_keeps
    | with_reducible exact Keeps.refl _

theorem State.rungDone_keeps {s0 : State} (s : State) (k : Nat) (g : Rung) (kh : Keeps s0 s) : Keeps s0 (State.rungDone s k g) := by
  unfold State.rungDone
  repeat' first
    | with_reducible first | assumption | intro _
    | (extract_lets +onlyGivenNames x
       first
       | (refine Keeps.via (x := x) ?_ fun kh1 => ?_; rotate_left; clear_value x; rotate_left; subst x)
       | clear_value x)
    | with_reducible first | apply State.settleSeven_keeps | apply State.dropRung_keeps | apply State.release_keeps | apply State.modRecs_keeps | apply State.holdTarget_keeps | apply State.finish_keeps | apply State.bumpGen_keeps | apply State.post_keeps
    | split
    | with_reducible exact Keeps.refl _
    | (with_reducible refine Keeps.mk ?_ rfl rfl rfl rfl rfl)

theorem execResetDone_keeps {s0 : State} (k : Nat) (s : State) (kh : Keeps s0 s) : KeepsO s0 (execResetDone k s) := by
  unfold execResetDone
  repeat' first
    | with_reducible first | assumption | intro _
    | with_reducible first | apply State.rungDone_keeps | apply KeepsO.next
    | split
    | with_reducible exact Keeps.refl _

theorem execEscalation_keeps {s0 : State} (k : Nat) (s : State) (kh : Keeps s0 s) : KeepsO s0 (execEscalation k s) := by
  unfold execEscalation
  repeat' first
    | with_reducible first | assumption | intro _
    | (extract_lets +onlyGivenNames x
       first
       | (refine Keeps.via (x := x) ?_ fun kh1 => ?_; rotate_left; clear_value x; rotate_left; subst x)
       | (refine KeepsO.via (x := x) ?_ fun kh1 => ?_; rotate_left; clear_value x; rotate_left; subst x)
       | clear_value x)
    | with_reducible first | apply State.dropRung_keeps | apply State.startRung_keeps | apply State.post_keeps | apply KeepsO.next
    | split
    | with_reducible exact Keeps.refl _
    | (with_reducible refine Keeps.mk ?_ rfl rfl rfl rfl rfl)

end Sys2Proof.Machine
end

