-- ==== Sys2Proof/Laws/KeepsErrors.lean ====
section
/-! SUPPORT. Every operation of Machine/Errors.lean keeps the queue and the canonical form. -/

namespace Sys2Proof.Machine

theorem State.putPhase_keeps {s0 : State} (s : State) (r : ErrRecord) (k : Nat) (kh : Keeps s0 s) : Keeps s0 (State.putPhase s r k) := by
  unfold State.putPhase
  repeat' first
    | with_reducible first | assumption | intro _
    | with_reducible first | apply State.showErr_keeps | apply State.modRecs_keeps
    | split
    | with_reducible exact Keeps.refl _
    | (with_reducible refine Keeps.mk ?_ rfl rfl rfl rfl rfl)

theorem State.startDump_keeps {s0 : State} (s : State) (r : ErrRecord) (kh : Keeps s0 s) : Keeps s0 (State.startDump s r) := by
  unfold State.startDump
  repeat' first
    | with_reducible first | assumption | intro _
    | (extract_lets +onlyGivenNames x
       first
       | (refine Keeps.via (x := x) ?_ fun kh1 => ?_; rotate_left; clear_value x; rotate_left; subst x)
       | clear_value x)
    | with_reducible first | apply State.putPhase_keeps | apply State.cutDump_keeps
    | split
    | with_reducible exact Keeps.refl _
    | (with_reducible refine Keeps.mk ?_ rfl rfl rfl rfl rfl)

theorem State.rungFor_keeps {s0 : State} (s : State) (r : ErrRecord) (kh : Keeps s0 s) : Keeps s0 (State.rungFor s r) := by
  unfold State.rungFor
  repeat' first
    | with_reducible first | assumption | intro _
    | (extract_lets +onlyGivenNames x
       first
       | (refine Keeps.via (x := x) ?_ fun kh1 => ?_; rotate_left; clear_value x; rotate_left; subst x)
       | clear_value x)
    | with_reducible first | apply State.putPhase_keeps | apply State.startRung_keeps
    | split
    | with_reducible exact Keeps.refl _

theorem State.handle_keeps {s0 : State} (s : State) (r : ErrRecord) (kh : Keeps s0 s) : Keeps s0 (State.handle s r) := by
  unfold State.handle
  repeat' first
    | with_reducible first | assumption | intro _
    | with_reducible first | apply State.rungFor_keeps | apply State.startDump_keeps | apply State.closeRec_keeps | apply State.startSearch_keeps
    | split
    | with_reducible exact Keeps.refl _

theorem execErrorHandlerStep_keeps {s0 : State} (s : State) (kh : Keeps s0 s) : KeepsO s0 (execErrorHandlerStep s) := by
  unfold execErrorHandlerStep
  repeat' first
    | with_reducible first | assumption | intro _
    | (extract_lets +onlyGivenNames x
       first
       | (refine Keeps.via (x := x) ?_ fun kh1 => ?_; rotate_left; clear_value x; rotate_left; subst x)
       | (refine KeepsO.via (x := x) ?_ fun kh1 => ?_; rotate_left; clear_value x; rotate_left; subst x)
       | clear_value x)
    | with_reducible first | apply State.handle_keeps | apply KeepsO.next
    | split
    | with_reducible exact Keeps.refl _
    | (with_reducible refine Keeps.mk ?_ rfl rfl rfl rfl rfl)

theorem execEngineTimeout_keeps {s0 : State} (u sub : Nat) (s : State) (kh : Keeps s0 s) : KeepsO s0 (execEngineTimeout u sub s) := by
  unfold execEngineTimeout
  repeat' first
    | with_reducible first | assumption | intro _
    | with_reducible first | apply State.post_keeps | apply KeepsO.next
    | split
    | with_reducible exact Keeps.refl _
    | (with_reducible refine Keeps.mk ?_ rfl rfl rfl rfl rfl)

theorem State.hartKicked_keeps {s0 : State} (s : State) (h : Nat) (kh : Keeps s0 s) : Keeps s0 (State.hartKicked s h) := by
  unfold State.hartKicked
  repeat' first
    | with_reducible first | assumption | intro _
    | with_reducible exact Keeps.refl _
    | (with_reducible refine Keeps.mk ?_ rfl rfl rfl rfl rfl)

theorem execHstWdoghKick_keeps {s0 : State} (m h : Nat) (s : State) (kh : Keeps s0 s) : KeepsO s0 (execHstWdoghKick m h s) := by
  unfold execHstWdoghKick
  repeat' first
    | with_reducible first | assumption | intro _
    | with_reducible first | apply State.hartKicked_keeps | apply accept_keeps
    | refine accept_keeps_e (by with_reducible assumption) ?_
    | with_reducible first | apply State.regBus_keeps | apply KeepsO.next
    | with_reducible exact Keeps.refl _

theorem execHartWatchdog_keeps {s0 : State} (h guest : Nat) (s : State) (kh : Keeps s0 s) : KeepsO s0 (execHartWatchdog h guest s) := by
  unfold execHartWatchdog
  repeat' first
    | with_reducible first | assumption | intro _
    | (extract_lets +onlyGivenNames x
       first
       | (refine Keeps.via (x := x) ?_ fun kh1 => ?_; rotate_left; clear_value x; rotate_left; subst x)
       | (refine KeepsO.via (x := x) ?_ fun kh1 => ?_; rotate_left; clear_value x; rotate_left; subst x)
       | clear_value x)
    | with_reducible first | apply State.hartKicked_keeps | apply State.post_keeps | apply KeepsO.next
    | split
    | with_reducible exact Keeps.refl _
    | (with_reducible refine Keeps.mk ?_ rfl rfl rfl rfl rfl)

theorem execLockstepMismatch_keeps {s0 : State} (pair : Nat) (s : State) (kh : Keeps s0 s) : KeepsO s0 (execLockstepMismatch pair s) := by
  unfold execLockstepMismatch
  repeat' first
    | with_reducible first | assumption | intro _
    | (extract_lets +onlyGivenNames x
       first
       | (refine Keeps.via (x := x) ?_ fun kh1 => ?_; rotate_left; clear_value x; rotate_left; subst x)
       | (refine KeepsO.via (x := x) ?_ fun kh1 => ?_; rotate_left; clear_value x; rotate_left; subst x)
       | clear_value x)
    | with_reducible first | apply State.startRung_keeps | apply State.postC_keeps | apply KeepsO.next
    | split
    | with_reducible exact Keeps.refl _

theorem execHostCacheError_keeps {s0 : State} (core kind : Nat) (s : State) (kh : Keeps s0 s) : KeepsO s0 (execHostCacheError core kind s) := by
  unfold execHostCacheError
  repeat' first
    | with_reducible first | assumption | intro _
    | (extract_lets +onlyGivenNames x
       first
       | (refine Keeps.via (x := x) ?_ fun kh1 => ?_; rotate_left; clear_value x; rotate_left; subst x)
       | (refine KeepsO.via (x := x) ?_ fun kh1 => ?_; rotate_left; clear_value x; rotate_left; subst x)
       | clear_value x)
    | with_reducible first | apply State.postC_keeps | apply KeepsO.next
    | split
    | with_reducible exact Keeps.refl _
    | (with_reducible refine Keeps.mk ?_ rfl rfl rfl rfl rfl)

theorem execS4HoldExpiry_keeps {s0 : State} (s : State) (kh : Keeps s0 s) : KeepsO s0 (execS4HoldExpiry s) := by
  unfold execS4HoldExpiry
  repeat' first
    | with_reducible first | assumption | intro _
    | with_reducible first | apply State.startChipReset_keeps | apply KeepsO.next
    | split
    | with_reducible exact Keeps.refl _

theorem State.resetReq_keeps {s0 : State} (s : State) (n rung : Nat) (t : Option Target) (kh : Keeps s0 s) : Keeps s0 (State.resetReq s n rung t).1 := by
  unfold State.resetReq
  repeat' first
    | with_reducible first | assumption | intro _
    | (extract_lets +onlyGivenNames x
       first
       | (refine Keeps.via (x := x) ?_ fun kh1 => ?_; rotate_left; clear_value x; rotate_left; subst x)
       | clear_value x)
    | with_reducible first | apply State.startRung_keeps | apply denied_keeps
    | refine denied_keeps_e (by with_reducible assumption) ?_
    | split
    | with_reducible exact Keeps.refl _
theorem State.resetReq_keeps_e {s0 : State} {s : State} {n rung : Nat} {t : Option Target} {x0 x1} (ke : (State.resetReq s n rung t) = (x0, x1)) (kh : Keeps s0 s) : Keeps s0 x0 := by
  have k := State.resetReq_keeps s n rung t kh
  rw [ke] at k
  exact k

theorem execResetReqContext_keeps {s0 : State} (n : Nat) (s : State) (kh : Keeps s0 s) : KeepsO s0 (execResetReqContext n s) := by
  unfold execResetReqContext
  repeat' first
    | with_reducible first | assumption | intro _
    | with_reducible first | apply State.resetReq_keeps
    | refine State.resetReq_keeps_e (by with_reducible assumption) ?_
    | with_reducible first | apply State.runCmd_keeps | apply KeepsO.next
    | with_reducible exact Keeps.refl _

theorem execResetReqEngine_keeps {s0 : State} (n : Nat) (s : State) (kh : Keeps s0 s) : KeepsO s0 (execResetReqEngine n s) := by
  unfold execResetReqEngine
  repeat' first
    | with_reducible first | assumption | intro _
    | with_reducible first | apply State.resetReq_keeps
    | refine State.resetReq_keeps_e (by with_reducible assumption) ?_
    | with_reducible first | apply State.runCmd_keeps | apply KeepsO.next
    | with_reducible exact Keeps.refl _

theorem execResetReqPartition_keeps {s0 : State} (n : Nat) (s : State) (kh : Keeps s0 s) : KeepsO s0 (execResetReqPartition n s) := by
  unfold execResetReqPartition
  repeat' first
    | with_reducible first | assumption | intro _
    | (extract_lets +onlyGivenNames x
       first
       | (refine Keeps.via (x := x) ?_ fun kh1 => ?_; rotate_left; clear_value x; rotate_left; subst x)
       | (refine KeepsO.via (x := x) ?_ fun kh1 => ?_; rotate_left; clear_value x; rotate_left; subst x)
       | clear_value x)
    | with_reducible first | apply State.resetReq_keeps
    | refine State.resetReq_keeps_e (by with_reducible assumption) ?_
    | with_reducible first | apply State.endHold_keeps | apply State.runCmd_keeps | apply KeepsO.next
    | split
    | with_reducible exact Keeps.refl _

theorem execResetReqChip_keeps {s0 : State} (n : Nat) (s : State) (kh : Keeps s0 s) : KeepsO s0 (execResetReqChip n s) := by
  unfold execResetReqChip
  repeat' first
    | with_reducible first | assumption | intro _
    | with_reducible first | apply State.startChipReset_keeps | apply State.runCmd_keeps | apply KeepsO.next
    | with_reducible exact Keeps.refl _

theorem State.powerCycle_keeps {s0 : State} (s : State) (kh : Keeps s0 s) : Keeps s0 (State.powerCycle s) := by
  unfold State.powerCycle
  repeat' first
    | with_reducible first | assumption | intro _
    | with_reducible exact Keeps.refl _
    | (with_reducible refine Keeps.mk ?_ rfl rfl rfl rfl rfl)

theorem execResetReqPowerCycle_keeps {s0 : State} (n : Nat) (s : State) (kh : Keeps s0 s) : KeepsO s0 (execResetReqPowerCycle n s) := by
  unfold execResetReqPowerCycle
  repeat' first
    | with_reducible first | assumption | intro _
    | with_reducible first | apply State.powerCycle_keeps | apply State.runCmd_keeps | apply KeepsO.next
    | with_reducible exact Keeps.refl _

end Sys2Proof.Machine
end

