-- ==== Sys2Proof/Laws/KeepsPowerCmd.lean ====
section
/-! SUPPORT. Every operation of Machine/PowerCmd.lean keeps the queue and the canonical form. -/

namespace Sys2Proof.Machine

theorem State.afterReset_keeps {s0 : State} (s : State) (keep : Nat → Bool) (mem : Bool) (kh : Keeps s0 s) : Keeps s0 (State.afterReset s keep mem) := by
  refine ⟨kh.1, fun x => ?_⟩
  obtain ⟨hr, hm, ht⟩ := kh.2 x
  refine ⟨mwf_filter _ s.regs _ hr, ?_, rfl⟩
  cases mem
  · rfl
  · exact hm

theorem State.applyReset_keeps {s0 : State} (s : State) (cause : Nat) (kh : Keeps s0 s) : Keeps s0 (State.applyReset s cause) := by
  unfold State.applyReset
  repeat' first
    | with_reducible first | assumption | intro _
    | (extract_lets +onlyGivenNames x
       first
       | (refine Keeps.via (x := x) ?_ fun kh1 => ?_; rotate_left; clear_value x; rotate_left; subst x)
       | clear_value x)
    | with_reducible first | apply State.afterReset_keeps | apply State.postC_keeps | apply State.incFld_keeps | apply State.setFld_keeps
    | split
    | with_reducible exact Keeps.refl _
    | (with_reducible refine Keeps.mk ?_ rfl rfl rfl rfl rfl)

theorem execChipResetApply_keeps {s0 : State} (s : State) (kh : Keeps s0 s) : KeepsO s0 (execChipResetApply s) := by
  unfold execChipResetApply
  repeat' first
    | with_reducible first | assumption | intro _
    | with_reducible first | apply State.applyReset_keeps | apply KeepsO.next
    | split
    | with_reducible exact Keeps.refl _

theorem execResetN_keeps {s0 : State} (s : State) (kh : Keeps s0 s) : KeepsO s0 (execResetN s) := by
  unfold execResetN
  repeat' first
    | with_reducible first | assumption | intro _
    | with_reducible first | apply State.startChipReset_keeps | apply State.wakeOn_keeps | apply KeepsO.next
    | split
    | with_reducible exact Keeps.refl _

theorem execBootStatusTimeout_keeps {s0 : State} (s : State) (kh : Keeps s0 s) : KeepsO s0 (execBootStatusTimeout s) := by
  unfold execBootStatusTimeout
  repeat' first
    | with_reducible first | assumption | intro _
    | with_reducible first | apply State.powerCycle_keeps | apply KeepsO.next
    | split
    | with_reducible exact Keeps.refl _

theorem State.dark_keeps {s0 : State} (s : State) (kh : Keeps s0 s) : Keeps s0 (State.dark s) := by
  unfold State.dark
  repeat' first
    | with_reducible first | assumption | intro _
    | (extract_lets +onlyGivenNames x
       first
       | (refine Keeps.via (x := x) ?_ fun kh1 => ?_; rotate_left; clear_value x; rotate_left; subst x)
       | clear_value x)
    | with_reducible first | apply State.showBoot_keeps | apply State.setDomain_keeps | apply State.each_keeps | apply State.setBit_keeps
    | split
    | with_reducible exact Keeps.refl _

theorem State.startSequence_keeps {s0 : State} (s : State) (kh : Keeps s0 s) : Keeps s0 (State.startSequence s) := by
  unfold State.startSequence
  repeat' first
    | with_reducible first | assumption | intro _
    | with_reducible first | apply State.modPower_keeps
    | with_reducible exact Keeps.refl _
    | (with_reducible refine Keeps.mk ?_ rfl rfl rfl rfl rfl)

theorem execPowerUp_keeps {s0 : State} (s : State) (kh : Keeps s0 s) : KeepsO s0 (execPowerUp s) := by
  unfold execPowerUp
  repeat' first
    | with_reducible first | assumption | intro _
    | with_reducible first | apply State.startSequence_keeps | apply State.dark_keeps | apply State.afterReset_keeps | apply KeepsO.next
    | split
    | with_reducible exact Keeps.refl _
    | (with_reducible refine Keeps.mk ?_ rfl rfl rfl rfl rfl)

theorem State.sequenceFails_keeps {s0 : State} (s : State) (order : Nat) (kh : Keeps s0 s) : Keeps s0 (State.sequenceFails s order) := by
  unfold State.sequenceFails
  repeat' first
    | with_reducible first | assumption | intro _
    | (extract_lets +onlyGivenNames x
       first
       | (refine Keeps.via (x := x) ?_ fun kh1 => ?_; rotate_left; clear_value x; rotate_left; subst x)
       | clear_value x)
    | with_reducible first | apply State.retain_keeps | apply State.modPower_keeps | apply State.setFld_keeps
    | split
    | with_reducible exact Keeps.refl _
    | (with_reducible refine Keeps.mk ?_ rfl rfl rfl rfl rfl)

theorem Keeps.filterRegs {s0 s : State} (f : Nat × Dword → Bool) (h : Keeps s0 s) : Keeps s0 { s with regs := s.regs.filter f } := by
  refine ⟨h.1, fun x => ?_⟩
  obtain ⟨hr, hm, ht⟩ := h.2 x
  exact ⟨mwf_filter _ s.regs _ hr, hm, ht⟩
theorem State.railsUp_keeps {s0 : State} (s : State) (kh : Keeps s0 s) : Keeps s0 (State.railsUp s) := by
  unfold State.railsUp
  repeat' first
    | with_reducible first | assumption | intro _
    | (extract_lets +onlyGivenNames x
       first
       | (refine Keeps.via (x := x) ?_ fun kh1 => ?_; rotate_left; clear_value x; rotate_left; subst x)
       | clear_value x)
    | apply Keeps.filterRegs
    | with_reducible first | apply State.switchDomain_keeps | apply State.modPower_keeps | apply State.each_keeps | apply State.setBit_keeps | apply State.setRegN_keeps
    | split
    | with_reducible exact Keeps.refl _
    | (with_reducible refine Keeps.mk ?_ rfl rfl rfl rfl rfl)

theorem execRailOrderEnable_keeps {s0 : State} (good : Bool) (s : State) (kh : Keeps s0 s) : KeepsO s0 (execRailOrderEnable good s) := by
  unfold execRailOrderEnable
  repeat' first
    | with_reducible first | assumption | intro _
    | (extract_lets +onlyGivenNames x
       first
       | (refine Keeps.via (x := x) ?_ fun kh1 => ?_; rotate_left; clear_value x; rotate_left; subst x)
       | (refine KeepsO.via (x := x) ?_ fun kh1 => ?_; rotate_left; clear_value x; rotate_left; subst x)
       | clear_value x)
    | with_reducible first | apply State.railsUp_keeps | apply State.sequenceFails_keeps | apply State.modPower_keeps | apply KeepsO.next
    | split
    | with_reducible exact Keeps.refl _
    | (with_reducible refine Keeps.mk ?_ rfl rfl rfl rfl rfl)

theorem execSequenceRetry_keeps {s0 : State} (s : State) (kh : Keeps s0 s) : KeepsO s0 (execSequenceRetry s) := by
  unfold execSequenceRetry
  repeat' first
    | with_reducible first | assumption | intro _
    | with_reducible first | apply State.startSequence_keeps | apply KeepsO.next
    | split
    | with_reducible exact Keeps.refl _

theorem actStandby_keeps {s0 : State} (s : State) (v : Nat) (kh : Keeps s0 s) : Keeps s0 (actStandby s v).1 := by
  unfold actStandby
  repeat' first
    | with_reducible first | assumption | intro _
    | (extract_lets +onlyGivenNames x
       first
       | (refine Keeps.via (x := x) ?_ fun kh1 => ?_; rotate_left; clear_value x; rotate_left; subst x)
       | clear_value x)
    | with_reducible first | apply State.modPower_keeps | apply State.moveTo_keeps | apply refuse_keeps
    | refine refuse_keeps_e (by with_reducible assumption) ?_
    | with_reducible first | apply accept_keeps
    | refine accept_keeps_e (by with_reducible assumption) ?_
    | with_reducible first | apply State.setRegN_keeps
    | split
    | with_reducible exact Keeps.refl _
    | (with_reducible refine Keeps.mk ?_ rfl rfl rfl rfl rfl)
theorem actStandby_keeps_e {s0 : State} {s : State} {v : Nat} {x0 x1} (ke : (actStandby s v) = (x0, x1)) (kh : Keeps s0 s) : Keeps s0 x0 := by
  have k := actStandby_keeps s v kh
  rw [ke] at k
  exact k

theorem execStandbyEntry_keeps {s0 : State} (m : Nat) (v : Dword) (s : State) (kh : Keeps s0 s) : KeepsO s0 (execStandbyEntry m v s) := by
  unfold execStandbyEntry
  repeat' first
    | with_reducible first | assumption | intro _
    | with_reducible first | apply actStandby_keeps
    | refine actStandby_keeps_e (by with_reducible assumption) ?_
    | with_reducible first | apply State.regBus_keeps | apply KeepsO.next
    | with_reducible exact Keeps.refl _

theorem State.onlyAlwaysOn_keeps {s0 : State} (s : State) (kh : Keeps s0 s) : Keeps s0 (State.onlyAlwaysOn s) := by
  unfold State.onlyAlwaysOn
  repeat' first
    | with_reducible first | assumption | intro _
    | with_reducible first | apply State.dark_keeps | apply State.afterReset_keeps
    | with_reducible exact Keeps.refl _

theorem execPowerDownComplete_keeps {s0 : State} (s : State) (kh : Keeps s0 s) : KeepsO s0 (execPowerDownComplete s) := by
  unfold execPowerDownComplete
  repeat' first
    | with_reducible first | assumption | intro _
    | (extract_lets +onlyGivenNames x
       first
       | (refine Keeps.via (x := x) ?_ fun kh1 => ?_; rotate_left; clear_value x; rotate_left; subst x)
       | (refine KeepsO.via (x := x) ?_ fun kh1 => ?_; rotate_left; clear_value x; rotate_left; subst x)
       | clear_value x)
    | with_reducible first | apply State.onlyAlwaysOn_keeps | apply State.startSequence_keeps | apply KeepsO.next
    | split
    | with_reducible exact Keeps.refl _
    | (with_reducible refine Keeps.mk ?_ rfl rfl rfl rfl rfl)

theorem execWakeEvent_keeps {s0 : State} (s : State) (kh : Keeps s0 s) : KeepsO s0 (execWakeEvent s) := by
  unfold execWakeEvent
  repeat' first
    | with_reducible first | assumption | intro _
    | with_reducible first | apply State.startSequence_keeps | apply KeepsO.next
    | split
    | with_reducible exact Keeps.refl _

theorem execHardShutdownRestart_keeps {s0 : State} (s : State) (kh : Keeps s0 s) : KeepsO s0 (execHardShutdownRestart s) := by
  unfold execHardShutdownRestart
  repeat' first
    | with_reducible first | assumption | intro _
    | with_reducible first | apply State.startSequence_keeps | apply KeepsO.next
    | split
    | with_reducible exact Keeps.refl _

theorem execAlwaysOnSupplyLoss_keeps {s0 : State} (s : State) (kh : Keeps s0 s) : KeepsO s0 (execAlwaysOnSupplyLoss s) := by
  unfold execAlwaysOnSupplyLoss
  repeat' first
    | with_reducible first | assumption | intro _
    | with_reducible first | apply State.dark_keeps | apply State.afterReset_keeps | apply KeepsO.next
    | with_reducible exact Keeps.refl _
    | (with_reducible refine Keeps.mk ?_ rfl rfl rfl rfl rfl)

theorem execRailFault_keeps {s0 : State} (k : Nat) (s : State) (kh : Keeps s0 s) : KeepsO s0 (execRailFault k s) := by
  unfold execRailFault
  repeat' first
    | with_reducible first | assumption | intro _
    | (extract_lets +onlyGivenNames x
       first
       | (refine Keeps.via (x := x) ?_ fun kh1 => ?_; rotate_left; clear_value x; rotate_left; subst x)
       | (refine KeepsO.via (x := x) ?_ fun kh1 => ?_; rotate_left; clear_value x; rotate_left; subst x)
       | clear_value x)
    | with_reducible first | apply State.postC_keeps | apply State.setBit_keeps | apply State.setFld_keeps | apply KeepsO.next
    | split
    | with_reducible exact Keeps.refl _

theorem execAvsStep_keeps {s0 : State} (k mv : Nat) (s : State) (kh : Keeps s0 s) : KeepsO s0 (execAvsStep k mv s) := by
  unfold execAvsStep
  repeat' first
    | with_reducible first | assumption | intro _
    | (extract_lets +onlyGivenNames x
       first
       | (refine Keeps.via (x := x) ?_ fun kh1 => ?_; rotate_left; clear_value x; rotate_left; subst x)
       | (refine KeepsO.via (x := x) ?_ fun kh1 => ?_; rotate_left; clear_value x; rotate_left; subst x)
       | clear_value x)
    | with_reducible first | apply State.modPower_keeps | apply State.postC_keeps | apply State.setFld_keeps | apply KeepsO.next
    | split
    | with_reducible exact Keeps.refl _
    | (with_reducible refine Keeps.mk ?_ rfl rfl rfl rfl rfl)

theorem actDomain_keeps {s0 : State} (d : Nat) (s : State) (v : Nat) (kh : Keeps s0 s) : Keeps s0 (actDomain d s v).1 := by
  unfold actDomain
  repeat' first
    | with_reducible first | assumption | intro _
    | (extract_lets +onlyGivenNames x
       first
       | (refine Keeps.via (x := x) ?_ fun kh1 => ?_; rotate_left; clear_value x; rotate_left; subst x)
       | clear_value x)
    | with_reducible first | apply State.switchDomain_keeps | apply State.loseDomain_keeps | apply refuse_keeps
    | refine refuse_keeps_e (by with_reducible assumption) ?_
    | with_reducible first | apply accept_keeps
    | refine accept_keeps_e (by with_reducible assumption) ?_
    | with_reducible first | apply State.setBit_keeps
    | split
    | with_reducible exact Keeps.refl _
theorem actDomain_keeps_e {s0 : State} {d : Nat} {s : State} {v : Nat} {x0 x1} (ke : (actDomain d s v) = (x0, x1)) (kh : Keeps s0 s) : Keeps s0 x0 := by
  have k := actDomain_keeps d s v kh
  rw [ke] at k
  exact k

theorem execDomainSwitch_keeps {s0 : State} (m d : Nat) (v : Dword) (s : State) (kh : Keeps s0 s) : KeepsO s0 (execDomainSwitch m d v s) := by
  unfold execDomainSwitch
  repeat' first
    | with_reducible first | assumption | intro _
    | with_reducible first | apply actDomain_keeps
    | refine actDomain_keeps_e (by with_reducible assumption) ?_
    | with_reducible first | apply State.regBus_keeps | apply KeepsO.next
    | with_reducible exact Keeps.refl _

theorem execDomainInService_keeps {s0 : State} (d : Nat) (s : State) (kh : Keeps s0 s) : KeepsO s0 (execDomainInService d s) := by
  unfold execDomainInService
  repeat' first
    | with_reducible first | assumption | intro _
    | (extract_lets +onlyGivenNames x
       first
       | (refine Keeps.via (x := x) ?_ fun kh1 => ?_; rotate_left; clear_value x; rotate_left; subst x)
       | (refine KeepsO.via (x := x) ?_ fun kh1 => ?_; rotate_left; clear_value x; rotate_left; subst x)
       | clear_value x)
    | with_reducible first | apply State.setDomain_keeps | apply KeepsO.next
    | split
    | with_reducible exact Keeps.refl _

theorem State.judgeSensor_keeps {s0 : State} (s : State) (l : List Int) (k : Nat) (kh : Keeps s0 s) : Keeps s0 (State.judgeSensor s l k) := by
  unfold State.judgeSensor
  repeat' first
    | with_reducible first | assumption | intro _
    | (extract_lets +onlyGivenNames x
       first
       | (refine Keeps.via (x := x) ?_ fun kh1 => ?_; rotate_left; clear_value x; rotate_left; subst x)
       | clear_value x)
    | with_reducible first | apply State.modPower_keeps | apply State.postC_keeps | apply State.setBit_keeps
    | split
    | with_reducible exact Keeps.refl _
    | (with_reducible refine Keeps.mk ?_ rfl rfl rfl rfl rfl)

theorem State.showHottest_keeps {s0 : State} (s : State) (k : Nat) (t : Int) (kh : Keeps s0 s) : Keeps s0 (State.showHottest s k t) := by
  unfold State.showHottest
  repeat' first
    | with_reducible first | assumption | intro _
    | (extract_lets +onlyGivenNames x
       first
       | (refine Keeps.via (x := x) ?_ fun kh1 => ?_; rotate_left; clear_value x; rotate_left; subst x)
       | clear_value x)
    | with_reducible first | apply State.modPower_keeps | apply State.setRegN_keeps
    | split
    | with_reducible exact Keeps.refl _
    | (with_reducible refine Keeps.mk ?_ rfl rfl rfl rfl rfl)

theorem State.thermalCrimson_keeps {s0 : State} (s : State) (t : Int) (kh : Keeps s0 s) : Keeps s0 (State.thermalCrimson s t) := by
  unfold State.thermalCrimson
  repeat' first
    | with_reducible first | assumption | intro _
    | with_reducible first | apply State.crimson_keeps | apply State.postC_keeps
    | split
    | with_reducible exact Keeps.refl _

theorem State.showTrip_keeps {s0 : State} (s : State) (on : Bool) (kh : Keeps s0 s) : Keeps s0 (State.showTrip s on) := by
  unfold State.showTrip
  repeat' first
    | with_reducible first | assumption | intro _
    | with_reducible first | apply State.modPower_keeps | apply State.setBit_keeps
    | with_reducible exact Keeps.refl _
    | (with_reducible refine Keeps.mk ?_ rfl rfl rfl rfl rfl)

theorem State.thermalTrip_keeps {s0 : State} (s : State) (l : List Int) (kh : Keeps s0 s) : Keeps s0 (State.thermalTrip s l) := by
  unfold State.thermalTrip
  repeat' first
    | with_reducible first | assumption | intro _
    | (extract_lets +onlyGivenNames x
       first
       | (refine Keeps.via (x := x) ?_ fun kh1 => ?_; rotate_left; clear_value x; rotate_left; subst x)
       | clear_value x)
    | with_reducible first | apply State.showTrip_keeps | apply State.modPower_keeps | apply State.postC_keeps
    | split
    | with_reducible exact Keeps.refl _
    | (with_reducible refine Keeps.mk ?_ rfl rfl rfl rfl rfl)

theorem execSensorSample_keeps {s0 : State} (readings : List Int) (s : State) (kh : Keeps s0 s) : KeepsO s0 (execSensorSample readings s) := by
  unfold execSensorSample
  repeat' first
    | with_reducible first | assumption | intro _
    | (extract_lets +onlyGivenNames x
       first
       | (refine Keeps.via (x := x) ?_ fun kh1 => ?_; rotate_left; clear_value x; rotate_left; subst x)
       | (refine KeepsO.via (x := x) ?_ fun kh1 => ?_; rotate_left; clear_value x; rotate_left; subst x)
       | clear_value x)
    | with_reducible first | apply State.thermalTrip_keeps | apply State.thermalCrimson_keeps | apply State.showHottest_keeps | apply State.judgeSensor_keeps | apply State.each_keeps | apply State.setFld_keeps | apply KeepsO.next
    | split
    | with_reducible exact Keeps.refl _

theorem execRefLoss_keeps {s0 : State} (s : State) (kh : Keeps s0 s) : KeepsO s0 (execRefLoss s) := by
  unfold execRefLoss
  repeat' first
    | with_reducible first | assumption | intro _
    | with_reducible first | apply State.modPower_keeps | apply State.postC_keeps | apply KeepsO.next
    | split
    | with_reducible exact Keeps.refl _
    | (with_reducible refine Keeps.mk ?_ rfl rfl rfl rfl rfl)

theorem execSdsrefLoss_keeps {s0 : State} (s : State) (kh : Keeps s0 s) : KeepsO s0 (execSdsrefLoss s) := by
  unfold execSdsrefLoss
  repeat' first
    | with_reducible first | assumption | intro _
    | (extract_lets +onlyGivenNames x
       first
       | (refine Keeps.via (x := x) ?_ fun kh1 => ?_; rotate_left; clear_value x; rotate_left; subst x)
       | (refine KeepsO.via (x := x) ?_ fun kh1 => ?_; rotate_left; clear_value x; rotate_left; subst x)
       | clear_value x)
    | with_reducible first | apply State.modPower_keeps | apply State.ethDown_keeps | apply State.linkLost_keeps | apply State.each_keeps | apply State.postC_keeps | apply KeepsO.next
    | split
    | with_reducible exact Keeps.refl _
    | (with_reducible refine Keeps.mk ?_ rfl rfl rfl rfl rfl)

theorem execSdsrefRestored_keeps {s0 : State} (s : State) (kh : Keeps s0 s) : KeepsO s0 (execSdsrefRestored s) := by
  unfold execSdsrefRestored
  repeat' first
    | with_reducible first | assumption | intro _
    | (extract_lets +onlyGivenNames x
       first
       | (refine Keeps.via (x := x) ?_ fun kh1 => ?_; rotate_left; clear_value x; rotate_left; subst x)
       | (refine KeepsO.via (x := x) ?_ fun kh1 => ?_; rotate_left; clear_value x; rotate_left; subst x)
       | clear_value x)
    | with_reducible first | apply State.modPower_keeps | apply State.linkTrain_keeps | apply State.each_keeps | apply KeepsO.next
    | split
    | with_reducible exact Keeps.refl _
    | (with_reducible refine Keeps.mk ?_ rfl rfl rfl rfl rfl)

end Sys2Proof.Machine
end

