-- ==== Sys2Proof/Laws/KeepsRecCmd.lean ====
section
/-! SUPPORT. Every operation of Machine/RecCmd.lean keeps the queue and the canonical form. -/

namespace Sys2Proof.Machine

theorem State.modRec_keeps {s0 : State} (s : State) (f : Recorder → Recorder) (kh : Keeps s0 s) : Keeps s0 (State.modRec s f) := by
  unfold State.modRec
  repeat' first
    | with_reducible first | assumption | intro _
    | with_reducible exact Keeps.refl _
    | (with_reducible refine Keeps.mk ?_ rfl rfl rfl rfl rfl)

theorem State.openRecording_keeps {s0 : State} (s : State) (kh : Keeps s0 s) : Keeps s0 (State.openRecording s) := by
  unfold State.openRecording
  repeat' first
    | with_reducible first | assumption | intro _
    | (extract_lets +onlyGivenNames x
       first
       | (refine Keeps.via (x := x) ?_ fun kh1 => ?_; rotate_left; clear_value x; rotate_left; subst x)
       | clear_value x)
    | with_reducible first | apply State.modRec_keeps | apply State.setFld_keeps
    | split
    | with_reducible exact Keeps.refl _
    | (with_reducible refine Keeps.mk ?_ rfl rfl rfl rfl rfl)

theorem execRecStart_keeps {s0 : State} (n : Nat) (s : State) (kh : Keeps s0 s) : KeepsO s0 (execRecStart n s) := by
  unfold execRecStart
  repeat' first
    | with_reducible first | assumption | intro _
    | (extract_lets +onlyGivenNames x
       first
       | (refine Keeps.via (x := x) ?_ fun kh1 => ?_; rotate_left; clear_value x; rotate_left; subst x)
       | (refine KeepsO.via (x := x) ?_ fun kh1 => ?_; rotate_left; clear_value x; rotate_left; subst x)
       | clear_value x)
    | with_reducible first | apply State.openRecording_keeps | apply State.runCmd_keeps | apply denied_keeps
    | refine denied_keeps_e (by with_reducible assumption) ?_
    | with_reducible first | apply giving_keeps
    | refine giving_keeps_e (by with_reducible assumption) ?_
    | with_reducible first | apply State.tap_keeps | apply KeepsO.next
    | split
    | with_reducible exact Keeps.refl _

theorem execRecStop_keeps {s0 : State} (n : Nat) (s : State) (kh : Keeps s0 s) : KeepsO s0 (execRecStop n s) := by
  unfold execRecStop
  repeat' first
    | with_reducible first | assumption | intro _
    | with_reducible first | apply State.runCmd_keeps | apply giving_keeps
    | refine giving_keeps_e (by with_reducible assumption) ?_
    | with_reducible first | apply State.setBit_keeps | apply KeepsO.next
    | with_reducible exact Keeps.refl _

theorem execRecStatus_keeps {s0 : State} (n : Nat) (s : State) (kh : Keeps s0 s) : KeepsO s0 (execRecStatus n s) := by
  unfold execRecStatus
  repeat' first
    | with_reducible first | assumption | intro _
    | with_reducible first | apply State.runCmd_keeps | apply giving_keeps
    | refine giving_keeps_e (by with_reducible assumption) ?_
    | with_reducible first | apply KeepsO.next
    | with_reducible exact Keeps.refl _

theorem execRecMarker_keeps {s0 : State} (n : Nat) (s : State) (kh : Keeps s0 s) : KeepsO s0 (execRecMarker n s) := by
  unfold execRecMarker
  repeat' first
    | with_reducible first | assumption | intro _
    | with_reducible first | apply State.runCmd_keeps | apply giving_keeps
    | refine giving_keeps_e (by with_reducible assumption) ?_
    | with_reducible first | apply State.tap_keeps | apply KeepsO.next
    | with_reducible exact Keeps.refl _

theorem State.loadRecords_keeps {s0 : State} (s : State) (l : List RecItem) (rest : List Byte) (streamed begun : Bool) (blobs : Nat) (kh : Keeps s0 s) : Keeps s0 (State.loadRecords s l rest streamed begun blobs) := by
  unfold State.loadRecords
  repeat' first
    | with_reducible first | assumption | intro _
    | (extract_lets +onlyGivenNames x
       first
       | (refine Keeps.via (x := x) ?_ fun kh1 => ?_; rotate_left; clear_value x; rotate_left; subst x)
       | clear_value x)
    | with_reducible first | apply State.modRec_keeps | apply State.setRegN_keeps
    | split
    | with_reducible exact Keeps.refl _
    | (with_reducible refine Keeps.mk ?_ rfl rfl rfl rfl rfl)

theorem execReplayLoad_keeps {s0 : State} (n : Nat) (begun : Bool) (s : State) (kh : Keeps s0 s) : KeepsO s0 (execReplayLoad n begun s) := by
  unfold execReplayLoad
  repeat' first
    | with_reducible first | assumption | intro _
    | (extract_lets +onlyGivenNames x
       first
       | (refine Keeps.via (x := x) ?_ fun kh1 => ?_; rotate_left; clear_value x; rotate_left; subst x)
       | (refine KeepsO.via (x := x) ?_ fun kh1 => ?_; rotate_left; clear_value x; rotate_left; subst x)
       | clear_value x)
    | with_reducible first | apply State.loadRecords_keeps | apply State.runCmd_keeps | apply denied_keeps
    | refine denied_keeps_e (by with_reducible assumption) ?_
    | with_reducible first | apply giving_keeps
    | refine giving_keeps_e (by with_reducible assumption) ?_
    | with_reducible first | apply State.refuseAccess_keeps | apply KeepsO.next
    | split
    | with_reducible exact Keeps.refl _

theorem execReplayStart_keeps {s0 : State} (n : Nat) (s : State) (kh : Keeps s0 s) : KeepsO s0 (execReplayStart n s) := by
  unfold execReplayStart
  repeat' first
    | with_reducible first | assumption | intro _
    | (extract_lets +onlyGivenNames x
       first
       | (refine Keeps.via (x := x) ?_ fun kh1 => ?_; rotate_left; clear_value x; rotate_left; subst x)
       | (refine KeepsO.via (x := x) ?_ fun kh1 => ?_; rotate_left; clear_value x; rotate_left; subst x)
       | clear_value x)
    | with_reducible first | apply State.modRec_keeps | apply State.runCmd_keeps | apply denied_keeps
    | refine denied_keeps_e (by with_reducible assumption) ?_
    | with_reducible first | apply giving_keeps
    | refine giving_keeps_e (by with_reducible assumption) ?_
    | with_reducible first | apply State.stepTime_keeps | apply State.setRegN_keeps | apply KeepsO.next
    | split
    | with_reducible exact Keeps.refl _
    | (with_reducible refine Keeps.mk ?_ rfl rfl rfl rfl rfl)

theorem execReplayStop_keeps {s0 : State} (n : Nat) (s : State) (kh : Keeps s0 s) : KeepsO s0 (execReplayStop n s) := by
  unfold execReplayStop
  repeat' first
    | with_reducible first | assumption | intro _
    | with_reducible first | apply State.runCmd_keeps | apply giving_keeps
    | refine giving_keeps_e (by with_reducible assumption) ?_
    | with_reducible first | apply State.replayStop_keeps | apply KeepsO.next
    | split
    | with_reducible exact Keeps.refl _

theorem execReplayStatus_keeps {s0 : State} (n : Nat) (s : State) (kh : Keeps s0 s) : KeepsO s0 (execReplayStatus n s) := by
  unfold execReplayStatus
  repeat' first
    | with_reducible first | assumption | intro _
    | with_reducible first | apply State.runCmd_keeps | apply giving_keeps
    | refine giving_keeps_e (by with_reducible assumption) ?_
    | with_reducible first | apply KeepsO.next
    | with_reducible exact Keeps.refl _

theorem State.resume_keeps {s0 : State} (s : State) (kh : Keeps s0 s) : Keeps s0 (State.resume s) := by
  unfold State.resume
  repeat' first
    | with_reducible first | assumption | intro _
    | with_reducible first | apply State.setBit_keeps
    | split
    | with_reducible exact Keeps.refl _

theorem execReplayResume_keeps {s0 : State} (n : Nat) (s : State) (kh : Keeps s0 s) : KeepsO s0 (execReplayResume n s) := by
  unfold execReplayResume
  repeat' first
    | with_reducible first | assumption | intro _
    | with_reducible first | apply State.resume_keeps | apply State.runCmd_keeps | apply giving_keeps
    | refine giving_keeps_e (by with_reducible assumption) ?_
    | with_reducible first | apply KeepsO.next
    | with_reducible exact Keeps.refl _

theorem State.atTime_keeps {s0 : State} (s : State) (t : Nat) (f : State → State) (kh : Keeps s0 s) (hf : ∀ a0, Keeps s0 a0 → Keeps s0 (f a0)) : Keeps s0 (State.atTime s t f) := by
  unfold State.atTime
  repeat' first
    | with_reducible first | assumption | intro _
    | with_reducible first | apply hf
    | with_reducible exact Keeps.refl _
    | (with_reducible refine Keeps.mk ?_ rfl rfl rfl rfl rfl)

theorem State.injectFrame_keeps {s0 : State} (s : State) (i : Nat) (d : List Byte) (kh : Keeps s0 s) : Keeps s0 (State.injectFrame s i d) := by
  unfold State.injectFrame
  repeat' first
    | with_reducible first | assumption | intro _
    | (extract_lets +onlyGivenNames x
       first
       | (refine Keeps.via (x := x) ?_ fun kh1 => ?_; rotate_left; clear_value x; rotate_left; subst x)
       | clear_value x)
    | with_reducible first | apply State.camBook_keeps | apply State.camOpened_keeps | apply State.hubSet_keeps
    | split
    | with_reducible exact Keeps.refl _

theorem State.injectEth_keeps {s0 : State} (s : State) (d : List Byte) (kh : Keeps s0 s) : Keeps s0 (State.injectEth s d) := by
  unfold State.injectEth
  repeat' first
    | with_reducible first | assumption | intro _
    | (extract_lets +onlyGivenNames x
       first
       | (refine Keeps.via (x := x) ?_ fun kh1 => ?_; rotate_left; clear_value x; rotate_left; subst x)
       | clear_value x)
    | with_reducible first | apply State.ethAccept_keeps
    | split
    | with_reducible exact Keeps.refl _

theorem State.injectCan_keeps {s0 : State} (s : State) (d : List Byte) (kh : Keeps s0 s) : Keeps s0 (State.injectCan s d) := by
  unfold State.injectCan
  repeat' first
    | with_reducible first | assumption | intro _
    | (extract_lets +onlyGivenNames x
       first
       | (refine Keeps.via (x := x) ?_ fun kh1 => ?_; rotate_left; clear_value x; rotate_left; subst x)
       | clear_value x)
    | with_reducible first | apply State.canDeliver_keeps
    | split
    | with_reducible exact Keeps.refl _

theorem State.injectSample_keeps {s0 : State} (s : State) (sub : Nat) (d : List Byte) (kh : Keeps s0 s) : Keeps s0 (State.injectSample s sub d) := by
  unfold State.injectSample
  repeat' first
    | with_reducible first | assumption | intro _
    | with_reducible first | apply State.spiFrameIn_keeps | apply State.sentWordIn_keeps
    | split
    | with_reducible exact Keeps.refl _

theorem State.injectEdge_keeps {s0 : State} (s : State) (d : List Byte) (kh : Keeps s0 s) : Keeps s0 (State.injectEdge s d) := by
  unfold State.injectEdge
  repeat' first
    | with_reducible first | assumption | intro _
    | (extract_lets +onlyGivenNames x
       first
       | (refine Keeps.via (x := x) ?_ fun kh1 => ?_; rotate_left; clear_value x; rotate_left; subst x)
       | clear_value x)
    | with_reducible first | apply State.pinChatters_keeps | apply State.pinTake_keeps | apply State.modPin_keeps | apply State.setBit_keeps
    | split
    | with_reducible exact Keeps.refl _
    | (with_reducible refine Keeps.mk ?_ rfl rfl rfl rfl rfl)

theorem State.injectRec_keeps {s0 : State} (s : State) (r : RecItem) (kh : Keeps s0 s) : Keeps s0 (State.injectRec s r) := by
  unfold State.injectRec
  repeat' first
    | with_reducible first | assumption | intro _
    | with_reducible first | apply State.injectEdge_keeps | apply State.injectSample_keeps | apply State.injectCan_keeps | apply State.injectEth_keeps | apply State.injectFrame_keeps
    | split
    | with_reducible exact Keeps.refl _

theorem State.passRec_keeps {s0 : State} (s : State) (kh : Keeps s0 s) : Keeps s0 (State.passRec s) := by
  unfold State.passRec
  repeat' first
    | with_reducible first | assumption | intro _
    | (extract_lets +onlyGivenNames x
       first
       | (refine Keeps.via (x := x) ?_ fun kh1 => ?_; rotate_left; clear_value x; rotate_left; subst x)
       | clear_value x)
    | with_reducible first | apply State.modRec_keeps | apply State.setRegN_keeps
    | split
    | with_reducible exact Keeps.refl _
    | (with_reducible refine Keeps.mk ?_ rfl rfl rfl rfl rfl)

theorem State.moreStream_keeps {s0 : State} (s : State) (kh : Keeps s0 s) : Keeps s0 (State.moreStream s) := by
  unfold State.moreStream
  repeat' first
    | with_reducible first | assumption | intro _
    | (extract_lets +onlyGivenNames x
       first
       | (refine Keeps.via (x := x) ?_ fun kh1 => ?_; rotate_left; clear_value x; rotate_left; subst x)
       | clear_value x)
    | with_reducible first | apply State.modRec_keeps
    | split
    | with_reducible exact Keeps.refl _
    | (with_reducible refine Keeps.mk ?_ rfl rfl rfl rfl rfl)

theorem execReplayInject_keeps {s0 : State} (inTime : Bool) (s : State) (kh : Keeps s0 s) : KeepsO s0 (execReplayInject inTime s) := by
  unfold execReplayInject
  repeat' first
    | with_reducible first | assumption | intro _
    | (extract_lets +onlyGivenNames x
       first
       | (refine Keeps.via (x := x) ?_ fun kh1 => ?_; rotate_left; clear_value x; rotate_left; subst x)
       | (refine KeepsO.via (x := x) ?_ fun kh1 => ?_; rotate_left; clear_value x; rotate_left; subst x)
       | clear_value x)
    | with_reducible first | apply State.moreStream_keeps | apply State.passRec_keeps | apply State.injectRec_keeps | apply State.atTime_keeps | apply State.diverge_keeps | apply State.replayStop_keeps | apply State.postC_keeps | apply KeepsO.next
    | split
    | with_reducible exact Keeps.refl _

end Sys2Proof.Machine
end

