-- ==== Sys2Proof/Laws/KeepsSnapshot.lean ====
section
/-! SUPPORT. Every operation of Machine/Snapshot.lean keeps the queue and the canonical form. -/

namespace Sys2Proof.Machine

theorem execFreezeIn_keeps {s0 : State} (s : State) (kh : Keeps s0 s) : KeepsO s0 (execFreezeIn s) := by
  unfold execFreezeIn
  repeat' first
    | with_reducible first | assumption | intro _
    | with_reducible first | apply State.freezeReq_keeps | apply KeepsO.next
    | with_reducible exact Keeps.refl _

theorem execFabricFreezeMessage_keeps {s0 : State} (node f : Nat) (s : State) (kh : Keeps s0 s) : KeepsO s0 (execFabricFreezeMessage node f s) := by
  unfold execFabricFreezeMessage
  repeat' first
    | with_reducible first | assumption | intro _
    | (extract_lets +onlyGivenNames x
       first
       | (refine Keeps.via (x := x) ?_ fun kh1 => ?_; rotate_left; clear_value x; rotate_left; subst x)
       | (refine KeepsO.via (x := x) ?_ fun kh1 => ?_; rotate_left; clear_value x; rotate_left; subst x)
       | clear_value x)
    | with_reducible first | apply State.freezeAt_keeps | apply State.modFrz_keeps | apply State.postC_keeps | apply KeepsO.next
    | split
    | with_reducible exact Keeps.refl _
    | (with_reducible refine Keeps.mk ?_ rfl rfl rfl rfl rfl)

theorem execTapFreezeRequest_keeps {s0 : State} (f : Nat) (s : State) (kh : Keeps s0 s) : KeepsO s0 (execTapFreezeRequest f s) := by
  unfold execTapFreezeRequest
  repeat' first
    | with_reducible first | assumption | intro _
    | with_reducible first | apply State.freezeReq_keeps | apply State.draw_keeps
    | refine State.draw_keeps_e (by with_reducible assumption) ?_
    | with_reducible first | apply KeepsO.next
    | split
    | with_reducible exact Keeps.refl _

theorem execSnapTrigger_keeps {s0 : State} (n : Nat) (s : State) (kh : Keeps s0 s) : KeepsO s0 (execSnapTrigger n s) := by
  unfold execSnapTrigger
  repeat' first
    | with_reducible first | assumption | intro _
    | (extract_lets +onlyGivenNames x
       first
       | (refine Keeps.via (x := x) ?_ fun kh1 => ?_; rotate_left; clear_value x; rotate_left; subst x)
       | (refine KeepsO.via (x := x) ?_ fun kh1 => ?_; rotate_left; clear_value x; rotate_left; subst x)
       | clear_value x)
    | with_reducible first | apply State.runCmd_keeps | apply denied_keeps
    | refine denied_keeps_e (by with_reducible assumption) ?_
    | with_reducible first | apply giving_keeps
    | refine giving_keeps_e (by with_reducible assumption) ?_
    | with_reducible first | apply State.freezeReq_keeps | apply KeepsO.next
    | split
    | with_reducible exact Keeps.refl _

theorem State.arm_keeps {s0 : State} (s : State) (kh : Keeps s0 s) : Keeps s0 (State.arm s) := by
  unfold State.arm
  repeat' first
    | with_reducible first | assumption | intro _
    | with_reducible first | apply State.setBit_keeps
    | with_reducible exact Keeps.refl _

theorem State.afterFreeze_keeps {s0 : State} (s : State) (kh : Keeps s0 s) : Keeps s0 (State.afterFreeze s) := by
  unfold State.afterFreeze
  repeat' first
    | with_reducible first | assumption | intro _
    | with_reducible first | apply State.arm_keeps | apply State.modFrz_keeps | apply State.setBit_keeps
    | split
    | with_reducible exact Keeps.refl _
    | (with_reducible refine Keeps.mk ?_ rfl rfl rfl rfl rfl)

theorem State.haltOrNot_keeps {s0 : State} (s : State) (kh : Keeps s0 s) : Keeps s0 (State.haltOrNot s) := by
  unfold State.haltOrNot
  repeat' first
    | with_reducible first | assumption | intro _
    | with_reducible first | apply State.halt_keeps | apply State.postC_keeps
    | split
    | with_reducible exact Keeps.refl _

theorem State.freezeRegs_keeps {s0 : State} (s : State) (kh : Keeps s0 s) : Keeps s0 (State.freezeRegs s) := by
  unfold State.freezeRegs
  repeat' first
    | with_reducible first | assumption | intro _
    | (extract_lets +onlyGivenNames x
       first
       | (refine Keeps.via (x := x) ?_ fun kh1 => ?_; rotate_left; clear_value x; rotate_left; subst x)
       | clear_value x)
    | with_reducible first | apply State.incReg_keeps | apply State.setBit_keeps | apply State.setRegN_keeps
    | split
    | with_reducible exact Keeps.refl _

theorem execFreezeEdge_keeps {s0 : State} (s : State) (kh : Keeps s0 s) : KeepsO s0 (execFreezeEdge s) := by
  unfold execFreezeEdge
  repeat' first
    | with_reducible first | assumption | intro _
    | (extract_lets +onlyGivenNames x
       first
       | (refine Keeps.via (x := x) ?_ fun kh1 => ?_; rotate_left; clear_value x; rotate_left; subst x)
       | (refine KeepsO.via (x := x) ?_ fun kh1 => ?_; rotate_left; clear_value x; rotate_left; subst x)
       | clear_value x)
    | with_reducible first | apply State.freezeRegs_keeps | apply State.haltOrNot_keeps | apply State.afterFreeze_keeps | apply State.chunkAbort_keeps | apply State.modFrz_keeps | apply State.each_keeps | apply KeepsO.next
    | split
    | with_reducible exact Keeps.refl _
    | (with_reducible refine Keeps.mk ?_ rfl rfl rfl rfl rfl)

theorem execFreezeOutEnd_keeps {s0 : State} (s : State) (kh : Keeps s0 s) : KeepsO s0 (execFreezeOutEnd s) := by
  unfold execFreezeOutEnd
  repeat' first
    | with_reducible first | assumption | intro _
    | with_reducible first | apply State.modFrz_keeps | apply KeepsO.next
    | split
    | with_reducible exact Keeps.refl _
    | (with_reducible refine Keeps.mk ?_ rfl rfl rfl rfl rfl)

theorem State.writeSnapshot_keeps {s0 : State} (s : State) (start : Nat) (kh : Keeps s0 s) : Keeps s0 (State.writeSnapshot s start) := by
  unfold State.writeSnapshot
  repeat' first
    | with_reducible first | assumption | intro _
    | (extract_lets +onlyGivenNames x
       first
       | (refine Keeps.via (x := x) ?_ fun kh1 => ?_; rotate_left; clear_value x; rotate_left; subst x)
       | clear_value x)
    | with_reducible first | apply State.snapWrite_keeps
    | refine State.snapWrite_keeps_e (by with_reducible assumption) ?_
    | with_reducible first | apply State.postC_keeps
    | split
    | with_reducible exact Keeps.refl _

theorem execSnapshotReadoutDone_keeps {s0 : State} (s : State) (kh : Keeps s0 s) : KeepsO s0 (execSnapshotReadoutDone s) := by
  unfold execSnapshotReadoutDone
  repeat' first
    | with_reducible first | assumption | intro _
    | (extract_lets +onlyGivenNames x
       first
       | (refine Keeps.via (x := x) ?_ fun kh1 => ?_; rotate_left; clear_value x; rotate_left; subst x)
       | (refine KeepsO.via (x := x) ?_ fun kh1 => ?_; rotate_left; clear_value x; rotate_left; subst x)
       | clear_value x)
    | with_reducible first | apply State.writeSnapshot_keeps | apply State.arm_keeps | apply State.modFrz_keeps | apply State.setBit_keeps | apply KeepsO.next
    | split
    | with_reducible exact Keeps.refl _
    | (with_reducible refine Keeps.mk ?_ rfl rfl rfl rfl rfl)

theorem actArm_keeps {s0 : State} (s : State) (v : Nat) (kh : Keeps s0 s) : Keeps s0 (actArm s v).1 := by
  unfold actArm
  repeat' first
    | with_reducible first | assumption | intro _
    | with_reducible first | apply State.arm_keeps | apply accept_keeps
    | refine accept_keeps_e (by with_reducible assumption) ?_
    | split
    | with_reducible exact Keeps.refl _
theorem actArm_keeps_e {s0 : State} {s : State} {v : Nat} {x0 x1} (ke : (actArm s v) = (x0, x1)) (kh : Keeps s0 s) : Keeps s0 x0 := by
  have k := actArm_keeps s v kh
  rw [ke] at k
  exact k

theorem execSnapArm_keeps {s0 : State} (m : Nat) (v : Dword) (s : State) (kh : Keeps s0 s) : KeepsO s0 (execSnapArm m v s) := by
  unfold execSnapArm
  repeat' first
    | with_reducible first | assumption | intro _
    | with_reducible first | apply actArm_keeps
    | refine actArm_keeps_e (by with_reducible assumption) ?_
    | with_reducible first | apply State.regBus_keeps | apply KeepsO.next
    | with_reducible exact Keeps.refl _

end Sys2Proof.Machine
end

