-- ==== Sys2Proof/Laws/KeepsRegOps.lean ====
section
/-! SUPPORT. Every operation of Machine/RegOps.lean keeps the queue and the canonical form. -/

namespace Sys2Proof.Machine

theorem State.afterRead_keeps {s0 : State} (s : State) (m first : Nat) (kh : Keeps s0 s) : Keeps s0 (State.afterRead s m first) := by
  unfold State.afterRead
  repeat' first
    | with_reducible first | assumption | intro _
    | with_reducible first | apply State.latchTime_keeps
    | split
    | with_reducible exact Keeps.refl _
    | (with_reducible refine Keeps.mk ?_ rfl rfl rfl rfl rfl)

theorem State.readPiece_keeps {s0 : State} (s : State) (m : Nat) (p : Piece) (kh : Keeps s0 s) : Keeps s0 (State.readPiece s m p).2 := by
  unfold State.readPiece
  repeat' first
    | with_reducible first | assumption | intro _
    | (extract_lets +onlyGivenNames x
       first
       | (refine Keeps.via (x := x) ?_ fun kh1 => ?_; rotate_left; clear_value x; rotate_left; subst x)
       | clear_value x)
    | with_reducible first | apply State.afterRead_keeps | apply State.vote_keeps
    | split
    | with_reducible exact Keeps.refl _
theorem State.readPiece_keeps_e {s0 : State} {s : State} {m : Nat} {p : Piece} {x0 x1} (ke : (State.readPiece s m p) = (x0, x1)) (kh : Keeps s0 s) : Keeps s0 x1 := by
  have k := State.readPiece_keeps s m p kh
  rw [ke] at k
  exact k

theorem State.readPieces_keeps {s0 : State} (m : Nat) : ∀ (l : List Piece) (s : State), Keeps s0 s → Keeps s0 (s.readPieces m l).2
  | [], _, h => h
  | p :: r, s, h => by
    unfold State.readPieces
    exact State.readPieces_keeps m r _ (State.readPiece_keeps _ _ _ h)

theorem State.plainWrite_keeps {s0 : State} (s : State) (r : RegRow) (base v : Nat) (kh : Keeps s0 s) : Keeps s0 (State.plainWrite s r base v) := by
  unfold State.plainWrite
  repeat' first
    | with_reducible first | assumption | intro _
    | with_reducible first | apply State.setRegN_keeps
    | split
    | with_reducible exact Keeps.refl _

theorem State.writeWhile_keeps {s0 : State} (s : State) (good : Bool) (r : RegRow) (base v : Nat) (kh : Keeps s0 s) : Keeps s0 (State.writeWhile s good r base v).1 := by
  unfold State.writeWhile
  repeat' first
    | with_reducible first | assumption | intro _
    | with_reducible first | apply State.plainWrite_keeps | apply accept_keeps
    | refine accept_keeps_e (by with_reducible assumption) ?_
    | split
    | with_reducible exact Keeps.refl _
theorem State.writeWhile_keeps_e {s0 : State} {s : State} {good : Bool} {r : RegRow} {base v : Nat} {x0 x1} (ke : (State.writeWhile s good r base v) = (x0, x1)) (kh : Keeps s0 s) : Keeps s0 x0 := by
  have k := State.writeWhile_keeps s good r base v kh
  rw [ke] at k
  exact k

theorem State.runWrite_keeps {s0 : State} (s : State) (v : Nat) (kh : Keeps s0 s) : Keeps s0 (State.runWrite s v) := by
  unfold State.runWrite
  repeat' first
    | with_reducible first | assumption | intro _
    | (extract_lets +onlyGivenNames x
       first
       | (refine Keeps.via (x := x) ?_ fun kh1 => ?_; rotate_left; clear_value x; rotate_left; subst x)
       | clear_value x)
    | with_reducible first | apply State.setBit_keeps | apply State.setFld_keeps
    | split
    | with_reducible exact Keeps.refl _

theorem State.sentWrite_keeps {s0 : State} (s : State) (r : RegRow) (j base v : Nat) (kh : Keeps s0 s) : Keeps s0 (State.sentWrite s r j base v) := by
  unfold State.sentWrite
  repeat' first
    | with_reducible first | assumption | intro _
    | (extract_lets +onlyGivenNames x
       first
       | (refine Keeps.via (x := x) ?_ fun kh1 => ?_; rotate_left; clear_value x; rotate_left; subst x)
       | clear_value x)
    | with_reducible first | apply State.plainWrite_keeps | apply State.modSent_keeps
    | split
    | with_reducible exact Keeps.refl _
    | (with_reducible refine Keeps.mk ?_ rfl rfl rfl rfl rfl)

theorem State.mirrorFree_keeps {s0 : State} (s : State) (c v : Nat) (kh : Keeps s0 s) : Keeps s0 (State.mirrorFree s c v).1 := by
  unfold State.mirrorFree
  repeat' first
    | with_reducible first | assumption | intro _
    | with_reducible first | apply State.mirrorWrite_keeps
    | refine State.mirrorWrite_keeps_e (by with_reducible assumption) ?_
    | with_reducible first | apply State.draw_keeps
    | refine State.draw_keeps_e (by with_reducible assumption) ?_
    | with_reducible exact Keeps.refl _
theorem State.mirrorFree_keeps_e {s0 : State} {s : State} {c v : Nat} {x0 x1} (ke : (State.mirrorFree s c v) = (x0, x1)) (kh : Keeps s0 s) : Keeps s0 x0 := by
  have k := State.mirrorFree_keeps s c v kh
  rw [ke] at k
  exact k

theorem State.twinFree_keeps {s0 : State} (s : State) (k v : Nat) (kh : Keeps s0 s) : Keeps s0 (State.twinFree s k v).1 := by
  unfold State.twinFree
  repeat' first
    | with_reducible first | assumption | intro _
    | with_reducible first | apply State.twinWrite_keeps
    | refine State.twinWrite_keeps_e (by with_reducible assumption) ?_
    | with_reducible first | apply State.draw_keeps
    | refine State.draw_keeps_e (by with_reducible assumption) ?_
    | with_reducible exact Keeps.refl _
theorem State.twinFree_keeps_e {s0 : State} {s : State} {k v : Nat} {x0 x1} (ke : (State.twinFree s k v) = (x0, x1)) (kh : Keeps s0 s) : Keeps s0 x0 := by
  have k := State.twinFree_keeps s k v kh
  rw [ke] at k
  exact k

theorem State.actTime_keeps {s0 : State} (s : State) (m : Nat) (r : RegRow) (base i v : Nat) (kh : Keeps s0 s) : Keeps s0 (State.actTime s m r base i v).1 := by
  unfold State.actTime
  repeat' first
    | with_reducible first | assumption | intro _
    | with_reducible first | apply State.runWrite_keeps | apply State.writeWhile_keeps
    | refine State.writeWhile_keeps_e (by with_reducible assumption) ?_
    | with_reducible first | apply actStream_keeps
    | refine actStream_keeps_e (by with_reducible assumption) ?_
    | with_reducible first | apply actWheelCtrl_keeps
    | refine actWheelCtrl_keeps_e (by with_reducible assumption) ?_
    | with_reducible first | apply actWheelBase_keeps
    | refine actWheelBase_keeps_e (by with_reducible assumption) ?_
    | with_reducible first | apply State.publish_keeps | apply actStepGo_keeps
    | refine actStepGo_keeps_e (by with_reducible assumption) ?_
    | with_reducible first | apply actRate_keeps
    | refine actRate_keeps_e (by with_reducible assumption) ?_
    | with_reducible first | apply accept_keeps
    | refine accept_keeps_e (by with_reducible assumption) ?_
    | split
    | with_reducible exact Keeps.refl _
theorem State.actTime_keeps_e {s0 : State} {s : State} {m : Nat} {r : RegRow} {base i v : Nat} {x0 x1} (ke : (State.actTime s m r base i v) = (x0, x1)) (kh : Keeps s0 s) : Keeps s0 x0 := by
  have k := State.actTime_keeps s m r base i v kh
  rw [ke] at k
  exact k

theorem State.actSystem_keeps {s0 : State} (s : State) (r : RegRow) (base i v : Nat) (kh : Keeps s0 s) : Keeps s0 (State.actSystem s r base i v).1 := by
  unfold State.actSystem
  repeat' first
    | with_reducible first | assumption | intro _
    | with_reducible first | apply State.writeWhile_keeps
    | refine State.writeWhile_keeps_e (by with_reducible assumption) ?_
    | with_reducible first | apply State.plainWrite_keeps | apply actDomain_keeps
    | refine actDomain_keeps_e (by with_reducible assumption) ?_
    | with_reducible first | apply actStandby_keeps
    | refine actStandby_keeps_e (by with_reducible assumption) ?_
    | with_reducible first | apply State.hartKicked_keeps | apply actDebugLock_keeps
    | refine actDebugLock_keeps_e (by with_reducible assumption) ?_
    | with_reducible first | apply actArm_keeps
    | refine actArm_keeps_e (by with_reducible assumption) ?_
    | with_reducible first | apply actAttest_keeps
    | refine actAttest_keeps_e (by with_reducible assumption) ?_
    | with_reducible first | apply actFabricLimit_keeps
    | refine actFabricLimit_keeps_e (by with_reducible assumption) ?_
    | with_reducible first | apply actKick_keeps | apply accept_keeps
    | refine accept_keeps_e (by with_reducible assumption) ?_
    | split
    | with_reducible exact Keeps.refl _
theorem State.actSystem_keeps_e {s0 : State} {s : State} {r : RegRow} {base i v : Nat} {x0 x1} (ke : (State.actSystem s r base i v) = (x0, x1)) (kh : Keeps s0 s) : Keeps s0 x0 := by
  have k := State.actSystem_keeps s r base i v kh
  rw [ke] at k
  exact k

theorem State.actUnit_keeps {s0 : State} (s : State) (u : Nat) (r : RegRow) (base i v : Nat) (kh : Keeps s0 s) : Keeps s0 (State.actUnit s u r base i v).1 := by
  unfold State.actUnit
  repeat' first
    | with_reducible first | assumption | intro _
    | (extract_lets +onlyGivenNames x
       first
       | (refine Keeps.via (x := x) ?_ fun kh1 => ?_; rotate_left; clear_value x; rotate_left; subst x)
       | clear_value x)
    | with_reducible first | apply State.twinFree_keeps
    | refine State.twinFree_keeps_e (by with_reducible assumption) ?_
    | with_reducible first | apply State.mirrorFree_keeps
    | refine State.mirrorFree_keeps_e (by with_reducible assumption) ?_
    | with_reducible first | apply State.sentWrite_keeps | apply State.writeWhile_keeps
    | refine State.writeWhile_keeps_e (by with_reducible assumption) ?_
    | with_reducible first | apply State.plainWrite_keeps | apply State.repair_keeps | apply State.clearCet_keeps | apply State.capWrite_keeps
    | refine State.capWrite_keeps_e (by with_reducible assumption) ?_
    | with_reducible first | apply State.chOffWrite_keeps
    | refine State.chOffWrite_keeps_e (by with_reducible assumption) ?_
    | with_reducible first | apply State.chCfgWrite_keeps
    | refine State.chCfgWrite_keeps_e (by with_reducible assumption) ?_
    | with_reducible first | apply State.tgWrite_keeps
    | refine State.tgWrite_keeps_e (by with_reducible assumption) ?_
    | with_reducible first | apply State.solConfig_keeps
    | refine State.solConfig_keeps_e (by with_reducible assumption) ?_
    | with_reducible first | apply actCanTx_keeps
    | refine actCanTx_keeps_e (by with_reducible assumption) ?_
    | with_reducible first | apply actCanCtrl_keeps
    | refine actCanCtrl_keeps_e (by with_reducible assumption) ?_
    | with_reducible first | apply actCanRam_keeps
    | refine actCanRam_keeps_e (by with_reducible assumption) ?_
    | with_reducible first | apply actEthTbl_keeps
    | refine actEthTbl_keeps_e (by with_reducible assumption) ?_
    | with_reducible first | apply actCamStr_keeps
    | refine actCamStr_keeps_e (by with_reducible assumption) ?_
    | with_reducible first | apply actCamPort_keeps
    | refine actCamPort_keeps_e (by with_reducible assumption) ?_
    | with_reducible first | apply State.bamCtrlWrite_keeps
    | refine State.bamCtrlWrite_keeps_e (by with_reducible assumption) ?_
    | with_reducible first | apply State.bamCfgWrite_keeps
    | refine State.bamCfgWrite_keeps_e (by with_reducible assumption) ?_
    | with_reducible first | apply accept_keeps
    | refine accept_keeps_e (by with_reducible assumption) ?_
    | split
    | with_reducible exact Keeps.refl _
theorem State.actUnit_keeps_e {s0 : State} {s : State} {u : Nat} {r : RegRow} {base i v : Nat} {x0 x1} (ke : (State.actUnit s u r base i v) = (x0, x1)) (kh : Keeps s0 s) : Keeps s0 x0 := by
  have k := State.actUnit_keeps s u r base i v kh
  rw [ke] at k
  exact k

theorem State.writeValue_keeps {s0 : State} (s : State) (m : Nat) (r : RegRow) (first base v : Nat) (kh : Keeps s0 s) : Keeps s0 (State.writeValue s m r first base v).1 := by
  unfold State.writeValue
  repeat' first
    | with_reducible first | assumption | intro _
    | (extract_lets +onlyGivenNames x
       first
       | (refine Keeps.via (x := x) ?_ fun kh1 => ?_; rotate_left; clear_value x; rotate_left; subst x)
       | clear_value x)
    | with_reducible first | apply State.actUnit_keeps
    | refine State.actUnit_keeps_e (by with_reducible assumption) ?_
    | with_reducible first | apply State.actSystem_keeps
    | refine State.actSystem_keeps_e (by with_reducible assumption) ?_
    | with_reducible first | apply State.actTime_keeps
    | refine State.actTime_keeps_e (by with_reducible assumption) ?_
    | with_reducible first | apply State.plainWrite_keeps | apply State.submit_keeps
    | refine State.submit_keeps_e (by with_reducible assumption) ?_
    | with_reducible first | apply accept_keeps
    | refine accept_keeps_e (by with_reducible assumption) ?_
    | split
    | with_reducible exact Keeps.refl _
theorem State.writeValue_keeps_e {s0 : State} {s : State} {m : Nat} {r : RegRow} {first base v : Nat} {x0 x1} (ke : (State.writeValue s m r first base v) = (x0, x1)) (kh : Keeps s0 s) : Keeps s0 x0 := by
  have k := State.writeValue_keeps s m r first base v kh
  rw [ke] at k
  exact k

theorem State.writePiece_keeps {s0 : State} (s : State) (m : Nat) (p : Piece) (d : List Byte) (kh : Keeps s0 s) : Keeps s0 (State.writePiece s m p d).1 := by
  unfold State.writePiece
  repeat' first
    | with_reducible first | assumption | intro _
    | (extract_lets +onlyGivenNames x
       first
       | (refine Keeps.via (x := x) ?_ fun kh1 => ?_; rotate_left; clear_value x; rotate_left; subst x)
       | clear_value x)
    | with_reducible first | apply State.writeValue_keeps
    | refine State.writeValue_keeps_e (by with_reducible assumption) ?_
    | with_reducible first | apply State.writeRequest_keeps
    | refine State.writeRequest_keeps_e (by with_reducible assumption) ?_
    | with_reducible first | apply refuse_keeps
    | refine refuse_keeps_e (by with_reducible assumption) ?_
    | with_reducible first | apply accept_keeps
    | refine accept_keeps_e (by with_reducible assumption) ?_
    | with_reducible first | apply State.modCan_keeps
    | split
    | with_reducible exact Keeps.refl _
    | (with_reducible refine Keeps.mk ?_ rfl rfl rfl rfl rfl)
theorem State.writePiece_keeps_e {s0 : State} {s : State} {m : Nat} {p : Piece} {d : List Byte} {x0 x1} (ke : (State.writePiece s m p d) = (x0, x1)) (kh : Keeps s0 s) : Keeps s0 x0 := by
  have k := State.writePiece_keeps s m p d kh
  rw [ke] at k
  exact k

theorem State.writePieces_keeps {s0 : State} (m : Nat) : ∀ (l : List Piece) (s : State) (d : List Byte), Keeps s0 s → Keeps s0 (s.writePieces m l d).1
  | [], _, _, h => h
  | p :: r, s, d, h => by
    unfold State.writePieces
    have h1 := State.writePiece_keeps s m p (d.take p.len) h
    split
    · rename_i g
      rw [g] at h1
      exact h1
    · rename_i g
      rw [g] at h1
      exact State.writePieces_keeps m r _ _ h1
theorem State.writePieces_keeps_e {s0 s t : State} {m : Nat} {l : List Piece} {d : List Byte} {c : Option Status} (e : s.writePieces m l d = (t, c)) (h : Keeps s0 s) : Keeps s0 t := by
  have q := State.writePieces_keeps m l s d h
  rw [e] at q
  exact q

theorem State.writeUnit_keeps {s0 : State} (s : State) (m a len : Nat) (d : List Byte) (kh : Keeps s0 s) : Keeps s0 (State.writeUnit s m a len d).1 := by
  unfold State.writeUnit
  repeat' first
    | with_reducible first | assumption | intro _
    | with_reducible first | apply State.writePieces_keeps
    | refine State.writePieces_keeps_e (by with_reducible assumption) ?_
    | with_reducible first | apply refuse_keeps
    | refine refuse_keeps_e (by with_reducible assumption) ?_
    | split
    | with_reducible exact Keeps.refl _
theorem State.writeUnit_keeps_e {s0 : State} {s : State} {m a len : Nat} {d : List Byte} {x0 x1} (ke : (State.writeUnit s m a len d) = (x0, x1)) (kh : Keeps s0 s) : Keeps s0 x0 := by
  have k := State.writeUnit_keeps s m a len d kh
  rw [ke] at k
  exact k

theorem State.readUnit_keeps {s0 : State} (s : State) (m a len : Nat) (kh : Keeps s0 s) : Keeps s0 (State.readUnit s m a len).2 := by
  unfold State.readUnit
  repeat' first
    | with_reducible first | assumption | intro _
    | with_reducible first | apply State.readPieces_keeps
    | split
    | with_reducible exact Keeps.refl _
theorem State.readUnit_keeps_e {s0 : State} {s : State} {m a len : Nat} {x0 x1} (ke : (State.readUnit s m a len) = (x0, x1)) (kh : Keeps s0 s) : Keeps s0 x1 := by
  have k := State.readUnit_keeps s m a len kh
  rw [ke] at k
  exact k

end Sys2Proof.Machine
end

