-- ==== Sys2Proof/Laws/KeepsBus.lean ====
section
/-! SUPPORT. Every operation of Machine/Bus.lean keeps the queue and the canonical form. -/

namespace Sys2Proof.Machine

theorem State.decodeAt_keeps {s0 : State} (s : State) (a errs : Nat) (kh : Keeps s0 s) : Keeps s0 (State.decodeAt s a errs).2 := by
  unfold State.decodeAt
  repeat' first
    | with_reducible first | assumption | intro _
    | (extract_lets +onlyGivenNames x
       first
       | (refine Keeps.via (x := x) ?_ fun kh1 => ?_; rotate_left; clear_value x; rotate_left; subst x)
       | clear_value x)
    | with_reducible first | apply State.decodePage_keeps
    | refine State.decodePage_keeps_e (by with_reducible assumption) ?_
    | with_reducible first | apply State.memEvent_keeps | apply State.draw_keeps
    | refine State.draw_keeps_e (by with_reducible assumption) ?_
    | split
    | with_reducible exact Keeps.refl _
    | (with_reducible refine Keeps.mk ?_ rfl rfl rfl rfl rfl)
theorem State.decodeAt_keeps_e {s0 : State} {s : State} {a errs : Nat} {x0 x1} (ke : (State.decodeAt s a errs) = (x0, x1)) (kh : Keeps s0 s) : Keeps s0 x1 := by
  have k := State.decodeAt_keeps s a errs kh
  rw [ke] at k
  exact k

theorem State.dramRead_keeps {s0 : State} (s : State) (a n errs : Nat) (kh : Keeps s0 s) : Keeps s0 (State.dramRead s a n errs).2.2 := by
  unfold State.dramRead
  repeat' first
    | with_reducible first | assumption | intro _
    | (extract_lets +onlyGivenNames x
       first
       | (refine Keeps.via (x := x) ?_ fun kh1 => ?_; rotate_left; clear_value x; rotate_left; subst x)
       | clear_value x)
    | with_reducible first | apply State.decodeAt_keeps
    | refine State.decodeAt_keeps_e (by with_reducible assumption) ?_
    | with_reducible first | apply State.dramGet_keeps
    | refine State.dramGet_keeps_e (by with_reducible assumption) ?_
    | with_reducible first | apply State.draw_keeps
    | refine State.draw_keeps_e (by with_reducible assumption) ?_
    | split
    | with_reducible exact Keeps.refl _
theorem State.dramRead_keeps_e {s0 : State} {s : State} {a n errs : Nat} {x0 x1 x2} (ke : (State.dramRead s a n errs) = (x0, x1, x2)) (kh : Keeps s0 s) : Keeps s0 x2 := by
  have k := State.dramRead_keeps s a n errs kh
  rw [ke] at k
  exact k

theorem State.spoilAt_keeps {s0 : State} (s : State) (a : Nat) (k : Decoded) (kh : Keeps s0 s) : Keeps s0 (State.spoilAt s a k) := by
  unfold State.spoilAt
  repeat' first
    | with_reducible first | assumption | intro _
    | with_reducible first | apply State.each_keeps | apply State.draw_keeps
    | refine State.draw_keeps_e (by with_reducible assumption) ?_
    | with_reducible first | apply State.setLine_keeps
    | split
    | with_reducible exact Keeps.refl _

theorem State.dramWrite_keeps {s0 : State} (s : State) (a : Nat) (d : List Byte) (p : Bool) (errs : Nat) (kh : Keeps s0 s) : Keeps s0 (State.dramWrite s a d p errs) := by
  unfold State.dramWrite
  repeat' first
    | with_reducible first | assumption | intro _
    | (extract_lets +onlyGivenNames x
       first
       | (refine Keeps.via (x := x) ?_ fun kh1 => ?_; rotate_left; clear_value x; rotate_left; subst x)
       | clear_value x)
    | with_reducible first | apply State.spoilAt_keeps | apply State.decodeAt_keeps
    | refine State.decodeAt_keeps_e (by with_reducible assumption) ?_
    | with_reducible first | apply State.dramSet_keeps
    | split
    | with_reducible exact Keeps.refl _

theorem State.padGet_keeps {s0 : State} (s : State) (t off n errs : Nat) (kh : Keeps s0 s) : Keeps s0 (State.padGet s t off n errs).2.2 := by
  unfold State.padGet
  repeat' first
    | with_reducible first | assumption | intro _
    | (extract_lets +onlyGivenNames x
       first
       | (refine Keeps.via (x := x) ?_ fun kh1 => ?_; rotate_left; clear_value x; rotate_left; subst x)
       | clear_value x)
    | with_reducible first | apply State.padReads_keeps
    | refine State.padReads_keeps_e (by with_reducible assumption) ?_
    | split
    | with_reducible exact Keeps.refl _
theorem State.padGet_keeps_e {s0 : State} {s : State} {t off n errs : Nat} {x0 x1 x2} (ke : (State.padGet s t off n errs) = (x0, x1, x2)) (kh : Keeps s0 s) : Keeps s0 x2 := by
  have k := State.padGet_keeps s t off n errs kh
  rw [ke] at k
  exact k

theorem State.padSet_keeps {s0 : State} (s : State) (t off : Nat) (d : List Byte) (p : Bool) (errs : Nat) (kh : Keeps s0 s) : Keeps s0 (State.padSet s t off d p errs) := by
  unfold State.padSet
  repeat' first
    | with_reducible first | assumption | intro _
    | (extract_lets +onlyGivenNames x
       first
       | (refine Keeps.via (x := x) ?_ fun kh1 => ?_; rotate_left; clear_value x; rotate_left; subst x)
       | clear_value x)
    | with_reducible first | apply State.padWrite_keeps | apply State.padRead_keeps
    | refine State.padRead_keeps_e (by with_reducible assumption) ?_
    | with_reducible first | apply State.each_keeps
    | split
    | with_reducible exact Keeps.refl _

theorem State.serveRead_keeps {s0 : State} (s : State) (m a len errs : Nat) (kh : Keeps s0 s) : Keeps s0 (State.serveRead s m a len errs).1 := by
  unfold State.serveRead
  repeat' first
    | with_reducible first | assumption | intro _
    | (extract_lets +onlyGivenNames x
       first
       | (refine Keeps.via (x := x) ?_ fun kh1 => ?_; rotate_left; clear_value x; rotate_left; subst x)
       | clear_value x)
    | with_reducible first | apply State.padGet_keeps
    | refine State.padGet_keeps_e (by with_reducible assumption) ?_
    | with_reducible first | apply State.dramRead_keeps
    | refine State.dramRead_keeps_e (by with_reducible assumption) ?_
    | with_reducible first | apply State.readUnit_keeps
    | refine State.readUnit_keeps_e (by with_reducible assumption) ?_
    | split
    | with_reducible exact Keeps.refl _
theorem State.serveRead_keeps_e {s0 : State} {s : State} {m a len errs : Nat} {x0 x1} (ke : (State.serveRead s m a len errs) = (x0, x1)) (kh : Keeps s0 s) : Keeps s0 x0 := by
  have k := State.serveRead_keeps s m a len errs kh
  rw [ke] at k
  exact k

theorem State.serveWrite_keeps {s0 : State} (s : State) (m a : Nat) (d : List Byte) (poison : Bool) (errs : Nat) (kh : Keeps s0 s) : Keeps s0 (State.serveWrite s m a d poison errs).1 := by
  unfold State.serveWrite
  repeat' first
    | with_reducible first | assumption | intro _
    | with_reducible first | apply State.padSet_keeps | apply State.dramWrite_keeps | apply State.writeUnit_keeps
    | refine State.writeUnit_keeps_e (by with_reducible assumption) ?_
    | split
    | with_reducible exact Keeps.refl _
theorem State.serveWrite_keeps_e {s0 : State} {s : State} {m a : Nat} {d : List Byte} {poison : Bool} {errs : Nat} {x0 x1} (ke : (State.serveWrite s m a d poison errs) = (x0, x1)) (kh : Keeps s0 s) : Keeps s0 x0 := by
  have k := State.serveWrite_keeps s m a d poison errs kh
  rw [ke] at k
  exact k

theorem State.local_keeps {s0 : State} (s : State) (m : Nat) (k : AccessKind) (a len : Nat) (d : List Byte) (poison : Bool) (errs : Nat) (kh : Keeps s0 s) : Keeps s0 (State.local s m k a len d poison errs) := by
  unfold State.local
  repeat' first
    | with_reducible first | assumption | intro _
    | with_reducible first | apply State.serveWrite_keeps
    | refine State.serveWrite_keeps_e (by with_reducible assumption) ?_
    | with_reducible first | apply State.serveRead_keeps
    | refine State.serveRead_keeps_e (by with_reducible assumption) ?_
    | with_reducible first | apply State.viaBus_keeps
    | split
    | with_reducible exact Keeps.refl _

theorem State.remoteAccess_keeps {s0 : State} (s : State) (m : Nat) (k : AccessKind) (a len : Nat) (d : List Byte) (poison : Bool) (node : Nat) (kh : Keeps s0 s) : Keeps s0 (State.remoteAccess s m k a len d poison node) := by
  unfold State.remoteAccess
  repeat' first
    | with_reducible first | assumption | intro _
    | (extract_lets +onlyGivenNames x
       first
       | (refine Keeps.via (x := x) ?_ fun kh1 => ?_; rotate_left; clear_value x; rotate_left; subst x)
       | clear_value x)
    | with_reducible first | apply State.sendPacket_keeps | apply State.busDeny_keeps | apply State.busFail_keeps
    | split
    | with_reducible exact Keeps.refl _
    | (with_reducible refine Keeps.mk ?_ rfl rfl rfl rfl rfl)

theorem State.accessBy_keeps {s0 : State} (s : State) (m : Nat) (k : AccessKind) (a len : Nat) (d : List Byte) (poison : Bool) (errs : Nat) (kh : Keeps s0 s) : Keeps s0 (State.accessBy s m k a len d poison errs) := by
  unfold State.accessBy
  repeat' first
    | with_reducible first | assumption | intro _
    | with_reducible first | apply State.remoteAccess_keeps | apply State.local_keeps
    | split
    | with_reducible exact Keeps.refl _

theorem execAccess_keeps {s0 : State} (m : Nat) (kind : AccessKind) (addr len : Nat) (data : List Byte) (poison : Bool) (errs : Nat) (s : State) (kh : Keeps s0 s) : KeepsO s0 (execAccess m kind addr len data poison errs s) := by
  unfold execAccess
  repeat' first
    | with_reducible first | assumption | intro _
    | with_reducible first | apply State.accessBy_keeps | apply KeepsO.next
    | with_reducible exact Keeps.refl _

theorem execRegisterWrite_keeps {s0 : State} (m addr : Nat) (v : Dword) (s : State) (kh : Keeps s0 s) : KeepsO s0 (execRegisterWrite m addr v s) := by
  unfold execRegisterWrite
  repeat' first
    | with_reducible first | assumption | intro _
    | with_reducible first | apply State.local_keeps | apply KeepsO.next
    | split
    | with_reducible exact Keeps.refl _

theorem State.complete_keeps {s0 : State} (s : State) (k : BamPacket) (kh : Keeps s0 s) : Keeps s0 (State.complete s k) := by
  unfold State.complete
  repeat' first
    | with_reducible first | assumption | intro _
    | (extract_lets +onlyGivenNames x
       first
       | (refine Keeps.via (x := x) ?_ fun kh1 => ?_; rotate_left; clear_value x; rotate_left; subst x)
       | clear_value x)
    | with_reducible first | apply State.sendPacket_keeps
    | split
    | with_reducible exact Keeps.refl _

theorem State.serveRemote_keeps {s0 : State} (s : State) (k : BamPacket) (kh : Keeps s0 s) : Keeps s0 (State.serveRemote s k) := by
  unfold State.serveRemote
  repeat' first
    | with_reducible first | assumption | intro _
    | (extract_lets +onlyGivenNames x
       first
       | (refine Keeps.via (x := x) ?_ fun kh1 => ?_; rotate_left; clear_value x; rotate_left; subst x)
       | clear_value x)
    | with_reducible first | apply State.complete_keeps | apply State.local_keeps
    | split
    | with_reducible exact Keeps.refl _
    | (with_reducible refine Keeps.mk ?_ rfl rfl rfl rfl rfl)

theorem State.remoteDone_keeps {s0 : State} (s : State) (k : BamPacket) (c : Status) (kh : Keeps s0 s) : Keeps s0 (State.remoteDone s k c) := by
  unfold State.remoteDone
  repeat' first
    | with_reducible first | assumption | intro _
    | (extract_lets +onlyGivenNames x
       first
       | (refine Keeps.via (x := x) ?_ fun kh1 => ?_; rotate_left; clear_value x; rotate_left; subst x)
       | clear_value x)
    | with_reducible first | apply State.errorReply_keeps | apply State.answer_keeps
    | split
    | with_reducible exact Keeps.refl _
    | (with_reducible refine Keeps.mk ?_ rfl rfl rfl rfl rfl)

theorem State.epochDrop_keeps {s0 : State} (s : State) (kh : Keeps s0 s) : Keeps s0 (State.epochDrop s) := by
  unfold State.epochDrop
  repeat' first
    | with_reducible first | assumption | intro _
    | (extract_lets +onlyGivenNames x
       first
       | (refine Keeps.via (x := x) ?_ fun kh1 => ?_; rotate_left; clear_value x; rotate_left; subst x)
       | clear_value x)
    | with_reducible first | apply State.postC_keeps | apply State.incReg_keeps
    | split
    | with_reducible exact Keeps.refl _
    | (with_reducible refine Keeps.mk ?_ rfl rfl rfl rfl rfl)

theorem State.linkCounts_keeps {s0 : State} (s : State) (p : Nat) (k : BamPacket) (kh : Keeps s0 s) : Keeps s0 (State.linkCounts s p k) := by
  unfold State.linkCounts
  repeat' first
    | with_reducible first | assumption | intro _
    | (extract_lets +onlyGivenNames x
       first
       | (refine Keeps.via (x := x) ?_ fun kh1 => ?_; rotate_left; clear_value x; rotate_left; subst x)
       | clear_value x)
    | with_reducible first | apply State.flitRetry_keeps | apply State.addReg_keeps
    | split
    | with_reducible exact Keeps.refl _

theorem execBamPacketReceive_keeps {s0 : State} (p : Nat) (pkt : BamPacket) (s : State) (kh : Keeps s0 s) : KeepsO s0 (execBamPacketReceive p pkt s) := by
  unfold execBamPacketReceive
  repeat' first
    | with_reducible first | assumption | intro _
    | (extract_lets +onlyGivenNames x
       first
       | (refine Keeps.via (x := x) ?_ fun kh1 => ?_; rotate_left; clear_value x; rotate_left; subst x)
       | (refine KeepsO.via (x := x) ?_ fun kh1 => ?_; rotate_left; clear_value x; rotate_left; subst x)
       | clear_value x)
    | with_reducible first | apply State.linkCounts_keeps | apply State.epochDrop_keeps | apply State.remoteDone_keeps | apply State.serveRemote_keeps | apply State.sendPacket_keeps | apply KeepsO.next
    | split
    | with_reducible exact Keeps.refl _

theorem execRemoteAccessTimeout_keeps {s0 : State} (id : Nat) (s : State) (kh : Keeps s0 s) : KeepsO s0 (execRemoteAccessTimeout id s) := by
  unfold execRemoteAccessTimeout
  repeat' first
    | with_reducible first | assumption | intro _
    | (extract_lets +onlyGivenNames x
       first
       | (refine Keeps.via (x := x) ?_ fun kh1 => ?_; rotate_left; clear_value x; rotate_left; subst x)
       | (refine KeepsO.via (x := x) ?_ fun kh1 => ?_; rotate_left; clear_value x; rotate_left; subst x)
       | clear_value x)
    | with_reducible first | apply State.busFail_keeps | apply State.incReg_keeps | apply KeepsO.next
    | split
    | with_reducible exact Keeps.refl _
    | (with_reducible refine Keeps.mk ?_ rfl rfl rfl rfl rfl)

theorem State.regReads_keeps {s0 : State} (u w : Nat) : ∀ (n : Nat) (s : State) (off : Nat), Keeps s0 s → Keeps s0 (s.regReads u off w n).2
  | 0, _, _, h => h
  | n + 1, s, off, h => by
    unfold State.regReads
    exact State.regReads_keeps u w n _ _ (State.readUnit_keeps _ _ _ _ h)
theorem State.regReads_keeps_e {s0 s t : State} {u w n off : Nat} {d : List Byte} (e : s.regReads u off w n = (d, t)) (h : Keeps s0 s) : Keeps s0 t := by
  have q := State.regReads_keeps u w n s off h
  rw [e] at q
  exact q

theorem execRegRead_keeps {s0 : State} (n : Nat) (s : State) (kh : Keeps s0 s) : KeepsO s0 (execRegRead n s) := by
  unfold execRegRead
  repeat' first
    | with_reducible first | assumption | intro _
    | (extract_lets +onlyGivenNames x
       first
       | (refine Keeps.via (x := x) ?_ fun kh1 => ?_; rotate_left; clear_value x; rotate_left; subst x)
       | (refine KeepsO.via (x := x) ?_ fun kh1 => ?_; rotate_left; clear_value x; rotate_left; subst x)
       | clear_value x)
    | with_reducible first | apply State.regReads_keeps
    | refine State.regReads_keeps_e (by with_reducible assumption) ?_
    | with_reducible first | apply State.runCmd_keeps | apply denied_keeps
    | refine denied_keeps_e (by with_reducible assumption) ?_
    | with_reducible first | apply giving_keeps
    | refine giving_keeps_e (by with_reducible assumption) ?_
    | with_reducible first | apply KeepsO.next
    | split
    | with_reducible exact Keeps.refl _

theorem execRegWrite_keeps {s0 : State} (n : Nat) (s : State) (kh : Keeps s0 s) : KeepsO s0 (execRegWrite n s) := by
  unfold execRegWrite
  repeat' first
    | with_reducible first | assumption | intro _
    | (extract_lets +onlyGivenNames x
       first
       | (refine Keeps.via (x := x) ?_ fun kh1 => ?_; rotate_left; clear_value x; rotate_left; subst x)
       | (refine KeepsO.via (x := x) ?_ fun kh1 => ?_; rotate_left; clear_value x; rotate_left; subst x)
       | clear_value x)
    | with_reducible first | apply State.writeUnit_keeps
    | refine State.writeUnit_keeps_e (by with_reducible assumption) ?_
    | with_reducible first | apply State.runCmd_keeps | apply denied_keeps
    | refine denied_keeps_e (by with_reducible assumption) ?_
    | with_reducible first | apply okay_keeps
    | refine okay_keeps_e (by with_reducible assumption) ?_
    | with_reducible first | apply KeepsO.next
    | split
    | with_reducible exact Keeps.refl _

end Sys2Proof.Machine
end

