-- ==== Sys2Proof/Laws/KeepsControl.lean ====
section
/-! SUPPORT. Every operation of Machine/Control.lean keeps the queue and the canonical form. -/

namespace Sys2Proof.Machine

theorem State.showDepth_keeps {s0 : State} (s : State) (t : Nat) (kh : Keeps s0 s) : Keeps s0 (State.showDepth s t) := by
  unfold State.showDepth
  repeat' first
    | with_reducible first | assumption | intro _
    | with_reducible first | apply State.setFld_keeps
    | with_reducible exact Keeps.refl _

theorem State.pushLoop_keeps {s0 : State} (s : State) (t : Nat) (f : LoopFrame) (kh : Keeps s0 s) : Keeps s0 (State.pushLoop s t f) := by
  unfold State.pushLoop
  repeat' first
    | with_reducible first | assumption | intro _
    | with_reducible first | apply State.showDepth_keeps | apply State.tileAbort_keeps | apply State.modTile_keeps
    | split
    | with_reducible exact Keeps.refl _
    | (with_reducible refine Keeps.mk ?_ rfl rfl rfl rfl rfl)

theorem State.openLoop_keeps {s0 : State} (s : State) (c : TCtl) (n : Nat) (kh : Keeps s0 s) : Keeps s0 (State.openLoop s c n) := by
  unfold State.openLoop
  repeat' first
    | with_reducible first | assumption | intro _
    | with_reducible first | apply State.pushLoop_keeps
    | with_reducible exact Keeps.refl _

theorem State.loopIssue_keeps {s0 : State} (s : State) (c : TCtl) (f : State → State) (kh : Keeps s0 s) (hf : ∀ a0, Keeps s0 a0 → Keeps s0 (f a0)) : Keeps s0 (State.loopIssue s c f) := by
  unfold State.loopIssue
  repeat' first
    | with_reducible first | assumption | intro _
    | with_reducible first | apply hf | apply State.pushLoop_keeps | apply State.fetched_keeps
    | split
    | with_reducible exact Keeps.refl _

theorem execLoop_keeps {s0 : State} (c : TCtl) (count : Nat) (s : State) (kh : Keeps s0 s) : KeepsO s0 (execLoop c count s) := by
  unfold execLoop
  repeat' first
    | with_reducible first | assumption | intro _
    | with_reducible first | apply State.loopIssue_keeps | apply State.openLoop_keeps | apply KeepsO.next
    | with_reducible exact Keeps.refl _

theorem State.extendEnd_keeps {s0 : State} (s : State) (t n : Nat) (kh : Keeps s0 s) : Keeps s0 (State.extendEnd s t n) := by
  unfold State.extendEnd
  repeat' first
    | with_reducible first | assumption | intro _
    | with_reducible first | apply State.setRegN_keeps
    | with_reducible exact Keeps.refl _

theorem State.loopData_keeps {s0 : State} (s : State) (c : TCtl) (idx : Nat) (v : VReg) (kh : Keeps s0 s) : Keeps s0 (State.loopData s c idx v) := by
  unfold State.loopData
  repeat' first
    | with_reducible first | assumption | intro _
    | (extract_lets +onlyGivenNames x
       first
       | (refine Keeps.via (x := x) ?_ fun kh1 => ?_; rotate_left; clear_value x; rotate_left; subst x)
       | clear_value x)
    | with_reducible first | apply State.extendEnd_keeps | apply State.openLoop_keeps | apply State.bite_keeps | apply State.tileAbort_keeps
    | split
    | with_reducible exact Keeps.refl _

theorem execLoopd_keeps {s0 : State} (c : TCtl) (idx h off : Nat) (s : State) (kh : Keeps s0 s) : KeepsO s0 (execLoopd c idx h off s) := by
  unfold execLoopd
  repeat' first
    | with_reducible first | assumption | intro _
    | (extract_lets +onlyGivenNames x
       first
       | (refine Keeps.via (x := x) ?_ fun kh1 => ?_; rotate_left; clear_value x; rotate_left; subst x)
       | (refine KeepsO.via (x := x) ?_ fun kh1 => ?_; rotate_left; clear_value x; rotate_left; subst x)
       | clear_value x)
    | with_reducible first | apply State.loopData_keeps | apply State.loopIssue_keeps | apply State.padRead_keeps
    | refine State.padRead_keeps_e (by with_reducible assumption) ?_
    | with_reducible first | apply State.claim_keeps | apply State.try'_keeps | apply KeepsO.next
    | split
    | with_reducible exact Keeps.refl _

theorem State.closeLoop_keeps {s0 : State} (s : State) (t : Nat) (kh : Keeps s0 s) : Keeps s0 (State.closeLoop s t) := by
  unfold State.closeLoop
  repeat' first
    | with_reducible first | assumption | intro _
    | with_reducible first | apply State.showDepth_keeps | apply State.tileAbort_keeps | apply State.modTile_keeps | apply State.setFld_keeps
    | split
    | with_reducible exact Keeps.refl _
    | (with_reducible refine Keeps.mk ?_ rfl rfl rfl rfl rfl)

theorem execEndloop_keeps {s0 : State} (c : TCtl) (s : State) (kh : Keeps s0 s) : KeepsO s0 (execEndloop c s) := by
  unfold execEndloop
  repeat' first
    | with_reducible first | assumption | intro _
    | with_reducible first | apply State.closeLoop_keeps | apply State.fetched_keeps | apply KeepsO.next
    | split
    | with_reducible exact Keeps.refl _

theorem State.waitFor_keeps {s0 : State} (s : State) (t : Nat) (e : WaitEvent) (kh : Keeps s0 s) : Keeps s0 (State.waitFor s t e) := by
  unfold State.waitFor
  repeat' first
    | with_reducible first | assumption | intro _
    | with_reducible first | apply State.modTile_keeps
    | with_reducible exact Keeps.refl _
    | (with_reducible refine Keeps.mk ?_ rfl rfl rfl rfl rfl)

theorem State.takeSem_keeps {s0 : State} (s : State) (p j k : Nat) (kh : Keeps s0 s) : Keeps s0 (State.takeSem s p j k) := by
  unfold State.takeSem
  repeat' first
    | with_reducible first | assumption | intro _
    | with_reducible first | apply State.modJob_keeps | apply State.modPart_keeps
    | with_reducible exact Keeps.refl _
    | (with_reducible refine Keeps.mk ?_ rfl rfl rfl rfl rfl)

theorem State.takeCredit_keeps {s0 : State} (s : State) (p j k : Nat) (kh : Keeps s0 s) : Keeps s0 (State.takeCredit s p j k) := by
  unfold State.takeCredit
  repeat' first
    | with_reducible first | assumption | intro _
    | with_reducible first | apply State.modJob_keeps | apply State.modPart_keeps
    | split
    | with_reducible exact Keeps.refl _
    | (with_reducible refine Keeps.mk ?_ rfl rfl rfl rfl rfl)

theorem State.waitEvent_keeps {s0 : State} (s : State) (t p j : Nat) (e : WaitEvent) (kh : Keeps s0 s) : Keeps s0 (State.waitEvent s t p j e) := by
  unfold State.waitEvent
  repeat' first
    | with_reducible first | assumption | intro _
    | (extract_lets +onlyGivenNames x
       first
       | (refine Keeps.via (x := x) ?_ fun kh1 => ?_; rotate_left; clear_value x; rotate_left; subst x)
       | clear_value x)
    | with_reducible first | apply State.takeCredit_keeps | apply State.takeSem_keeps | apply State.waitFor_keeps | apply State.tileAbort_keeps
    | split
    | with_reducible exact Keeps.refl _

theorem execWait_keeps {s0 : State} (c : TCtl) (ev : WaitEvent) (s : State) (kh : Keeps s0 s) : KeepsO s0 (execWait c ev s) := by
  unfold execWait
  repeat' first
    | with_reducible first | assumption | intro _
    | with_reducible first | apply State.waitEvent_keeps | apply State.issue_keeps | apply KeepsO.next
    | split
    | with_reducible exact Keeps.refl _

theorem State.handOver_keeps {s0 : State} (s : State) (p : Nat) (e : WaitEvent) (take : State → Nat → State) (kh : Keeps s0 s) (htake : ∀ a0 a1, Keeps s0 a0 → Keeps s0 (take a0 a1)) : Keeps s0 (State.handOver s p e take) := by
  unfold State.handOver
  repeat' first
    | with_reducible first | assumption | intro _
    | (extract_lets +onlyGivenNames x
       first
       | (refine Keeps.via (x := x) ?_ fun kh1 => ?_; rotate_left; clear_value x; rotate_left; subst x)
       | clear_value x)
    | with_reducible first | apply htake | apply State.draw_keeps
    | refine State.draw_keeps_e (by with_reducible assumption) ?_
    | with_reducible first | apply State.modTile_keeps
    | split
    | with_reducible exact Keeps.refl _
    | (with_reducible refine Keeps.mk ?_ rfl rfl rfl rfl rfl)

theorem State.releaseEvent_keeps {s0 : State} (s : State) (p j : Nat) (e : WaitEvent) (kh : Keeps s0 s) : Keeps s0 (State.releaseEvent s p j e) := by
  unfold State.releaseEvent
  repeat' first
    | with_reducible first | assumption | intro _
    | (extract_lets +onlyGivenNames x
       first
       | (refine Keeps.via (x := x) ?_ fun kh1 => ?_; rotate_left; clear_value x; rotate_left; subst x)
       | clear_value x)
    | with_reducible first | apply State.handOver_keeps | apply State.takeCredit_keeps | apply State.takeSem_keeps | apply State.modJob_keeps | apply State.modPart_keeps
    | split
    | with_reducible exact Keeps.refl _
    | (with_reducible refine Keeps.mk ?_ rfl rfl rfl rfl rfl)

theorem execRelease_keeps {s0 : State} (c : TCtl) (ev : WaitEvent) (s : State) (kh : Keeps s0 s) : KeepsO s0 (execRelease c ev s) := by
  unfold execRelease
  repeat' first
    | with_reducible first | assumption | intro _
    | with_reducible first | apply State.releaseEvent_keeps | apply State.issue_keeps | apply KeepsO.next
    | split
    | with_reducible exact Keeps.refl _

theorem execHalf_keeps {s0 : State} (c : TCtl) (s : State) (kh : Keeps s0 s) : KeepsO s0 (execHalf c s) := by
  unfold execHalf
  repeat' first
    | with_reducible first | assumption | intro _
    | (extract_lets +onlyGivenNames x
       first
       | (refine Keeps.via (x := x) ?_ fun kh1 => ?_; rotate_left; clear_value x; rotate_left; subst x)
       | (refine KeepsO.via (x := x) ?_ fun kh1 => ?_; rotate_left; clear_value x; rotate_left; subst x)
       | clear_value x)
    | with_reducible first | apply State.issue_keeps | apply State.tileAbort_keeps | apply State.setBit_keeps | apply State.setFld_keeps | apply KeepsO.next
    | split
    | with_reducible exact Keeps.refl _

theorem State.retireEnd_keeps {s0 : State} (s : State) (c : TCtl) (kh : Keeps s0 s) : Keeps s0 (State.retireEnd s c) := by
  unfold State.retireEnd
  repeat' first
    | with_reducible first | assumption | intro _
    | (extract_lets +onlyGivenNames x
       first
       | (refine Keeps.via (x := x) ?_ fun kh1 => ?_; rotate_left; clear_value x; rotate_left; subst x)
       | clear_value x)
    | with_reducible first | apply State.postTile_keeps | apply State.modTile_keeps
    | split
    | with_reducible exact Keeps.refl _
    | (with_reducible refine Keeps.mk ?_ rfl rfl rfl rfl rfl)

theorem execEndOp_keeps {s0 : State} (c : TCtl) (s : State) (kh : Keeps s0 s) : KeepsO s0 (execEndOp c s) := by
  unfold execEndOp
  repeat' first
    | with_reducible first | assumption | intro _
    | (extract_lets +onlyGivenNames x
       first
       | (refine Keeps.via (x := x) ?_ fun kh1 => ?_; rotate_left; clear_value x; rotate_left; subst x)
       | (refine KeepsO.via (x := x) ?_ fun kh1 => ?_; rotate_left; clear_value x; rotate_left; subst x)
       | clear_value x)
    | with_reducible first | apply State.retireEnd_keeps | apply State.issue_keeps | apply State.jobDone_keeps | apply KeepsO.next
    | split
    | with_reducible exact Keeps.refl _

theorem State.hang_keeps {s0 : State} (s : State) (t p j : Nat) (kh : Keeps s0 s) : Keeps s0 (State.hang s t p j) := by
  unfold State.hang
  repeat' first
    | with_reducible first | assumption | intro _
    | (extract_lets +onlyGivenNames x
       first
       | (refine Keeps.via (x := x) ?_ fun kh1 => ?_; rotate_left; clear_value x; rotate_left; subst x)
       | clear_value x)
    | with_reducible first | apply State.postTile_keeps | apply State.modTile_keeps | apply State.setRegN_keeps
    | split
    | with_reducible exact Keeps.refl _
    | (with_reducible refine Keeps.mk ?_ rfl rfl rfl rfl rfl)

theorem execJobHang_keeps {s0 : State} (t : Nat) (s : State) (kh : Keeps s0 s) : KeepsO s0 (execJobHang t s) := by
  unfold execJobHang
  repeat' first
    | with_reducible first | assumption | intro _
    | with_reducible first | apply State.hang_keeps | apply KeepsO.next
    | split
    | with_reducible exact Keeps.refl _

end Sys2Proof.Machine
end

