-- ==== Sys2Proof/Laws/KeepsKvCmd.lean ====
section
/-! SUPPORT. Every operation of Machine/KvCmd.lean keeps the queue and the canonical form. -/

namespace Sys2Proof.Machine

theorem State.kvCmd_keeps {s0 : State} (s : State) (n code : Nat) (f : State → State × Done) (kh : Keeps s0 s) (hf : ∀ a0, Keeps s0 a0 → Keeps s0 (f a0).1) : Keeps s0 (State.kvCmd s n code f) := by
  unfold State.kvCmd
  repeat' first
    | with_reducible first | assumption | intro _
    | with_reducible first | apply hf
    | refine Keeps.pair1 (by with_reducible assumption) (hf _ ?_)
    | with_reducible first | apply State.runCmd_keeps | apply denied_keeps
    | refine denied_keeps_e (by with_reducible assumption) ?_
    | split
    | with_reducible exact Keeps.refl _

theorem execKvPoolCreate_keeps {s0 : State} (n : Nat) (s : State) (kh : Keeps s0 s) : KeepsO s0 (execKvPoolCreate n s) := by
  unfold execKvPoolCreate
  repeat' first
    | with_reducible first | assumption | intro _
    | (extract_lets +onlyGivenNames x
       first
       | (refine Keeps.via (x := x) ?_ fun kh1 => ?_; rotate_left; clear_value x; rotate_left; subst x)
       | (refine KeepsO.via (x := x) ?_ fun kh1 => ?_; rotate_left; clear_value x; rotate_left; subst x)
       | clear_value x)
    | with_reducible first | apply State.kvCmd_keeps | apply denied_keeps
    | refine denied_keeps_e (by with_reducible assumption) ?_
    | with_reducible first | apply okay_keeps
    | refine okay_keeps_e (by with_reducible assumption) ?_
    | with_reducible first | apply State.showFree_keeps | apply State.setRegN_keeps | apply KeepsO.next
    | split
    | with_reducible exact Keeps.refl _
    | (with_reducible refine Keeps.mk ?_ rfl rfl rfl rfl rfl)

theorem execKvPoolDestroy_keeps {s0 : State} (n : Nat) (s : State) (kh : Keeps s0 s) : KeepsO s0 (execKvPoolDestroy n s) := by
  unfold execKvPoolDestroy
  repeat' first
    | with_reducible first | assumption | intro _
    | (extract_lets +onlyGivenNames x
       first
       | (refine Keeps.via (x := x) ?_ fun kh1 => ?_; rotate_left; clear_value x; rotate_left; subst x)
       | (refine KeepsO.via (x := x) ?_ fun kh1 => ?_; rotate_left; clear_value x; rotate_left; subst x)
       | clear_value x)
    | with_reducible first | apply State.kvCmd_keeps | apply denied_keeps
    | refine denied_keeps_e (by with_reducible assumption) ?_
    | with_reducible first | apply okay_keeps
    | refine okay_keeps_e (by with_reducible assumption) ?_
    | with_reducible first | apply State.showCtxCount_keeps | apply State.setAmber_keeps | apply State.setRegN_keeps | apply KeepsO.next
    | split
    | with_reducible exact Keeps.refl _
    | (with_reducible refine Keeps.mk ?_ rfl rfl rfl rfl rfl)

theorem execKvCtxOpen_keeps {s0 : State} (n : Nat) (s : State) (kh : Keeps s0 s) : KeepsO s0 (execKvCtxOpen n s) := by
  unfold execKvCtxOpen
  repeat' first
    | with_reducible first | assumption | intro _
    | (extract_lets +onlyGivenNames x
       first
       | (refine Keeps.via (x := x) ?_ fun kh1 => ?_; rotate_left; clear_value x; rotate_left; subst x)
       | (refine KeepsO.via (x := x) ?_ fun kh1 => ?_; rotate_left; clear_value x; rotate_left; subst x)
       | clear_value x)
    | with_reducible first | apply State.kvCmd_keeps | apply denied_keeps
    | refine denied_keeps_e (by with_reducible assumption) ?_
    | with_reducible first | apply okay_keeps
    | refine okay_keeps_e (by with_reducible assumption) ?_
    | with_reducible first | apply State.showCtxCount_keeps | apply KeepsO.next
    | split
    | with_reducible exact Keeps.refl _
    | (with_reducible refine Keeps.mk ?_ rfl rfl rfl rfl rfl)

theorem State.adoptList_keeps {s0 : State} (s : State) (q : KvPool) (e : KvReq) (kh : Keeps s0 s) : Keeps s0 (State.adoptList s q e).2.2 := by
  unfold State.adoptList
  repeat' first
    | with_reducible first | assumption | intro _
    | (extract_lets +onlyGivenNames x
       first
       | (refine Keeps.via (x := x) ?_ fun kh1 => ?_; rotate_left; clear_value x; rotate_left; subst x)
       | clear_value x)
    | with_reducible first | apply State.hubGet_keeps
    | refine State.hubGet_keeps_e (by with_reducible assumption) ?_
    | split
    | with_reducible exact Keeps.refl _
theorem State.adoptList_keeps_e {s0 : State} {s : State} {q : KvPool} {e : KvReq} {x0 x1 x2} (ke : (State.adoptList s q e) = (x0, x1, x2)) (kh : Keeps s0 s) : Keeps s0 x2 := by
  have k := State.adoptList_keeps s q e kh
  rw [ke] at k
  exact k

theorem State.resolve_keeps {s0 : State} (p no : Nat) (q0 : KvPool) (ctxs0 : SMap KvCtx) : ∀ (l : List KvReq) (s : State) (w : KvWork), Keeps s0 s → Keeps s0 (s.resolve p no q0 ctxs0 l w).1
  | [], _, _, h => h
  | e :: r, s, w, h => by
    unfold State.resolve
    have h1 := State.adoptList_keeps s q0 e h
    generalize s.adoptList q0 e = x at h1 ⊢
    obtain ⟨l, b, s1⟩ := x
    dsimp only at h1 ⊢
    split
    · exact State.poisonBites_keeps _ _ _ _ h1
    · split
      · exact h1
      · exact State.resolve_keeps p no q0 ctxs0 r _ _ h1
theorem State.resolve_keeps_e {s0 s t : State} {p no : Nat} {q0 : KvPool} {ctxs0 : SMap KvCtx} {l : List KvReq} {w : KvWork} {x : Except Status KvWork} (e : s.resolve p no q0 ctxs0 l w = (t, x)) (h : Keeps s0 s) : Keeps s0 t := by
  have q := State.resolve_keeps p no q0 ctxs0 l s w h
  rw [e] at q
  exact q

theorem State.stepRefused_keeps {s0 : State} (s : State) (c : Status) (kh : Keeps s0 s) : Keeps s0 (State.stepRefused s c).1 := by
  unfold State.stepRefused
  repeat' first
    | with_reducible first | assumption | intro _
    | with_reducible first | apply denied_keeps
    | refine denied_keeps_e (by with_reducible assumption) ?_
    | with_reducible first | apply State.incReg_keeps
    | split
    | with_reducible exact Keeps.refl _
theorem State.stepRefused_keeps_e {s0 : State} {s : State} {c : Status} {x0 x1} (ke : (State.stepRefused s c) = (x0, x1)) (kh : Keeps s0 s) : Keeps s0 x0 := by
  have k := State.stepRefused_keeps s c kh
  rw [ke] at k
  exact k

theorem State.stepOpens_keeps {s0 : State} (s : State) (n p ho no : Nat) (w : KvWork) (plan : List Byte) (kh : Keeps s0 s) : Keeps s0 (State.stepOpens s n p ho no w plan) := by
  unfold State.stepOpens
  repeat' first
    | with_reducible first | assumption | intro _
    | (extract_lets +onlyGivenNames x
       first
       | (refine Keeps.via (x := x) ?_ fun kh1 => ?_; rotate_left; clear_value x; rotate_left; subst x)
       | clear_value x)
    | with_reducible first | apply State.showFree_keeps | apply State.modPool_keeps | apply State.setBit_keeps | apply State.setRegN_keeps
    | split
    | with_reducible exact Keeps.refl _
    | (with_reducible refine Keeps.mk ?_ rfl rfl rfl rfl rfl)

theorem State.stepRun_keeps {s0 : State} (s : State) (n p ho : Nat) (l : List KvReq) (kh : Keeps s0 s) : Keeps s0 (State.stepRun s n p ho l).1 := by
  unfold State.stepRun
  repeat' first
    | with_reducible first | assumption | intro _
    | (extract_lets +onlyGivenNames x
       first
       | (refine Keeps.via (x := x) ?_ fun kh1 => ?_; rotate_left; clear_value x; rotate_left; subst x)
       | clear_value x)
    | with_reducible first | apply State.stepOpens_keeps | apply State.stepRefused_keeps
    | refine State.stepRefused_keeps_e (by with_reducible assumption) ?_
    | with_reducible first | apply State.resolve_keeps
    | refine State.resolve_keeps_e (by with_reducible assumption) ?_
    | split
    | with_reducible exact Keeps.refl _
theorem State.stepRun_keeps_e {s0 : State} {s : State} {n p ho : Nat} {l : List KvReq} {x0 x1} (ke : (State.stepRun s n p ho l) = (x0, x1)) (kh : Keeps s0 s) : Keeps s0 x0 := by
  have k := State.stepRun_keeps s n p ho l kh
  rw [ke] at k
  exact k

theorem execKvStepOpen_keeps {s0 : State} (n : Nat) (s : State) (kh : Keeps s0 s) : KeepsO s0 (execKvStepOpen n s) := by
  unfold execKvStepOpen
  repeat' first
    | with_reducible first | assumption | intro _
    | (extract_lets +onlyGivenNames x
       first
       | (refine Keeps.via (x := x) ?_ fun kh1 => ?_; rotate_left; clear_value x; rotate_left; subst x)
       | (refine KeepsO.via (x := x) ?_ fun kh1 => ?_; rotate_left; clear_value x; rotate_left; subst x)
       | clear_value x)
    | with_reducible first | apply State.stepRun_keeps
    | refine State.stepRun_keeps_e (by with_reducible assumption) ?_
    | with_reducible first | apply State.kvCmd_keeps | apply denied_keeps
    | refine denied_keeps_e (by with_reducible assumption) ?_
    | with_reducible first | apply State.poisonBites_keeps | apply State.dramGet_keeps
    | refine State.dramGet_keeps_e (by with_reducible assumption) ?_
    | with_reducible first | apply KeepsO.next
    | split
    | with_reducible exact Keeps.refl _

theorem State.showResolving_keeps {s0 : State} (s : State) (kh : Keeps s0 s) : Keeps s0 (State.showResolving s) := by
  unfold State.showResolving
  repeat' first
    | with_reducible first | assumption | intro _
    | with_reducible first | apply State.setRegN_keeps
    | split
    | with_reducible exact Keeps.refl _

theorem execKvPlanPublish_keeps {s0 : State} (p : Nat) (s : State) (kh : Keeps s0 s) : KeepsO s0 (execKvPlanPublish p s) := by
  unfold execKvPlanPublish
  repeat' first
    | with_reducible first | assumption | intro _
    | (extract_lets +onlyGivenNames x
       first
       | (refine Keeps.via (x := x) ?_ fun kh1 => ?_; rotate_left; clear_value x; rotate_left; subst x)
       | (refine KeepsO.via (x := x) ?_ fun kh1 => ?_; rotate_left; clear_value x; rotate_left; subst x)
       | clear_value x)
    | with_reducible first | apply State.showResolving_keeps | apply State.finish_keeps | apply State.hubSet_keeps | apply State.publish_keeps | apply State.modPool_keeps | apply KeepsO.next
    | split
    | with_reducible exact Keeps.refl _
    | (with_reducible refine Keeps.mk ?_ rfl rfl rfl rfl rfl)

theorem execKvQuery_keeps {s0 : State} (n : Nat) (s : State) (kh : Keeps s0 s) : KeepsO s0 (execKvQuery n s) := by
  unfold execKvQuery
  repeat' first
    | with_reducible first | assumption | intro _
    | (extract_lets +onlyGivenNames x
       first
       | (refine Keeps.via (x := x) ?_ fun kh1 => ?_; rotate_left; clear_value x; rotate_left; subst x)
       | (refine KeepsO.via (x := x) ?_ fun kh1 => ?_; rotate_left; clear_value x; rotate_left; subst x)
       | clear_value x)
    | with_reducible first | apply State.stepRefused_keeps
    | refine State.stepRefused_keeps_e (by with_reducible assumption) ?_
    | with_reducible first | apply State.kvCmd_keeps | apply denied_keeps
    | refine denied_keeps_e (by with_reducible assumption) ?_
    | with_reducible first | apply giving_keeps
    | refine giving_keeps_e (by with_reducible assumption) ?_
    | with_reducible first | apply KeepsO.next
    | split
    | with_reducible exact Keeps.refl _

theorem State.moveWords_keeps {s0 : State} : ∀ (k : Nat) (s : State) (a b : Nat), Keeps s0 s → Keeps s0 (s.moveWords a b k)
  | 0, _, _, _, h => h
  | k + 1, s, a, b, h => by
    unfold State.moveWords
    have h1 := State.dramGet_keeps s a 64 h
    exact State.moveWords_keeps k _ _ _ (State.dramSet_keeps _ _ _ _ h1)

theorem State.copyFrame_keeps {s0 : State} (s : State) (q : KvPool) (src dst f : Nat) (kh : Keeps s0 s) : Keeps s0 (State.copyFrame s q src dst f) := by
  unfold State.copyFrame
  repeat' first
    | with_reducible first | assumption | intro _
    | with_reducible first | apply State.moveWords_keeps | apply State.each_keeps
    | with_reducible exact Keeps.refl _

theorem execKvPoolResync_keeps {s0 : State} (n : Nat) (s : State) (kh : Keeps s0 s) : KeepsO s0 (execKvPoolResync n s) := by
  unfold execKvPoolResync
  repeat' first
    | with_reducible first | assumption | intro _
    | (extract_lets +onlyGivenNames x
       first
       | (refine Keeps.via (x := x) ?_ fun kh1 => ?_; rotate_left; clear_value x; rotate_left; subst x)
       | (refine KeepsO.via (x := x) ?_ fun kh1 => ?_; rotate_left; clear_value x; rotate_left; subst x)
       | clear_value x)
    | with_reducible first | apply State.copyFrame_keeps | apply State.kvCmd_keeps | apply denied_keeps
    | refine denied_keeps_e (by with_reducible assumption) ?_
    | with_reducible first | apply giving_keeps
    | refine giving_keeps_e (by with_reducible assumption) ?_
    | with_reducible first | apply State.setAmber_keeps | apply State.each_keeps | apply State.modPool_keeps | apply State.setBit_keeps | apply KeepsO.next
    | split
    | with_reducible exact Keeps.refl _
    | (with_reducible refine Keeps.mk ?_ rfl rfl rfl rfl rfl)

end Sys2Proof.Machine
end

