-- ==== Sys2Proof/Laws/KeepsSelfTest.lean ====
section
/-! SUPPORT. Every operation of Machine/SelfTest.lean keeps the queue and the canonical form. -/

namespace Sys2Proof.Machine

theorem State.coverageCheck_keeps {s0 : State} (s : State) (kh : Keeps s0 s) : Keeps s0 (State.coverageCheck s) := by
  unfold State.coverageCheck
  repeat' first
    | with_reducible first | assumption | intro _
    | with_reducible first | apply State.setAmber_keeps
    | with_reducible exact Keeps.refl _

theorem State.startChunk_keeps {s0 : State} (s : State) (b : Nat) (kh : Keeps s0 s) : Keeps s0 (State.startChunk s b) := by
  unfold State.startChunk
  repeat' first
    | with_reducible first | assumption | intro _
    | with_reducible first | apply State.modTest_keeps
    | split
    | with_reducible exact Keeps.refl _
    | (with_reducible refine Keeps.mk ?_ rfl rfl rfl rfl rfl)

theorem State.fireTest_keeps {s0 : State} (s : State) (d : Due) (kh : Keeps s0 s) : Keeps s0 (State.fireTest s d) := by
  unfold State.fireTest
  repeat' first
    | with_reducible first | assumption | intro _
    | (extract_lets +onlyGivenNames x
       first
       | (refine Keeps.via (x := x) ?_ fun kh1 => ?_; rotate_left; clear_value x; rotate_left; subst x)
       | clear_value x)
    | with_reducible first | apply State.startChunk_keeps | apply State.modTest_keeps | apply State.postC_keeps | apply State.incFld_keeps
    | split
    | with_reducible exact Keeps.refl _
    | (with_reducible refine Keeps.mk ?_ rfl rfl rfl rfl rfl)

theorem execTestSlot_keeps {s0 : State} (w e edge : Nat) (s : State) (kh : Keeps s0 s) : KeepsO s0 (execTestSlot w e edge s) := by
  unfold execTestSlot
  repeat' first
    | with_reducible first | assumption | intro _
    | with_reducible first | apply State.fireTest_keeps | apply State.onEntry_keeps | apply KeepsO.next
    | with_reducible exact Keeps.refl _

theorem State.passDone_keeps {s0 : State} (s : State) (b : Nat) (kh : Keeps s0 s) : Keeps s0 (State.passDone s b) := by
  unfold State.passDone
  repeat' first
    | with_reducible first | assumption | intro _
    | (extract_lets +onlyGivenNames x
       first
       | (refine Keeps.via (x := x) ?_ fun kh1 => ?_; rotate_left; clear_value x; rotate_left; subst x)
       | clear_value x)
    | with_reducible first | apply State.coverageCheck_keeps | apply State.modTest_keeps | apply State.setBit_keeps | apply State.setFld_keeps | apply State.setRegN_keeps
    | split
    | with_reducible exact Keeps.refl _
    | (with_reducible refine Keeps.mk ?_ rfl rfl rfl rfl rfl)

theorem State.chunkFault_keeps {s0 : State} (s : State) (b t : Nat) (kh : Keeps s0 s) : Keeps s0 (State.chunkFault s b t) := by
  unfold State.chunkFault
  repeat' first
    | with_reducible first | assumption | intro _
    | with_reducible first | apply State.suspectCheck_keeps | apply State.post_keeps | apply State.setBit_keeps
    | with_reducible exact Keeps.refl _
    | (with_reducible refine Keeps.mk ?_ rfl rfl rfl rfl rfl)

theorem State.chunkFound_keeps {s0 : State} (s : State) (b : Nat) (o : Option Nat) (kh : Keeps s0 s) : Keeps s0 (State.chunkFound s b o) := by
  unfold State.chunkFound
  repeat' first
    | with_reducible first | assumption | intro _
    | with_reducible first | apply State.chunkFault_keeps
    | split
    | with_reducible exact Keeps.refl _

theorem State.chunkNext_keeps {s0 : State} (s : State) (b : Nat) (kh : Keeps s0 s) : Keeps s0 (State.chunkNext s b) := by
  unfold State.chunkNext
  repeat' first
    | with_reducible first | assumption | intro _
    | (extract_lets +onlyGivenNames x
       first
       | (refine Keeps.via (x := x) ?_ fun kh1 => ?_; rotate_left; clear_value x; rotate_left; subst x)
       | clear_value x)
    | with_reducible first | apply State.passDone_keeps | apply State.setFld_keeps
    | split
    | with_reducible exact Keeps.refl _

theorem execChunkDone_keeps {s0 : State} (b : Nat) (fault : Option Nat) (s : State) (kh : Keeps s0 s) : KeepsO s0 (execChunkDone b fault s) := by
  unfold execChunkDone
  repeat' first
    | with_reducible first | assumption | intro _
    | with_reducible first | apply State.chunkNext_keeps | apply State.chunkFound_keeps | apply State.startChunk_keeps | apply State.modTest_keeps | apply KeepsO.next
    | split
    | with_reducible exact Keeps.refl _
    | (with_reducible refine Keeps.mk ?_ rfl rfl rfl rfl rfl)

theorem execTestSlotEnd_keeps {s0 : State} (b : Nat) (s : State) (kh : Keeps s0 s) : KeepsO s0 (execTestSlotEnd b s) := by
  unfold execTestSlotEnd
  repeat' first
    | with_reducible first | assumption | intro _
    | with_reducible first | apply State.chunkAbort_keeps | apply State.modTest_keeps | apply KeepsO.next
    | split
    | with_reducible exact Keeps.refl _
    | (with_reducible refine Keeps.mk ?_ rfl rfl rfl rfl rfl)

theorem execCoverageLimit_keeps {s0 : State} (b : Nat) (s : State) (kh : Keeps s0 s) : KeepsO s0 (execCoverageLimit b s) := by
  unfold execCoverageLimit
  repeat' first
    | with_reducible first | assumption | intro _
    | with_reducible first | apply State.coverageCheck_keeps | apply State.postC_keeps | apply State.setBit_keeps | apply KeepsO.next
    | split
    | with_reducible exact Keeps.refl _

end Sys2Proof.Machine
end

