-- ==== Sys2Proof/Laws/KeepsTransfer.lean ====
section
/-! SUPPORT. Every operation of Machine/Transfer.lean keeps the queue and the canonical form. -/

namespace Sys2Proof.Machine

theorem State.queueRead_keeps {s0 : State} (s : State) (t : Nat) (d : Dma) (kh : Keeps s0 s) : Keeps s0 (State.queueRead s t d) := by
  unfold State.queueRead
  repeat' first
    | with_reducible first | assumption | intro _
    | with_reducible first | apply State.modTile_keeps
    | split
    | with_reducible exact Keeps.refl _
    | (with_reducible refine Keeps.mk ?_ rfl rfl rfl rfl rfl)

theorem execDrd_keeps {s0 : State} (c : TCtl) (h off dram n : Nat) (s : State) (kh : Keeps s0 s) : KeepsO s0 (execDrd c h off dram n s) := by
  unfold execDrd
  repeat' first
    | with_reducible first | assumption | intro _
    | with_reducible first | apply State.queueRead_keeps | apply State.try'_keeps | apply State.issue_keeps | apply KeepsO.next
    | with_reducible exact Keeps.refl _

theorem State.gather_keeps {s0 : State} (s : State) (c : TCtl) (ih ioff n : Nat) (f : State → Nat → State) (kh : Keeps s0 s) (hf : ∀ a0 a1, Keeps s0 a0 → Keeps s0 (f a0 a1)) : Keeps s0 (State.gather s c ih ioff n f) := by
  unfold State.gather
  repeat' first
    | with_reducible first | assumption | intro _
    | (extract_lets +onlyGivenNames x
       first
       | (refine Keeps.via (x := x) ?_ fun kh1 => ?_; rotate_left; clear_value x; rotate_left; subst x)
       | clear_value x)
    | with_reducible first | apply hf | apply State.padRead_keeps
    | refine State.padRead_keeps_e (by with_reducible assumption) ?_
    | with_reducible first | apply State.claim_keeps | apply State.try'_keeps | apply State.bite_keeps | apply State.tileAbort_keeps
    | split
    | with_reducible exact Keeps.refl _

theorem execDrdx_keeps {s0 : State} (c : TCtl) (h off ih ioff n : Nat) (s : State) (kh : Keeps s0 s) : KeepsO s0 (execDrdx c h off ih ioff n s) := by
  unfold execDrdx
  repeat' first
    | with_reducible first | assumption | intro _
    | with_reducible first | apply State.gather_keeps | apply State.queueRead_keeps | apply State.try'_keeps | apply State.issue_keeps | apply KeepsO.next
    | with_reducible exact Keeps.refl _

theorem execIfetch_keeps {s0 : State} (c : TCtl) (dram n : Nat) (s : State) (kh : Keeps s0 s) : KeepsO s0 (execIfetch c dram n s) := by
  unfold execIfetch
  repeat' first
    | with_reducible first | assumption | intro _
    | (extract_lets +onlyGivenNames x
       first
       | (refine Keeps.via (x := x) ?_ fun kh1 => ?_; rotate_left; clear_value x; rotate_left; subst x)
       | (refine KeepsO.via (x := x) ?_ fun kh1 => ?_; rotate_left; clear_value x; rotate_left; subst x)
       | clear_value x)
    | with_reducible first | apply State.queueRead_keeps | apply State.issue_keeps | apply State.modTile_keeps | apply KeepsO.next
    | split
    | with_reducible exact Keeps.refl _
    | (with_reducible refine Keeps.mk ?_ rfl rfl rfl rfl rfl)

theorem State.landWord_keeps {s0 : State} (s : State) (c : TCtl) (d : Dma) (v : VReg) (kh : Keeps s0 s) : Keeps s0 (State.landWord s c d v) := by
  unfold State.landWord
  repeat' first
    | with_reducible first | assumption | intro _
    | (extract_lets +onlyGivenNames x
       first
       | (refine Keeps.via (x := x) ?_ fun kh1 => ?_; rotate_left; clear_value x; rotate_left; subst x)
       | clear_value x)
    | with_reducible first | apply State.padWrite_keeps | apply State.claim_keeps | apply State.try'_keeps | apply State.modTile_keeps
    | split
    | with_reducible exact Keeps.refl _
    | (with_reducible refine Keeps.mk ?_ rfl rfl rfl rfl rfl)

theorem State.dmaDeliver_keeps {s0 : State} (s : State) (c : TCtl) (d : Dma) (symErrs : Nat) (kh : Keeps s0 s) : Keeps s0 (State.dmaDeliver s c d symErrs) := by
  unfold State.dmaDeliver
  repeat' first
    | with_reducible first | assumption | intro _
    | (extract_lets +onlyGivenNames x
       first
       | (refine Keeps.via (x := x) ?_ fun kh1 => ?_; rotate_left; clear_value x; rotate_left; subst x)
       | clear_value x)
    | with_reducible first | apply State.landWord_keeps | apply State.dramWord_keeps
    | refine State.dramWord_keeps_e (by with_reducible assumption) ?_
    | with_reducible first | apply State.decodePage_keeps
    | refine State.decodePage_keeps_e (by with_reducible assumption) ?_
    | with_reducible first | apply State.modTile_keeps
    | split
    | with_reducible exact Keeps.refl _
    | (with_reducible refine Keeps.mk ?_ rfl rfl rfl rfl rfl)

theorem execDmaReadDelivery_keeps {s0 : State} (c : TCtl) (symErrs : Nat) (s : State) (kh : Keeps s0 s) : KeepsO s0 (execDmaReadDelivery c symErrs s) := by
  unfold execDmaReadDelivery
  repeat' first
    | with_reducible first | assumption | intro _
    | with_reducible first | apply State.dmaDeliver_keeps | apply KeepsO.next
    | split
    | with_reducible exact Keeps.refl _

theorem State.readPartial_keeps {s0 : State} (s : State) (t a n e0 e1 : Nat) (kh : Keeps s0 s) : Keeps s0 (State.readPartial s t a n e0 e1).2.2 := by
  have key : ∀ (u : State) (c : Prop) [Decidable c] (q e : Nat), Keeps s0 u →
      Keeps s0 (if c then u.decodePage t q e false else (.good, u)).2 := by
    intro u c _ q e hu
    split
    · exact State.decodePage_keeps _ _ _ _ _ hu
    · exact hu
  unfold State.readPartial
  dsimp only
  exact key _ _ _ _ (key _ _ _ _ kh)
theorem State.readPartial_keeps_e {s0 s u : State} {t a n e0 e1 : Nat} {d0 d1 : Decoded} (ke : State.readPartial s t a n e0 e1 = (d0, d1, u)) (kh : Keeps s0 s) : Keeps s0 u := by
  have k := State.readPartial_keeps s t a n e0 e1 kh
  rw [ke] at k
  exact k

theorem State.queueWrite_keeps {s0 : State} (s : State) (c : TCtl) (src : Place) (a n e0 e1 : Nat) (kh : Keeps s0 s) : Keeps s0 (State.queueWrite s c src a n e0 e1) := by
  unfold State.queueWrite
  repeat' first
    | with_reducible first | assumption | intro _
    | (extract_lets +onlyGivenNames x
       first
       | (refine Keeps.via (x := x) ?_ fun kh1 => ?_; rotate_left; clear_value x; rotate_left; subst x)
       | clear_value x)
    | with_reducible first | apply State.readPartial_keeps
    | refine State.readPartial_keeps_e (by with_reducible assumption) ?_
    | with_reducible first | apply State.placeReads_keeps
    | refine State.placeReads_keeps_e (by with_reducible assumption) ?_
    | with_reducible first | apply State.claim_keeps | apply State.try'_keeps | apply State.modTile_keeps
    | split
    | with_reducible exact Keeps.refl _
    | (with_reducible refine Keeps.mk ?_ rfl rfl rfl rfl rfl)

theorem execDwr_keeps {s0 : State} (c : TCtl) (src : Place) (dram n e0 e1 : Nat) (s : State) (kh : Keeps s0 s) : KeepsO s0 (execDwr c src dram n e0 e1 s) := by
  unfold execDwr
  repeat' first
    | with_reducible first | assumption | intro _
    | with_reducible first | apply State.queueWrite_keeps | apply State.issue_keeps | apply KeepsO.next
    | with_reducible exact Keeps.refl _

theorem execDwrx_keeps {s0 : State} (c : TCtl) (src : Place) (ih ioff n e0 e1 : Nat) (s : State) (kh : Keeps s0 s) : KeepsO s0 (execDwrx c src ih ioff n e0 e1 s) := by
  unfold execDwrx
  repeat' first
    | with_reducible first | assumption | intro _
    | with_reducible first | apply State.queueWrite_keeps | apply State.gather_keeps | apply State.issue_keeps | apply KeepsO.next
    | with_reducible exact Keeps.refl _

theorem State.spoilPage_keeps {s0 : State} (s : State) (t page a n : Nat) (d : Decoded) (kh : Keeps s0 s) : Keeps s0 (State.spoilPage s t page a n d) := by
  unfold State.spoilPage
  repeat' first
    | with_reducible first | assumption | intro _
    | (extract_lets +onlyGivenNames x
       first
       | (refine Keeps.via (x := x) ?_ fun kh1 => ?_; rotate_left; clear_value x; rotate_left; subst x)
       | clear_value x)
    | with_reducible first | apply State.dramPut_keeps | apply State.dramWord_keeps
    | refine State.dramWord_keeps_e (by with_reducible assumption) ?_
    | with_reducible first | apply State.each_keeps
    | split
    | with_reducible exact Keeps.refl _

theorem State.storeWrite_keeps {s0 : State} (s : State) (t : Nat) (d : Dma) (kh : Keeps s0 s) : Keeps s0 (State.storeWrite s t d) := by
  unfold State.storeWrite
  repeat' first
    | with_reducible first | assumption | intro _
    | (extract_lets +onlyGivenNames x
       first
       | (refine Keeps.via (x := x) ?_ fun kh1 => ?_; rotate_left; clear_value x; rotate_left; subst x)
       | clear_value x)
    | with_reducible first | apply State.spoilPage_keeps | apply State.dramPut_keeps | apply State.each_keeps
    | split
    | with_reducible exact Keeps.refl _

theorem State.commitWrite_keeps {s0 : State} (s : State) (c : TCtl) (d : Dma) (r : List Dma) (kh : Keeps s0 s) : Keeps s0 (State.commitWrite s c d r) := by
  unfold State.commitWrite
  repeat' first
    | with_reducible first | assumption | intro _
    | (extract_lets +onlyGivenNames x
       first
       | (refine Keeps.via (x := x) ?_ fun kh1 => ?_; rotate_left; clear_value x; rotate_left; subst x)
       | clear_value x)
    | with_reducible first | apply State.storeWrite_keeps | apply State.genDropped_keeps | apply State.modTile_keeps
    | split
    | with_reducible exact Keeps.refl _
    | (with_reducible refine Keeps.mk ?_ rfl rfl rfl rfl rfl)

theorem execDmaWriteCommit_keeps {s0 : State} (c : TCtl) (s : State) (kh : Keeps s0 s) : KeepsO s0 (execDmaWriteCommit c s) := by
  unfold execDmaWriteCommit
  repeat' first
    | with_reducible first | assumption | intro _
    | with_reducible first | apply State.commitWrite_keeps | apply KeepsO.next
    | split
    | with_reducible exact Keeps.refl _

theorem State.sendFlits_keeps {s0 : State} (s : State) (t dst : Nat) (b : Flits) (old : List (Nat × Flits)) (kh : Keeps s0 s) : Keeps s0 (State.sendFlits s t dst b old) := by
  unfold State.sendFlits
  repeat' first
    | with_reducible first | assumption | intro _
    | (extract_lets +onlyGivenNames x
       first
       | (refine Keeps.via (x := x) ?_ fun kh1 => ?_; rotate_left; clear_value x; rotate_left; subst x)
       | clear_value x)
    | with_reducible first | apply State.abortJob_keeps | apply State.postTile_keeps | apply State.each_keeps | apply State.modTile_keeps
    | split
    | with_reducible exact Keeps.refl _
    | (with_reducible refine Keeps.mk ?_ rfl rfl rfl rfl rfl)

theorem State.sendOver_keeps {s0 : State} (s : State) (c : TCtl) (src : Place) (n : Nat) (routes : List (List ((Nat × Nat) × (Nat × Nat)))) (kh : Keeps s0 s) : Keeps s0 (State.sendOver s c src n routes) := by
  unfold State.sendOver
  repeat' first
    | with_reducible first | assumption | intro _
    | (extract_lets +onlyGivenNames x
       first
       | (refine Keeps.via (x := x) ?_ fun kh1 => ?_; rotate_left; clear_value x; rotate_left; subst x)
       | clear_value x)
    | with_reducible first | apply State.sendFlits_keeps | apply State.placeReads_keeps
    | refine State.placeReads_keeps_e (by with_reducible assumption) ?_
    | with_reducible first | apply State.claim_keeps | apply State.try'_keeps | apply State.tileAbort_keeps | apply State.each_keeps
    | split
    | with_reducible exact Keeps.refl _
    | (with_reducible refine Keeps.mk ?_ rfl rfl rfl rfl rfl)

theorem execSend_keeps {s0 : State} (c : TCtl) (dx dy : Int) (yFirst : Bool) (src : Place) (n : Nat) (s : State) (kh : Keeps s0 s) : KeepsO s0 (execSend c dx dy yFirst src n s) := by
  unfold execSend
  repeat' first
    | with_reducible first | assumption | intro _
    | with_reducible first | apply State.sendOver_keeps | apply State.issue_keeps | apply KeepsO.next
    | with_reducible exact Keeps.refl _

theorem execSendm_keeps {s0 : State} (c : TCtl) (dx dy : Int) (src : Place) (n : Nat) (s : State) (kh : Keeps s0 s) : KeepsO s0 (execSendm c dx dy src n s) := by
  unfold execSendm
  repeat' first
    | with_reducible first | assumption | intro _
    | (extract_lets +onlyGivenNames x
       first
       | (refine Keeps.via (x := x) ?_ fun kh1 => ?_; rotate_left; clear_value x; rotate_left; subst x)
       | (refine KeepsO.via (x := x) ?_ fun kh1 => ?_; rotate_left; clear_value x; rotate_left; subst x)
       | clear_value x)
    | with_reducible first | apply State.sendOver_keeps | apply State.issue_keeps | apply State.tileAbort_keeps | apply KeepsO.next
    | split
    | with_reducible exact Keeps.refl _

theorem State.postRecv_keeps {s0 : State} (s : State) (t : Nat) (r : Recv) (kh : Keeps s0 s) : Keeps s0 (State.postRecv s t r) := by
  unfold State.postRecv
  repeat' first
    | with_reducible first | assumption | intro _
    | with_reducible first | apply State.try'_keeps | apply State.modTile_keeps
    | split
    | with_reducible exact Keeps.refl _
    | (with_reducible refine Keeps.mk ?_ rfl rfl rfl rfl rfl)

theorem execRecv_keeps {s0 : State} (c : TCtl) (dst : Place) (n : Nat) (s : State) (kh : Keeps s0 s) : KeepsO s0 (execRecv c dst n s) := by
  unfold execRecv
  repeat' first
    | with_reducible first | assumption | intro _
    | with_reducible first | apply State.postRecv_keeps | apply State.issue_keeps | apply KeepsO.next
    | with_reducible exact Keeps.refl _

theorem execAddrecv_keeps {s0 : State} (c : TCtl) (dst : Place) (n : Nat) (int : Bool) (s : State) (kh : Keeps s0 s) : KeepsO s0 (execAddrecv c dst n int s) := by
  unfold execAddrecv
  repeat' first
    | with_reducible first | assumption | intro _
    | with_reducible first | apply State.postRecv_keeps | apply State.issue_keeps | apply KeepsO.next
    | with_reducible exact Keeps.refl _

theorem State.takeFlit_keeps {s0 : State} (s : State) (c : TCtl) (r : Recv) (v : VReg) (kh : Keeps s0 s) : Keeps s0 (State.takeFlit s c r v) := by
  unfold State.takeFlit
  repeat' first
    | with_reducible first | assumption | intro _
    | (extract_lets +onlyGivenNames x
       first
       | (refine Keeps.via (x := x) ?_ fun kh1 => ?_; rotate_left; clear_value x; rotate_left; subst x)
       | clear_value x)
    | with_reducible first | apply State.placeWrite_keeps | apply State.placeReads_keeps
    | refine State.placeReads_keeps_e (by with_reducible assumption) ?_
    | with_reducible first | apply State.claim_keeps | apply State.try'_keeps | apply State.raiseNum_keeps | apply State.modTile_keeps
    | split
    | with_reducible exact Keeps.refl _

theorem State.noteFlit_keeps {s0 : State} (s : State) (t : Nat) (f : Flits) (kh : Keeps s0 s) : Keeps s0 (State.noteFlit s t f) := by
  unfold State.noteFlit
  repeat' first
    | with_reducible first | assumption | intro _
    | (extract_lets +onlyGivenNames x
       first
       | (refine Keeps.via (x := x) ?_ fun kh1 => ?_; rotate_left; clear_value x; rotate_left; subst x)
       | clear_value x)
    | with_reducible first | apply State.each_keeps | apply State.modTile_keeps
    | split
    | with_reducible exact Keeps.refl _
    | (with_reducible refine Keeps.mk ?_ rfl rfl rfl rfl rfl)

theorem State.arrive_keeps {s0 : State} (s : State) (c : TCtl) (f : Flits) (kh : Keeps s0 s) : Keeps s0 (State.arrive s c f) := by
  unfold State.arrive
  repeat' first
    | with_reducible first | assumption | intro _
    | (extract_lets +onlyGivenNames x
       first
       | (refine Keeps.via (x := x) ?_ fun kh1 => ?_; rotate_left; clear_value x; rotate_left; subst x)
       | clear_value x)
    | with_reducible first | apply State.noteFlit_keeps | apply State.takeFlit_keeps | apply State.raiseChecks_keeps | apply State.tileAbort_keeps | apply State.modTile_keeps
    | split
    | with_reducible exact Keeps.refl _

theorem execFlitArrival_keeps {s0 : State} (c : TCtl) (s : State) (kh : Keeps s0 s) : KeepsO s0 (execFlitArrival c s) := by
  unfold execFlitArrival
  repeat' first
    | with_reducible first | assumption | intro _
    | with_reducible first | apply State.arrive_keeps | apply KeepsO.next
    | split
    | with_reducible exact Keeps.refl _

end Sys2Proof.Machine
end

