-- ==== Sys2Proof/Laws/Shells.lean ====
section
/-! SUPPORT. What the shared shells do around a command's own effect: the wheel entry, the bus access, the mailbox command and the tile instruction, each under the condition that the effect comes about. -/

namespace Sys2Proof.Machine

theorem State.onEntry_takes {s t : State} {w e edge action lead : Nat} {d : Due} (h : s.Takes w e edge action lead d t)
    (f : State → Due → State) : s.onEntry w e edge action lead f = f t d := by
  unfold State.onEntry
  rw [show s.takeEntry w e edge action lead = (some d, t) from h]

theorem State.onEntry_none {s t : State} {w e edge action lead : Nat} (h : s.takeEntry w e edge action lead = (none, t))
    (f : State → Due → State) : s.onEntry w e edge action lead f = t := by
  unfold State.onEntry
  rw [h]

theorem State.ifPowered_served {s : State} {u : Nat} (h : s.unitOff u = false) (f : State → State) :
    s.ifPowered u f = f (s.unitServed u) := by
  unfold State.ifPowered
  simp only [h, Bool.false_eq_true, if_false]

theorem State.viaBus_passes {s : State} {m a len : Nat} {k : AccessKind} (h : s.passes m k a len = true)
    (f : State → State × Sum Status (List Byte × Bool)) :
    s.viaBus m k a len f =
      match f s with
      | (s', .inl c) => s'.busFail m k a len c (unitOf a)
      | (s', .inr (d, p)) => s'.answer m d p := by
  unfold State.passes at h
  unfold State.viaBus
  split at h
  · cases h
  · simp only [Bool.and_eq_true, Option.isNone_iff_eq_none] at h
    rename_i t e
    rw [e]
    simp only [h.1, h.2.1, h.2.2, Bool.and_self, Bool.not_true, Bool.false_eq_true, if_false]
    all_goals rfl

/-- A register write that the bus lets through and the register accepts. -/
theorem State.regBus_accepts {s t : State} {m a len : Nat} (h : s.passes m .write a len = true)
    (f : State → State × Option Status) (e : f s = accept t) : s.regBus m a len f = t.answer m [] false := by
  unfold State.regBus
  rw [State.viaBus_passes h]
  simp only [e, accept]

/-- A register write that the bus lets through and the register refuses. -/
theorem State.regBus_refuses {s t : State} {m a len : Nat} {c : Status} (h : s.passes m .write a len = true)
    (f : State → State × Option Status) (e : f s = (t, some c)) : s.regBus m a len f = t.busFail m .write a len c (unitOf a) := by
  unfold State.regBus
  rw [State.viaBus_passes h]
  simp only [e]

theorem State.runCmd_now {s t : State} {n code : Nat} {pick : Bool} {c : Status} {ret : List Byte} (h : s.runs n code = true)
    (p : pick = true) (f : State → State × Done) (e : f s = (t, .now c ret)) : s.runCmd n code pick f = t.respond n c ret := by
  unfold State.runs at h
  simp only [Bool.and_eq_true, Bool.not_eq_true', decide_eq_true_eq] at h
  unfold State.runCmd
  simp only [h.1.1, h.1.2, h.2, p, e, Bool.not_false, and_self, if_true]

theorem State.runCmd_later {s t : State} {n code : Nat} {pick : Bool} (h : s.runs n code = true)
    (p : pick = true) (f : State → State × Done) (e : f s = (t, .later)) :
    s.runCmd n code pick f = t.modMbox n fun m => { m with waiting := true } := by
  unfold State.runs at h
  simp only [Bool.and_eq_true, Bool.not_eq_true', decide_eq_true_eq] at h
  unfold State.runCmd
  simp only [h.1.1, h.1.2, h.2, p, e, Bool.not_false, and_self, if_true]

theorem State.issue_issues {s : State} {c : TCtl} (h : s.issues c = true) (f : State → State) : s.issue c f = f (s.enter c) := by
  unfold State.issues at h
  simp only [Bool.and_eq_true, Bool.not_eq_true'] at h
  unfold State.issue State.fetched
  simp only [h.1.1, h.1.2, h.2, Bool.not_false, and_self, if_true, Bool.false_eq_true, if_false]

theorem State.loopIssue_issues {s : State} {c : TCtl} (h : s.issues c = true) (f : State → State) :
    s.loopIssue c f = f (s.enter c) := by
  unfold State.issues at h
  simp only [Bool.and_eq_true, Bool.not_eq_true'] at h
  unfold State.loopIssue State.fetched
  simp only [h.1.1, h.1.2, h.2, Bool.not_true, Bool.false_eq_true, if_false]

theorem State.claim_claims {s u : State} {t : Nat} {l : List (Nat × Nat)} (h : s.Claims t l u) (f : State → State) :
    s.claim t l f = f u := by
  obtain ⟨held, h1, rfl⟩ := h
  unfold State.claim
  simp only [h1]

end Sys2Proof.Machine
end

