-- ==== Sys2Proof/Laws/State.lean ====
section
/-! SUPPORT. What each update of the state leaves alone, field by field, true by unfolding (each law is a conjunction, of which
`simp` takes every part), and reading a register, a register field or a byte after writing one. -/

namespace Sys2Proof.Machine

/-- What `setReg` leaves alone. -/
@[simp] theorem State.setReg_fields (s : State) (a : Nat) (v : Dword) :
    (s.setReg a v).pending = s.pending ∧ (s.setReg a v).mem = s.mem ∧ (s.setReg a v).poison = s.poison ∧ (s.setReg a v).retiredHit = s.retiredHit ∧
    (s.setReg a v).reply = s.reply ∧ (s.setReg a v).time = s.time ∧ (s.setReg a v).stepped = s.stepped ∧ (s.setReg a v).servo = s.servo ∧
    (s.setReg a v).roundNext = s.roundNext ∧ (s.setReg a v).holds = s.holds ∧ (s.setReg a v).wheels = s.wheels ∧ (s.setReg a v).edge = s.edge ∧
    (s.setReg a v).delayed = s.delayed ∧ (s.setReg a v).handoffs = s.handoffs ∧ (s.setReg a v).windows = s.windows ∧
    (s.setReg a v).landings = s.landings ∧ (s.setReg a v).ports = s.ports ∧ (s.setReg a v).copyB = s.copyB ∧ (s.setReg a v).fsync = s.fsync ∧
    (s.setReg a v).hostIrq = s.hostIrq ∧ (s.setReg a v).tiles = s.tiles ∧ (s.setReg a v).parts = s.parts ∧ (s.setReg a v).nextInst = s.nextInst ∧
    (s.setReg a v).streams = s.streams ∧ (s.setReg a v).goldens = s.goldens ∧ (s.setReg a v).selfTests = s.selfTests ∧
    (s.setReg a v).access = s.access ∧ (s.setReg a v).pixProgs = s.pixProgs ∧ (s.setReg a v).pixRuns = s.pixRuns ∧
    (s.setReg a v).pixWindow = s.pixWindow ∧ (s.setReg a v).kvPools = s.kvPools ∧ (s.setReg a v).kvCtxs = s.kvCtxs ∧
    (s.setReg a v).solSlots = s.solSlots ∧ (s.setReg a v).solQueue = s.solQueue ∧ (s.setReg a v).solRun = s.solRun ∧
    (s.setReg a v).channels = s.channels ∧ (s.setReg a v).ctlInputs = s.ctlInputs ∧ (s.setReg a v).testGen = s.testGen ∧
    (s.setReg a v).capture = s.capture ∧ (s.setReg a v).camStrs = s.camStrs ∧ (s.setReg a v).ethPorts = s.ethPorts ∧
    (s.setReg a v).ethTables = s.ethTables ∧ (s.setReg a v).ethRings = s.ethRings ∧ (s.setReg a v).ethRsp = s.ethRsp ∧ (s.setReg a v).cans = s.cans ∧
    (s.setReg a v).pins = s.pins ∧ (s.setReg a v).safeDiff = s.safeDiff ∧ (s.setReg a v).sents = s.sents ∧ (s.setReg a v).spis = s.spis ∧
    (s.setReg a v).bamPorts = s.bamPorts ∧ (s.setReg a v).discovery = s.discovery ∧ (s.setReg a v).bamFlags = s.bamFlags ∧
    (s.setReg a v).remotes = s.remotes ∧ (s.setReg a v).mirrors = s.mirrors ∧ (s.setReg a v).twins = s.twins ∧ (s.setReg a v).posting = s.posting ∧
    (s.setReg a v).collector = s.collector ∧ (s.setReg a v).errLog = s.errLog ∧ (s.setReg a v).overflowed = s.overflowed ∧
    (s.setReg a v).handled = s.handled ∧ (s.setReg a v).retains = s.retains ∧ (s.setReg a v).dump = s.dump ∧ (s.setReg a v).dumpSeq = s.dumpSeq ∧
    (s.setReg a v).rungs = s.rungs ∧ (s.setReg a v).harts = s.harts ∧ (s.setReg a v).resets = s.resets ∧ (s.setReg a v).searches = s.searches ∧
    (s.setReg a v).hartKick = s.hartKick ∧ (s.setReg a v).hostCe = s.hostCe ∧ (s.setReg a v).chipReset = s.chipReset ∧
    (s.setReg a v).mailboxes = s.mailboxes ∧ (s.setReg a v).locks = s.locks ∧ (s.setReg a v).boot = s.boot ∧ (s.setReg a v).imageLog = s.imageLog ∧
    (s.setReg a v).attest = s.attest ∧ (s.setReg a v).trng = s.trng ∧ (s.setReg a v).power = s.power ∧ (s.setReg a v).safety = s.safety ∧
    (s.setReg a v).frz = s.frz ∧ (s.setReg a v).recorder = s.recorder ∧ (s.setReg a v).dbg = s.dbg ∧ (s.setReg a v).fresh = s.fresh :=
  ⟨rfl, rfl, rfl, rfl, rfl, rfl, rfl, rfl, rfl, rfl, rfl, rfl, rfl, rfl, rfl, rfl, rfl, rfl, rfl, rfl, rfl, rfl, rfl, rfl, rfl, rfl, rfl, rfl, rfl,
    rfl, rfl, rfl, rfl, rfl, rfl, rfl, rfl, rfl, rfl, rfl, rfl, rfl, rfl, rfl, rfl, rfl, rfl, rfl, rfl, rfl, rfl, rfl, rfl, rfl, rfl, rfl, rfl, rfl,
    rfl, rfl, rfl, rfl, rfl, rfl, rfl, rfl, rfl, rfl, rfl, rfl, rfl, rfl, rfl, rfl, rfl, rfl, rfl, rfl, rfl, rfl, rfl, rfl⟩

/-- What `setRegN` leaves alone. -/
@[simp] theorem State.setRegN_fields (s : State) (a v : Nat) :
    (s.setRegN a v).pending = s.pending ∧ (s.setRegN a v).mem = s.mem ∧ (s.setRegN a v).poison = s.poison ∧
    (s.setRegN a v).retiredHit = s.retiredHit ∧ (s.setRegN a v).reply = s.reply ∧ (s.setRegN a v).time = s.time ∧
    (s.setRegN a v).stepped = s.stepped ∧ (s.setRegN a v).servo = s.servo ∧ (s.setRegN a v).roundNext = s.roundNext ∧
    (s.setRegN a v).holds = s.holds ∧ (s.setRegN a v).wheels = s.wheels ∧ (s.setRegN a v).edge = s.edge ∧ (s.setRegN a v).delayed = s.delayed ∧
    (s.setRegN a v).handoffs = s.handoffs ∧ (s.setRegN a v).windows = s.windows ∧ (s.setRegN a v).landings = s.landings ∧
    (s.setRegN a v).ports = s.ports ∧ (s.setRegN a v).copyB = s.copyB ∧ (s.setRegN a v).fsync = s.fsync ∧ (s.setRegN a v).hostIrq = s.hostIrq ∧
    (s.setRegN a v).tiles = s.tiles ∧ (s.setRegN a v).parts = s.parts ∧ (s.setRegN a v).nextInst = s.nextInst ∧ (s.setRegN a v).streams = s.streams ∧
    (s.setRegN a v).goldens = s.goldens ∧ (s.setRegN a v).selfTests = s.selfTests ∧ (s.setRegN a v).access = s.access ∧
    (s.setRegN a v).pixProgs = s.pixProgs ∧ (s.setRegN a v).pixRuns = s.pixRuns ∧ (s.setRegN a v).pixWindow = s.pixWindow ∧
    (s.setRegN a v).kvPools = s.kvPools ∧ (s.setRegN a v).kvCtxs = s.kvCtxs ∧ (s.setRegN a v).solSlots = s.solSlots ∧
    (s.setRegN a v).solQueue = s.solQueue ∧ (s.setRegN a v).solRun = s.solRun ∧ (s.setRegN a v).channels = s.channels ∧
    (s.setRegN a v).ctlInputs = s.ctlInputs ∧ (s.setRegN a v).testGen = s.testGen ∧ (s.setRegN a v).capture = s.capture ∧
    (s.setRegN a v).camStrs = s.camStrs ∧ (s.setRegN a v).ethPorts = s.ethPorts ∧ (s.setRegN a v).ethTables = s.ethTables ∧
    (s.setRegN a v).ethRings = s.ethRings ∧ (s.setRegN a v).ethRsp = s.ethRsp ∧ (s.setRegN a v).cans = s.cans ∧ (s.setRegN a v).pins = s.pins ∧
    (s.setRegN a v).safeDiff = s.safeDiff ∧ (s.setRegN a v).sents = s.sents ∧ (s.setRegN a v).spis = s.spis ∧ (s.setRegN a v).bamPorts = s.bamPorts ∧
    (s.setRegN a v).discovery = s.discovery ∧ (s.setRegN a v).bamFlags = s.bamFlags ∧ (s.setRegN a v).remotes = s.remotes ∧
    (s.setRegN a v).mirrors = s.mirrors ∧ (s.setRegN a v).twins = s.twins ∧ (s.setRegN a v).posting = s.posting ∧
    (s.setRegN a v).collector = s.collector ∧ (s.setRegN a v).errLog = s.errLog ∧ (s.setRegN a v).overflowed = s.overflowed ∧
    (s.setRegN a v).handled = s.handled ∧ (s.setRegN a v).retains = s.retains ∧ (s.setRegN a v).dump = s.dump ∧ (s.setRegN a v).dumpSeq = s.dumpSeq ∧
    (s.setRegN a v).rungs = s.rungs ∧ (s.setRegN a v).harts = s.harts ∧ (s.setRegN a v).resets = s.resets ∧ (s.setRegN a v).searches = s.searches ∧
    (s.setRegN a v).hartKick = s.hartKick ∧ (s.setRegN a v).hostCe = s.hostCe ∧ (s.setRegN a v).chipReset = s.chipReset ∧
    (s.setRegN a v).mailboxes = s.mailboxes ∧ (s.setRegN a v).locks = s.locks ∧ (s.setRegN a v).boot = s.boot ∧
    (s.setRegN a v).imageLog = s.imageLog ∧ (s.setRegN a v).attest = s.attest ∧ (s.setRegN a v).trng = s.trng ∧ (s.setRegN a v).power = s.power ∧
    (s.setRegN a v).safety = s.safety ∧ (s.setRegN a v).frz = s.frz ∧ (s.setRegN a v).recorder = s.recorder ∧ (s.setRegN a v).dbg = s.dbg ∧
    (s.setRegN a v).fresh = s.fresh :=
  ⟨rfl, rfl, rfl, rfl, rfl, rfl, rfl, rfl, rfl, rfl, rfl, rfl, rfl, rfl, rfl, rfl, rfl, rfl, rfl, rfl, rfl, rfl, rfl, rfl, rfl, rfl, rfl, rfl, rfl,
    rfl, rfl, rfl, rfl, rfl, rfl, rfl, rfl, rfl, rfl, rfl, rfl, rfl, rfl, rfl, rfl, rfl, rfl, rfl, rfl, rfl, rfl, rfl, rfl, rfl, rfl, rfl, rfl, rfl,
    rfl, rfl, rfl, rfl, rfl, rfl, rfl, rfl, rfl, rfl, rfl, rfl, rfl, rfl, rfl, rfl, rfl, rfl, rfl, rfl, rfl, rfl, rfl, rfl⟩

/-- What `setFld` leaves alone. -/
@[simp] theorem State.setFld_fields (s : State) (a lo w x : Nat) :
    (s.setFld a lo w x).pending = s.pending ∧ (s.setFld a lo w x).mem = s.mem ∧ (s.setFld a lo w x).poison = s.poison ∧
    (s.setFld a lo w x).retiredHit = s.retiredHit ∧ (s.setFld a lo w x).reply = s.reply ∧ (s.setFld a lo w x).time = s.time ∧
    (s.setFld a lo w x).stepped = s.stepped ∧ (s.setFld a lo w x).servo = s.servo ∧ (s.setFld a lo w x).roundNext = s.roundNext ∧
    (s.setFld a lo w x).holds = s.holds ∧ (s.setFld a lo w x).wheels = s.wheels ∧ (s.setFld a lo w x).edge = s.edge ∧
    (s.setFld a lo w x).delayed = s.delayed ∧ (s.setFld a lo w x).handoffs = s.handoffs ∧ (s.setFld a lo w x).windows = s.windows ∧
    (s.setFld a lo w x).landings = s.landings ∧ (s.setFld a lo w x).ports = s.ports ∧ (s.setFld a lo w x).copyB = s.copyB ∧
    (s.setFld a lo w x).fsync = s.fsync ∧ (s.setFld a lo w x).hostIrq = s.hostIrq ∧ (s.setFld a lo w x).tiles = s.tiles ∧
    (s.setFld a lo w x).parts = s.parts ∧ (s.setFld a lo w x).nextInst = s.nextInst ∧ (s.setFld a lo w x).streams = s.streams ∧
    (s.setFld a lo w x).goldens = s.goldens ∧ (s.setFld a lo w x).selfTests = s.selfTests ∧ (s.setFld a lo w x).access = s.access ∧
    (s.setFld a lo w x).pixProgs = s.pixProgs ∧ (s.setFld a lo w x).pixRuns = s.pixRuns ∧ (s.setFld a lo w x).pixWindow = s.pixWindow ∧
    (s.setFld a lo w x).kvPools = s.kvPools ∧ (s.setFld a lo w x).kvCtxs = s.kvCtxs ∧ (s.setFld a lo w x).solSlots = s.solSlots ∧
    (s.setFld a lo w x).solQueue = s.solQueue ∧ (s.setFld a lo w x).solRun = s.solRun ∧ (s.setFld a lo w x).channels = s.channels ∧
    (s.setFld a lo w x).ctlInputs = s.ctlInputs ∧ (s.setFld a lo w x).testGen = s.testGen ∧ (s.setFld a lo w x).capture = s.capture ∧
    (s.setFld a lo w x).camStrs = s.camStrs ∧ (s.setFld a lo w x).ethPorts = s.ethPorts ∧ (s.setFld a lo w x).ethTables = s.ethTables ∧
    (s.setFld a lo w x).ethRings = s.ethRings ∧ (s.setFld a lo w x).ethRsp = s.ethRsp ∧ (s.setFld a lo w x).cans = s.cans ∧
    (s.setFld a lo w x).pins = s.pins ∧ (s.setFld a lo w x).safeDiff = s.safeDiff ∧ (s.setFld a lo w x).sents = s.sents ∧
    (s.setFld a lo w x).spis = s.spis ∧ (s.setFld a lo w x).bamPorts = s.bamPorts ∧ (s.setFld a lo w x).discovery = s.discovery ∧
    (s.setFld a lo w x).bamFlags = s.bamFlags ∧ (s.setFld a lo w x).remotes = s.remotes ∧ (s.setFld a lo w x).mirrors = s.mirrors ∧
    (s.setFld a lo w x).twins = s.twins ∧ (s.setFld a lo w x).posting = s.posting ∧ (s.setFld a lo w x).collector = s.collector ∧
    (s.setFld a lo w x).errLog = s.errLog ∧ (s.setFld a lo w x).overflowed = s.overflowed ∧ (s.setFld a lo w x).handled = s.handled ∧
    (s.setFld a lo w x).retains = s.retains ∧ (s.setFld a lo w x).dump = s.dump ∧ (s.setFld a lo w x).dumpSeq = s.dumpSeq ∧
    (s.setFld a lo w x).rungs = s.rungs ∧ (s.setFld a lo w x).harts = s.harts ∧ (s.setFld a lo w x).resets = s.resets ∧
    (s.setFld a lo w x).searches = s.searches ∧ (s.setFld a lo w x).hartKick = s.hartKick ∧ (s.setFld a lo w x).hostCe = s.hostCe ∧
    (s.setFld a lo w x).chipReset = s.chipReset ∧ (s.setFld a lo w x).mailboxes = s.mailboxes ∧ (s.setFld a lo w x).locks = s.locks ∧
    (s.setFld a lo w x).boot = s.boot ∧ (s.setFld a lo w x).imageLog = s.imageLog ∧ (s.setFld a lo w x).attest = s.attest ∧
    (s.setFld a lo w x).trng = s.trng ∧ (s.setFld a lo w x).power = s.power ∧ (s.setFld a lo w x).safety = s.safety ∧
    (s.setFld a lo w x).frz = s.frz ∧ (s.setFld a lo w x).recorder = s.recorder ∧ (s.setFld a lo w x).dbg = s.dbg ∧
    (s.setFld a lo w x).fresh = s.fresh :=
  ⟨rfl, rfl, rfl, rfl, rfl, rfl, rfl, rfl, rfl, rfl, rfl, rfl, rfl, rfl, rfl, rfl, rfl, rfl, rfl, rfl, rfl, rfl, rfl, rfl, rfl, rfl, rfl, rfl, rfl,
    rfl, rfl, rfl, rfl, rfl, rfl, rfl, rfl, rfl, rfl, rfl, rfl, rfl, rfl, rfl, rfl, rfl, rfl, rfl, rfl, rfl, rfl, rfl, rfl, rfl, rfl, rfl, rfl, rfl,
    rfl, rfl, rfl, rfl, rfl, rfl, rfl, rfl, rfl, rfl, rfl, rfl, rfl, rfl, rfl, rfl, rfl, rfl, rfl, rfl, rfl, rfl, rfl, rfl⟩

/-- What `setBit` leaves alone. -/
@[simp] theorem State.setBit_fields (s : State) (a k : Nat) (b : Bool) :
    (s.setBit a k b).pending = s.pending ∧ (s.setBit a k b).mem = s.mem ∧ (s.setBit a k b).poison = s.poison ∧
    (s.setBit a k b).retiredHit = s.retiredHit ∧ (s.setBit a k b).reply = s.reply ∧ (s.setBit a k b).time = s.time ∧
    (s.setBit a k b).stepped = s.stepped ∧ (s.setBit a k b).servo = s.servo ∧ (s.setBit a k b).roundNext = s.roundNext ∧
    (s.setBit a k b).holds = s.holds ∧ (s.setBit a k b).wheels = s.wheels ∧ (s.setBit a k b).edge = s.edge ∧ (s.setBit a k b).delayed = s.delayed ∧
    (s.setBit a k b).handoffs = s.handoffs ∧ (s.setBit a k b).windows = s.windows ∧ (s.setBit a k b).landings = s.landings ∧
    (s.setBit a k b).ports = s.ports ∧ (s.setBit a k b).copyB = s.copyB ∧ (s.setBit a k b).fsync = s.fsync ∧ (s.setBit a k b).hostIrq = s.hostIrq ∧
    (s.setBit a k b).tiles = s.tiles ∧ (s.setBit a k b).parts = s.parts ∧ (s.setBit a k b).nextInst = s.nextInst ∧
    (s.setBit a k b).streams = s.streams ∧ (s.setBit a k b).goldens = s.goldens ∧ (s.setBit a k b).selfTests = s.selfTests ∧
    (s.setBit a k b).access = s.access ∧ (s.setBit a k b).pixProgs = s.pixProgs ∧ (s.setBit a k b).pixRuns = s.pixRuns ∧
    (s.setBit a k b).pixWindow = s.pixWindow ∧ (s.setBit a k b).kvPools = s.kvPools ∧ (s.setBit a k b).kvCtxs = s.kvCtxs ∧
    (s.setBit a k b).solSlots = s.solSlots ∧ (s.setBit a k b).solQueue = s.solQueue ∧ (s.setBit a k b).solRun = s.solRun ∧
    (s.setBit a k b).channels = s.channels ∧ (s.setBit a k b).ctlInputs = s.ctlInputs ∧ (s.setBit a k b).testGen = s.testGen ∧
    (s.setBit a k b).capture = s.capture ∧ (s.setBit a k b).camStrs = s.camStrs ∧ (s.setBit a k b).ethPorts = s.ethPorts ∧
    (s.setBit a k b).ethTables = s.ethTables ∧ (s.setBit a k b).ethRings = s.ethRings ∧ (s.setBit a k b).ethRsp = s.ethRsp ∧
    (s.setBit a k b).cans = s.cans ∧ (s.setBit a k b).pins = s.pins ∧ (s.setBit a k b).safeDiff = s.safeDiff ∧ (s.setBit a k b).sents = s.sents ∧
    (s.setBit a k b).spis = s.spis ∧ (s.setBit a k b).bamPorts = s.bamPorts ∧ (s.setBit a k b).discovery = s.discovery ∧
    (s.setBit a k b).bamFlags = s.bamFlags ∧ (s.setBit a k b).remotes = s.remotes ∧ (s.setBit a k b).mirrors = s.mirrors ∧
    (s.setBit a k b).twins = s.twins ∧ (s.setBit a k b).posting = s.posting ∧ (s.setBit a k b).collector = s.collector ∧
    (s.setBit a k b).errLog = s.errLog ∧ (s.setBit a k b).overflowed = s.overflowed ∧ (s.setBit a k b).handled = s.handled ∧
    (s.setBit a k b).retains = s.retains ∧ (s.setBit a k b).dump = s.dump ∧ (s.setBit a k b).dumpSeq = s.dumpSeq ∧ (s.setBit a k b).rungs = s.rungs ∧
    (s.setBit a k b).harts = s.harts ∧ (s.setBit a k b).resets = s.resets ∧ (s.setBit a k b).searches = s.searches ∧
    (s.setBit a k b).hartKick = s.hartKick ∧ (s.setBit a k b).hostCe = s.hostCe ∧ (s.setBit a k b).chipReset = s.chipReset ∧
    (s.setBit a k b).mailboxes = s.mailboxes ∧ (s.setBit a k b).locks = s.locks ∧ (s.setBit a k b).boot = s.boot ∧
    (s.setBit a k b).imageLog = s.imageLog ∧ (s.setBit a k b).attest = s.attest ∧ (s.setBit a k b).trng = s.trng ∧ (s.setBit a k b).power = s.power ∧
    (s.setBit a k b).safety = s.safety ∧ (s.setBit a k b).frz = s.frz ∧ (s.setBit a k b).recorder = s.recorder ∧ (s.setBit a k b).dbg = s.dbg ∧
    (s.setBit a k b).fresh = s.fresh :=
  ⟨rfl, rfl, rfl, rfl, rfl, rfl, rfl, rfl, rfl, rfl, rfl, rfl, rfl, rfl, rfl, rfl, rfl, rfl, rfl, rfl, rfl, rfl, rfl, rfl, rfl, rfl, rfl, rfl, rfl,
    rfl, rfl, rfl, rfl, rfl, rfl, rfl, rfl, rfl, rfl, rfl, rfl, rfl, rfl, rfl, rfl, rfl, rfl, rfl, rfl, rfl, rfl, rfl, rfl, rfl, rfl, rfl, rfl, rfl,
    rfl, rfl, rfl, rfl, rfl, rfl, rfl, rfl, rfl, rfl, rfl, rfl, rfl, rfl, rfl, rfl, rfl, rfl, rfl, rfl, rfl, rfl, rfl, rfl⟩

/-- What `addReg` leaves alone. -/
@[simp] theorem State.addReg_fields (s : State) (a k : Nat) :
    (s.addReg a k).pending = s.pending ∧ (s.addReg a k).mem = s.mem ∧ (s.addReg a k).poison = s.poison ∧ (s.addReg a k).retiredHit = s.retiredHit ∧
    (s.addReg a k).reply = s.reply ∧ (s.addReg a k).time = s.time ∧ (s.addReg a k).stepped = s.stepped ∧ (s.addReg a k).servo = s.servo ∧
    (s.addReg a k).roundNext = s.roundNext ∧ (s.addReg a k).holds = s.holds ∧ (s.addReg a k).wheels = s.wheels ∧ (s.addReg a k).edge = s.edge ∧
    (s.addReg a k).delayed = s.delayed ∧ (s.addReg a k).handoffs = s.handoffs ∧ (s.addReg a k).windows = s.windows ∧
    (s.addReg a k).landings = s.landings ∧ (s.addReg a k).ports = s.ports ∧ (s.addReg a k).copyB = s.copyB ∧ (s.addReg a k).fsync = s.fsync ∧
    (s.addReg a k).hostIrq = s.hostIrq ∧ (s.addReg a k).tiles = s.tiles ∧ (s.addReg a k).parts = s.parts ∧ (s.addReg a k).nextInst = s.nextInst ∧
    (s.addReg a k).streams = s.streams ∧ (s.addReg a k).goldens = s.goldens ∧ (s.addReg a k).selfTests = s.selfTests ∧
    (s.addReg a k).access = s.access ∧ (s.addReg a k).pixProgs = s.pixProgs ∧ (s.addReg a k).pixRuns = s.pixRuns ∧
    (s.addReg a k).pixWindow = s.pixWindow ∧ (s.addReg a k).kvPools = s.kvPools ∧ (s.addReg a k).kvCtxs = s.kvCtxs ∧
    (s.addReg a k).solSlots = s.solSlots ∧ (s.addReg a k).solQueue = s.solQueue ∧ (s.addReg a k).solRun = s.solRun ∧
    (s.addReg a k).channels = s.channels ∧ (s.addReg a k).ctlInputs = s.ctlInputs ∧ (s.addReg a k).testGen = s.testGen ∧
    (s.addReg a k).capture = s.capture ∧ (s.addReg a k).camStrs = s.camStrs ∧ (s.addReg a k).ethPorts = s.ethPorts ∧
    (s.addReg a k).ethTables = s.ethTables ∧ (s.addReg a k).ethRings = s.ethRings ∧ (s.addReg a k).ethRsp = s.ethRsp ∧ (s.addReg a k).cans = s.cans ∧
    (s.addReg a k).pins = s.pins ∧ (s.addReg a k).safeDiff = s.safeDiff ∧ (s.addReg a k).sents = s.sents ∧ (s.addReg a k).spis = s.spis ∧
    (s.addReg a k).bamPorts = s.bamPorts ∧ (s.addReg a k).discovery = s.discovery ∧ (s.addReg a k).bamFlags = s.bamFlags ∧
    (s.addReg a k).remotes = s.remotes ∧ (s.addReg a k).mirrors = s.mirrors ∧ (s.addReg a k).twins = s.twins ∧ (s.addReg a k).posting = s.posting ∧
    (s.addReg a k).collector = s.collector ∧ (s.addReg a k).errLog = s.errLog ∧ (s.addReg a k).overflowed = s.overflowed ∧
    (s.addReg a k).handled = s.handled ∧ (s.addReg a k).retains = s.retains ∧ (s.addReg a k).dump = s.dump ∧ (s.addReg a k).dumpSeq = s.dumpSeq ∧
    (s.addReg a k).rungs = s.rungs ∧ (s.addReg a k).harts = s.harts ∧ (s.addReg a k).resets = s.resets ∧ (s.addReg a k).searches = s.searches ∧
    (s.addReg a k).hartKick = s.hartKick ∧ (s.addReg a k).hostCe = s.hostCe ∧ (s.addReg a k).chipReset = s.chipReset ∧
    (s.addReg a k).mailboxes = s.mailboxes ∧ (s.addReg a k).locks = s.locks ∧ (s.addReg a k).boot = s.boot ∧ (s.addReg a k).imageLog = s.imageLog ∧
    (s.addReg a k).attest = s.attest ∧ (s.addReg a k).trng = s.trng ∧ (s.addReg a k).power = s.power ∧ (s.addReg a k).safety = s.safety ∧
    (s.addReg a k).frz = s.frz ∧ (s.addReg a k).recorder = s.recorder ∧ (s.addReg a k).dbg = s.dbg ∧ (s.addReg a k).fresh = s.fresh :=
  ⟨rfl, rfl, rfl, rfl, rfl, rfl, rfl, rfl, rfl, rfl, rfl, rfl, rfl, rfl, rfl, rfl, rfl, rfl, rfl, rfl, rfl, rfl, rfl, rfl, rfl, rfl, rfl, rfl, rfl,
    rfl, rfl, rfl, rfl, rfl, rfl, rfl, rfl, rfl, rfl, rfl, rfl, rfl, rfl, rfl, rfl, rfl, rfl, rfl, rfl, rfl, rfl, rfl, rfl, rfl, rfl, rfl, rfl, rfl,
    rfl, rfl, rfl, rfl, rfl, rfl, rfl, rfl, rfl, rfl, rfl, rfl, rfl, rfl, rfl, rfl, rfl, rfl, rfl, rfl, rfl, rfl, rfl, rfl⟩

/-- What `incReg` leaves alone. -/
@[simp] theorem State.incReg_fields (s : State) (a : Nat) :
    (s.incReg a).pending = s.pending ∧ (s.incReg a).mem = s.mem ∧ (s.incReg a).poison = s.poison ∧ (s.incReg a).retiredHit = s.retiredHit ∧
    (s.incReg a).reply = s.reply ∧ (s.incReg a).time = s.time ∧ (s.incReg a).stepped = s.stepped ∧ (s.incReg a).servo = s.servo ∧
    (s.incReg a).roundNext = s.roundNext ∧ (s.incReg a).holds = s.holds ∧ (s.incReg a).wheels = s.wheels ∧ (s.incReg a).edge = s.edge ∧
    (s.incReg a).delayed = s.delayed ∧ (s.incReg a).handoffs = s.handoffs ∧ (s.incReg a).windows = s.windows ∧ (s.incReg a).landings = s.landings ∧
    (s.incReg a).ports = s.ports ∧ (s.incReg a).copyB = s.copyB ∧ (s.incReg a).fsync = s.fsync ∧ (s.incReg a).hostIrq = s.hostIrq ∧
    (s.incReg a).tiles = s.tiles ∧ (s.incReg a).parts = s.parts ∧ (s.incReg a).nextInst = s.nextInst ∧ (s.incReg a).streams = s.streams ∧
    (s.incReg a).goldens = s.goldens ∧ (s.incReg a).selfTests = s.selfTests ∧ (s.incReg a).access = s.access ∧ (s.incReg a).pixProgs = s.pixProgs ∧
    (s.incReg a).pixRuns = s.pixRuns ∧ (s.incReg a).pixWindow = s.pixWindow ∧ (s.incReg a).kvPools = s.kvPools ∧ (s.incReg a).kvCtxs = s.kvCtxs ∧
    (s.incReg a).solSlots = s.solSlots ∧ (s.incReg a).solQueue = s.solQueue ∧ (s.incReg a).solRun = s.solRun ∧ (s.incReg a).channels = s.channels ∧
    (s.incReg a).ctlInputs = s.ctlInputs ∧ (s.incReg a).testGen = s.testGen ∧ (s.incReg a).capture = s.capture ∧ (s.incReg a).camStrs = s.camStrs ∧
    (s.incReg a).ethPorts = s.ethPorts ∧ (s.incReg a).ethTables = s.ethTables ∧ (s.incReg a).ethRings = s.ethRings ∧ (s.incReg a).ethRsp = s.ethRsp ∧
    (s.incReg a).cans = s.cans ∧ (s.incReg a).pins = s.pins ∧ (s.incReg a).safeDiff = s.safeDiff ∧ (s.incReg a).sents = s.sents ∧
    (s.incReg a).spis = s.spis ∧ (s.incReg a).bamPorts = s.bamPorts ∧ (s.incReg a).discovery = s.discovery ∧ (s.incReg a).bamFlags = s.bamFlags ∧
    (s.incReg a).remotes = s.remotes ∧ (s.incReg a).mirrors = s.mirrors ∧ (s.incReg a).twins = s.twins ∧ (s.incReg a).posting = s.posting ∧
    (s.incReg a).collector = s.collector ∧ (s.incReg a).errLog = s.errLog ∧ (s.incReg a).overflowed = s.overflowed ∧
    (s.incReg a).handled = s.handled ∧ (s.incReg a).retains = s.retains ∧ (s.incReg a).dump = s.dump ∧ (s.incReg a).dumpSeq = s.dumpSeq ∧
    (s.incReg a).rungs = s.rungs ∧ (s.incReg a).harts = s.harts ∧ (s.incReg a).resets = s.resets ∧ (s.incReg a).searches = s.searches ∧
    (s.incReg a).hartKick = s.hartKick ∧ (s.incReg a).hostCe = s.hostCe ∧ (s.incReg a).chipReset = s.chipReset ∧
    (s.incReg a).mailboxes = s.mailboxes ∧ (s.incReg a).locks = s.locks ∧ (s.incReg a).boot = s.boot ∧ (s.incReg a).imageLog = s.imageLog ∧
    (s.incReg a).attest = s.attest ∧ (s.incReg a).trng = s.trng ∧ (s.incReg a).power = s.power ∧ (s.incReg a).safety = s.safety ∧
    (s.incReg a).frz = s.frz ∧ (s.incReg a).recorder = s.recorder ∧ (s.incReg a).dbg = s.dbg ∧ (s.incReg a).fresh = s.fresh :=
  ⟨rfl, rfl, rfl, rfl, rfl, rfl, rfl, rfl, rfl, rfl, rfl, rfl, rfl, rfl, rfl, rfl, rfl, rfl, rfl, rfl, rfl, rfl, rfl, rfl, rfl, rfl, rfl, rfl, rfl,
    rfl, rfl, rfl, rfl, rfl, rfl, rfl, rfl, rfl, rfl, rfl, rfl, rfl, rfl, rfl, rfl, rfl, rfl, rfl, rfl, rfl, rfl, rfl, rfl, rfl, rfl, rfl, rfl, rfl,
    rfl, rfl, rfl, rfl, rfl, rfl, rfl, rfl, rfl, rfl, rfl, rfl, rfl, rfl, rfl, rfl, rfl, rfl, rfl, rfl, rfl, rfl, rfl, rfl⟩

/-- What `wrapReg` leaves alone. -/
@[simp] theorem State.wrapReg_fields (s : State) (a : Nat) :
    (s.wrapReg a).pending = s.pending ∧ (s.wrapReg a).mem = s.mem ∧ (s.wrapReg a).poison = s.poison ∧ (s.wrapReg a).retiredHit = s.retiredHit ∧
    (s.wrapReg a).reply = s.reply ∧ (s.wrapReg a).time = s.time ∧ (s.wrapReg a).stepped = s.stepped ∧ (s.wrapReg a).servo = s.servo ∧
    (s.wrapReg a).roundNext = s.roundNext ∧ (s.wrapReg a).holds = s.holds ∧ (s.wrapReg a).wheels = s.wheels ∧ (s.wrapReg a).edge = s.edge ∧
    (s.wrapReg a).delayed = s.delayed ∧ (s.wrapReg a).handoffs = s.handoffs ∧ (s.wrapReg a).windows = s.windows ∧
    (s.wrapReg a).landings = s.landings ∧ (s.wrapReg a).ports = s.ports ∧ (s.wrapReg a).copyB = s.copyB ∧ (s.wrapReg a).fsync = s.fsync ∧
    (s.wrapReg a).hostIrq = s.hostIrq ∧ (s.wrapReg a).tiles = s.tiles ∧ (s.wrapReg a).parts = s.parts ∧ (s.wrapReg a).nextInst = s.nextInst ∧
    (s.wrapReg a).streams = s.streams ∧ (s.wrapReg a).goldens = s.goldens ∧ (s.wrapReg a).selfTests = s.selfTests ∧ (s.wrapReg a).access = s.access ∧
    (s.wrapReg a).pixProgs = s.pixProgs ∧ (s.wrapReg a).pixRuns = s.pixRuns ∧ (s.wrapReg a).pixWindow = s.pixWindow ∧
    (s.wrapReg a).kvPools = s.kvPools ∧ (s.wrapReg a).kvCtxs = s.kvCtxs ∧ (s.wrapReg a).solSlots = s.solSlots ∧ (s.wrapReg a).solQueue = s.solQueue ∧
    (s.wrapReg a).solRun = s.solRun ∧ (s.wrapReg a).channels = s.channels ∧ (s.wrapReg a).ctlInputs = s.ctlInputs ∧
    (s.wrapReg a).testGen = s.testGen ∧ (s.wrapReg a).capture = s.capture ∧ (s.wrapReg a).camStrs = s.camStrs ∧ (s.wrapReg a).ethPorts = s.ethPorts ∧
    (s.wrapReg a).ethTables = s.ethTables ∧ (s.wrapReg a).ethRings = s.ethRings ∧ (s.wrapReg a).ethRsp = s.ethRsp ∧ (s.wrapReg a).cans = s.cans ∧
    (s.wrapReg a).pins = s.pins ∧ (s.wrapReg a).safeDiff = s.safeDiff ∧ (s.wrapReg a).sents = s.sents ∧ (s.wrapReg a).spis = s.spis ∧
    (s.wrapReg a).bamPorts = s.bamPorts ∧ (s.wrapReg a).discovery = s.discovery ∧ (s.wrapReg a).bamFlags = s.bamFlags ∧
    (s.wrapReg a).remotes = s.remotes ∧ (s.wrapReg a).mirrors = s.mirrors ∧ (s.wrapReg a).twins = s.twins ∧ (s.wrapReg a).posting = s.posting ∧
    (s.wrapReg a).collector = s.collector ∧ (s.wrapReg a).errLog = s.errLog ∧ (s.wrapReg a).overflowed = s.overflowed ∧
    (s.wrapReg a).handled = s.handled ∧ (s.wrapReg a).retains = s.retains ∧ (s.wrapReg a).dump = s.dump ∧ (s.wrapReg a).dumpSeq = s.dumpSeq ∧
    (s.wrapReg a).rungs = s.rungs ∧ (s.wrapReg a).harts = s.harts ∧ (s.wrapReg a).resets = s.resets ∧ (s.wrapReg a).searches = s.searches ∧
    (s.wrapReg a).hartKick = s.hartKick ∧ (s.wrapReg a).hostCe = s.hostCe ∧ (s.wrapReg a).chipReset = s.chipReset ∧
    (s.wrapReg a).mailboxes = s.mailboxes ∧ (s.wrapReg a).locks = s.locks ∧ (s.wrapReg a).boot = s.boot ∧ (s.wrapReg a).imageLog = s.imageLog ∧
    (s.wrapReg a).attest = s.attest ∧ (s.wrapReg a).trng = s.trng ∧ (s.wrapReg a).power = s.power ∧ (s.wrapReg a).safety = s.safety ∧
    (s.wrapReg a).frz = s.frz ∧ (s.wrapReg a).recorder = s.recorder ∧ (s.wrapReg a).dbg = s.dbg ∧ (s.wrapReg a).fresh = s.fresh :=
  ⟨rfl, rfl, rfl, rfl, rfl, rfl, rfl, rfl, rfl, rfl, rfl, rfl, rfl, rfl, rfl, rfl, rfl, rfl, rfl, rfl, rfl, rfl, rfl, rfl, rfl, rfl, rfl, rfl, rfl,
    rfl, rfl, rfl, rfl, rfl, rfl, rfl, rfl, rfl, rfl, rfl, rfl, rfl, rfl, rfl, rfl, rfl, rfl, rfl, rfl, rfl, rfl, rfl, rfl, rfl, rfl, rfl, rfl, rfl,
    rfl, rfl, rfl, rfl, rfl, rfl, rfl, rfl, rfl, rfl, rfl, rfl, rfl, rfl, rfl, rfl, rfl, rfl, rfl, rfl, rfl, rfl, rfl, rfl⟩

/-- What `resetRegs` leaves alone. -/
@[simp] theorem State.resetRegs_fields (s : State) (lo hi : Nat) :
    (s.resetRegs lo hi).pending = s.pending ∧ (s.resetRegs lo hi).mem = s.mem ∧ (s.resetRegs lo hi).poison = s.poison ∧
    (s.resetRegs lo hi).retiredHit = s.retiredHit ∧ (s.resetRegs lo hi).reply = s.reply ∧ (s.resetRegs lo hi).time = s.time ∧
    (s.resetRegs lo hi).stepped = s.stepped ∧ (s.resetRegs lo hi).servo = s.servo ∧ (s.resetRegs lo hi).roundNext = s.roundNext ∧
    (s.resetRegs lo hi).holds = s.holds ∧ (s.resetRegs lo hi).wheels = s.wheels ∧ (s.resetRegs lo hi).edge = s.edge ∧
    (s.resetRegs lo hi).delayed = s.delayed ∧ (s.resetRegs lo hi).handoffs = s.handoffs ∧ (s.resetRegs lo hi).windows = s.windows ∧
    (s.resetRegs lo hi).landings = s.landings ∧ (s.resetRegs lo hi).ports = s.ports ∧ (s.resetRegs lo hi).copyB = s.copyB ∧
    (s.resetRegs lo hi).fsync = s.fsync ∧ (s.resetRegs lo hi).hostIrq = s.hostIrq ∧ (s.resetRegs lo hi).tiles = s.tiles ∧
    (s.resetRegs lo hi).parts = s.parts ∧ (s.resetRegs lo hi).nextInst = s.nextInst ∧ (s.resetRegs lo hi).streams = s.streams ∧
    (s.resetRegs lo hi).goldens = s.goldens ∧ (s.resetRegs lo hi).selfTests = s.selfTests ∧ (s.resetRegs lo hi).access = s.access ∧
    (s.resetRegs lo hi).pixProgs = s.pixProgs ∧ (s.resetRegs lo hi).pixRuns = s.pixRuns ∧ (s.resetRegs lo hi).pixWindow = s.pixWindow ∧
    (s.resetRegs lo hi).kvPools = s.kvPools ∧ (s.resetRegs lo hi).kvCtxs = s.kvCtxs ∧ (s.resetRegs lo hi).solSlots = s.solSlots ∧
    (s.resetRegs lo hi).solQueue = s.solQueue ∧ (s.resetRegs lo hi).solRun = s.solRun ∧ (s.resetRegs lo hi).channels = s.channels ∧
    (s.resetRegs lo hi).ctlInputs = s.ctlInputs ∧ (s.resetRegs lo hi).testGen = s.testGen ∧ (s.resetRegs lo hi).capture = s.capture ∧
    (s.resetRegs lo hi).camStrs = s.camStrs ∧ (s.resetRegs lo hi).ethPorts = s.ethPorts ∧ (s.resetRegs lo hi).ethTables = s.ethTables ∧
    (s.resetRegs lo hi).ethRings = s.ethRings ∧ (s.resetRegs lo hi).ethRsp = s.ethRsp ∧ (s.resetRegs lo hi).cans = s.cans ∧
    (s.resetRegs lo hi).pins = s.pins ∧ (s.resetRegs lo hi).safeDiff = s.safeDiff ∧ (s.resetRegs lo hi).sents = s.sents ∧
    (s.resetRegs lo hi).spis = s.spis ∧ (s.resetRegs lo hi).bamPorts = s.bamPorts ∧ (s.resetRegs lo hi).discovery = s.discovery ∧
    (s.resetRegs lo hi).bamFlags = s.bamFlags ∧ (s.resetRegs lo hi).remotes = s.remotes ∧ (s.resetRegs lo hi).mirrors = s.mirrors ∧
    (s.resetRegs lo hi).twins = s.twins ∧ (s.resetRegs lo hi).posting = s.posting ∧ (s.resetRegs lo hi).collector = s.collector ∧
    (s.resetRegs lo hi).errLog = s.errLog ∧ (s.resetRegs lo hi).overflowed = s.overflowed ∧ (s.resetRegs lo hi).handled = s.handled ∧
    (s.resetRegs lo hi).retains = s.retains ∧ (s.resetRegs lo hi).dump = s.dump ∧ (s.resetRegs lo hi).dumpSeq = s.dumpSeq ∧
    (s.resetRegs lo hi).rungs = s.rungs ∧ (s.resetRegs lo hi).harts = s.harts ∧ (s.resetRegs lo hi).resets = s.resets ∧
    (s.resetRegs lo hi).searches = s.searches ∧ (s.resetRegs lo hi).hartKick = s.hartKick ∧ (s.resetRegs lo hi).hostCe = s.hostCe ∧
    (s.resetRegs lo hi).chipReset = s.chipReset ∧ (s.resetRegs lo hi).mailboxes = s.mailboxes ∧ (s.resetRegs lo hi).locks = s.locks ∧
    (s.resetRegs lo hi).boot = s.boot ∧ (s.resetRegs lo hi).imageLog = s.imageLog ∧ (s.resetRegs lo hi).attest = s.attest ∧
    (s.resetRegs lo hi).trng = s.trng ∧ (s.resetRegs lo hi).power = s.power ∧ (s.resetRegs lo hi).safety = s.safety ∧
    (s.resetRegs lo hi).frz = s.frz ∧ (s.resetRegs lo hi).recorder = s.recorder ∧ (s.resetRegs lo hi).dbg = s.dbg ∧
    (s.resetRegs lo hi).fresh = s.fresh :=
  ⟨rfl, rfl, rfl, rfl, rfl, rfl, rfl, rfl, rfl, rfl, rfl, rfl, rfl, rfl, rfl, rfl, rfl, rfl, rfl, rfl, rfl, rfl, rfl, rfl, rfl, rfl, rfl, rfl, rfl,
    rfl, rfl, rfl, rfl, rfl, rfl, rfl, rfl, rfl, rfl, rfl, rfl, rfl, rfl, rfl, rfl, rfl, rfl, rfl, rfl, rfl, rfl, rfl, rfl, rfl, rfl, rfl, rfl, rfl,
    rfl, rfl, rfl, rfl, rfl, rfl, rfl, rfl, rfl, rfl, rfl, rfl, rfl, rfl, rfl, rfl, rfl, rfl, rfl, rfl, rfl, rfl, rfl, rfl⟩

/-- What `setByte` leaves alone. -/
@[simp] theorem State.setByte_fields (s : State) (a : Nat) (b : Byte) :
    (s.setByte a b).pending = s.pending ∧ (s.setByte a b).regs = s.regs ∧ (s.setByte a b).tmr = s.tmr ∧ (s.setByte a b).poison = s.poison ∧
    (s.setByte a b).retiredHit = s.retiredHit ∧ (s.setByte a b).reply = s.reply ∧ (s.setByte a b).time = s.time ∧
    (s.setByte a b).stepped = s.stepped ∧ (s.setByte a b).servo = s.servo ∧ (s.setByte a b).roundNext = s.roundNext ∧
    (s.setByte a b).holds = s.holds ∧ (s.setByte a b).wheels = s.wheels ∧ (s.setByte a b).edge = s.edge ∧ (s.setByte a b).delayed = s.delayed ∧
    (s.setByte a b).handoffs = s.handoffs ∧ (s.setByte a b).windows = s.windows ∧ (s.setByte a b).landings = s.landings ∧
    (s.setByte a b).ports = s.ports ∧ (s.setByte a b).copyB = s.copyB ∧ (s.setByte a b).fsync = s.fsync ∧ (s.setByte a b).hostIrq = s.hostIrq ∧
    (s.setByte a b).tiles = s.tiles ∧ (s.setByte a b).parts = s.parts ∧ (s.setByte a b).nextInst = s.nextInst ∧ (s.setByte a b).streams = s.streams ∧
    (s.setByte a b).goldens = s.goldens ∧ (s.setByte a b).selfTests = s.selfTests ∧ (s.setByte a b).access = s.access ∧
    (s.setByte a b).pixProgs = s.pixProgs ∧ (s.setByte a b).pixRuns = s.pixRuns ∧ (s.setByte a b).pixWindow = s.pixWindow ∧
    (s.setByte a b).kvPools = s.kvPools ∧ (s.setByte a b).kvCtxs = s.kvCtxs ∧ (s.setByte a b).solSlots = s.solSlots ∧
    (s.setByte a b).solQueue = s.solQueue ∧ (s.setByte a b).solRun = s.solRun ∧ (s.setByte a b).channels = s.channels ∧
    (s.setByte a b).ctlInputs = s.ctlInputs ∧ (s.setByte a b).testGen = s.testGen ∧ (s.setByte a b).capture = s.capture ∧
    (s.setByte a b).camStrs = s.camStrs ∧ (s.setByte a b).ethPorts = s.ethPorts ∧ (s.setByte a b).ethTables = s.ethTables ∧
    (s.setByte a b).ethRings = s.ethRings ∧ (s.setByte a b).ethRsp = s.ethRsp ∧ (s.setByte a b).cans = s.cans ∧ (s.setByte a b).pins = s.pins ∧
    (s.setByte a b).safeDiff = s.safeDiff ∧ (s.setByte a b).sents = s.sents ∧ (s.setByte a b).spis = s.spis ∧ (s.setByte a b).bamPorts = s.bamPorts ∧
    (s.setByte a b).discovery = s.discovery ∧ (s.setByte a b).bamFlags = s.bamFlags ∧ (s.setByte a b).remotes = s.remotes ∧
    (s.setByte a b).mirrors = s.mirrors ∧ (s.setByte a b).twins = s.twins ∧ (s.setByte a b).posting = s.posting ∧
    (s.setByte a b).collector = s.collector ∧ (s.setByte a b).errLog = s.errLog ∧ (s.setByte a b).overflowed = s.overflowed ∧
    (s.setByte a b).handled = s.handled ∧ (s.setByte a b).retains = s.retains ∧ (s.setByte a b).dump = s.dump ∧ (s.setByte a b).dumpSeq = s.dumpSeq ∧
    (s.setByte a b).rungs = s.rungs ∧ (s.setByte a b).harts = s.harts ∧ (s.setByte a b).resets = s.resets ∧ (s.setByte a b).searches = s.searches ∧
    (s.setByte a b).hartKick = s.hartKick ∧ (s.setByte a b).hostCe = s.hostCe ∧ (s.setByte a b).chipReset = s.chipReset ∧
    (s.setByte a b).mailboxes = s.mailboxes ∧ (s.setByte a b).locks = s.locks ∧ (s.setByte a b).boot = s.boot ∧
    (s.setByte a b).imageLog = s.imageLog ∧ (s.setByte a b).attest = s.attest ∧ (s.setByte a b).trng = s.trng ∧ (s.setByte a b).power = s.power ∧
    (s.setByte a b).safety = s.safety ∧ (s.setByte a b).frz = s.frz ∧ (s.setByte a b).recorder = s.recorder ∧ (s.setByte a b).dbg = s.dbg ∧
    (s.setByte a b).fresh = s.fresh :=
  ⟨rfl, rfl, rfl, rfl, rfl, rfl, rfl, rfl, rfl, rfl, rfl, rfl, rfl, rfl, rfl, rfl, rfl, rfl, rfl, rfl, rfl, rfl, rfl, rfl, rfl, rfl, rfl, rfl, rfl,
    rfl, rfl, rfl, rfl, rfl, rfl, rfl, rfl, rfl, rfl, rfl, rfl, rfl, rfl, rfl, rfl, rfl, rfl, rfl, rfl, rfl, rfl, rfl, rfl, rfl, rfl, rfl, rfl, rfl,
    rfl, rfl, rfl, rfl, rfl, rfl, rfl, rfl, rfl, rfl, rfl, rfl, rfl, rfl, rfl, rfl, rfl, rfl, rfl, rfl, rfl, rfl, rfl, rfl, rfl⟩

/-- What `setPoison` leaves alone. -/
@[simp] theorem State.setPoison_fields (s : State) (a : Nat) (p : Bool) :
    (s.setPoison a p).pending = s.pending ∧ (s.setPoison a p).regs = s.regs ∧ (s.setPoison a p).tmr = s.tmr ∧ (s.setPoison a p).mem = s.mem ∧
    (s.setPoison a p).retiredHit = s.retiredHit ∧ (s.setPoison a p).reply = s.reply ∧ (s.setPoison a p).time = s.time ∧
    (s.setPoison a p).stepped = s.stepped ∧ (s.setPoison a p).servo = s.servo ∧ (s.setPoison a p).roundNext = s.roundNext ∧
    (s.setPoison a p).holds = s.holds ∧ (s.setPoison a p).wheels = s.wheels ∧ (s.setPoison a p).edge = s.edge ∧
    (s.setPoison a p).delayed = s.delayed ∧ (s.setPoison a p).handoffs = s.handoffs ∧ (s.setPoison a p).windows = s.windows ∧
    (s.setPoison a p).landings = s.landings ∧ (s.setPoison a p).ports = s.ports ∧ (s.setPoison a p).copyB = s.copyB ∧
    (s.setPoison a p).fsync = s.fsync ∧ (s.setPoison a p).hostIrq = s.hostIrq ∧ (s.setPoison a p).tiles = s.tiles ∧
    (s.setPoison a p).parts = s.parts ∧ (s.setPoison a p).nextInst = s.nextInst ∧ (s.setPoison a p).streams = s.streams ∧
    (s.setPoison a p).goldens = s.goldens ∧ (s.setPoison a p).selfTests = s.selfTests ∧ (s.setPoison a p).access = s.access ∧
    (s.setPoison a p).pixProgs = s.pixProgs ∧ (s.setPoison a p).pixRuns = s.pixRuns ∧ (s.setPoison a p).pixWindow = s.pixWindow ∧
    (s.setPoison a p).kvPools = s.kvPools ∧ (s.setPoison a p).kvCtxs = s.kvCtxs ∧ (s.setPoison a p).solSlots = s.solSlots ∧
    (s.setPoison a p).solQueue = s.solQueue ∧ (s.setPoison a p).solRun = s.solRun ∧ (s.setPoison a p).channels = s.channels ∧
    (s.setPoison a p).ctlInputs = s.ctlInputs ∧ (s.setPoison a p).testGen = s.testGen ∧ (s.setPoison a p).capture = s.capture ∧
    (s.setPoison a p).camStrs = s.camStrs ∧ (s.setPoison a p).ethPorts = s.ethPorts ∧ (s.setPoison a p).ethTables = s.ethTables ∧
    (s.setPoison a p).ethRings = s.ethRings ∧ (s.setPoison a p).ethRsp = s.ethRsp ∧ (s.setPoison a p).cans = s.cans ∧
    (s.setPoison a p).pins = s.pins ∧ (s.setPoison a p).safeDiff = s.safeDiff ∧ (s.setPoison a p).sents = s.sents ∧ (s.setPoison a p).spis = s.spis ∧
    (s.setPoison a p).bamPorts = s.bamPorts ∧ (s.setPoison a p).discovery = s.discovery ∧ (s.setPoison a p).bamFlags = s.bamFlags ∧
    (s.setPoison a p).remotes = s.remotes ∧ (s.setPoison a p).mirrors = s.mirrors ∧ (s.setPoison a p).twins = s.twins ∧
    (s.setPoison a p).posting = s.posting ∧ (s.setPoison a p).collector = s.collector ∧ (s.setPoison a p).errLog = s.errLog ∧
    (s.setPoison a p).overflowed = s.overflowed ∧ (s.setPoison a p).handled = s.handled ∧ (s.setPoison a p).retains = s.retains ∧
    (s.setPoison a p).dump = s.dump ∧ (s.setPoison a p).dumpSeq = s.dumpSeq ∧ (s.setPoison a p).rungs = s.rungs ∧ (s.setPoison a p).harts = s.harts ∧
    (s.setPoison a p).resets = s.resets ∧ (s.setPoison a p).searches = s.searches ∧ (s.setPoison a p).hartKick = s.hartKick ∧
    (s.setPoison a p).hostCe = s.hostCe ∧ (s.setPoison a p).chipReset = s.chipReset ∧ (s.setPoison a p).mailboxes = s.mailboxes ∧
    (s.setPoison a p).locks = s.locks ∧ (s.setPoison a p).boot = s.boot ∧ (s.setPoison a p).imageLog = s.imageLog ∧
    (s.setPoison a p).attest = s.attest ∧ (s.setPoison a p).trng = s.trng ∧ (s.setPoison a p).power = s.power ∧ (s.setPoison a p).safety = s.safety ∧
    (s.setPoison a p).frz = s.frz ∧ (s.setPoison a p).recorder = s.recorder ∧ (s.setPoison a p).dbg = s.dbg ∧ (s.setPoison a p).fresh = s.fresh :=
  ⟨rfl, rfl, rfl, rfl, rfl, rfl, rfl, rfl, rfl, rfl, rfl, rfl, rfl, rfl, rfl, rfl, rfl, rfl, rfl, rfl, rfl, rfl, rfl, rfl, rfl, rfl, rfl, rfl, rfl,
    rfl, rfl, rfl, rfl, rfl, rfl, rfl, rfl, rfl, rfl, rfl, rfl, rfl, rfl, rfl, rfl, rfl, rfl, rfl, rfl, rfl, rfl, rfl, rfl, rfl, rfl, rfl, rfl, rfl,
    rfl, rfl, rfl, rfl, rfl, rfl, rfl, rfl, rfl, rfl, rfl, rfl, rfl, rfl, rfl, rfl, rfl, rfl, rfl, rfl, rfl, rfl, rfl, rfl, rfl⟩

/-- What `zero` leaves alone. -/
@[simp] theorem State.zero_fields (s : State) (lo hi : Nat) :
    (s.zero lo hi).pending = s.pending ∧ (s.zero lo hi).regs = s.regs ∧ (s.zero lo hi).tmr = s.tmr ∧ (s.zero lo hi).retiredHit = s.retiredHit ∧
    (s.zero lo hi).reply = s.reply ∧ (s.zero lo hi).time = s.time ∧ (s.zero lo hi).stepped = s.stepped ∧ (s.zero lo hi).servo = s.servo ∧
    (s.zero lo hi).roundNext = s.roundNext ∧ (s.zero lo hi).holds = s.holds ∧ (s.zero lo hi).wheels = s.wheels ∧ (s.zero lo hi).edge = s.edge ∧
    (s.zero lo hi).delayed = s.delayed ∧ (s.zero lo hi).handoffs = s.handoffs ∧ (s.zero lo hi).windows = s.windows ∧
    (s.zero lo hi).landings = s.landings ∧ (s.zero lo hi).ports = s.ports ∧ (s.zero lo hi).copyB = s.copyB ∧ (s.zero lo hi).fsync = s.fsync ∧
    (s.zero lo hi).hostIrq = s.hostIrq ∧ (s.zero lo hi).tiles = s.tiles ∧ (s.zero lo hi).parts = s.parts ∧ (s.zero lo hi).nextInst = s.nextInst ∧
    (s.zero lo hi).streams = s.streams ∧ (s.zero lo hi).goldens = s.goldens ∧ (s.zero lo hi).selfTests = s.selfTests ∧
    (s.zero lo hi).access = s.access ∧ (s.zero lo hi).pixProgs = s.pixProgs ∧ (s.zero lo hi).pixRuns = s.pixRuns ∧
    (s.zero lo hi).pixWindow = s.pixWindow ∧ (s.zero lo hi).kvPools = s.kvPools ∧ (s.zero lo hi).kvCtxs = s.kvCtxs ∧
    (s.zero lo hi).solSlots = s.solSlots ∧ (s.zero lo hi).solQueue = s.solQueue ∧ (s.zero lo hi).solRun = s.solRun ∧
    (s.zero lo hi).channels = s.channels ∧ (s.zero lo hi).ctlInputs = s.ctlInputs ∧ (s.zero lo hi).testGen = s.testGen ∧
    (s.zero lo hi).capture = s.capture ∧ (s.zero lo hi).camStrs = s.camStrs ∧ (s.zero lo hi).ethPorts = s.ethPorts ∧
    (s.zero lo hi).ethTables = s.ethTables ∧ (s.zero lo hi).ethRings = s.ethRings ∧ (s.zero lo hi).ethRsp = s.ethRsp ∧ (s.zero lo hi).cans = s.cans ∧
    (s.zero lo hi).pins = s.pins ∧ (s.zero lo hi).safeDiff = s.safeDiff ∧ (s.zero lo hi).sents = s.sents ∧ (s.zero lo hi).spis = s.spis ∧
    (s.zero lo hi).bamPorts = s.bamPorts ∧ (s.zero lo hi).discovery = s.discovery ∧ (s.zero lo hi).bamFlags = s.bamFlags ∧
    (s.zero lo hi).remotes = s.remotes ∧ (s.zero lo hi).mirrors = s.mirrors ∧ (s.zero lo hi).twins = s.twins ∧ (s.zero lo hi).posting = s.posting ∧
    (s.zero lo hi).collector = s.collector ∧ (s.zero lo hi).errLog = s.errLog ∧ (s.zero lo hi).overflowed = s.overflowed ∧
    (s.zero lo hi).handled = s.handled ∧ (s.zero lo hi).retains = s.retains ∧ (s.zero lo hi).dump = s.dump ∧ (s.zero lo hi).dumpSeq = s.dumpSeq ∧
    (s.zero lo hi).rungs = s.rungs ∧ (s.zero lo hi).harts = s.harts ∧ (s.zero lo hi).resets = s.resets ∧ (s.zero lo hi).searches = s.searches ∧
    (s.zero lo hi).hartKick = s.hartKick ∧ (s.zero lo hi).hostCe = s.hostCe ∧ (s.zero lo hi).chipReset = s.chipReset ∧
    (s.zero lo hi).mailboxes = s.mailboxes ∧ (s.zero lo hi).locks = s.locks ∧ (s.zero lo hi).boot = s.boot ∧ (s.zero lo hi).imageLog = s.imageLog ∧
    (s.zero lo hi).attest = s.attest ∧ (s.zero lo hi).trng = s.trng ∧ (s.zero lo hi).power = s.power ∧ (s.zero lo hi).safety = s.safety ∧
    (s.zero lo hi).frz = s.frz ∧ (s.zero lo hi).recorder = s.recorder ∧ (s.zero lo hi).dbg = s.dbg ∧ (s.zero lo hi).fresh = s.fresh :=
  ⟨rfl, rfl, rfl, rfl, rfl, rfl, rfl, rfl, rfl, rfl, rfl, rfl, rfl, rfl, rfl, rfl, rfl, rfl, rfl, rfl, rfl, rfl, rfl, rfl, rfl, rfl, rfl, rfl, rfl,
    rfl, rfl, rfl, rfl, rfl, rfl, rfl, rfl, rfl, rfl, rfl, rfl, rfl, rfl, rfl, rfl, rfl, rfl, rfl, rfl, rfl, rfl, rfl, rfl, rfl, rfl, rfl, rfl, rfl,
    rfl, rfl, rfl, rfl, rfl, rfl, rfl, rfl, rfl, rfl, rfl, rfl, rfl, rfl, rfl, rfl, rfl, rfl, rfl, rfl, rfl, rfl, rfl, rfl⟩

/-- What `modTile` leaves alone. -/
@[simp] theorem State.modTile_fields (s : State) (k : Nat) (f : Tile → Tile) :
    (s.modTile k f).pending = s.pending ∧ (s.modTile k f).regs = s.regs ∧ (s.modTile k f).tmr = s.tmr ∧ (s.modTile k f).mem = s.mem ∧
    (s.modTile k f).poison = s.poison ∧ (s.modTile k f).retiredHit = s.retiredHit ∧ (s.modTile k f).reply = s.reply ∧ (s.modTile k f).time = s.time ∧
    (s.modTile k f).stepped = s.stepped ∧ (s.modTile k f).servo = s.servo ∧ (s.modTile k f).roundNext = s.roundNext ∧
    (s.modTile k f).holds = s.holds ∧ (s.modTile k f).wheels = s.wheels ∧ (s.modTile k f).edge = s.edge ∧ (s.modTile k f).delayed = s.delayed ∧
    (s.modTile k f).handoffs = s.handoffs ∧ (s.modTile k f).windows = s.windows ∧ (s.modTile k f).landings = s.landings ∧
    (s.modTile k f).ports = s.ports ∧ (s.modTile k f).copyB = s.copyB ∧ (s.modTile k f).fsync = s.fsync ∧ (s.modTile k f).hostIrq = s.hostIrq ∧
    (s.modTile k f).parts = s.parts ∧ (s.modTile k f).nextInst = s.nextInst ∧ (s.modTile k f).streams = s.streams ∧
    (s.modTile k f).goldens = s.goldens ∧ (s.modTile k f).selfTests = s.selfTests ∧ (s.modTile k f).access = s.access ∧
    (s.modTile k f).pixProgs = s.pixProgs ∧ (s.modTile k f).pixRuns = s.pixRuns ∧ (s.modTile k f).pixWindow = s.pixWindow ∧
    (s.modTile k f).kvPools = s.kvPools ∧ (s.modTile k f).kvCtxs = s.kvCtxs ∧ (s.modTile k f).solSlots = s.solSlots ∧
    (s.modTile k f).solQueue = s.solQueue ∧ (s.modTile k f).solRun = s.solRun ∧ (s.modTile k f).channels = s.channels ∧
    (s.modTile k f).ctlInputs = s.ctlInputs ∧ (s.modTile k f).testGen = s.testGen ∧ (s.modTile k f).capture = s.capture ∧
    (s.modTile k f).camStrs = s.camStrs ∧ (s.modTile k f).ethPorts = s.ethPorts ∧ (s.modTile k f).ethTables = s.ethTables ∧
    (s.modTile k f).ethRings = s.ethRings ∧ (s.modTile k f).ethRsp = s.ethRsp ∧ (s.modTile k f).cans = s.cans ∧ (s.modTile k f).pins = s.pins ∧
    (s.modTile k f).safeDiff = s.safeDiff ∧ (s.modTile k f).sents = s.sents ∧ (s.modTile k f).spis = s.spis ∧ (s.modTile k f).bamPorts = s.bamPorts ∧
    (s.modTile k f).discovery = s.discovery ∧ (s.modTile k f).bamFlags = s.bamFlags ∧ (s.modTile k f).remotes = s.remotes ∧
    (s.modTile k f).mirrors = s.mirrors ∧ (s.modTile k f).twins = s.twins ∧ (s.modTile k f).posting = s.posting ∧
    (s.modTile k f).collector = s.collector ∧ (s.modTile k f).errLog = s.errLog ∧ (s.modTile k f).overflowed = s.overflowed ∧
    (s.modTile k f).handled = s.handled ∧ (s.modTile k f).retains = s.retains ∧ (s.modTile k f).dump = s.dump ∧ (s.modTile k f).dumpSeq = s.dumpSeq ∧
    (s.modTile k f).rungs = s.rungs ∧ (s.modTile k f).harts = s.harts ∧ (s.modTile k f).resets = s.resets ∧ (s.modTile k f).searches = s.searches ∧
    (s.modTile k f).hartKick = s.hartKick ∧ (s.modTile k f).hostCe = s.hostCe ∧ (s.modTile k f).chipReset = s.chipReset ∧
    (s.modTile k f).mailboxes = s.mailboxes ∧ (s.modTile k f).locks = s.locks ∧ (s.modTile k f).boot = s.boot ∧
    (s.modTile k f).imageLog = s.imageLog ∧ (s.modTile k f).attest = s.attest ∧ (s.modTile k f).trng = s.trng ∧ (s.modTile k f).power = s.power ∧
    (s.modTile k f).safety = s.safety ∧ (s.modTile k f).frz = s.frz ∧ (s.modTile k f).recorder = s.recorder ∧ (s.modTile k f).dbg = s.dbg ∧
    (s.modTile k f).fresh = s.fresh :=
  ⟨rfl, rfl, rfl, rfl, rfl, rfl, rfl, rfl, rfl, rfl, rfl, rfl, rfl, rfl, rfl, rfl, rfl, rfl, rfl, rfl, rfl, rfl, rfl, rfl, rfl, rfl, rfl, rfl, rfl,
    rfl, rfl, rfl, rfl, rfl, rfl, rfl, rfl, rfl, rfl, rfl, rfl, rfl, rfl, rfl, rfl, rfl, rfl, rfl, rfl, rfl, rfl, rfl, rfl, rfl, rfl, rfl, rfl, rfl,
    rfl, rfl, rfl, rfl, rfl, rfl, rfl, rfl, rfl, rfl, rfl, rfl, rfl, rfl, rfl, rfl, rfl, rfl, rfl, rfl, rfl, rfl, rfl, rfl, rfl⟩

/-- What `modPart` leaves alone. -/
@[simp] theorem State.modPart_fields (s : State) (k : Nat) (f : Part → Part) :
    (s.modPart k f).pending = s.pending ∧ (s.modPart k f).regs = s.regs ∧ (s.modPart k f).tmr = s.tmr ∧ (s.modPart k f).mem = s.mem ∧
    (s.modPart k f).poison = s.poison ∧ (s.modPart k f).retiredHit = s.retiredHit ∧ (s.modPart k f).reply = s.reply ∧ (s.modPart k f).time = s.time ∧
    (s.modPart k f).stepped = s.stepped ∧ (s.modPart k f).servo = s.servo ∧ (s.modPart k f).roundNext = s.roundNext ∧
    (s.modPart k f).holds = s.holds ∧ (s.modPart k f).wheels = s.wheels ∧ (s.modPart k f).edge = s.edge ∧ (s.modPart k f).delayed = s.delayed ∧
    (s.modPart k f).handoffs = s.handoffs ∧ (s.modPart k f).windows = s.windows ∧ (s.modPart k f).landings = s.landings ∧
    (s.modPart k f).ports = s.ports ∧ (s.modPart k f).copyB = s.copyB ∧ (s.modPart k f).fsync = s.fsync ∧ (s.modPart k f).hostIrq = s.hostIrq ∧
    (s.modPart k f).tiles = s.tiles ∧ (s.modPart k f).nextInst = s.nextInst ∧ (s.modPart k f).streams = s.streams ∧
    (s.modPart k f).goldens = s.goldens ∧ (s.modPart k f).selfTests = s.selfTests ∧ (s.modPart k f).access = s.access ∧
    (s.modPart k f).pixProgs = s.pixProgs ∧ (s.modPart k f).pixRuns = s.pixRuns ∧ (s.modPart k f).pixWindow = s.pixWindow ∧
    (s.modPart k f).kvPools = s.kvPools ∧ (s.modPart k f).kvCtxs = s.kvCtxs ∧ (s.modPart k f).solSlots = s.solSlots ∧
    (s.modPart k f).solQueue = s.solQueue ∧ (s.modPart k f).solRun = s.solRun ∧ (s.modPart k f).channels = s.channels ∧
    (s.modPart k f).ctlInputs = s.ctlInputs ∧ (s.modPart k f).testGen = s.testGen ∧ (s.modPart k f).capture = s.capture ∧
    (s.modPart k f).camStrs = s.camStrs ∧ (s.modPart k f).ethPorts = s.ethPorts ∧ (s.modPart k f).ethTables = s.ethTables ∧
    (s.modPart k f).ethRings = s.ethRings ∧ (s.modPart k f).ethRsp = s.ethRsp ∧ (s.modPart k f).cans = s.cans ∧ (s.modPart k f).pins = s.pins ∧
    (s.modPart k f).safeDiff = s.safeDiff ∧ (s.modPart k f).sents = s.sents ∧ (s.modPart k f).spis = s.spis ∧ (s.modPart k f).bamPorts = s.bamPorts ∧
    (s.modPart k f).discovery = s.discovery ∧ (s.modPart k f).bamFlags = s.bamFlags ∧ (s.modPart k f).remotes = s.remotes ∧
    (s.modPart k f).mirrors = s.mirrors ∧ (s.modPart k f).twins = s.twins ∧ (s.modPart k f).posting = s.posting ∧
    (s.modPart k f).collector = s.collector ∧ (s.modPart k f).errLog = s.errLog ∧ (s.modPart k f).overflowed = s.overflowed ∧
    (s.modPart k f).handled = s.handled ∧ (s.modPart k f).retains = s.retains ∧ (s.modPart k f).dump = s.dump ∧ (s.modPart k f).dumpSeq = s.dumpSeq ∧
    (s.modPart k f).rungs = s.rungs ∧ (s.modPart k f).harts = s.harts ∧ (s.modPart k f).resets = s.resets ∧ (s.modPart k f).searches = s.searches ∧
    (s.modPart k f).hartKick = s.hartKick ∧ (s.modPart k f).hostCe = s.hostCe ∧ (s.modPart k f).chipReset = s.chipReset ∧
    (s.modPart k f).mailboxes = s.mailboxes ∧ (s.modPart k f).locks = s.locks ∧ (s.modPart k f).boot = s.boot ∧
    (s.modPart k f).imageLog = s.imageLog ∧ (s.modPart k f).attest = s.attest ∧ (s.modPart k f).trng = s.trng ∧ (s.modPart k f).power = s.power ∧
    (s.modPart k f).safety = s.safety ∧ (s.modPart k f).frz = s.frz ∧ (s.modPart k f).recorder = s.recorder ∧ (s.modPart k f).dbg = s.dbg ∧
    (s.modPart k f).fresh = s.fresh :=
  ⟨rfl, rfl, rfl, rfl, rfl, rfl, rfl, rfl, rfl, rfl, rfl, rfl, rfl, rfl, rfl, rfl, rfl, rfl, rfl, rfl, rfl, rfl, rfl, rfl, rfl, rfl, rfl, rfl, rfl,
    rfl, rfl, rfl, rfl, rfl, rfl, rfl, rfl, rfl, rfl, rfl, rfl, rfl, rfl, rfl, rfl, rfl, rfl, rfl, rfl, rfl, rfl, rfl, rfl, rfl, rfl, rfl, rfl, rfl,
    rfl, rfl, rfl, rfl, rfl, rfl, rfl, rfl, rfl, rfl, rfl, rfl, rfl, rfl, rfl, rfl, rfl, rfl, rfl, rfl, rfl, rfl, rfl, rfl, rfl⟩

/-- What `modJob` leaves alone. -/
@[simp] theorem State.modJob_fields (s : State) (p k : Nat) (f : Job → Job) :
    (s.modJob p k f).pending = s.pending ∧ (s.modJob p k f).regs = s.regs ∧ (s.modJob p k f).tmr = s.tmr ∧ (s.modJob p k f).mem = s.mem ∧
    (s.modJob p k f).poison = s.poison ∧ (s.modJob p k f).retiredHit = s.retiredHit ∧ (s.modJob p k f).reply = s.reply ∧
    (s.modJob p k f).time = s.time ∧ (s.modJob p k f).stepped = s.stepped ∧ (s.modJob p k f).servo = s.servo ∧
    (s.modJob p k f).roundNext = s.roundNext ∧ (s.modJob p k f).holds = s.holds ∧ (s.modJob p k f).wheels = s.wheels ∧
    (s.modJob p k f).edge = s.edge ∧ (s.modJob p k f).delayed = s.delayed ∧ (s.modJob p k f).handoffs = s.handoffs ∧
    (s.modJob p k f).windows = s.windows ∧ (s.modJob p k f).landings = s.landings ∧ (s.modJob p k f).ports = s.ports ∧
    (s.modJob p k f).copyB = s.copyB ∧ (s.modJob p k f).fsync = s.fsync ∧ (s.modJob p k f).hostIrq = s.hostIrq ∧ (s.modJob p k f).tiles = s.tiles ∧
    (s.modJob p k f).nextInst = s.nextInst ∧ (s.modJob p k f).streams = s.streams ∧ (s.modJob p k f).goldens = s.goldens ∧
    (s.modJob p k f).selfTests = s.selfTests ∧ (s.modJob p k f).access = s.access ∧ (s.modJob p k f).pixProgs = s.pixProgs ∧
    (s.modJob p k f).pixRuns = s.pixRuns ∧ (s.modJob p k f).pixWindow = s.pixWindow ∧ (s.modJob p k f).kvPools = s.kvPools ∧
    (s.modJob p k f).kvCtxs = s.kvCtxs ∧ (s.modJob p k f).solSlots = s.solSlots ∧ (s.modJob p k f).solQueue = s.solQueue ∧
    (s.modJob p k f).solRun = s.solRun ∧ (s.modJob p k f).channels = s.channels ∧ (s.modJob p k f).ctlInputs = s.ctlInputs ∧
    (s.modJob p k f).testGen = s.testGen ∧ (s.modJob p k f).capture = s.capture ∧ (s.modJob p k f).camStrs = s.camStrs ∧
    (s.modJob p k f).ethPorts = s.ethPorts ∧ (s.modJob p k f).ethTables = s.ethTables ∧ (s.modJob p k f).ethRings = s.ethRings ∧
    (s.modJob p k f).ethRsp = s.ethRsp ∧ (s.modJob p k f).cans = s.cans ∧ (s.modJob p k f).pins = s.pins ∧ (s.modJob p k f).safeDiff = s.safeDiff ∧
    (s.modJob p k f).sents = s.sents ∧ (s.modJob p k f).spis = s.spis ∧ (s.modJob p k f).bamPorts = s.bamPorts ∧
    (s.modJob p k f).discovery = s.discovery ∧ (s.modJob p k f).bamFlags = s.bamFlags ∧ (s.modJob p k f).remotes = s.remotes ∧
    (s.modJob p k f).mirrors = s.mirrors ∧ (s.modJob p k f).twins = s.twins ∧ (s.modJob p k f).posting = s.posting ∧
    (s.modJob p k f).collector = s.collector ∧ (s.modJob p k f).errLog = s.errLog ∧ (s.modJob p k f).overflowed = s.overflowed ∧
    (s.modJob p k f).handled = s.handled ∧ (s.modJob p k f).retains = s.retains ∧ (s.modJob p k f).dump = s.dump ∧
    (s.modJob p k f).dumpSeq = s.dumpSeq ∧ (s.modJob p k f).rungs = s.rungs ∧ (s.modJob p k f).harts = s.harts ∧ (s.modJob p k f).resets = s.resets ∧
    (s.modJob p k f).searches = s.searches ∧ (s.modJob p k f).hartKick = s.hartKick ∧ (s.modJob p k f).hostCe = s.hostCe ∧
    (s.modJob p k f).chipReset = s.chipReset ∧ (s.modJob p k f).mailboxes = s.mailboxes ∧ (s.modJob p k f).locks = s.locks ∧
    (s.modJob p k f).boot = s.boot ∧ (s.modJob p k f).imageLog = s.imageLog ∧ (s.modJob p k f).attest = s.attest ∧ (s.modJob p k f).trng = s.trng ∧
    (s.modJob p k f).power = s.power ∧ (s.modJob p k f).safety = s.safety ∧ (s.modJob p k f).frz = s.frz ∧ (s.modJob p k f).recorder = s.recorder ∧
    (s.modJob p k f).dbg = s.dbg ∧ (s.modJob p k f).fresh = s.fresh :=
  ⟨rfl, rfl, rfl, rfl, rfl, rfl, rfl, rfl, rfl, rfl, rfl, rfl, rfl, rfl, rfl, rfl, rfl, rfl, rfl, rfl, rfl, rfl, rfl, rfl, rfl, rfl, rfl, rfl, rfl,
    rfl, rfl, rfl, rfl, rfl, rfl, rfl, rfl, rfl, rfl, rfl, rfl, rfl, rfl, rfl, rfl, rfl, rfl, rfl, rfl, rfl, rfl, rfl, rfl, rfl, rfl, rfl, rfl, rfl,
    rfl, rfl, rfl, rfl, rfl, rfl, rfl, rfl, rfl, rfl, rfl, rfl, rfl, rfl, rfl, rfl, rfl, rfl, rfl, rfl, rfl, rfl, rfl, rfl, rfl⟩

/-- What `modWheel` leaves alone. -/
@[simp] theorem State.modWheel_fields (s : State) (k : Nat) (f : Wheel → Wheel) :
    (s.modWheel k f).pending = s.pending ∧ (s.modWheel k f).regs = s.regs ∧ (s.modWheel k f).tmr = s.tmr ∧ (s.modWheel k f).mem = s.mem ∧
    (s.modWheel k f).poison = s.poison ∧ (s.modWheel k f).retiredHit = s.retiredHit ∧ (s.modWheel k f).reply = s.reply ∧
    (s.modWheel k f).time = s.time ∧ (s.modWheel k f).stepped = s.stepped ∧ (s.modWheel k f).servo = s.servo ∧
    (s.modWheel k f).roundNext = s.roundNext ∧ (s.modWheel k f).holds = s.holds ∧ (s.modWheel k f).edge = s.edge ∧
    (s.modWheel k f).delayed = s.delayed ∧ (s.modWheel k f).handoffs = s.handoffs ∧ (s.modWheel k f).windows = s.windows ∧
    (s.modWheel k f).landings = s.landings ∧ (s.modWheel k f).ports = s.ports ∧ (s.modWheel k f).copyB = s.copyB ∧ (s.modWheel k f).fsync = s.fsync ∧
    (s.modWheel k f).hostIrq = s.hostIrq ∧ (s.modWheel k f).tiles = s.tiles ∧ (s.modWheel k f).parts = s.parts ∧
    (s.modWheel k f).nextInst = s.nextInst ∧ (s.modWheel k f).streams = s.streams ∧ (s.modWheel k f).goldens = s.goldens ∧
    (s.modWheel k f).selfTests = s.selfTests ∧ (s.modWheel k f).access = s.access ∧ (s.modWheel k f).pixProgs = s.pixProgs ∧
    (s.modWheel k f).pixRuns = s.pixRuns ∧ (s.modWheel k f).pixWindow = s.pixWindow ∧ (s.modWheel k f).kvPools = s.kvPools ∧
    (s.modWheel k f).kvCtxs = s.kvCtxs ∧ (s.modWheel k f).solSlots = s.solSlots ∧ (s.modWheel k f).solQueue = s.solQueue ∧
    (s.modWheel k f).solRun = s.solRun ∧ (s.modWheel k f).channels = s.channels ∧ (s.modWheel k f).ctlInputs = s.ctlInputs ∧
    (s.modWheel k f).testGen = s.testGen ∧ (s.modWheel k f).capture = s.capture ∧ (s.modWheel k f).camStrs = s.camStrs ∧
    (s.modWheel k f).ethPorts = s.ethPorts ∧ (s.modWheel k f).ethTables = s.ethTables ∧ (s.modWheel k f).ethRings = s.ethRings ∧
    (s.modWheel k f).ethRsp = s.ethRsp ∧ (s.modWheel k f).cans = s.cans ∧ (s.modWheel k f).pins = s.pins ∧ (s.modWheel k f).safeDiff = s.safeDiff ∧
    (s.modWheel k f).sents = s.sents ∧ (s.modWheel k f).spis = s.spis ∧ (s.modWheel k f).bamPorts = s.bamPorts ∧
    (s.modWheel k f).discovery = s.discovery ∧ (s.modWheel k f).bamFlags = s.bamFlags ∧ (s.modWheel k f).remotes = s.remotes ∧
    (s.modWheel k f).mirrors = s.mirrors ∧ (s.modWheel k f).twins = s.twins ∧ (s.modWheel k f).posting = s.posting ∧
    (s.modWheel k f).collector = s.collector ∧ (s.modWheel k f).errLog = s.errLog ∧ (s.modWheel k f).overflowed = s.overflowed ∧
    (s.modWheel k f).handled = s.handled ∧ (s.modWheel k f).retains = s.retains ∧ (s.modWheel k f).dump = s.dump ∧
    (s.modWheel k f).dumpSeq = s.dumpSeq ∧ (s.modWheel k f).rungs = s.rungs ∧ (s.modWheel k f).harts = s.harts ∧ (s.modWheel k f).resets = s.resets ∧
    (s.modWheel k f).searches = s.searches ∧ (s.modWheel k f).hartKick = s.hartKick ∧ (s.modWheel k f).hostCe = s.hostCe ∧
    (s.modWheel k f).chipReset = s.chipReset ∧ (s.modWheel k f).mailboxes = s.mailboxes ∧ (s.modWheel k f).locks = s.locks ∧
    (s.modWheel k f).boot = s.boot ∧ (s.modWheel k f).imageLog = s.imageLog ∧ (s.modWheel k f).attest = s.attest ∧ (s.modWheel k f).trng = s.trng ∧
    (s.modWheel k f).power = s.power ∧ (s.modWheel k f).safety = s.safety ∧ (s.modWheel k f).frz = s.frz ∧ (s.modWheel k f).recorder = s.recorder ∧
    (s.modWheel k f).dbg = s.dbg ∧ (s.modWheel k f).fresh = s.fresh :=
  ⟨rfl, rfl, rfl, rfl, rfl, rfl, rfl, rfl, rfl, rfl, rfl, rfl, rfl, rfl, rfl, rfl, rfl, rfl, rfl, rfl, rfl, rfl, rfl, rfl, rfl, rfl, rfl, rfl, rfl,
    rfl, rfl, rfl, rfl, rfl, rfl, rfl, rfl, rfl, rfl, rfl, rfl, rfl, rfl, rfl, rfl, rfl, rfl, rfl, rfl, rfl, rfl, rfl, rfl, rfl, rfl, rfl, rfl, rfl,
    rfl, rfl, rfl, rfl, rfl, rfl, rfl, rfl, rfl, rfl, rfl, rfl, rfl, rfl, rfl, rfl, rfl, rfl, rfl, rfl, rfl, rfl, rfl, rfl, rfl⟩

/-- What `modStream` leaves alone. -/
@[simp] theorem State.modStream_fields (s : State) (k : Nat) (f : Stream → Stream) :
    (s.modStream k f).pending = s.pending ∧ (s.modStream k f).regs = s.regs ∧ (s.modStream k f).tmr = s.tmr ∧ (s.modStream k f).mem = s.mem ∧
    (s.modStream k f).poison = s.poison ∧ (s.modStream k f).retiredHit = s.retiredHit ∧ (s.modStream k f).reply = s.reply ∧
    (s.modStream k f).time = s.time ∧ (s.modStream k f).stepped = s.stepped ∧ (s.modStream k f).servo = s.servo ∧
    (s.modStream k f).roundNext = s.roundNext ∧ (s.modStream k f).holds = s.holds ∧ (s.modStream k f).wheels = s.wheels ∧
    (s.modStream k f).edge = s.edge ∧ (s.modStream k f).delayed = s.delayed ∧ (s.modStream k f).handoffs = s.handoffs ∧
    (s.modStream k f).windows = s.windows ∧ (s.modStream k f).landings = s.landings ∧ (s.modStream k f).ports = s.ports ∧
    (s.modStream k f).copyB = s.copyB ∧ (s.modStream k f).fsync = s.fsync ∧ (s.modStream k f).hostIrq = s.hostIrq ∧
    (s.modStream k f).tiles = s.tiles ∧ (s.modStream k f).parts = s.parts ∧ (s.modStream k f).nextInst = s.nextInst ∧
    (s.modStream k f).goldens = s.goldens ∧ (s.modStream k f).selfTests = s.selfTests ∧ (s.modStream k f).access = s.access ∧
    (s.modStream k f).pixProgs = s.pixProgs ∧ (s.modStream k f).pixRuns = s.pixRuns ∧ (s.modStream k f).pixWindow = s.pixWindow ∧
    (s.modStream k f).kvPools = s.kvPools ∧ (s.modStream k f).kvCtxs = s.kvCtxs ∧ (s.modStream k f).solSlots = s.solSlots ∧
    (s.modStream k f).solQueue = s.solQueue ∧ (s.modStream k f).solRun = s.solRun ∧ (s.modStream k f).channels = s.channels ∧
    (s.modStream k f).ctlInputs = s.ctlInputs ∧ (s.modStream k f).testGen = s.testGen ∧ (s.modStream k f).capture = s.capture ∧
    (s.modStream k f).camStrs = s.camStrs ∧ (s.modStream k f).ethPorts = s.ethPorts ∧ (s.modStream k f).ethTables = s.ethTables ∧
    (s.modStream k f).ethRings = s.ethRings ∧ (s.modStream k f).ethRsp = s.ethRsp ∧ (s.modStream k f).cans = s.cans ∧
    (s.modStream k f).pins = s.pins ∧ (s.modStream k f).safeDiff = s.safeDiff ∧ (s.modStream k f).sents = s.sents ∧ (s.modStream k f).spis = s.spis ∧
    (s.modStream k f).bamPorts = s.bamPorts ∧ (s.modStream k f).discovery = s.discovery ∧ (s.modStream k f).bamFlags = s.bamFlags ∧
    (s.modStream k f).remotes = s.remotes ∧ (s.modStream k f).mirrors = s.mirrors ∧ (s.modStream k f).twins = s.twins ∧
    (s.modStream k f).posting = s.posting ∧ (s.modStream k f).collector = s.collector ∧ (s.modStream k f).errLog = s.errLog ∧
    (s.modStream k f).overflowed = s.overflowed ∧ (s.modStream k f).handled = s.handled ∧ (s.modStream k f).retains = s.retains ∧
    (s.modStream k f).dump = s.dump ∧ (s.modStream k f).dumpSeq = s.dumpSeq ∧ (s.modStream k f).rungs = s.rungs ∧ (s.modStream k f).harts = s.harts ∧
    (s.modStream k f).resets = s.resets ∧ (s.modStream k f).searches = s.searches ∧ (s.modStream k f).hartKick = s.hartKick ∧
    (s.modStream k f).hostCe = s.hostCe ∧ (s.modStream k f).chipReset = s.chipReset ∧ (s.modStream k f).mailboxes = s.mailboxes ∧
    (s.modStream k f).locks = s.locks ∧ (s.modStream k f).boot = s.boot ∧ (s.modStream k f).imageLog = s.imageLog ∧
    (s.modStream k f).attest = s.attest ∧ (s.modStream k f).trng = s.trng ∧ (s.modStream k f).power = s.power ∧ (s.modStream k f).safety = s.safety ∧
    (s.modStream k f).frz = s.frz ∧ (s.modStream k f).recorder = s.recorder ∧ (s.modStream k f).dbg = s.dbg ∧ (s.modStream k f).fresh = s.fresh :=
  ⟨rfl, rfl, rfl, rfl, rfl, rfl, rfl, rfl, rfl, rfl, rfl, rfl, rfl, rfl, rfl, rfl, rfl, rfl, rfl, rfl, rfl, rfl, rfl, rfl, rfl, rfl, rfl, rfl, rfl,
    rfl, rfl, rfl, rfl, rfl, rfl, rfl, rfl, rfl, rfl, rfl, rfl, rfl, rfl, rfl, rfl, rfl, rfl, rfl, rfl, rfl, rfl, rfl, rfl, rfl, rfl, rfl, rfl, rfl,
    rfl, rfl, rfl, rfl, rfl, rfl, rfl, rfl, rfl, rfl, rfl, rfl, rfl, rfl, rfl, rfl, rfl, rfl, rfl, rfl, rfl, rfl, rfl, rfl, rfl⟩

/-- What `modPort` leaves alone. -/
@[simp] theorem State.modPort_fields (s : State) (u k : Nat) (f : Port → Port) :
    (s.modPort u k f).pending = s.pending ∧ (s.modPort u k f).regs = s.regs ∧ (s.modPort u k f).tmr = s.tmr ∧ (s.modPort u k f).mem = s.mem ∧
    (s.modPort u k f).poison = s.poison ∧ (s.modPort u k f).retiredHit = s.retiredHit ∧ (s.modPort u k f).reply = s.reply ∧
    (s.modPort u k f).time = s.time ∧ (s.modPort u k f).stepped = s.stepped ∧ (s.modPort u k f).servo = s.servo ∧
    (s.modPort u k f).roundNext = s.roundNext ∧ (s.modPort u k f).holds = s.holds ∧ (s.modPort u k f).wheels = s.wheels ∧
    (s.modPort u k f).edge = s.edge ∧ (s.modPort u k f).delayed = s.delayed ∧ (s.modPort u k f).handoffs = s.handoffs ∧
    (s.modPort u k f).windows = s.windows ∧ (s.modPort u k f).landings = s.landings ∧ (s.modPort u k f).copyB = s.copyB ∧
    (s.modPort u k f).fsync = s.fsync ∧ (s.modPort u k f).hostIrq = s.hostIrq ∧ (s.modPort u k f).tiles = s.tiles ∧
    (s.modPort u k f).parts = s.parts ∧ (s.modPort u k f).nextInst = s.nextInst ∧ (s.modPort u k f).streams = s.streams ∧
    (s.modPort u k f).goldens = s.goldens ∧ (s.modPort u k f).selfTests = s.selfTests ∧ (s.modPort u k f).access = s.access ∧
    (s.modPort u k f).pixProgs = s.pixProgs ∧ (s.modPort u k f).pixRuns = s.pixRuns ∧ (s.modPort u k f).pixWindow = s.pixWindow ∧
    (s.modPort u k f).kvPools = s.kvPools ∧ (s.modPort u k f).kvCtxs = s.kvCtxs ∧ (s.modPort u k f).solSlots = s.solSlots ∧
    (s.modPort u k f).solQueue = s.solQueue ∧ (s.modPort u k f).solRun = s.solRun ∧ (s.modPort u k f).channels = s.channels ∧
    (s.modPort u k f).ctlInputs = s.ctlInputs ∧ (s.modPort u k f).testGen = s.testGen ∧ (s.modPort u k f).capture = s.capture ∧
    (s.modPort u k f).camStrs = s.camStrs ∧ (s.modPort u k f).ethPorts = s.ethPorts ∧ (s.modPort u k f).ethTables = s.ethTables ∧
    (s.modPort u k f).ethRings = s.ethRings ∧ (s.modPort u k f).ethRsp = s.ethRsp ∧ (s.modPort u k f).cans = s.cans ∧
    (s.modPort u k f).pins = s.pins ∧ (s.modPort u k f).safeDiff = s.safeDiff ∧ (s.modPort u k f).sents = s.sents ∧ (s.modPort u k f).spis = s.spis ∧
    (s.modPort u k f).bamPorts = s.bamPorts ∧ (s.modPort u k f).discovery = s.discovery ∧ (s.modPort u k f).bamFlags = s.bamFlags ∧
    (s.modPort u k f).remotes = s.remotes ∧ (s.modPort u k f).mirrors = s.mirrors ∧ (s.modPort u k f).twins = s.twins ∧
    (s.modPort u k f).posting = s.posting ∧ (s.modPort u k f).collector = s.collector ∧ (s.modPort u k f).errLog = s.errLog ∧
    (s.modPort u k f).overflowed = s.overflowed ∧ (s.modPort u k f).handled = s.handled ∧ (s.modPort u k f).retains = s.retains ∧
    (s.modPort u k f).dump = s.dump ∧ (s.modPort u k f).dumpSeq = s.dumpSeq ∧ (s.modPort u k f).rungs = s.rungs ∧ (s.modPort u k f).harts = s.harts ∧
    (s.modPort u k f).resets = s.resets ∧ (s.modPort u k f).searches = s.searches ∧ (s.modPort u k f).hartKick = s.hartKick ∧
    (s.modPort u k f).hostCe = s.hostCe ∧ (s.modPort u k f).chipReset = s.chipReset ∧ (s.modPort u k f).mailboxes = s.mailboxes ∧
    (s.modPort u k f).locks = s.locks ∧ (s.modPort u k f).boot = s.boot ∧ (s.modPort u k f).imageLog = s.imageLog ∧
    (s.modPort u k f).attest = s.attest ∧ (s.modPort u k f).trng = s.trng ∧ (s.modPort u k f).power = s.power ∧ (s.modPort u k f).safety = s.safety ∧
    (s.modPort u k f).frz = s.frz ∧ (s.modPort u k f).recorder = s.recorder ∧ (s.modPort u k f).dbg = s.dbg ∧ (s.modPort u k f).fresh = s.fresh :=
  ⟨rfl, rfl, rfl, rfl, rfl, rfl, rfl, rfl, rfl, rfl, rfl, rfl, rfl, rfl, rfl, rfl, rfl, rfl, rfl, rfl, rfl, rfl, rfl, rfl, rfl, rfl, rfl, rfl, rfl,
    rfl, rfl, rfl, rfl, rfl, rfl, rfl, rfl, rfl, rfl, rfl, rfl, rfl, rfl, rfl, rfl, rfl, rfl, rfl, rfl, rfl, rfl, rfl, rfl, rfl, rfl, rfl, rfl, rfl,
    rfl, rfl, rfl, rfl, rfl, rfl, rfl, rfl, rfl, rfl, rfl, rfl, rfl, rfl, rfl, rfl, rfl, rfl, rfl, rfl, rfl, rfl, rfl, rfl, rfl⟩

/-- What `modChan` leaves alone. -/
@[simp] theorem State.modChan_fields (s : State) (k : Nat) (f : Channel → Channel) :
    (s.modChan k f).pending = s.pending ∧ (s.modChan k f).regs = s.regs ∧ (s.modChan k f).tmr = s.tmr ∧ (s.modChan k f).mem = s.mem ∧
    (s.modChan k f).poison = s.poison ∧ (s.modChan k f).retiredHit = s.retiredHit ∧ (s.modChan k f).reply = s.reply ∧ (s.modChan k f).time = s.time ∧
    (s.modChan k f).stepped = s.stepped ∧ (s.modChan k f).servo = s.servo ∧ (s.modChan k f).roundNext = s.roundNext ∧
    (s.modChan k f).holds = s.holds ∧ (s.modChan k f).wheels = s.wheels ∧ (s.modChan k f).edge = s.edge ∧ (s.modChan k f).delayed = s.delayed ∧
    (s.modChan k f).handoffs = s.handoffs ∧ (s.modChan k f).windows = s.windows ∧ (s.modChan k f).landings = s.landings ∧
    (s.modChan k f).ports = s.ports ∧ (s.modChan k f).copyB = s.copyB ∧ (s.modChan k f).fsync = s.fsync ∧ (s.modChan k f).hostIrq = s.hostIrq ∧
    (s.modChan k f).tiles = s.tiles ∧ (s.modChan k f).parts = s.parts ∧ (s.modChan k f).nextInst = s.nextInst ∧ (s.modChan k f).streams = s.streams ∧
    (s.modChan k f).goldens = s.goldens ∧ (s.modChan k f).selfTests = s.selfTests ∧ (s.modChan k f).access = s.access ∧
    (s.modChan k f).pixProgs = s.pixProgs ∧ (s.modChan k f).pixRuns = s.pixRuns ∧ (s.modChan k f).pixWindow = s.pixWindow ∧
    (s.modChan k f).kvPools = s.kvPools ∧ (s.modChan k f).kvCtxs = s.kvCtxs ∧ (s.modChan k f).solSlots = s.solSlots ∧
    (s.modChan k f).solQueue = s.solQueue ∧ (s.modChan k f).solRun = s.solRun ∧ (s.modChan k f).ctlInputs = s.ctlInputs ∧
    (s.modChan k f).testGen = s.testGen ∧ (s.modChan k f).capture = s.capture ∧ (s.modChan k f).camStrs = s.camStrs ∧
    (s.modChan k f).ethPorts = s.ethPorts ∧ (s.modChan k f).ethTables = s.ethTables ∧ (s.modChan k f).ethRings = s.ethRings ∧
    (s.modChan k f).ethRsp = s.ethRsp ∧ (s.modChan k f).cans = s.cans ∧ (s.modChan k f).pins = s.pins ∧ (s.modChan k f).safeDiff = s.safeDiff ∧
    (s.modChan k f).sents = s.sents ∧ (s.modChan k f).spis = s.spis ∧ (s.modChan k f).bamPorts = s.bamPorts ∧
    (s.modChan k f).discovery = s.discovery ∧ (s.modChan k f).bamFlags = s.bamFlags ∧ (s.modChan k f).remotes = s.remotes ∧
    (s.modChan k f).mirrors = s.mirrors ∧ (s.modChan k f).twins = s.twins ∧ (s.modChan k f).posting = s.posting ∧
    (s.modChan k f).collector = s.collector ∧ (s.modChan k f).errLog = s.errLog ∧ (s.modChan k f).overflowed = s.overflowed ∧
    (s.modChan k f).handled = s.handled ∧ (s.modChan k f).retains = s.retains ∧ (s.modChan k f).dump = s.dump ∧ (s.modChan k f).dumpSeq = s.dumpSeq ∧
    (s.modChan k f).rungs = s.rungs ∧ (s.modChan k f).harts = s.harts ∧ (s.modChan k f).resets = s.resets ∧ (s.modChan k f).searches = s.searches ∧
    (s.modChan k f).hartKick = s.hartKick ∧ (s.modChan k f).hostCe = s.hostCe ∧ (s.modChan k f).chipReset = s.chipReset ∧
    (s.modChan k f).mailboxes = s.mailboxes ∧ (s.modChan k f).locks = s.locks ∧ (s.modChan k f).boot = s.boot ∧
    (s.modChan k f).imageLog = s.imageLog ∧ (s.modChan k f).attest = s.attest ∧ (s.modChan k f).trng = s.trng ∧ (s.modChan k f).power = s.power ∧
    (s.modChan k f).safety = s.safety ∧ (s.modChan k f).frz = s.frz ∧ (s.modChan k f).recorder = s.recorder ∧ (s.modChan k f).dbg = s.dbg ∧
    (s.modChan k f).fresh = s.fresh :=
  ⟨rfl, rfl, rfl, rfl, rfl, rfl, rfl, rfl, rfl, rfl, rfl, rfl, rfl, rfl, rfl, rfl, rfl, rfl, rfl, rfl, rfl, rfl, rfl, rfl, rfl, rfl, rfl, rfl, rfl,
    rfl, rfl, rfl, rfl, rfl, rfl, rfl, rfl, rfl, rfl, rfl, rfl, rfl, rfl, rfl, rfl, rfl, rfl, rfl, rfl, rfl, rfl, rfl, rfl, rfl, rfl, rfl, rfl, rfl,
    rfl, rfl, rfl, rfl, rfl, rfl, rfl, rfl, rfl, rfl, rfl, rfl, rfl, rfl, rfl, rfl, rfl, rfl, rfl, rfl, rfl, rfl, rfl, rfl, rfl⟩

/-- What `modSlot` leaves alone. -/
@[simp] theorem State.modSlot_fields (s : State) (k : Nat) (f : SolSlot → SolSlot) :
    (s.modSlot k f).pending = s.pending ∧ (s.modSlot k f).regs = s.regs ∧ (s.modSlot k f).tmr = s.tmr ∧ (s.modSlot k f).mem = s.mem ∧
    (s.modSlot k f).poison = s.poison ∧ (s.modSlot k f).retiredHit = s.retiredHit ∧ (s.modSlot k f).reply = s.reply ∧ (s.modSlot k f).time = s.time ∧
    (s.modSlot k f).stepped = s.stepped ∧ (s.modSlot k f).servo = s.servo ∧ (s.modSlot k f).roundNext = s.roundNext ∧
    (s.modSlot k f).holds = s.holds ∧ (s.modSlot k f).wheels = s.wheels ∧ (s.modSlot k f).edge = s.edge ∧ (s.modSlot k f).delayed = s.delayed ∧
    (s.modSlot k f).handoffs = s.handoffs ∧ (s.modSlot k f).windows = s.windows ∧ (s.modSlot k f).landings = s.landings ∧
    (s.modSlot k f).ports = s.ports ∧ (s.modSlot k f).copyB = s.copyB ∧ (s.modSlot k f).fsync = s.fsync ∧ (s.modSlot k f).hostIrq = s.hostIrq ∧
    (s.modSlot k f).tiles = s.tiles ∧ (s.modSlot k f).parts = s.parts ∧ (s.modSlot k f).nextInst = s.nextInst ∧ (s.modSlot k f).streams = s.streams ∧
    (s.modSlot k f).goldens = s.goldens ∧ (s.modSlot k f).selfTests = s.selfTests ∧ (s.modSlot k f).access = s.access ∧
    (s.modSlot k f).pixProgs = s.pixProgs ∧ (s.modSlot k f).pixRuns = s.pixRuns ∧ (s.modSlot k f).pixWindow = s.pixWindow ∧
    (s.modSlot k f).kvPools = s.kvPools ∧ (s.modSlot k f).kvCtxs = s.kvCtxs ∧ (s.modSlot k f).solQueue = s.solQueue ∧
    (s.modSlot k f).solRun = s.solRun ∧ (s.modSlot k f).channels = s.channels ∧ (s.modSlot k f).ctlInputs = s.ctlInputs ∧
    (s.modSlot k f).testGen = s.testGen ∧ (s.modSlot k f).capture = s.capture ∧ (s.modSlot k f).camStrs = s.camStrs ∧
    (s.modSlot k f).ethPorts = s.ethPorts ∧ (s.modSlot k f).ethTables = s.ethTables ∧ (s.modSlot k f).ethRings = s.ethRings ∧
    (s.modSlot k f).ethRsp = s.ethRsp ∧ (s.modSlot k f).cans = s.cans ∧ (s.modSlot k f).pins = s.pins ∧ (s.modSlot k f).safeDiff = s.safeDiff ∧
    (s.modSlot k f).sents = s.sents ∧ (s.modSlot k f).spis = s.spis ∧ (s.modSlot k f).bamPorts = s.bamPorts ∧
    (s.modSlot k f).discovery = s.discovery ∧ (s.modSlot k f).bamFlags = s.bamFlags ∧ (s.modSlot k f).remotes = s.remotes ∧
    (s.modSlot k f).mirrors = s.mirrors ∧ (s.modSlot k f).twins = s.twins ∧ (s.modSlot k f).posting = s.posting ∧
    (s.modSlot k f).collector = s.collector ∧ (s.modSlot k f).errLog = s.errLog ∧ (s.modSlot k f).overflowed = s.overflowed ∧
    (s.modSlot k f).handled = s.handled ∧ (s.modSlot k f).retains = s.retains ∧ (s.modSlot k f).dump = s.dump ∧ (s.modSlot k f).dumpSeq = s.dumpSeq ∧
    (s.modSlot k f).rungs = s.rungs ∧ (s.modSlot k f).harts = s.harts ∧ (s.modSlot k f).resets = s.resets ∧ (s.modSlot k f).searches = s.searches ∧
    (s.modSlot k f).hartKick = s.hartKick ∧ (s.modSlot k f).hostCe = s.hostCe ∧ (s.modSlot k f).chipReset = s.chipReset ∧
    (s.modSlot k f).mailboxes = s.mailboxes ∧ (s.modSlot k f).locks = s.locks ∧ (s.modSlot k f).boot = s.boot ∧
    (s.modSlot k f).imageLog = s.imageLog ∧ (s.modSlot k f).attest = s.attest ∧ (s.modSlot k f).trng = s.trng ∧ (s.modSlot k f).power = s.power ∧
    (s.modSlot k f).safety = s.safety ∧ (s.modSlot k f).frz = s.frz ∧ (s.modSlot k f).recorder = s.recorder ∧ (s.modSlot k f).dbg = s.dbg ∧
    (s.modSlot k f).fresh = s.fresh :=
  ⟨rfl, rfl, rfl, rfl, rfl, rfl, rfl, rfl, rfl, rfl, rfl, rfl, rfl, rfl, rfl, rfl, rfl, rfl, rfl, rfl, rfl, rfl, rfl, rfl, rfl, rfl, rfl, rfl, rfl,
    rfl, rfl, rfl, rfl, rfl, rfl, rfl, rfl, rfl, rfl, rfl, rfl, rfl, rfl, rfl, rfl, rfl, rfl, rfl, rfl, rfl, rfl, rfl, rfl, rfl, rfl, rfl, rfl, rfl,
    rfl, rfl, rfl, rfl, rfl, rfl, rfl, rfl, rfl, rfl, rfl, rfl, rfl, rfl, rfl, rfl, rfl, rfl, rfl, rfl, rfl, rfl, rfl, rfl, rfl⟩

/-- What `modPool` leaves alone. -/
@[simp] theorem State.modPool_fields (s : State) (k : Nat) (f : KvPool → KvPool) :
    (s.modPool k f).pending = s.pending ∧ (s.modPool k f).regs = s.regs ∧ (s.modPool k f).tmr = s.tmr ∧ (s.modPool k f).mem = s.mem ∧
    (s.modPool k f).poison = s.poison ∧ (s.modPool k f).retiredHit = s.retiredHit ∧ (s.modPool k f).reply = s.reply ∧ (s.modPool k f).time = s.time ∧
    (s.modPool k f).stepped = s.stepped ∧ (s.modPool k f).servo = s.servo ∧ (s.modPool k f).roundNext = s.roundNext ∧
    (s.modPool k f).holds = s.holds ∧ (s.modPool k f).wheels = s.wheels ∧ (s.modPool k f).edge = s.edge ∧ (s.modPool k f).delayed = s.delayed ∧
    (s.modPool k f).handoffs = s.handoffs ∧ (s.modPool k f).windows = s.windows ∧ (s.modPool k f).landings = s.landings ∧
    (s.modPool k f).ports = s.ports ∧ (s.modPool k f).copyB = s.copyB ∧ (s.modPool k f).fsync = s.fsync ∧ (s.modPool k f).hostIrq = s.hostIrq ∧
    (s.modPool k f).tiles = s.tiles ∧ (s.modPool k f).parts = s.parts ∧ (s.modPool k f).nextInst = s.nextInst ∧ (s.modPool k f).streams = s.streams ∧
    (s.modPool k f).goldens = s.goldens ∧ (s.modPool k f).selfTests = s.selfTests ∧ (s.modPool k f).access = s.access ∧
    (s.modPool k f).pixProgs = s.pixProgs ∧ (s.modPool k f).pixRuns = s.pixRuns ∧ (s.modPool k f).pixWindow = s.pixWindow ∧
    (s.modPool k f).kvCtxs = s.kvCtxs ∧ (s.modPool k f).solSlots = s.solSlots ∧ (s.modPool k f).solQueue = s.solQueue ∧
    (s.modPool k f).solRun = s.solRun ∧ (s.modPool k f).channels = s.channels ∧ (s.modPool k f).ctlInputs = s.ctlInputs ∧
    (s.modPool k f).testGen = s.testGen ∧ (s.modPool k f).capture = s.capture ∧ (s.modPool k f).camStrs = s.camStrs ∧
    (s.modPool k f).ethPorts = s.ethPorts ∧ (s.modPool k f).ethTables = s.ethTables ∧ (s.modPool k f).ethRings = s.ethRings ∧
    (s.modPool k f).ethRsp = s.ethRsp ∧ (s.modPool k f).cans = s.cans ∧ (s.modPool k f).pins = s.pins ∧ (s.modPool k f).safeDiff = s.safeDiff ∧
    (s.modPool k f).sents = s.sents ∧ (s.modPool k f).spis = s.spis ∧ (s.modPool k f).bamPorts = s.bamPorts ∧
    (s.modPool k f).discovery = s.discovery ∧ (s.modPool k f).bamFlags = s.bamFlags ∧ (s.modPool k f).remotes = s.remotes ∧
    (s.modPool k f).mirrors = s.mirrors ∧ (s.modPool k f).twins = s.twins ∧ (s.modPool k f).posting = s.posting ∧
    (s.modPool k f).collector = s.collector ∧ (s.modPool k f).errLog = s.errLog ∧ (s.modPool k f).overflowed = s.overflowed ∧
    (s.modPool k f).handled = s.handled ∧ (s.modPool k f).retains = s.retains ∧ (s.modPool k f).dump = s.dump ∧ (s.modPool k f).dumpSeq = s.dumpSeq ∧
    (s.modPool k f).rungs = s.rungs ∧ (s.modPool k f).harts = s.harts ∧ (s.modPool k f).resets = s.resets ∧ (s.modPool k f).searches = s.searches ∧
    (s.modPool k f).hartKick = s.hartKick ∧ (s.modPool k f).hostCe = s.hostCe ∧ (s.modPool k f).chipReset = s.chipReset ∧
    (s.modPool k f).mailboxes = s.mailboxes ∧ (s.modPool k f).locks = s.locks ∧ (s.modPool k f).boot = s.boot ∧
    (s.modPool k f).imageLog = s.imageLog ∧ (s.modPool k f).attest = s.attest ∧ (s.modPool k f).trng = s.trng ∧ (s.modPool k f).power = s.power ∧
    (s.modPool k f).safety = s.safety ∧ (s.modPool k f).frz = s.frz ∧ (s.modPool k f).recorder = s.recorder ∧ (s.modPool k f).dbg = s.dbg ∧
    (s.modPool k f).fresh = s.fresh :=
  ⟨rfl, rfl, rfl, rfl, rfl, rfl, rfl, rfl, rfl, rfl, rfl, rfl, rfl, rfl, rfl, rfl, rfl, rfl, rfl, rfl, rfl, rfl, rfl, rfl, rfl, rfl, rfl, rfl, rfl,
    rfl, rfl, rfl, rfl, rfl, rfl, rfl, rfl, rfl, rfl, rfl, rfl, rfl, rfl, rfl, rfl, rfl, rfl, rfl, rfl, rfl, rfl, rfl, rfl, rfl, rfl, rfl, rfl, rfl,
    rfl, rfl, rfl, rfl, rfl, rfl, rfl, rfl, rfl, rfl, rfl, rfl, rfl, rfl, rfl, rfl, rfl, rfl, rfl, rfl, rfl, rfl, rfl, rfl, rfl⟩

/-- What `modCan` leaves alone. -/
@[simp] theorem State.modCan_fields (s : State) (k : Nat) (f : CanCtl → CanCtl) :
    (s.modCan k f).pending = s.pending ∧ (s.modCan k f).regs = s.regs ∧ (s.modCan k f).tmr = s.tmr ∧ (s.modCan k f).mem = s.mem ∧
    (s.modCan k f).poison = s.poison ∧ (s.modCan k f).retiredHit = s.retiredHit ∧ (s.modCan k f).reply = s.reply ∧ (s.modCan k f).time = s.time ∧
    (s.modCan k f).stepped = s.stepped ∧ (s.modCan k f).servo = s.servo ∧ (s.modCan k f).roundNext = s.roundNext ∧ (s.modCan k f).holds = s.holds ∧
    (s.modCan k f).wheels = s.wheels ∧ (s.modCan k f).edge = s.edge ∧ (s.modCan k f).delayed = s.delayed ∧ (s.modCan k f).handoffs = s.handoffs ∧
    (s.modCan k f).windows = s.windows ∧ (s.modCan k f).landings = s.landings ∧ (s.modCan k f).ports = s.ports ∧ (s.modCan k f).copyB = s.copyB ∧
    (s.modCan k f).fsync = s.fsync ∧ (s.modCan k f).hostIrq = s.hostIrq ∧ (s.modCan k f).tiles = s.tiles ∧ (s.modCan k f).parts = s.parts ∧
    (s.modCan k f).nextInst = s.nextInst ∧ (s.modCan k f).streams = s.streams ∧ (s.modCan k f).goldens = s.goldens ∧
    (s.modCan k f).selfTests = s.selfTests ∧ (s.modCan k f).access = s.access ∧ (s.modCan k f).pixProgs = s.pixProgs ∧
    (s.modCan k f).pixRuns = s.pixRuns ∧ (s.modCan k f).pixWindow = s.pixWindow ∧ (s.modCan k f).kvPools = s.kvPools ∧
    (s.modCan k f).kvCtxs = s.kvCtxs ∧ (s.modCan k f).solSlots = s.solSlots ∧ (s.modCan k f).solQueue = s.solQueue ∧
    (s.modCan k f).solRun = s.solRun ∧ (s.modCan k f).channels = s.channels ∧ (s.modCan k f).ctlInputs = s.ctlInputs ∧
    (s.modCan k f).testGen = s.testGen ∧ (s.modCan k f).capture = s.capture ∧ (s.modCan k f).camStrs = s.camStrs ∧
    (s.modCan k f).ethPorts = s.ethPorts ∧ (s.modCan k f).ethTables = s.ethTables ∧ (s.modCan k f).ethRings = s.ethRings ∧
    (s.modCan k f).ethRsp = s.ethRsp ∧ (s.modCan k f).pins = s.pins ∧ (s.modCan k f).safeDiff = s.safeDiff ∧ (s.modCan k f).sents = s.sents ∧
    (s.modCan k f).spis = s.spis ∧ (s.modCan k f).bamPorts = s.bamPorts ∧ (s.modCan k f).discovery = s.discovery ∧
    (s.modCan k f).bamFlags = s.bamFlags ∧ (s.modCan k f).remotes = s.remotes ∧ (s.modCan k f).mirrors = s.mirrors ∧ (s.modCan k f).twins = s.twins ∧
    (s.modCan k f).posting = s.posting ∧ (s.modCan k f).collector = s.collector ∧ (s.modCan k f).errLog = s.errLog ∧
    (s.modCan k f).overflowed = s.overflowed ∧ (s.modCan k f).handled = s.handled ∧ (s.modCan k f).retains = s.retains ∧
    (s.modCan k f).dump = s.dump ∧ (s.modCan k f).dumpSeq = s.dumpSeq ∧ (s.modCan k f).rungs = s.rungs ∧ (s.modCan k f).harts = s.harts ∧
    (s.modCan k f).resets = s.resets ∧ (s.modCan k f).searches = s.searches ∧ (s.modCan k f).hartKick = s.hartKick ∧
    (s.modCan k f).hostCe = s.hostCe ∧ (s.modCan k f).chipReset = s.chipReset ∧ (s.modCan k f).mailboxes = s.mailboxes ∧
    (s.modCan k f).locks = s.locks ∧ (s.modCan k f).boot = s.boot ∧ (s.modCan k f).imageLog = s.imageLog ∧ (s.modCan k f).attest = s.attest ∧
    (s.modCan k f).trng = s.trng ∧ (s.modCan k f).power = s.power ∧ (s.modCan k f).safety = s.safety ∧ (s.modCan k f).frz = s.frz ∧
    (s.modCan k f).recorder = s.recorder ∧ (s.modCan k f).dbg = s.dbg ∧ (s.modCan k f).fresh = s.fresh :=
  ⟨rfl, rfl, rfl, rfl, rfl, rfl, rfl, rfl, rfl, rfl, rfl, rfl, rfl, rfl, rfl, rfl, rfl, rfl, rfl, rfl, rfl, rfl, rfl, rfl, rfl, rfl, rfl, rfl, rfl,
    rfl, rfl, rfl, rfl, rfl, rfl, rfl, rfl, rfl, rfl, rfl, rfl, rfl, rfl, rfl, rfl, rfl, rfl, rfl, rfl, rfl, rfl, rfl, rfl, rfl, rfl, rfl, rfl, rfl,
    rfl, rfl, rfl, rfl, rfl, rfl, rfl, rfl, rfl, rfl, rfl, rfl, rfl, rfl, rfl, rfl, rfl, rfl, rfl, rfl, rfl, rfl, rfl, rfl, rfl⟩

/-- What `modEth` leaves alone. -/
@[simp] theorem State.modEth_fields (s : State) (k : Nat) (f : EthPort → EthPort) :
    (s.modEth k f).pending = s.pending ∧ (s.modEth k f).regs = s.regs ∧ (s.modEth k f).tmr = s.tmr ∧ (s.modEth k f).mem = s.mem ∧
    (s.modEth k f).poison = s.poison ∧ (s.modEth k f).retiredHit = s.retiredHit ∧ (s.modEth k f).reply = s.reply ∧ (s.modEth k f).time = s.time ∧
    (s.modEth k f).stepped = s.stepped ∧ (s.modEth k f).servo = s.servo ∧ (s.modEth k f).roundNext = s.roundNext ∧ (s.modEth k f).holds = s.holds ∧
    (s.modEth k f).wheels = s.wheels ∧ (s.modEth k f).edge = s.edge ∧ (s.modEth k f).delayed = s.delayed ∧ (s.modEth k f).handoffs = s.handoffs ∧
    (s.modEth k f).windows = s.windows ∧ (s.modEth k f).landings = s.landings ∧ (s.modEth k f).ports = s.ports ∧ (s.modEth k f).copyB = s.copyB ∧
    (s.modEth k f).fsync = s.fsync ∧ (s.modEth k f).hostIrq = s.hostIrq ∧ (s.modEth k f).tiles = s.tiles ∧ (s.modEth k f).parts = s.parts ∧
    (s.modEth k f).nextInst = s.nextInst ∧ (s.modEth k f).streams = s.streams ∧ (s.modEth k f).goldens = s.goldens ∧
    (s.modEth k f).selfTests = s.selfTests ∧ (s.modEth k f).access = s.access ∧ (s.modEth k f).pixProgs = s.pixProgs ∧
    (s.modEth k f).pixRuns = s.pixRuns ∧ (s.modEth k f).pixWindow = s.pixWindow ∧ (s.modEth k f).kvPools = s.kvPools ∧
    (s.modEth k f).kvCtxs = s.kvCtxs ∧ (s.modEth k f).solSlots = s.solSlots ∧ (s.modEth k f).solQueue = s.solQueue ∧
    (s.modEth k f).solRun = s.solRun ∧ (s.modEth k f).channels = s.channels ∧ (s.modEth k f).ctlInputs = s.ctlInputs ∧
    (s.modEth k f).testGen = s.testGen ∧ (s.modEth k f).capture = s.capture ∧ (s.modEth k f).camStrs = s.camStrs ∧
    (s.modEth k f).ethTables = s.ethTables ∧ (s.modEth k f).ethRings = s.ethRings ∧ (s.modEth k f).ethRsp = s.ethRsp ∧ (s.modEth k f).cans = s.cans ∧
    (s.modEth k f).pins = s.pins ∧ (s.modEth k f).safeDiff = s.safeDiff ∧ (s.modEth k f).sents = s.sents ∧ (s.modEth k f).spis = s.spis ∧
    (s.modEth k f).bamPorts = s.bamPorts ∧ (s.modEth k f).discovery = s.discovery ∧ (s.modEth k f).bamFlags = s.bamFlags ∧
    (s.modEth k f).remotes = s.remotes ∧ (s.modEth k f).mirrors = s.mirrors ∧ (s.modEth k f).twins = s.twins ∧ (s.modEth k f).posting = s.posting ∧
    (s.modEth k f).collector = s.collector ∧ (s.modEth k f).errLog = s.errLog ∧ (s.modEth k f).overflowed = s.overflowed ∧
    (s.modEth k f).handled = s.handled ∧ (s.modEth k f).retains = s.retains ∧ (s.modEth k f).dump = s.dump ∧ (s.modEth k f).dumpSeq = s.dumpSeq ∧
    (s.modEth k f).rungs = s.rungs ∧ (s.modEth k f).harts = s.harts ∧ (s.modEth k f).resets = s.resets ∧ (s.modEth k f).searches = s.searches ∧
    (s.modEth k f).hartKick = s.hartKick ∧ (s.modEth k f).hostCe = s.hostCe ∧ (s.modEth k f).chipReset = s.chipReset ∧
    (s.modEth k f).mailboxes = s.mailboxes ∧ (s.modEth k f).locks = s.locks ∧ (s.modEth k f).boot = s.boot ∧ (s.modEth k f).imageLog = s.imageLog ∧
    (s.modEth k f).attest = s.attest ∧ (s.modEth k f).trng = s.trng ∧ (s.modEth k f).power = s.power ∧ (s.modEth k f).safety = s.safety ∧
    (s.modEth k f).frz = s.frz ∧ (s.modEth k f).recorder = s.recorder ∧ (s.modEth k f).dbg = s.dbg ∧ (s.modEth k f).fresh = s.fresh :=
  ⟨rfl, rfl, rfl, rfl, rfl, rfl, rfl, rfl, rfl, rfl, rfl, rfl, rfl, rfl, rfl, rfl, rfl, rfl, rfl, rfl, rfl, rfl, rfl, rfl, rfl, rfl, rfl, rfl, rfl,
    rfl, rfl, rfl, rfl, rfl, rfl, rfl, rfl, rfl, rfl, rfl, rfl, rfl, rfl, rfl, rfl, rfl, rfl, rfl, rfl, rfl, rfl, rfl, rfl, rfl, rfl, rfl, rfl, rfl,
    rfl, rfl, rfl, rfl, rfl, rfl, rfl, rfl, rfl, rfl, rfl, rfl, rfl, rfl, rfl, rfl, rfl, rfl, rfl, rfl, rfl, rfl, rfl, rfl, rfl⟩

/-- What `modPin` leaves alone. -/
@[simp] theorem State.modPin_fields (s : State) (k : Nat) (f : Pin → Pin) :
    (s.modPin k f).pending = s.pending ∧ (s.modPin k f).regs = s.regs ∧ (s.modPin k f).tmr = s.tmr ∧ (s.modPin k f).mem = s.mem ∧
    (s.modPin k f).poison = s.poison ∧ (s.modPin k f).retiredHit = s.retiredHit ∧ (s.modPin k f).reply = s.reply ∧ (s.modPin k f).time = s.time ∧
    (s.modPin k f).stepped = s.stepped ∧ (s.modPin k f).servo = s.servo ∧ (s.modPin k f).roundNext = s.roundNext ∧ (s.modPin k f).holds = s.holds ∧
    (s.modPin k f).wheels = s.wheels ∧ (s.modPin k f).edge = s.edge ∧ (s.modPin k f).delayed = s.delayed ∧ (s.modPin k f).handoffs = s.handoffs ∧
    (s.modPin k f).windows = s.windows ∧ (s.modPin k f).landings = s.landings ∧ (s.modPin k f).ports = s.ports ∧ (s.modPin k f).copyB = s.copyB ∧
    (s.modPin k f).fsync = s.fsync ∧ (s.modPin k f).hostIrq = s.hostIrq ∧ (s.modPin k f).tiles = s.tiles ∧ (s.modPin k f).parts = s.parts ∧
    (s.modPin k f).nextInst = s.nextInst ∧ (s.modPin k f).streams = s.streams ∧ (s.modPin k f).goldens = s.goldens ∧
    (s.modPin k f).selfTests = s.selfTests ∧ (s.modPin k f).access = s.access ∧ (s.modPin k f).pixProgs = s.pixProgs ∧
    (s.modPin k f).pixRuns = s.pixRuns ∧ (s.modPin k f).pixWindow = s.pixWindow ∧ (s.modPin k f).kvPools = s.kvPools ∧
    (s.modPin k f).kvCtxs = s.kvCtxs ∧ (s.modPin k f).solSlots = s.solSlots ∧ (s.modPin k f).solQueue = s.solQueue ∧
    (s.modPin k f).solRun = s.solRun ∧ (s.modPin k f).channels = s.channels ∧ (s.modPin k f).ctlInputs = s.ctlInputs ∧
    (s.modPin k f).testGen = s.testGen ∧ (s.modPin k f).capture = s.capture ∧ (s.modPin k f).camStrs = s.camStrs ∧
    (s.modPin k f).ethPorts = s.ethPorts ∧ (s.modPin k f).ethTables = s.ethTables ∧ (s.modPin k f).ethRings = s.ethRings ∧
    (s.modPin k f).ethRsp = s.ethRsp ∧ (s.modPin k f).cans = s.cans ∧ (s.modPin k f).safeDiff = s.safeDiff ∧ (s.modPin k f).sents = s.sents ∧
    (s.modPin k f).spis = s.spis ∧ (s.modPin k f).bamPorts = s.bamPorts ∧ (s.modPin k f).discovery = s.discovery ∧
    (s.modPin k f).bamFlags = s.bamFlags ∧ (s.modPin k f).remotes = s.remotes ∧ (s.modPin k f).mirrors = s.mirrors ∧ (s.modPin k f).twins = s.twins ∧
    (s.modPin k f).posting = s.posting ∧ (s.modPin k f).collector = s.collector ∧ (s.modPin k f).errLog = s.errLog ∧
    (s.modPin k f).overflowed = s.overflowed ∧ (s.modPin k f).handled = s.handled ∧ (s.modPin k f).retains = s.retains ∧
    (s.modPin k f).dump = s.dump ∧ (s.modPin k f).dumpSeq = s.dumpSeq ∧ (s.modPin k f).rungs = s.rungs ∧ (s.modPin k f).harts = s.harts ∧
    (s.modPin k f).resets = s.resets ∧ (s.modPin k f).searches = s.searches ∧ (s.modPin k f).hartKick = s.hartKick ∧
    (s.modPin k f).hostCe = s.hostCe ∧ (s.modPin k f).chipReset = s.chipReset ∧ (s.modPin k f).mailboxes = s.mailboxes ∧
    (s.modPin k f).locks = s.locks ∧ (s.modPin k f).boot = s.boot ∧ (s.modPin k f).imageLog = s.imageLog ∧ (s.modPin k f).attest = s.attest ∧
    (s.modPin k f).trng = s.trng ∧ (s.modPin k f).power = s.power ∧ (s.modPin k f).safety = s.safety ∧ (s.modPin k f).frz = s.frz ∧
    (s.modPin k f).recorder = s.recorder ∧ (s.modPin k f).dbg = s.dbg ∧ (s.modPin k f).fresh = s.fresh :=
  ⟨rfl, rfl, rfl, rfl, rfl, rfl, rfl, rfl, rfl, rfl, rfl, rfl, rfl, rfl, rfl, rfl, rfl, rfl, rfl, rfl, rfl, rfl, rfl, rfl, rfl, rfl, rfl, rfl, rfl,
    rfl, rfl, rfl, rfl, rfl, rfl, rfl, rfl, rfl, rfl, rfl, rfl, rfl, rfl, rfl, rfl, rfl, rfl, rfl, rfl, rfl, rfl, rfl, rfl, rfl, rfl, rfl, rfl, rfl,
    rfl, rfl, rfl, rfl, rfl, rfl, rfl, rfl, rfl, rfl, rfl, rfl, rfl, rfl, rfl, rfl, rfl, rfl, rfl, rfl, rfl, rfl, rfl, rfl, rfl⟩

/-- What `modMbox` leaves alone. -/
@[simp] theorem State.modMbox_fields (s : State) (k : Nat) (f : Mailbox → Mailbox) :
    (s.modMbox k f).pending = s.pending ∧ (s.modMbox k f).regs = s.regs ∧ (s.modMbox k f).tmr = s.tmr ∧ (s.modMbox k f).mem = s.mem ∧
    (s.modMbox k f).poison = s.poison ∧ (s.modMbox k f).retiredHit = s.retiredHit ∧ (s.modMbox k f).reply = s.reply ∧ (s.modMbox k f).time = s.time ∧
    (s.modMbox k f).stepped = s.stepped ∧ (s.modMbox k f).servo = s.servo ∧ (s.modMbox k f).roundNext = s.roundNext ∧
    (s.modMbox k f).holds = s.holds ∧ (s.modMbox k f).wheels = s.wheels ∧ (s.modMbox k f).edge = s.edge ∧ (s.modMbox k f).delayed = s.delayed ∧
    (s.modMbox k f).handoffs = s.handoffs ∧ (s.modMbox k f).windows = s.windows ∧ (s.modMbox k f).landings = s.landings ∧
    (s.modMbox k f).ports = s.ports ∧ (s.modMbox k f).copyB = s.copyB ∧ (s.modMbox k f).fsync = s.fsync ∧ (s.modMbox k f).hostIrq = s.hostIrq ∧
    (s.modMbox k f).tiles = s.tiles ∧ (s.modMbox k f).parts = s.parts ∧ (s.modMbox k f).nextInst = s.nextInst ∧ (s.modMbox k f).streams = s.streams ∧
    (s.modMbox k f).goldens = s.goldens ∧ (s.modMbox k f).selfTests = s.selfTests ∧ (s.modMbox k f).access = s.access ∧
    (s.modMbox k f).pixProgs = s.pixProgs ∧ (s.modMbox k f).pixRuns = s.pixRuns ∧ (s.modMbox k f).pixWindow = s.pixWindow ∧
    (s.modMbox k f).kvPools = s.kvPools ∧ (s.modMbox k f).kvCtxs = s.kvCtxs ∧ (s.modMbox k f).solSlots = s.solSlots ∧
    (s.modMbox k f).solQueue = s.solQueue ∧ (s.modMbox k f).solRun = s.solRun ∧ (s.modMbox k f).channels = s.channels ∧
    (s.modMbox k f).ctlInputs = s.ctlInputs ∧ (s.modMbox k f).testGen = s.testGen ∧ (s.modMbox k f).capture = s.capture ∧
    (s.modMbox k f).camStrs = s.camStrs ∧ (s.modMbox k f).ethPorts = s.ethPorts ∧ (s.modMbox k f).ethTables = s.ethTables ∧
    (s.modMbox k f).ethRings = s.ethRings ∧ (s.modMbox k f).ethRsp = s.ethRsp ∧ (s.modMbox k f).cans = s.cans ∧ (s.modMbox k f).pins = s.pins ∧
    (s.modMbox k f).safeDiff = s.safeDiff ∧ (s.modMbox k f).sents = s.sents ∧ (s.modMbox k f).spis = s.spis ∧ (s.modMbox k f).bamPorts = s.bamPorts ∧
    (s.modMbox k f).discovery = s.discovery ∧ (s.modMbox k f).bamFlags = s.bamFlags ∧ (s.modMbox k f).remotes = s.remotes ∧
    (s.modMbox k f).mirrors = s.mirrors ∧ (s.modMbox k f).twins = s.twins ∧ (s.modMbox k f).posting = s.posting ∧
    (s.modMbox k f).collector = s.collector ∧ (s.modMbox k f).errLog = s.errLog ∧ (s.modMbox k f).overflowed = s.overflowed ∧
    (s.modMbox k f).handled = s.handled ∧ (s.modMbox k f).retains = s.retains ∧ (s.modMbox k f).dump = s.dump ∧ (s.modMbox k f).dumpSeq = s.dumpSeq ∧
    (s.modMbox k f).rungs = s.rungs ∧ (s.modMbox k f).harts = s.harts ∧ (s.modMbox k f).resets = s.resets ∧ (s.modMbox k f).searches = s.searches ∧
    (s.modMbox k f).hartKick = s.hartKick ∧ (s.modMbox k f).hostCe = s.hostCe ∧ (s.modMbox k f).chipReset = s.chipReset ∧
    (s.modMbox k f).locks = s.locks ∧ (s.modMbox k f).boot = s.boot ∧ (s.modMbox k f).imageLog = s.imageLog ∧ (s.modMbox k f).attest = s.attest ∧
    (s.modMbox k f).trng = s.trng ∧ (s.modMbox k f).power = s.power ∧ (s.modMbox k f).safety = s.safety ∧ (s.modMbox k f).frz = s.frz ∧
    (s.modMbox k f).recorder = s.recorder ∧ (s.modMbox k f).dbg = s.dbg ∧ (s.modMbox k f).fresh = s.fresh :=
  ⟨rfl, rfl, rfl, rfl, rfl, rfl, rfl, rfl, rfl, rfl, rfl, rfl, rfl, rfl, rfl, rfl, rfl, rfl, rfl, rfl, rfl, rfl, rfl, rfl, rfl, rfl, rfl, rfl, rfl,
    rfl, rfl, rfl, rfl, rfl, rfl, rfl, rfl, rfl, rfl, rfl, rfl, rfl, rfl, rfl, rfl, rfl, rfl, rfl, rfl, rfl, rfl, rfl, rfl, rfl, rfl, rfl, rfl, rfl,
    rfl, rfl, rfl, rfl, rfl, rfl, rfl, rfl, rfl, rfl, rfl, rfl, rfl, rfl, rfl, rfl, rfl, rfl, rfl, rfl, rfl, rfl, rfl, rfl, rfl⟩

/-- What `modHo` leaves alone. -/
@[simp] theorem State.modHo_fields (s : State) (k : Nat) (f : Handoff → Handoff) :
    (s.modHo k f).pending = s.pending ∧ (s.modHo k f).regs = s.regs ∧ (s.modHo k f).tmr = s.tmr ∧ (s.modHo k f).mem = s.mem ∧
    (s.modHo k f).poison = s.poison ∧ (s.modHo k f).retiredHit = s.retiredHit ∧ (s.modHo k f).reply = s.reply ∧ (s.modHo k f).time = s.time ∧
    (s.modHo k f).stepped = s.stepped ∧ (s.modHo k f).servo = s.servo ∧ (s.modHo k f).roundNext = s.roundNext ∧ (s.modHo k f).holds = s.holds ∧
    (s.modHo k f).wheels = s.wheels ∧ (s.modHo k f).edge = s.edge ∧ (s.modHo k f).delayed = s.delayed ∧ (s.modHo k f).windows = s.windows ∧
    (s.modHo k f).landings = s.landings ∧ (s.modHo k f).ports = s.ports ∧ (s.modHo k f).copyB = s.copyB ∧ (s.modHo k f).fsync = s.fsync ∧
    (s.modHo k f).hostIrq = s.hostIrq ∧ (s.modHo k f).tiles = s.tiles ∧ (s.modHo k f).parts = s.parts ∧ (s.modHo k f).nextInst = s.nextInst ∧
    (s.modHo k f).streams = s.streams ∧ (s.modHo k f).goldens = s.goldens ∧ (s.modHo k f).selfTests = s.selfTests ∧ (s.modHo k f).access = s.access ∧
    (s.modHo k f).pixProgs = s.pixProgs ∧ (s.modHo k f).pixRuns = s.pixRuns ∧ (s.modHo k f).pixWindow = s.pixWindow ∧
    (s.modHo k f).kvPools = s.kvPools ∧ (s.modHo k f).kvCtxs = s.kvCtxs ∧ (s.modHo k f).solSlots = s.solSlots ∧ (s.modHo k f).solQueue = s.solQueue ∧
    (s.modHo k f).solRun = s.solRun ∧ (s.modHo k f).channels = s.channels ∧ (s.modHo k f).ctlInputs = s.ctlInputs ∧
    (s.modHo k f).testGen = s.testGen ∧ (s.modHo k f).capture = s.capture ∧ (s.modHo k f).camStrs = s.camStrs ∧ (s.modHo k f).ethPorts = s.ethPorts ∧
    (s.modHo k f).ethTables = s.ethTables ∧ (s.modHo k f).ethRings = s.ethRings ∧ (s.modHo k f).ethRsp = s.ethRsp ∧ (s.modHo k f).cans = s.cans ∧
    (s.modHo k f).pins = s.pins ∧ (s.modHo k f).safeDiff = s.safeDiff ∧ (s.modHo k f).sents = s.sents ∧ (s.modHo k f).spis = s.spis ∧
    (s.modHo k f).bamPorts = s.bamPorts ∧ (s.modHo k f).discovery = s.discovery ∧ (s.modHo k f).bamFlags = s.bamFlags ∧
    (s.modHo k f).remotes = s.remotes ∧ (s.modHo k f).mirrors = s.mirrors ∧ (s.modHo k f).twins = s.twins ∧ (s.modHo k f).posting = s.posting ∧
    (s.modHo k f).collector = s.collector ∧ (s.modHo k f).errLog = s.errLog ∧ (s.modHo k f).overflowed = s.overflowed ∧
    (s.modHo k f).handled = s.handled ∧ (s.modHo k f).retains = s.retains ∧ (s.modHo k f).dump = s.dump ∧ (s.modHo k f).dumpSeq = s.dumpSeq ∧
    (s.modHo k f).rungs = s.rungs ∧ (s.modHo k f).harts = s.harts ∧ (s.modHo k f).resets = s.resets ∧ (s.modHo k f).searches = s.searches ∧
    (s.modHo k f).hartKick = s.hartKick ∧ (s.modHo k f).hostCe = s.hostCe ∧ (s.modHo k f).chipReset = s.chipReset ∧
    (s.modHo k f).mailboxes = s.mailboxes ∧ (s.modHo k f).locks = s.locks ∧ (s.modHo k f).boot = s.boot ∧ (s.modHo k f).imageLog = s.imageLog ∧
    (s.modHo k f).attest = s.attest ∧ (s.modHo k f).trng = s.trng ∧ (s.modHo k f).power = s.power ∧ (s.modHo k f).safety = s.safety ∧
    (s.modHo k f).frz = s.frz ∧ (s.modHo k f).recorder = s.recorder ∧ (s.modHo k f).dbg = s.dbg ∧ (s.modHo k f).fresh = s.fresh :=
  ⟨rfl, rfl, rfl, rfl, rfl, rfl, rfl, rfl, rfl, rfl, rfl, rfl, rfl, rfl, rfl, rfl, rfl, rfl, rfl, rfl, rfl, rfl, rfl, rfl, rfl, rfl, rfl, rfl, rfl,
    rfl, rfl, rfl, rfl, rfl, rfl, rfl, rfl, rfl, rfl, rfl, rfl, rfl, rfl, rfl, rfl, rfl, rfl, rfl, rfl, rfl, rfl, rfl, rfl, rfl, rfl, rfl, rfl, rfl,
    rfl, rfl, rfl, rfl, rfl, rfl, rfl, rfl, rfl, rfl, rfl, rfl, rfl, rfl, rfl, rfl, rfl, rfl, rfl, rfl, rfl, rfl, rfl, rfl, rfl⟩

/-! ### Read after write -/

theorem State.reg_setReg_same (s : State) (a : Nat) (v : Dword) (h : mrising s.regs = true) : (s.setReg a v).reg a = v :=
  mget_mset_same _ s.regs a v h

@[simp] theorem State.reg_setReg_ne (s : State) (a b : Nat) (v : Dword) (h : a ≠ b) : (s.setReg a v).reg b = s.reg b :=
  mget_mset_ne _ _ s.regs a b v h

theorem State.regN_setRegN_same (s : State) (a v : Nat) (h : mrising s.regs = true) : (s.setRegN a v).regN a = v % 2 ^ 64 := by
  unfold State.regN State.setRegN
  rw [State.reg_setReg_same _ _ _ h, BitVec.toNat_ofNat]

@[simp] theorem State.regN_setRegN_ne (s : State) (a b v : Nat) (h : a ≠ b) : (s.setRegN a v).regN b = s.regN b := by
  unfold State.regN State.setRegN
  rw [State.reg_setReg_ne _ _ _ _ h]

theorem State.byte_setByte_same (s : State) (a : Nat) (b : Byte) (h : mrising s.mem = true) : (s.setByte a b).byte a = b :=
  mget_mset_same _ s.mem a b h

@[simp] theorem State.byte_setByte_ne (s : State) (a c : Nat) (b : Byte) (h : a ≠ c) : (s.setByte a b).byte c = s.byte c :=
  mget_mset_ne _ _ s.mem a c b h

/-- A register update leaves every byte of memory. -/
@[simp] theorem State.byte_setReg (s : State) (a c : Nat) (v : Dword) : (s.setReg a v).byte c = s.byte c := rfl

/-- A write of memory leaves every register. -/
@[simp] theorem State.reg_setByte (s : State) (a c : Nat) (b : Byte) : (s.setByte a b).reg c = s.reg c := rfl

/-- A tidy state's registers rise. -/
theorem State.rising_of_regsTidy (s : State) (h : mwf regReset s.regs = true) : mrising s.regs = true := by
  unfold mwf at h
  simp only [Bool.and_eq_true] at h
  exact h.1

/-! ### Bit fields -/

/-- A field reads what was put into it. -/
theorem bitsOf_putBits_same (v lo w x : Nat) : bitsOf (putBits v lo w x) lo w = x % 2 ^ w := by
  unfold bitsOf putBits
  rw [Nat.shiftRight_eq_div_pow, Nat.pow_add, ← Nat.mul_assoc, Nat.mul_right_comm _ (2 ^ lo) (2 ^ w), Nat.add_assoc, ← Nat.add_mul,
    Nat.add_mul_div_right _ _ (Nat.two_pow_pos lo), Nat.div_eq_of_lt (Nat.mod_lt _ (Nat.two_pow_pos lo)), Nat.zero_add,
    Nat.add_mul_mod_self_right, Nat.mod_mod]

/-- A field below the one written keeps its value. -/
theorem bitsOf_putBits_below (v lo w x lo' w' : Nat) (h : lo' + w' ≤ lo) : bitsOf (putBits v lo w x) lo' w' = bitsOf v lo' w' := by
  obtain ⟨d, rfl⟩ := Nat.exists_eq_add_of_le h
  unfold bitsOf putBits
  simp only [Nat.shiftRight_eq_div_pow]
  have e : v % 2 ^ (lo' + w' + d) + x % 2 ^ w * 2 ^ (lo' + w' + d) + v / 2 ^ (lo' + w' + d + w) * 2 ^ (lo' + w' + d + w) =
      v % 2 ^ (lo' + w' + d) + 2 ^ lo' * (2 ^ w' * ((x % 2 ^ w + v / 2 ^ (lo' + w' + d + w) * 2 ^ w) * 2 ^ d)) := by
    simp only [Nat.pow_add, Nat.add_mul, Nat.mul_add]
    ac_rfl
  rw [e, Nat.add_mul_div_left _ _ (Nat.two_pow_pos lo'), Nat.add_mul_mod_self_left]
  have m : v % 2 ^ (lo' + w' + d) % 2 ^ (lo' + w') = v % 2 ^ (lo' + w') :=
    Nat.mod_mod_of_dvd _ (Nat.pow_dvd_pow 2 (by omega))
  have k := congrArg (· / 2 ^ lo') m
  rwa [Nat.pow_add 2 lo' w', Nat.mod_mul_right_div_self, Nat.mod_mul_right_div_self] at k

/-- A field above the one written keeps its value. -/
theorem bitsOf_putBits_above (v lo w x lo' w' : Nat) (h : lo + w ≤ lo') : bitsOf (putBits v lo w x) lo' w' = bitsOf v lo' w' := by
  obtain ⟨d, rfl⟩ := Nat.exists_eq_add_of_le h
  unfold bitsOf putBits
  simp only [Nat.shiftRight_eq_div_pow]
  have c : v % 2 ^ lo + x % 2 ^ w * 2 ^ lo < 2 ^ (lo + w) := ?_
  · rw [Nat.pow_add 2 (lo + w) d, ← Nat.div_div_eq_div_mul, ← Nat.div_div_eq_div_mul,
      Nat.add_mul_div_right _ _ (Nat.two_pow_pos (lo + w)), Nat.div_eq_of_lt c, Nat.zero_add]
  have a := Nat.mod_lt v (Nat.two_pow_pos lo)
  have b : x % 2 ^ w + 1 ≤ 2 ^ w := Nat.mod_lt x (Nat.two_pow_pos w)
  calc v % 2 ^ lo + x % 2 ^ w * 2 ^ lo < 2 ^ lo + x % 2 ^ w * 2 ^ lo := by omega
    _ = (x % 2 ^ w + 1) * 2 ^ lo := by rw [Nat.add_mul, Nat.one_mul, Nat.add_comm]
    _ ≤ 2 ^ w * 2 ^ lo := Nat.mul_le_mul_right _ b
    _ = 2 ^ (lo + w) := by rw [Nat.pow_add, Nat.mul_comm]

/-- A number with a field replaced stays within the register, if it was and the field is. -/
theorem putBits_lt (n v lo w x : Nat) (hv : v < 2 ^ n) (h : lo + w ≤ n) : putBits v lo w x < 2 ^ n := by
  obtain ⟨d, rfl⟩ := Nat.exists_eq_add_of_le h
  unfold putBits
  rw [Nat.shiftRight_eq_div_pow]
  have q : v / 2 ^ (lo + w) + 1 ≤ 2 ^ d := by
    refine Nat.div_lt_of_lt_mul ?_
    rw [← Nat.pow_add]
    exact hv
  have a := Nat.mod_lt v (Nat.two_pow_pos lo)
  have b : x % 2 ^ w + 1 ≤ 2 ^ w := Nat.mod_lt x (Nat.two_pow_pos w)
  have c := Nat.mul_le_mul_right (2 ^ lo) b
  have e := Nat.mul_le_mul_right (2 ^ (lo + w)) q
  have f : 2 ^ w * 2 ^ lo = 2 ^ (lo + w) := by rw [Nat.pow_add, Nat.mul_comm]
  have g : 2 ^ d * 2 ^ (lo + w) = 2 ^ (lo + w + d) := by rw [Nat.pow_add 2 (lo + w) d, Nat.mul_comm]
  rw [Nat.add_mul, Nat.one_mul] at c e
  omega

/-! ### Register fields -/

theorem State.regN_lt (s : State) (a : Nat) : s.regN a < 2 ^ 64 := (s.reg a).isLt

/-- A field of a register reads what was put into it. -/
theorem State.fld_setFld_same (s : State) (a lo w x : Nat) (h : mrising s.regs = true) (hw : lo + w ≤ 64) :
    (s.setFld a lo w x).fld a lo w = x % 2 ^ w := by
  unfold State.fld State.setFld
  rw [State.regN_setRegN_same _ _ _ h, Nat.mod_eq_of_lt (putBits_lt 64 _ _ _ _ (s.regN_lt a) hw), bitsOf_putBits_same]

/-- Another field of the register keeps its value. -/
theorem State.fld_setFld_other (s : State) (a lo w x lo' w' : Nat) (h : mrising s.regs = true) (hw : lo + w ≤ 64)
    (d : lo' + w' ≤ lo ∨ lo + w ≤ lo') : (s.setFld a lo w x).fld a lo' w' = s.fld a lo' w' := by
  unfold State.fld State.setFld
  rw [State.regN_setRegN_same _ _ _ h, Nat.mod_eq_of_lt (putBits_lt 64 _ _ _ _ (s.regN_lt a) hw)]
  rcases d with d | d
  · exact bitsOf_putBits_below _ _ _ _ _ _ d
  · exact bitsOf_putBits_above _ _ _ _ _ _ d

/-- A field of another register keeps its value. -/
@[simp] theorem State.fld_setFld_ne (s : State) (a b lo w x lo' w' : Nat) (h : a ≠ b) :
    (s.setFld a lo w x).fld b lo' w' = s.fld b lo' w' := by
  unfold State.fld State.setFld
  rw [State.regN_setRegN_ne _ _ _ _ h]

end Sys2Proof.Machine
end

