-- ==== Sys2Proof/WellFormed.lean ====
section
/-! DEFINITION. The ranges of the operands that name something the manual numbers: masters, tiles, wheels, mailboxes, ports, channels, registers of a tile. An operand outside its range names nothing; `exec` is total all the same and takes such a number modulo its range, or finds nothing there. -/

namespace Sys2Proof

/-- The operands of a command that are numbered, each with the first number beyond its range: masters of 10 bits (R28), addresses of
48 bits (R22), logical tiles (R4), 8 wheels (R46), 16 mailboxes (R349), 32 partitions, 64 descriptors, and the instances of
the register maps. -/
def Instr.bounds : Instr → List (Nat × Nat)
  | .access m kind a len d _ _ => [(m, 1024), (a, 2 ^ 48), (a + len, 2 ^ 48 + 1), (1, len + 1)] ++ (if kind = .write then [(d.length, len + 1), (len, d.length + 1)] else [])
  | .registerWrite m addr _ => [(m, 1024), (addr, 2 ^ 48)]
  | .twTimeLoRead m => [(m, 1024)]
  | .twStepGo m _ => [(m, 1024)]
  | .twRateWrite m _ => [(m, 1024)]
  | .syncReceived _ => []
  | .holdoverEntry => []
  | .holdoverExit => []
  | .wheelPeriodBoundary w => [(w, 8)]
  | .twWnBaseWrite m w _ => [(m, 1024), (w, 8)]
  | .wheelNop w e _ => [(w, 8), (e, 4096)]
  | .launch w e _ => [(w, 8), (e, 4096)]
  | .twinLaunch w e _ => [(w, 8), (e, 4096)]
  | .copyBLaunch p => [(p, 32)]
  | .slice w e _ => [(w, 8), (e, 4096)]
  | .quiesceEnd p j => [(p, 32), (j, 64)]
  | .saveCommit t => [(t, 2048)]
  | .restoreEnd p j => [(p, 32), (j, 64)]
  | .handoff w e _ => [(w, 8), (e, 4096)]
  | .handoffWindowClose d => [(d, 1024)]
  | .twHoPublish m d slot => [(m, 1024), (d, 1024), (slot, 4)]
  | .fsync w e _ => [(w, 8), (e, 4096)]
  | .fsyncPulseEnd f => [(f, 16)]
  | .ctlSample w e _ => [(w, 8), (e, 4096)]
  | .solStart w e _ => [(w, 8), (e, 4096)]
  | .pixStart w e _ => [(w, 8), (e, 4096)]
  | .testSlot w e _ => [(w, 8), (e, 4096)]
  | .chunkDone b _ => [(b, 64)]
  | .testSlotEnd b => [(b, 64)]
  | .coverageLimit b => [(b, 64)]
  | .goldenSlot w e _ => [(w, 8), (e, 4096)]
  | .goldenSlotEnd p => [(p, 32)]
  | .deadline w e _ => [(w, 8), (e, 4096)]
  | .deadlineExpiry st => [(st, 256)]
  | .freeze w e _ => [(w, 8), (e, 4096)]
  | .notify w e _ => [(w, 8), (e, 4096)]
  | .loop c _ => [(c.tile, 2048)]
  | .loopd c _ h _ => [(c.tile, 2048), (h, 64)]
  | .endloop c => [(c.tile, 2048)]
  | .wait c _ => [(c.tile, 2048)]
  | .release c _ => [(c.tile, 2048)]
  | .half c => [(c.tile, 2048)]
  | .endOp c => [(c.tile, 2048)]
  | .wload c h _ fmt => [(c.tile, 2048), (h, 64), (fmt, 16)]
  | .mstream c _ ctx row => [(c.tile, 2048), (ctx, 8), (row, 1024)]
  | .aclr c row _ => [(c.tile, 2048), (row, 1024)]
  | .agset c ctx _ => [(c.tile, 2048), (ctx, 8)]
  | .sld c ctx _ => [(c.tile, 2048), (ctx, 8)]
  | .sst c ctx _ => [(c.tile, 2048), (ctx, 8)]
  | .drd c h _ _ _ => [(c.tile, 2048), (h, 64)]
  | .dmaReadDelivery c _ => [(c.tile, 2048)]
  | .dwr c _ _ _ _ _ => [(c.tile, 2048)]
  | .dmaWriteCommit c => [(c.tile, 2048)]
  | .ifetch c _ _ => [(c.tile, 2048)]
  | .drdx c h _ ih _ _ => [(c.tile, 2048), (h, 64), (ih, 64)]
  | .dwrx c _ ih _ _ _ _ => [(c.tile, 2048), (ih, 64)]
  | .send c _ _ _ _ _ => [(c.tile, 2048)]
  | .sendm c _ _ _ _ => [(c.tile, 2048)]
  | .recv c _ _ => [(c.tile, 2048)]
  | .addrecv c _ _ _ => [(c.tile, 2048)]
  | .flitArrival c => [(c.tile, 2048)]
  | .vadd c vd va vb _ => [(c.tile, 2048), (vd, 16), (va, 16), (vb, 16)]
  | .vsub c vd va vb _ => [(c.tile, 2048), (vd, 16), (va, 16), (vb, 16)]
  | .vmul c vd va vb _ => [(c.tile, 2048), (vd, 16), (va, 16), (vb, 16)]
  | .vfma c vd va vb vc _ => [(c.tile, 2048), (vd, 16), (va, 16), (vb, 16), (vc, 16)]
  | .vmax c vd va vb _ => [(c.tile, 2048), (vd, 16), (va, 16), (vb, 16)]
  | .vmin c vd va vb _ => [(c.tile, 2048), (vd, 16), (va, 16), (vb, 16)]
  | .vabs c vd va _ => [(c.tile, 2048), (vd, 16), (va, 16)]
  | .vneg c vd va _ => [(c.tile, 2048), (vd, 16), (va, 16)]
  | .vcmp c _ va vb => [(c.tile, 2048), (va, 16), (vb, 16)]
  | .vsel c vd va vb => [(c.tile, 2048), (vd, 16), (va, 16), (vb, 16)]
  | .vmov c vd va _ => [(c.tile, 2048), (vd, 16), (va, 16)]
  | .amov c vd row _ => [(c.tile, 2048), (vd, 16), (row, 1024)]
  | .vscl2 c vd va vb _ => [(c.tile, 2048), (vd, 16), (va, 16), (vb, 16)]
  | .vcvtS c vd va _ _ _ _ => [(c.tile, 2048), (vd, 16), (va, 16)]
  | .vcvtN c vd va _ _ _ _ => [(c.tile, 2048), (vd, 16), (va, 16)]
  | .vdq c vd va vb vc _ _ _ _ => [(c.tile, 2048), (vd, 16), (va, 16), (vb, 16), (vc, 16)]
  | .qstat c d va ctx _ _ => [(c.tile, 2048), (d, 16), (va, 16), (ctx, 8)]
  | .qscale c d _ => [(c.tile, 2048), (d, 16)]
  | .qconv c d va _ _ => [(c.tile, 2048), (d, 16), (va, 16)]
  | .vrsum c vd va _ => [(c.tile, 2048), (vd, 16), (va, 16)]
  | .vrmax c vd va _ => [(c.tile, 2048), (vd, 16), (va, 16)]
  | .vrmaxabs c vd va _ => [(c.tile, 2048), (vd, 16), (va, 16)]
  | .vexp c vd va _ => [(c.tile, 2048), (vd, 16), (va, 16)]
  | .vrcp c vd va _ => [(c.tile, 2048), (vd, 16), (va, 16)]
  | .vrsqrt c vd va _ => [(c.tile, 2048), (vd, 16), (va, 16)]
  | .jobHang t => [(t, 2048)]
  | .refreshBeat t _ => [(t, 2048)]
  | .zeroingPassDone t => [(t, 2048)]
  | .dramZeroingDone p => [(p, 32)]
  | .tmrSweep _ => []
  | .cdnCetClr m n _ => [(m, 1024), (n, 4)]
  | .pixFrameDone prog _ => [(prog, 256)]
  | .pixFrameTimeout prog _ => [(prog, 256)]
  | .kvPlanPublish pool => [(pool, 32)]
  | .solveDequeue => []
  | .refactorisationDone => []
  | .iterationDone => []
  | .solDeadline => []
  | .solvePublish => []
  | .ctlEvaluation => []
  | .testGeneratorEnd => []
  | .ctlTgStart m _ => [(m, 1024)]
  | .channelEnable m ch _ => [(m, 1024), (ch, 8)]
  | .channelDisable m ch _ => [(m, 1024), (ch, 8)]
  | .partitionShed => []
  | .partitionUnshed => []
  | .pmuFabricLimitWrite m _ => [(m, 1024)]
  | .serviceRound => []
  | .supMbnReqSeq m n _ => [(m, 1024), (n, 16)]
  | .nop n => [(n, 16)]
  | .capGet n => [(n, 16)]
  | .verGet n => [(n, 16)]
  | .mbAssign n => [(n, 16)]
  | .regRead n => [(n, 16)]
  | .regWrite n => [(n, 16)]
  | .errRead n => [(n, 16)]
  | .wheelLoad n => [(n, 16)]
  | .wheelEnable n => [(n, 16)]
  | .wheelDisable n => [(n, 16)]
  | .wheelSwap n => [(n, 16)]
  | .timeStep n => [(n, 16)]
  | .hoLanding n => [(n, 16)]
  | .hoCreate n => [(n, 16)]
  | .hoDestroy n => [(n, 16)]
  | .partCreate n => [(n, 16)]
  | .partDestroy n => [(n, 16)]
  | .imgLoad n _ => [(n, 16)]
  | .imgUnload n => [(n, 16)]
  | .jobAdmit n => [(n, 16)]
  | .jobRetire n => [(n, 16)]
  | .sliceTableLoad n => [(n, 16)]
  | .partCreditConfig n => [(n, 16)]
  | .accWrite n => [(n, 16)]
  | .accRead n => [(n, 16)]
  | .memCetClear n => [(n, 16)]
  | .memRetirePage n => [(n, 16)]
  | .memRetireBank n => [(n, 16)]
  | .memRetireList n => [(n, 16)]
  | .kvPoolCreate n => [(n, 16)]
  | .kvPoolDestroy n => [(n, 16)]
  | .kvCtxOpen n => [(n, 16)]
  | .kvStepOpen n => [(n, 16)]
  | .kvQuery n => [(n, 16)]
  | .kvPoolResync n => [(n, 16)]
  | .solLoad n => [(n, 16)]
  | .solConfig n => [(n, 16)]
  | .solUnload n => [(n, 16)]
  | .ctlWriteBank n => [(n, 16)]
  | .ctlBankSwap n => [(n, 16)]
  | .ctlCaptureRead n => [(n, 16)]
  | .pixLoadProgram n => [(n, 16)]
  | .snapTrigger n => [(n, 16)]
  | .recStart n => [(n, 16)]
  | .recStop n => [(n, 16)]
  | .recStatus n => [(n, 16)]
  | .recMarker n => [(n, 16)]
  | .replayLoad n _ => [(n, 16)]
  | .replayStart n => [(n, 16)]
  | .replayStop n => [(n, 16)]
  | .replayStatus n => [(n, 16)]
  | .replayResume n => [(n, 16)]
  | .resetReqContext n => [(n, 16)]
  | .resetReqEngine n => [(n, 16)]
  | .resetReqPartition n => [(n, 16)]
  | .resetReqChip n => [(n, 16)]
  | .resetReqPowerCycle n => [(n, 16)]
  | .camPortEnable m p _ => [(m, 1024), (p, 12)]
  | .frameStartPacket port vc _ => [(port, 12), (vc, 32)]
  | .linePacket port vc dt _ _ _ => [(port, 12), (vc, 32), (dt, 64)]
  | .frameEndPacket port vc _ => [(port, 12), (vc, 32)]
  | .ethFrameReceive port _ => [(port, 4)]
  | .frameTransmit port ring => [(port, 5), (ring, 16)]
  | .expressTransmit port => [(port, 4)]
  | .ethLinkDown port => [(port, 4)]
  | .gateBankSwap port _ => [(port, 4)]
  | .ethTblRead m _ => [(m, 1024)]
  | .ethTblWrite m _ => [(m, 1024)]
  | .mailboxFrame _ => []
  | .mailboxResponseFrame b => [(b, 4)]
  | .cannTxReq m n _ => [(m, 1024), (n, 8)]
  | .canFrameTransmitted n => [(n, 8)]
  | .canArbitrationLost n => [(n, 8)]
  | .canBusError n _ => [(n, 8)]
  | .canRecovered n => [(n, 8)]
  | .canInitClear m n _ => [(m, 1024), (n, 8)]
  | .canFrameReceive n _ => [(n, 8)]
  | .canSleep m n _ => [(m, 1024), (n, 8)]
  | .canWake n => [(n, 8)]
  | .sentMessage j status _ _ => [(j, 8), (status, 16)]
  | .sentSilent j => [(j, 8)]
  | .spiInputDue j => [(j, 4)]
  | .spiTransferDone j _ => [(j, 4)]
  | .rawExcursion pin => [(pin, 51)]
  | .filteredChange pin _ => [(pin, 51)]
  | .chatterClear pin => [(pin, 51)]
  | .stuckLatch pin => [(pin, 51)]
  | .stuckClear pin => [(pin, 51)]
  | .safeDiscrepancy => []
  | .lockstepMismatch pair => [(pair, 8)]
  | .bamPortEnable m p _ => [(m, 1024), (p, 6)]
  | .trainingDone p _ _ => [(p, 6)]
  | .laneLoss p => [(p, 6)]
  | .hello p => [(p, 6)]
  | .helloReceive p _ _ => [(p, 6)]
  | .discover m _ => [(m, 1024)]
  | .discoveryRun => []
  | .discoveryQuiet => []
  | .discoveryResultReceive _ => []
  | .discoveryCommit => []
  | .ackTimeout => []
  | .bamPacketReceive p _ => [(p, 6)]
  | .remoteAccessTimeout _ => []
  | .timeMessageSend => []
  | .timeMessageReceive p _ _ _ => [(p, 6)]
  | .mirrorEnable m c _ _ => [(m, 1024), (c, 32)]
  | .mirrorCopyDone c _ => [(c, 32)]
  | .twinBindingEnable m k _ _ _ => [(m, 1024), (k, 16)]
  | .partnerRecord k _ => [(k, 16)]
  | .twinWaitExpiry k => [(k, 16)]
  | .healthToggle => []
  | .cfgSafeKick m => [(m, 1024)]
  | .supervisorWatchdog => []
  | .amberHoldEnd cause => [(cause, 16)]
  | .holdoverAmber => []
  | .safeRequestRelease => []
  | .thermalCrimsonExit => []
  | .streamEnable m st _ => [(m, 1024), (st, 256)]
  | .pairWaitExpiry st => [(st, 256)]
  | .commitDecision st => [(st, 256)]
  | .rereadDone st => [(st, 256)]
  | .errorRecordArrival u => [(u, 256)]
  | .errorHandlerStep => []
  | .suspectReplayEnd _ => []
  | .engineTimeout u _ => [(u, 256)]
  | .hartWatchdog h guest => [(h, 16), (guest, 16)]
  | .hstWdoghKick m h => [(m, 1024), (h, 16)]
  | .dumpDone => []
  | .snapshotAccessTimeout u _ => [(u, 256)]
  | .dumpCap => []
  | .escalation _ => []
  | .resetDone _ => []
  | .s4HoldExpiry => []
  | .chipResetApply => []
  | .resetN => []
  | .bootStatusTimeout => []
  | .powerUp => []
  | .railOrderEnable _ => []
  | .sequenceRetry => []
  | .bootStart _ => []
  | .emmcReady _ => []
  | .bootAttempt => []
  | .bootConfirmed => []
  | .attestationRequest m _ => [(m, 1024)]
  | .attestationReportDone => []
  | .trngHealthFail => []
  | .trngResume => []
  | .sensorSample _ => []
  | .hardShutdownRestart => []
  | .railFault k => [(k, 16)]
  | .avsStep k _ => [(k, 16)]
  | .standbyEntry m _ => [(m, 1024)]
  | .wakeEvent => []
  | .domainSwitch m d _ => [(m, 1024), (d, 24)]
  | .domainInService d => [(d, 24)]
  | .refLoss => []
  | .sdsrefLoss => []
  | .freezeIn => []
  | .fabricFreezeMessage node _ => [(node, 64)]
  | .freezeEdge => []
  | .freezeOutEnd => []
  | .snapshotReadoutDone => []
  | .snapArm m _ => [(m, 1024)]
  | .replayInject _ => []
  | .debugChallenge => []
  | .debugAnswer _ _ => []
  | .unlockRetryEnd => []
  | .debugLock m _ => [(m, 1024)]
  | .alwaysOnSupplyLoss => []
  | .ethLinkUp port => [(port, 4)]
  | .sdsrefRestored => []
  | .discoveryAcknowledgement _ => []
  | .emmcTimeout => []
  | .bootTrngTimeout => []
  | .powerDownComplete => []
  | .consoleFrame _ _ => []
  | .tapFreezeRequest _ => []
  | .hostCacheError core _ => [(core, 16)]

/-- Every numbered operand lies in its range. -/
def Instr.wf (i : Instr) : Bool := i.bounds.all fun x => decide (x.1 < x.2)

end Sys2Proof
end

