-- ==== Sys2Proof/Tests/Slice0.lean ====
section
/-! SUPPORT. Tests: states that meet the hypotheses of every statement together, the manual's own worked examples, and ill-formed terms. -/

namespace Sys2Proof.Tests

open Sys2Proof.Machine

set_option Elab.async false

/-! ### States to start from -/

/-- The device after its start: supervisor firmware runs, device time runs and stands at `n` ns, and the state is Ivory. -/
def up (n : Nat) : State :=
  let s : State := { State.reset with boot := { phase := .done }, time := BitVec.ofNat 96 (n * 2 ^ 32) }
  ((s.setBit R.TW_CTRL 0 true).setFld R.CFG_SAFE_STATE 0 2 1).each (List.range 24) fun s d => s.setFld (R.PMU_D_STATUS d) 0 2 2

/-- A request of a command with its arguments. -/
def reqBytes (code : Nat) (args : List Nat) : List Byte :=
  match cmdOf code with
  | some c => ((placesFrom 16 c.items).zip args).foldl
      (fun l x => l.take x.1.1 ++ leBytes x.2 x.1.2.size ++ l.drop (x.1.1 + x.1.2.size)) (leBytes code 2 ++ List.replicate 254 0#8)
  | none => []

/-- Mailbox `n` has accepted the command and its turn has come. -/
def mb (n code : Nat) (args : List Nat) (s : State) : State :=
  State.setPieces { s with mailboxes := mset {} s.mailboxes n { accepted := some 0 } } (R.SUP_MB_REQ n)
    (chunks 8 (reqBytes code args) 32)

/-- Wheel 0 is enabled and has one entry, due at 100 ns. -/
def entry (action index arg arg2 : Nat) (s : State) : State :=
  let e : WheelEntry := { offset := 100, action := action, index := index, arg := arg, arg2 := arg2 }
  (s.modWheel 0 fun x => { x with entriesA := [e], inPeriod := true }).setBit (R.TW_W_CTRL 0) 0 true

/-- Tile 0 runs an instance of partition 1's descriptor 2, at cycle 64. -/
def running (x : Tile) (s : State) : State :=
  (({ s with tiles := mset {} s.tiles 0 { x with job := some (1, 2) } }.modJob 1 2 fun j => { j with phase := .running, blocks := [0] }).setFld
    (tStatus 0) 0 3 2).setRegN (tCycle 0) 64

/-- Handoff descriptor `i` exists. -/
def withHo (i : Nat) (d : HoDesc) (s : State) : State := { s with handoffs := mset {} s.handoffs i { desc := d, heldPub := 1 } }

/-- Partition `p` is ready on block `b`, with slice 0 valid. -/
def ready (p b : Nat) (s : State) : State :=
  ((s.modPart p fun q => { q with bankA := [(true, 0)] }).setFld (R.ACC_P_STATUS p) 0 2 2).setBit (R.ACC_P_BLOCKS p) b true

/-- Descriptor `j` of partition `p` is admitted in slice 0 with this image, on block `b`. -/
def admitted (p j b : Nat) (g : Image) (s : State) : State :=
  ((ready p b s).modJob p j fun x => { x with blocks := [b], image := g }).setRegN (jobReg p j) 1

/-- Stream 0 is enabled with safety, its copies in partitions 1 and 17, descriptor 2 of each. -/
def streaming (s : State) : State := s.setRegN (R.TW_OS_CFG 0) (1 + 2 + 4 + 1 * 2 ^ 4 + 17 * 2 ^ 9 + 2 * 2 ^ 14)

/-- A tile whose handle 0 covers 16 rows of 16 words. -/
def pad : Tile := { handles := [(0, { rows := 15, cols := 15, stride := 16, cls := 1 })] }

/-- An instruction on tile 0 at cycle 64. -/
def c0 : TCtl := { cyc := 64 }

/-! ### Values of options, sums and pairs found by evaluation -/

theorem some_of {α : Type} [Inhabited α] {x : Option α} (h : x.isSome = true) : x = some (x.getD default) := by
  cases x
  · cases h
  · rfl

theorem inr_of {α β : Type} [Inhabited β] {x : Sum α β} (h : x.isRight = true) : x = .inr (x.getRight?.getD default) := by
  cases x
  · cases h
  · rfl

theorem pair_of {α β : Type} {x : α × β} {a : α} (h : x.1 = a) : x = (a, x.2) := by
  cases h
  rfl

theorem takes_of {s : State} {w e edge a l : Nat} (h : (s.takeEntry w e edge a l).1.isSome = true) :
    s.Takes w e edge a l ((s.takeEntry w e edge a l).1.getD default) (s.takeEntry w e edge a l).2 :=
  (pair_of rfl).trans (congrArg (fun x => (x, _)) (some_of h))

theorem claims_of {s : State} {t : Nat} {l : List (Nat × Nat)}
    (h : (claimBanks ((s.tile t).banks.filter fun y => decide (s.regN (tCycle t) ≤ y.1)) l).isSome = true) :
    s.Claims t l (s.modTile t fun x => { x with banks :=
      (claimBanks ((s.tile t).banks.filter fun y => decide (s.regN (tCycle t) ≤ y.1)) l).getD default }) :=
  ⟨_, some_of h, rfl⟩

theorem some_pair_of {α β : Type} [Inhabited α] [Inhabited β] {x : Option (α × β)} (h : x.isSome = true) :
    x = some ((x.getD default).1, (x.getD default).2) := some_of h

theorem accept_of {α β : Type} {x : α × Option β} (h : x.2.isNone = true) : x = (x.1, none) := by
  obtain ⟨a, b⟩ := x
  cases b
  · rfl
  · cases h

theorem triple_of {α β γ : Type} {x : α × β × γ} {b : β} (h : x.2.1 = b) : x = (x.1, b, x.2.2) := by
  cases h
  rfl

/-- Pool 0 of partition 1, and context 0 open in it. -/
def kv (s : State) : State :=
  ({ s with kvPools := [(0, { partition := 1, latent := 128, layers := 1, fmt := 7, g := 1, h := 1, s := 16, lmax := 256 })]
            kvCtxs := [(0, { state := 1, ptCap := 16 })] }.setBit R.KVD_CTRL 0 true).setBit (R.KVD_POOL_CFG 0) 63 true

/-- Where host DRAM begins. -/
def host0 : Nat := 0x001000000000

/-- A solver problem of one variable and one constraint, without matrix entries. -/
def lpBytes : List Host.Cell :=
  [(host0, 1#8), (host0 + 4, 1#8), (host0 + 18, 0x80#8), (host0 + 19, 0x3F#8), (host0 + 22, 0x80#8), (host0 + 23, 0x3F#8), (host0 + 24, 1#8),
   (host0 + 386, 0x80#8), (host0 + 387, 0x3F#8), (host0 + 452, 1#8)]

theorem later_of {α : Type} {x : α × Done} (h : decide (x.2 = .later) = true) : x = (x.1, .later) := by
  obtain ⟨a, b⟩ := x
  simp only [decide_eq_true_eq] at h
  cases h
  rfl

theorem load_of {α : Type} {x : α × Done} {c : Status} (h : (match x.2 with | .now k _ => decide (k = c) | _ => false) = true) :
    x = (x.1, .now c (match x.2 with | .now _ r => r | _ => [])) := by
  obtain ⟨a, b⟩ := x
  cases b with
  | now k r => simp only [decide_eq_true_eq] at h; cases h; rfl
  | later => cases h

/-- An origin record that this bench matches. -/
def originRec : RecItem :=
  { data := leBytes 0 16 ++ leBytes 2048 2 ++ List.replicate 226 0#8 ++ (up 1000).verBytes }
/-- 500 kbit/s. -/
def canTiming : Nat := 160

/-- Partition 1 is ready on blocks 0 and 63 with scratchpads free, and the tables of its DRAM and of host DRAM admit its master. -/
def shared : State :=
  let e : AccEntry := { master := 0x201, mask := 0x3FF, r := true, w := true, x := true, valid := true, limit := 0xFFFFFFFFFFFF }
  { (ready 1 0 (up 1000)).setBit (R.ACC_P_BLOCKS 1) 63 true with access := [(0x100 * 64 + 60, e), (0x121 * 64 + 60, e)] }

theorem nextOf (h : Config.classOpen [] 7 1000 = true) :
    State.ethNext { ((up 1000).setBit R.ETH_CTRL 0 true).setBit (R.ETH_P_STATUS 3) 0 true with ethPorts := [(3, { queue := [{ ptp := true }] })] } 3 =
      some 0 := by
  have e : State.now { ((up 1000).setBit R.ETH_CTRL 0 true).setBit (R.ETH_P_STATUS 3) 0 true with
      ethPorts := [(3, { queue := [{ ptp := true }] })] } = 1000 := by decide +kernel
  show (List.foldl _ none [(0, _)]).map _ = _
  simp only [List.foldl, e]
  show Option.map _ (if !(Config.classOpen [] 7 1000) then _ else _) = _
  rw [h]
  rfl

theorem gateOf (h : Config.gateInterval 1#1024 = 1000) :
    gateSum (State.gateList { up 10000 with ethTables := [(ethKey 3 3 0, 1#1024)] } (3 % 4)
      (!(State.eth { up 10000 with ethTables := [(ethKey 3 3 0, 1#1024)] } (3 % 4)).activeB)) = 1000 := by
  show 0 + Config.gateInterval 1#1024 = _
  rw [h]

theorem canOf (h : Config.canFilter (List.replicate 16 0#8) 5 0 = 1) {s : State}
    (z : s.canRam 7 0 16 = List.replicate 16 0#8) : s.canMatch 7 { id := 5 } = some (0, 1) := by
  unfold State.canMatch
  rw [show List.range 128 = 0 :: (List.range 127).map (· + 1) by decide +kernel, List.findSome?_cons]
  simp only [Nat.mul_zero, z]
  have f : canFmt { id := 5 } = 0 := by decide
  simp only [f, h]
  rfl

/-! ### States and operands that meet the hypotheses of the statements -/

theorem witness_WheelEntriesComplete :
    (∃ (s t : State) (d : Due) (w e edge : Nat), s.Takes w e edge 0x00 launchOffset d t) ∧
    (∃ (s t : State) (d : Due) (w e edge : Nat), s.Takes w e edge 0x0D launchOffset d t) ∧
    (∃ (s t : State) (d : Due) (w e edge : Nat), s.Takes w e edge 0x0C 0 d t ∧ t.bit R.SNAP_FRZ_CFG 1 = true) ∧
    (∃ (s t : State) (d : Due) (w e edge : Nat), s.Takes w e edge 0x0B 0 d t ∧ (¬(t.bit (R.TW_OS_STATUS (d.entry.index % 256)) 0 = true ∧ d.due < t.regN
    (R.TW_OS_DEADLINE (d.entry.index % 256))))) ∧
    (∃ (s t : State) (d : Due) (w e edge : Nat), s.Takes w e edge 0x05 0 d t ∧ t.unitOff 0x19 = false) ∧
    (∃ (s t : State) (d : Due) (w e edge : Nat), s.Takes w e edge 0x04 0 d t ∧ t.hoExists (d.entry.index % 1024) = true ∧ (t.ho (d.entry.index %
    1024)).desc.dstKind = 1 ∧ t.hoLists (t.ho (d.entry.index % 1024)).desc = true ∧ t.windowOpen (d.entry.index % 1024) = false ∧ (t.hoParts (t.ho
    (d.entry.index % 1024)).desc).any t.partBusy = false ∧ t.replayHandoff (d.entry.index % 1024) d.due = none) ∧
    (∃ (s t : State) (d : Due) (w e edge : Nat), s.Takes w e edge 0x01 launchOffset d t ∧ t.launchable (d.entry.index % 32) (d.entry.arg % 64) = true ∧
    t.windowInto (d.entry.index % 32) = false ∧ t.commitInto (d.entry.index % 32) = false ∧ t.isHeld (d.entry.index % 32) = false ∧ t.launchCheck
    (d.entry.index % 32) (d.entry.arg % 64) (bitsOf d.entry.index 8 3) = none ∧ t.isShed (d.entry.index % 32) = false) ∧
    (∃ (s t u : State) (d : Due) (w e edge : Nat), s.Takes w e edge 0x02 launchOffset d t ∧ t.pairedDies (d.entry.index % 32) (d.entry.arg2 % 32) = true ∧
    t.withheld (d.entry.index % 32) (d.entry.arg % 64) = none ∧ t.tryLaunch d (d.entry.index % 32) (d.entry.arg % 64) (t.jobSlice (d.entry.index % 32)
    (d.entry.arg % 64)) false = (true, u) ∧ u.withheld (d.entry.arg2 % 32) (d.entry.arg % 64) = none) ∧
    (∃ (s t : State) (d : Due) (w e edge : Nat), s.Takes w e edge 0x03 launchOffset d t ∧ t.partState (d.entry.index % 32) = 2 ∧ t.windowInto
    (d.entry.index % 32) = false ∧ t.commitInto (d.entry.index % 32) = false ∧ t.isHeld (d.entry.index % 32) = false ∧ t.inSwitch (d.entry.index % 32) =
    false ∧ ((t.sliceSwap (d.entry.index % 32)).sliceEntry (d.entry.index % 32) (d.entry.arg % 8)).1 = true) :=
  ⟨⟨entry 0x00 0 0 0 (up 1000), _, _, 0, 0, 1, takes_of (by decide +kernel)⟩,
   ⟨entry 0x0D 0 0 0 (up 1000), _, _, 0, 0, 1, takes_of (by decide +kernel)⟩,
   ⟨entry 0x0C 0 0 0 ((up 1000).setBit R.SNAP_FRZ_CFG 1 true), _, _, 0, 0, 1, takes_of (by decide +kernel), by decide +kernel⟩,
   ⟨entry 0x0B 0 0 0 (up 1000), _, _, 0, 0, 1, takes_of (by decide +kernel), by decide +kernel⟩,
   ⟨entry 0x05 0 0 0 (up 1000), _, _, 0, 0, 1, takes_of (by decide +kernel), by decide +kernel⟩,
   ⟨entry 0x04 0 0 0 (withHo 0 { dstKind := 1, linkMask := 1 } { up 1000 with landings := [(0, { partition := 1 })] }), _, _, 0, 0, 1, takes_of
    (by decide +kernel), by decide +kernel, by decide +kernel, by decide +kernel, by decide +kernel, by decide +kernel, by decide +kernel⟩,
   ⟨entry 0x01 1 2 0 (admitted 1 2 0 {} (up 1000)), _, _, 0, 0, 1, takes_of (by decide +kernel), by decide +kernel, by decide +kernel, by decide +kernel,
    by decide +kernel, by decide +kernel, by decide +kernel⟩,
   ⟨entry 2 1 2 17 (admitted 1 2 0 {} (admitted 17 2 32 {} (up 1000))), _, _, _, 0, 0, 1, takes_of (by decide +kernel), by decide +kernel,
    by decide +kernel, pair_of (by decide +kernel), by decide +kernel⟩,
   ⟨entry 0x03 1 0 0 (ready 1 0 (up 1000)), _, _, 0, 0, 1, takes_of (by decide +kernel), by decide +kernel, by decide +kernel, by decide +kernel,
    by decide +kernel, by decide +kernel, by decide +kernel⟩⟩

theorem witness_EngineEntriesComplete :
    (∃ (s t : State) (d : Due) (w e edge : Nat), s.Takes w e edge 0x06 0 d t ∧ t.unitOff 0x1E = false) ∧
    (∃ (s t u : State) (d : Due) (w e edge : Nat), s.Takes w e edge 0x07 0 d t ∧ t.unitOff 0x1D = false ∧ u = t.unitServed 0x1D ∧ u.solLoaded
    (d.entry.index % 8) = true ∧ u.bit R.SOL_CTRL 0 = true ∧ u.solBusy (d.entry.index % 8) = false ∧ u.solQueue.length < 8) ∧
    (∃ (s t u : State) (d : Due) (w e edge : Nat), s.Takes w e edge 0x08 0 d t ∧ t.unitOff 0x18 = false ∧ u = t.unitServed 0x18 ∧ u.hasPix (d.entry.index %
    256) = true ∧ u.bit R.PIX_CTRL 0 = true ∧ (pixLanes (u.pixProg (d.entry.index % 256))).any u.laneBusy = false ∧ pixRaw (u.pixProg (d.entry.index %
    256)) + u.pixRecent ≤ 400000000) ∧
    (∃ (s t : State) (d : Due) (w e edge : Nat), s.Takes w e edge 0x09 launchOffset d t ∧ t.bit R.SNAP_ST_CTRL 0 = true ∧ t.inService (d.entry.index % 64)
    = true ∧ t.blockActive (d.entry.index % 64) = false) ∧
    (∃ (s t u : State) (d : Due) (w e edge k : Nat) (b : Bool), s.Takes w e edge 0x0A launchOffset d t ∧ t.goldenStream (d.entry.index % 32) = some (k, b)
    ∧ t.streamBusy k = false ∧ (t.stream k).trigger = false ∧ t.tryLaunch d (d.entry.index % 32) (t.fld (R.TW_OS_GOLD k) 0 6) (t.jobSlice (d.entry.index %
    32) (t.fld (R.TW_OS_GOLD k) 0 6)) true = (true, u)) ∧
    (∃ (s : State) (p : Nat) (g : Golden), s.goldens.lookup (p % 32) = some g ∧ g.ends ≤ s.now ∧ g.ran = false) ∧
    (∃ (s : State) (b : Nat), (s.test b).chunk = true) ∧
    (∃ (s : State) (b e : Nat), (s.test b).slotEnd = some e ∧ e ≤ s.now) ∧
    (∃ (s : State) (b t0 : Nat), (s.test b).passStart = some t0 ∧ t0 + ms (s.regN R.SNAP_ST_LIMIT) < s.age ∧ s.bit (R.SNAP_ST_STATE b) 9 = false) :=
  ⟨⟨entry 0x06 0 0 0 (up 1000), _, _, 0, 0, 1, takes_of (by decide +kernel), by decide +kernel⟩,
   ⟨entry 0x07 0 0 0 (((up 1000).setBit (R.SOL_SLOT_CFG 0) 63 true).setBit R.SOL_CTRL 0 true), _, _, _, 0, 0, 1, takes_of (by decide +kernel),
    by decide +kernel, rfl, by decide +kernel, by decide +kernel, by decide +kernel, by decide +kernel⟩,
   ⟨entry 0x08 0 0 0 ({ up 1000 with pixProgs := [(0, 1#512)] }.setBit R.PIX_CTRL 0 true), _, _, _, 0, 0, 1, takes_of (by decide +kernel),
    by decide +kernel, rfl, by decide +kernel, by decide +kernel, by decide +kernel, by decide +kernel⟩,
   ⟨entry 0x09 0 0 0 ((up 1000).setBit R.SNAP_ST_CTRL 0 true), _, _, 0, 0, 1, takes_of (by decide +kernel), by decide +kernel, by decide +kernel,
    by decide +kernel⟩,
   ⟨entry 0x0A 1 0 0 (streaming ((admitted 1 2 0 {} (up 1000)).setRegN (R.TW_OS_GOLD 0) 2)), _, _, _, 0, 0, 1, 0, false, takes_of (by decide +kernel),
    by decide +kernel, by decide +kernel, by decide +kernel, pair_of (by decide +kernel)⟩,
   ⟨{ up 1000 with goldens := [(1, { ends := 1000 })] }, 1, { ends := 1000 }, by decide +kernel, by decide +kernel, by decide +kernel⟩,
   ⟨{ up 1000 with selfTests := [(63, { chunk := true })] }, 63, by decide +kernel⟩,
   ⟨{ up 1000 with selfTests := [(63, { slotEnd := some 1000 })] }, 63, 1000, by decide +kernel, by decide +kernel⟩,
   ⟨{ (up 1000000001).setRegN R.SNAP_ST_LIMIT 1000 with selfTests := [(63, { passStart := some 0 })] }, 63, 0, by decide +kernel, by decide +kernel,
    by decide +kernel⟩⟩

theorem witness_TimeKeepingCompletes :
    (∃ (s : State) (f e : Nat), s.fsync.lookup f = some e ∧ e ≤ s.age) ∧
    (∃ (s : State) (m : Nat), s.passes m .read R.TW_TIME_LO 4 = true) ∧
    (∃ (s : State) (m : Nat) (v : Dword), s.passes m .write R.TW_STEP_GO 4 = true ∧ v.toNat % 2 = 1 ∧ s.anyWheel = false) ∧
    (∃ (s : State) (m : Nat) (v : Dword), s.passes m .write R.TW_RATE 4 = true ∧ clipRate (toSigned 32 (v.toNat % 2 ^ 32)) = toSigned 32 (v.toNat % 2 ^ 32)) ∧
    (∃ (s u : State) (o : Int), s.fld R.TW_SRC 0 2 ≠ 0 ∧ o.natAbs ≤ 1000000 ∧ u =
    ({ s with servo := { s.servo with offset := o, close := if o.natAbs < 100 then s.servo.close + 1 else 0 } }).setBit R.TW_STATUS 1 (decide (16 ≤ if
    o.natAbs < 100 then s.servo.close + 1 else 0))) ∧
    (∃ (s : State), s.fld R.TW_SRC 0 2 ≠ 0 ∧ s.bit R.TW_STATUS 0 = false) ∧
    (∃ (s : State), s.bit R.TW_STATUS 0 = true) ∧
    (∃ (s u : State) (w : Nat), w < 8 ∧ s.bit (R.TW_W_CTRL w) 0 = true ∧ s.regN (R.TW_W_NEXT w) ≤ s.now ∧ (s.wheel w).disableAt = none ∧ (s.wheel w).swapAt
    = none ∧ u = (s.modWheel w fun y => { y with carry := y.carry ++ leftover (s.wheel w) w (s.activeBank w) }).wrapReg (R.TW_W_PERIODS w)) ∧
    (∃ (s : State) (m w : Nat), s.passes m .write (R.TW_W_BASE (w % 8)) 8 = true ∧ s.bit (R.TW_W_CTRL (w % 8)) 0 = false) :=
  ⟨⟨{ up 1000 with fsync := [(15, 1000)] }, 15, 1000, by decide +kernel, by decide +kernel⟩,
   ⟨up 1000, 1, by decide +kernel⟩,
   ⟨up 1000, 1, 1#64, by decide +kernel, by decide +kernel, by decide +kernel⟩,
   ⟨up 1000, 1, BitVec.ofInt 64 (-429496), by decide +kernel, by decide +kernel⟩,
   ⟨(up 1000).setFld R.TW_SRC 0 2 1, _, -1000000, by decide +kernel, by decide +kernel, rfl⟩,
   ⟨(up 1000).setFld R.TW_SRC 0 2 2, by decide +kernel, by decide +kernel⟩,
   ⟨(up 1000).setBit R.TW_STATUS 0 true, by decide +kernel⟩,
   ⟨((up 1000).setBit (R.TW_W_CTRL 7) 0 true).setRegN (R.TW_W_NEXT 7) 1000, _, 7, by decide +kernel, by decide +kernel, by decide +kernel,
    by decide +kernel, by decide +kernel, rfl⟩,
   ⟨up 1000, 1, 7, by decide +kernel, by decide +kernel⟩⟩

theorem witness_SafetyStateCompletes :
    (∃ (s : State) (m : Nat), s.passes m .write R.CFG_SAFE_KICK 4 = true ∧ s.kickOverdue = false) ∧
    (∃ (s : State), s.safety.watchdog = true ∧ s.safety.expired = false ∧ s.safety.kickAt + 1000000 ≤ s.age) ∧
    (∃ (s : State), (s.safeState = 1 ∨ s.safeState = 2) ∧ s.safety.healthEnd ≠ some (s.now / 50000)) ∧
    (∃ (s : State) (k t : Nat), s.safety.amberEnd.lookup k = some t ∧ t ≤ s.age) ∧
    (∃ (s : State) (t : Nat), s.servo.since = some t ∧ t + ms (s.regN R.CFG_HOLDOVER_AMBER) < s.age ∧ s.safety.amberOn.getLsbD 4 = false) ∧
    (∃ (s : State) (t : Nat), s.safety.safeLow = some t ∧ s.safety.latched.getLsbD 3 = true ∧ t + ms (s.regN R.CFG_SAFE_REL) ≤ s.age) ∧
    (∃ (s : State) (t : Nat), s.power.coolSince = some t ∧ s.safety.latched.getLsbD 6 = true ∧ t + 100000000 ≤ s.age) ∧
    (∃ (s : State) (st : Nat), s.bit (R.TW_OS_STATUS (st % 256)) 0 = true ∧ s.regN (R.TW_OS_DEADLINE (st % 256)) ≤ s.now ∧ (s.stream (st % 256)).commit =
    none) :=
  ⟨⟨up 1000, 1, by decide +kernel, by decide +kernel⟩,
   ⟨{ up 1000000 with safety := { watchdog := true } }, by decide +kernel, by decide +kernel, by decide +kernel⟩,
   ⟨up 1000, by decide +kernel, by decide +kernel⟩,
   ⟨{ up 1000 with safety := { amberEnd := [(8, 1000)] } }, 8, 1000, by decide +kernel, by decide +kernel⟩,
   ⟨{ (up 1000001).setRegN R.CFG_HOLDOVER_AMBER 1 with servo := { since := some 0 } }, 0, by decide +kernel, by decide +kernel, by decide +kernel⟩,
   ⟨{ (up 1000000).setRegN R.CFG_SAFE_REL 1 with safety := { safeLow := some 0, latched := 8#8 } }, 0, by decide +kernel, by decide +kernel,
    by decide +kernel⟩,
   ⟨{ up 100000000 with power := { coolSince := some 0 }, safety := { latched := 64#8 } }, 0, by decide +kernel, by decide +kernel, by decide +kernel⟩,
   ⟨((up 1000).setBit (R.TW_OS_STATUS 255) 0 true).setRegN (R.TW_OS_DEADLINE 255) 1000, 255, by decide +kernel, by decide +kernel, by decide +kernel⟩⟩

theorem witness_CommitCompletes :
    (∃ (s : State) (m st : Nat) (v : Dword), s.passes m .write (R.TW_OS_CFG (st % 256)) 8 = true ∧ s.osEn (st % 256) = false ∧ v.toNat % 2 = 1 ∧
    s.streamRefusal (st % 256) v.toNat = none ∧ bitsOf v.toNat 2 1 = 0) ∧
    (∃ (s : State) (st : Nat) (c : Commit), (s.stream (st % 256)).commit = some c ∧ c.k ≤ s.now ∧ s.osXdev (st % 256) = false) ∧
    (∃ (s : State) (k : Nat) (r : PartnerRec), s.bit (R.BAM_TWIN_STATE (k % 16)) 0 = true ∧ r.stream = s.fld (R.BAM_TWIN_CFG (k % 16)) 17 8 ∧ r.hash =
    (s.job (s.osPart r.stream false) (s.osJob r.stream)).image.hash.setWidth 32 ∧ (mget {} s.twins (k % 16)).waiting = none) ∧
    (∃ (s : State) (k a st : Nat) (c : Commit), (mget {} s.twins (k % 16)).waiting = some a ∧ (mget {} s.twins (k % 16)).stream = st ∧ (s.stream st).commit
    = some c ∧ a + s.regN (R.BAM_TWIN_WAIT (k % 16)) ≤ s.now) ∧
    (∃ (s u : State) (st : Nat) (r : Reread), (s.stream (st % 256)).reread = some r ∧ r.ends ≤ s.now ∧ u = (s.setBit (R.TW_OS_STATUS (st % 256)) 4
    false).modStream (st % 256) (fun x => { x with reread := none })) ∧
    (∃ (s : State) (st t : Nat), (s.stream (st % 256)).start = some t ∧ t + s.regN (R.TW_OS_PAIRWAIT (st % 256)) ≤ s.now ∧ (s.stream (st % 256)).commit =
    none ∧ (s.stream (st % 256)).reread = none) :=
  ⟨⟨withHo 0 { producer := 0x036, slotBytes := 1024 } (up 1000), 1, 255, 1#64, by decide +kernel, by decide +kernel, by decide +kernel,
    by decide +kernel, by decide +kernel⟩,
   ⟨(up 1000).modStream 255 fun x => { x with commit := some { k := 1000 } }, 255, { k := 1000 }, by decide +kernel, by decide +kernel,
    by decide +kernel⟩,
   ⟨(up 1000).setBit (R.BAM_TWIN_STATE 15) 0 true, 15, {}, by decide +kernel, by decide +kernel, by decide +kernel, by decide +kernel⟩,
   ⟨({ up 10000000 with twins := [(15, { waiting := some 0, stream := 1 })] }).modStream 1 fun x => { x with commit := some {} }, 15, 0, 1, {},
    by decide +kernel, by decide +kernel, by decide +kernel, by decide +kernel⟩,
   ⟨(up 1000).modStream 255 fun x => { x with reread := some { ends := 1000 } }, _, 255, { ends := 1000 }, by decide +kernel, by decide +kernel, rfl⟩,
   ⟨(up 10000000).modStream 255 fun x => { x with start := some 0 }, 255, 0, by decide +kernel, by decide +kernel, by decide +kernel, by decide +kernel⟩⟩

theorem witness_HandoffsComplete :
    (∃ (s : State) (k : Nat) (w : Window), s.windows.lookup k = some w ∧ w.close ≤ s.now) ∧
    (∃ (s : State) (m d k : Nat), s.passes m .write R.TW_HO_PUBLISH 4 = true ∧ s.hoExists (d % 1024) = true ∧ m = (s.ho (d % 1024)).desc.producer ∧ k % 4 =
    s.hoW (d % 1024)) ∧
    (∃ (s : State) (n : Nat) (x : List Byte × State) (l : List (Option Stripe)), s.runs n 0x0103 = true ∧ x = s.supRead (s.arg n 4) (16 * s.arg n 3) ∧ l =
    (chunks 16 x.1 (x.2.arg n 3)).map stripeOf ∧ l.any Option.isNone = false ∧ x.2.landingRefusal (s.arg n 0) (x.2.arg n 1) (x.2.arg n 2) (l.filterMap id)
    = none) ∧
    (∃ (s : State) (n : Nat), s.runs n 0x0104 = true ∧ s.hoRefusal (s.arg n 0) (s.arg n 1) = none) ∧
    (∃ (s : State) (n : Nat), s.runs n 0x0105 = true ∧ s.windows.lookup (s.arg n 0) = none) :=
  ⟨⟨{ up 1000 with windows := [(1023, { close := 1000 })] }, 1023, { close := 1000 }, by decide +kernel, by decide +kernel⟩,
   ⟨withHo 1023 { producer := 1 } (up 1000), 1, 1023, 0, by decide +kernel, by decide +kernel, by decide +kernel, by decide +kernel⟩,
   ⟨mb 15 0x0103 [1, 3, 65535, 1, 0x001000000000] ({ ready 1 63 (up 1000) with mem := [(host0 + 0, 0xFF#8), (host0 + 1, 0x07#8), (host0 + 8, 64#8)] }),
    15, _, _, by decide +kernel, rfl, rfl, by decide +kernel, by decide +kernel⟩,
   ⟨mb 15 0x0104 [1023, host0 + 1 * 2 ^ 48 + 64 * 2 ^ 64] (up 1000), 15, by decide +kernel, by decide +kernel⟩,
   ⟨mb 15 0x0105 [1023] (withHo 1023 {} (up 1000)), 15, by decide +kernel, by decide +kernel⟩⟩

theorem witness_JobSwitchingCompletes :
    (∃ (s u : State) (p : Nat) (x : Due × Nat × Nat), (s.copyB.find? fun y => decide (y.2.1 = p % 32)) = some x ∧ u = { s with copyB := s.copyB.erase x } ∧
    u.launchable x.2.1 x.2.2 = true ∧ u.windowInto x.2.1 = false ∧ u.commitInto x.2.1 = false ∧ u.isHeld x.2.1 = false ∧ u.launchCheck x.2.1 x.2.2
    (u.jobSlice x.2.1 x.2.2) = none ∧ u.isShed x.2.1 = false) ∧
    (∃ (s u : State) (p j : Nat), (s.job p j).phase = .quiescing ∧ u = s.modJob p j (fun x => { x with phase := .saving })) ∧
    (∃ (s : State) (t p j : Nat), (s.tile t).job = some (p, j) ∧ (s.tile t).busySave = true ∧ (s.job p j).phase = .saving) ∧
    (∃ (s u : State) (p j : Nat), (s.job p j).phase = .restoring ∧ (s.jobTiles p j).all (fun t => decide ((s.tile t).job = some (p, j)) && (s.tile
    t).busyRest) = true ∧ u = s.each (s.jobTiles p j) (fun v t => v.restoreTile t p j)) ∧
    (∃ (s : State) (t p j : Nat), (s.tile t).job = some (p, j) ∧ s.tileState t = 2 ∧ (s.job p j).phase = .running ∧ (s.tile t).ended = false ∧ (s.tile
    t).hung = false ∧ s.bit R.SNAP_FRZ_CTRL 3 = false) ∧
    (∃ (s : State) (t : Nat), (s.tileState t = 5 ∨ s.tileState t = 4) ∧ (s.tile t).job = none) ∧
    (∃ (s u : State) (p : Nat), (s.part p).dramBusy = true ∧ u = (s.each (blocksTiles (s.partBlocks p)) fun v t => v.zero (dramAddr t 0) (dramAddr t
    0x2000000)).modPart p (fun q => { q with dramBusy := false }) ∧ u.partState p = 1) :=
  ⟨⟨{ admitted 17 2 32 {} (up 1000) with copyB := [({}, 17, 2)] }, _, 17, ({}, 17, 2), by decide +kernel, rfl, by decide +kernel, by decide +kernel,
    by decide +kernel, by decide +kernel, by decide +kernel, by decide +kernel⟩,
   ⟨(up 1000).modJob 31 63 fun x => { x with phase := .quiescing }, _, 31, 63, by decide +kernel, rfl⟩,
   ⟨{ up 1000 with tiles := [(2047, { job := some (31, 63), busySave := true })] }.modJob 31 63 fun x => { x with phase := .saving }, 2047, 31, 63,
    by decide +kernel, by decide +kernel, by decide +kernel⟩,
   ⟨(up 1000).modJob 31 63 fun x => { x with phase := .restoring }, _, 31, 63, by decide +kernel, by decide +kernel, rfl⟩,
   ⟨running {} (up 1000), 0, 1, 2, by decide +kernel, by decide +kernel, by decide +kernel, by decide +kernel, by decide +kernel, by decide +kernel⟩,
   ⟨(up 1000).setFld (tStatus 2047) 0 3 5, 2047, by decide +kernel, by decide +kernel⟩,
   ⟨(((up 1000).modPart 31 fun q => { q with dramBusy := true }).setFld (R.ACC_P_STATUS 31) 0 2 1), _, 31, by decide +kernel, rfl, by decide +kernel⟩⟩

theorem witness_PowerSharingCompletes :
    (∃ (s : State) (p h : Nat), s.power.hotSince = some h ∧ h + ms 1 ≤ s.age ∧ s.power.lastShed = none ∧ s.shedNext = some p) ∧
    (∃ (s v u : State) (p c : Nat), s.power.coolSince = some c ∧ s.unshedNext = some p ∧ max c (s.power.lastUnshed.getD 0) + ms 100 ≤ s.age ∧ v =
    s.noteUnshed ∧ v.isShed p = true ∧ u = (v.modPart p fun q => { q with shedWait := false }).setBit (R.ACC_P_STATUS p) 12 false) ∧
    (∃ (s : State) (m : Nat) (v : Dword), s.passes m .write R.PMU_FABRIC_LIMIT 4 = true ∧ v.toNat % 2 ^ 32 ≤ 395000 ∧ s.regN R.PMU_ALLOC_SUM ≤ v.toNat % 2
    ^ 32) :=
  ⟨⟨(ready 31 0 { up 1000000 with power := { hotSince := some 0 } }).setFld (R.ACC_P_STATUS 31) 16 5 31, 31, 0, by decide +kernel, by decide +kernel,
    by decide +kernel, by decide +kernel⟩,
   ⟨(ready 31 0 { up 100000000 with power := { coolSince := some 0 } }).setBit (R.ACC_P_STATUS 31) 12 true, _, _, 31, 0, by decide +kernel,
    by decide +kernel, by decide +kernel, rfl, by decide +kernel, rfl⟩,
   ⟨up 1000, 1, 395000#64, by decide +kernel, by decide +kernel, by decide +kernel⟩⟩

theorem witness_TileControlCompletes :
    (∃ (s u : State) (c : TCtl), s.issues c = true ∧ u = s.enter c ∧ (u.tile c.tile).stack.length < 8) ∧
    (∃ (s u v : State) (c : TCtl) (k h o w n : Nat) (x : VReg × State), s.issues c = true ∧ u = s.enter c ∧ (u.tile c.tile).wordAt h o = .inr w ∧ u.Claims
    c.tile [(c.cyc, w)] v ∧ x = v.padRead c.tile w c.errs ∧ x.1.poison = false ∧ n = bitsOf x.1.data.toNat 0 32 ∧ n ≤ (mget {} (x.2.tile c.tile).loops (k
    % 256)).max ∧ n < 2 ^ 24 ∧ x.2.regN (tExpend c.tile) + n * (mget {} (x.2.tile c.tile).loops (k % 256)).body ≤ 2 ^ 48 - 1025) ∧
    (∃ (s u : State) (c : TCtl) (f : LoopFrame) (l : List LoopFrame), s.issues c = true ∧ u = s.enter c ∧ (u.tile c.tile).stack = f :: l ∧ 1 < f.left ∧
    f.skip = false) ∧
    ((∃ (s u : State) (c : TCtl) (p j : Nat), s.issues c = true ∧ u = s.enter c ∧ (u.tile c.tile).job = some (p, j)) ∧ (∃ (s u : State) (c : TCtl) (k p j :
    Nat), s.issues c = true ∧ u = s.enter c ∧ (u.tile c.tile).job = some (p, j) ∧ (mget {} (u.part p).sems (k % 256)).colour = u.colourOf p (u.jobSlice p
    j) ∧ (mget {} (u.part p).sems (k % 256)).count ≠ 0)) ∧
    (∃ (s u : State) (c : TCtl) (p j : Nat), s.issues c = true ∧ u = s.enter c ∧ (u.tile c.tile).job = some (p, j)) ∧
    (∃ (s u : State) (c : TCtl), s.issues c = true ∧ u = s.enter c ∧ (u.tile c.tile).ifBusy = false) ∧
    (∃ (s u : State) (c : TCtl) (p j : Nat), s.issues c = true ∧ (s.tile c.tile).dmaW = [] ∧ (s.tile c.tile).lastCommit < c.cyc ∧ u = (s.enter c).retireEnd
    c ∧ (u.tile c.tile).job = some (p, j)) :=
  ⟨⟨running pad (up 1000), _, c0, by decide +kernel, rfl, by decide +kernel⟩,
   ⟨running pad (up 1000), _, _, c0, 255, 0, 0, _, _, _, by decide +kernel, rfl, inr_of (by decide +kernel), claims_of (by decide +kernel), rfl,
    by decide +kernel, rfl, by decide +kernel, by decide +kernel, by decide +kernel⟩,
   ⟨running { stack := [{ left := 2 }] } (up 1000), _, c0, { left := 2 }, [], by decide +kernel, rfl, by decide +kernel, by decide +kernel,
    by decide +kernel⟩,
   ⟨⟨running pad (up 1000), _, c0, 1, 2, by decide +kernel, rfl, by decide +kernel⟩, ⟨(running pad (up 1000)).modPart 1 fun q =>
    { q with sems := [(255, { count := 1 })] }, _, c0, 255, 1, 2, by decide +kernel, rfl, by decide +kernel, by decide +kernel, by decide +kernel⟩⟩,
   ⟨running pad (up 1000), _, c0, 1, 2, by decide +kernel, rfl, by decide +kernel⟩,
   ⟨running pad (up 1000), _, c0, by decide +kernel, rfl, by decide +kernel⟩,
   ⟨running pad (up 1000), _, c0, 1, 2, by decide +kernel, by decide +kernel, by decide +kernel, rfl, by decide +kernel⟩⟩

theorem witness_TileArrayCompletes :
    (∃ (s u v : State) (c : TCtl) (h o f : Nat) (ws : List Nat), s.issues c = true ∧ u = s.enter c ∧ (u.tile c.tile).wordsAt h o (blockWords f) = .inr ws ∧
    u.Claims c.tile (enumFrom c.cyc ws) v) ∧
    (∃ (s u v : State) (c : TCtl) (k : Nat) (a : AgCtx) (bias : Option (List Nat × Bool)) (ws : List (Nat × Bool)) (r : ActRow × List Nat) (o : Option
    (List (Sum32 × Bool))) (held : List (Nat × Nat)), s.issues c = true ∧ u = s.enter c ∧ v = u.modTile c.tile (fun x =>
    { takeShadow x with banks := x.banks.filter fun y => decide (u.regN (tCycle c.tile) ≤ y.1) }) ∧ a = (v.tile c.tile).ctx k ∧ v.biasOf c.tile a = .inr
    bias ∧ v.weightScales c.tile a.extra ((v.tile c.tile).pairOf a).2 = .inr ws ∧ v.actRow c.tile a 0 = .inr r ∧ v.outlierRow c.tile a.extra 0 = .inr o ∧
    claimBanks (v.tile c.tile).banks (r.2.map fun w => (max c.cyc (u.tile c.tile).shadow.ready + 0 * rowCycles (v.tile c.tile) a, w)) = some held) ∧
    (∃ (s u : State) (c : TCtl), s.issues c = true ∧ u = s.enter c) ∧
    (∃ (s u : State) (c : TCtl), s.issues c = true ∧ u = s.enter c) :=
  ⟨⟨running pad (up 1000), _, _, c0, 0, 0, 8, _, by decide +kernel, rfl, inr_of (by decide +kernel), claims_of (by decide +kernel)⟩,
   ⟨running pad (up 1000), _, _, c0, 15, _, _, _, _, _, _, by decide +kernel, rfl, rfl, rfl, inr_of (by decide +kernel), inr_of (by decide +kernel),
    inr_of (by decide +kernel), inr_of (by decide +kernel), some_of (by decide +kernel)⟩,
   ⟨running pad (up 1000), _, c0, by decide +kernel, rfl⟩,
   ⟨running pad (up 1000), _, c0, by decide +kernel, rfl⟩⟩

theorem witness_TileTransfersComplete :
    (∃ (s u x : State) (c : TCtl) (k w : Nat), s.issues c = true ∧ u = s.enter c ∧ ((u.tile c.tile).ctx k).extra.conv = none ∧ (u.tile c.tile).walkAt
    ((u.tile c.tile).ctx k) ((u.tile c.tile).ctx k).step = .inr w ∧ u.Claims c.tile [(c.cyc, w)] x) ∧
    (∃ (s u x : State) (c : TCtl) (k w : Nat), s.issues c = true ∧ u = s.enter c ∧ (u.tile c.tile).walkAt ((u.tile c.tile).ctx k) ((u.tile c.tile).ctx
    k).step = .inr w ∧ u.Claims c.tile [(c.cyc, w)] x) ∧
    (∃ (s u : State) (c : TCtl) (h o n : Nat) (ws : List Nat), s.issues c = true ∧ u = s.enter c ∧ n ≠ 0 ∧ (u.tile c.tile).wordsAt h o n = .inr ws) ∧
    (∃ (s u : State) (c : TCtl) (n : Nat), s.issues c = true ∧ u = s.enter c ∧ 0 < n ∧ n ≤ 512) ∧
    (∃ (s : State) (c : TCtl) (d : Dma) (l : List Dma), (s.tile c.tile).dmaR = d :: l ∧ s.moves c.tile = true ∧ dmaCycle d.cyc (s.latencyR c.tile) d.done ≤
    c.cyc) ∧
    (∃ (s u v : State) (c : TCtl) (src : Place) (dram n e0 e1 : Nat) (ws : List (Sum Nat Nat)) (x : List VReg × State) (y : Decoded × Decoded × State),
    s.issues c = true ∧ u = s.enter c ∧ n ≠ 0 ∧ (u.tile c.tile).placeWords src n = .inr ws ∧ u.Claims c.tile (writeWords c.cyc (u.writeLead c.tile
    (dramOff dram) n) ws) v ∧ x = v.placeReads c.tile ws c.errs ∧ y = x.2.readPartial c.tile (dramOff dram) n e0 e1) ∧
    (∃ (s u : State) (c : TCtl) (d : Dma) (l : List Dma) (p j : Nat), (s.tile c.tile).dmaW = d :: l ∧ s.moves c.tile = true ∧ dmaCycle d.cyc (s.writeLead
    c.tile d.dram d.count) (d.count - 1) + 36 ≤ c.cyc ∧ u = s.modTile c.tile (fun x =>
    { x with dmaW := l, lastCommit := c.cyc, events := (x.events.1 + 1, x.events.2) }) ∧ (u.tile c.tile).job = some (p, j) ∧ d.gen = u.partGen p) ∧
    (∃ (s u v : State) (c : TCtl) (h o g k n w a : Nat) (x : VReg × State) (ws : List Nat), s.issues c = true ∧ u = s.enter c ∧ (u.tile c.tile).wordAt g k
    = .inr w ∧ u.Claims c.tile [(c.cyc, w)] v ∧ x = v.padRead c.tile w c.errs ∧ x.1.poison = false ∧ a = bitsOf x.1.data.toNat 0 32 ∧ a + 64 * n ≤ 2 ^ 25
    ∧ n ≠ 0 ∧ (x.2.tile c.tile).wordsAt h o n = .inr ws) ∧
    (∃ (s u v : State) (c : TCtl) (g k n w a : Nat) (x : VReg × State), s.issues c = true ∧ u = s.enter c ∧ (u.tile c.tile).wordAt g k = .inr w ∧ u.Claims
    c.tile [(c.cyc, w)] v ∧ x = v.padRead c.tile w c.errs ∧ x.1.poison = false ∧ a = bitsOf x.1.data.toNat 0 32 ∧ a + 64 * n ≤ 2 ^ 25 ∧ n ≠ 0) :=
  ⟨⟨running pad (up 1000), _, _, c0, 0, _, by decide +kernel, rfl, by decide +kernel, inr_of (by decide +kernel), claims_of (by decide +kernel)⟩,
   ⟨running pad (up 1000), _, _, c0, 0, _, by decide +kernel, rfl, inr_of (by decide +kernel), claims_of (by decide +kernel)⟩,
   ⟨running pad (up 1000), _, c0, 0, 0, 16, _, by decide +kernel, rfl, by decide +kernel, inr_of (by decide +kernel)⟩,
   ⟨running pad (up 1000), _, c0, 512, by decide +kernel, rfl, by decide +kernel, by decide +kernel⟩,
   ⟨running { dmaR := [{ count := 1 }] } (up 1000), { cyc := 1000 }, { count := 1 }, [], by decide +kernel, by decide +kernel, by decide +kernel⟩,
   ⟨running pad (up 1000), _, _, c0, .pad 0 0, 1024, 16, 0, 0, _, _, _, by decide +kernel, rfl, by decide +kernel, inr_of (by decide +kernel), claims_of
    (by decide +kernel), rfl, rfl⟩,
   ⟨running { dmaW := [{ count := 1, data := [{}] }] } (up 1000), _, { cyc := 1000 }, { count := 1, data := [{}] }, [], 1, 2, by decide +kernel,
    by decide +kernel, by decide +kernel, rfl, by decide +kernel, by decide +kernel⟩,
   ⟨running pad (up 1000), _, _, c0, 0, 0, 0, 0, 1, _, _, _, _, by decide +kernel, rfl, inr_of (by decide +kernel), claims_of (by decide +kernel), rfl,
    by decide +kernel, rfl, by decide +kernel, by decide +kernel, inr_of (by decide +kernel)⟩,
   ⟨running pad (up 1000), _, _, c0, 0, 0, 1, _, _, _, by decide +kernel, rfl, inr_of (by decide +kernel), claims_of (by decide +kernel), rfl,
    by decide +kernel, rfl, by decide +kernel, by decide +kernel⟩⟩

theorem witness_TileFlitsComplete :
    (∃ (s u : State) (c : TCtl), s.issues c = true ∧ u = s.enter c) ∧
    (∃ (s u : State) (c : TCtl) (dx dy : Int), s.issues c = true ∧ u = s.enter c ∧ (dx = 0 ∨ dy = 0)) ∧
    (∃ (s u : State) (c : TCtl) (dst : Place) (n : Nat) (ws : List (Sum Nat Nat)), s.issues c = true ∧ u = s.enter c ∧ n ≠ 0 ∧ (u.tile c.tile).placeWords
    dst n = .inr ws) ∧
    (∃ (s u : State) (c : TCtl) (dst : Place) (n : Nat) (ws : List (Sum Nat Nat)), s.issues c = true ∧ u = s.enter c ∧ n ≠ 0 ∧ (u.tile c.tile).placeWords
    dst n = .inr ws) ∧
    (∃ (s u : State) (c : TCtl) (f : Flits) (r : Recv) (l : List Recv), firstFlits (s.tile c.tile).flits = some f ∧ s.moves c.tile = true ∧ f.arrive ≤
    c.cyc ∧ u = ((s.noteFlit c.tile f).modTile c.tile fun x => flitGone x f).raiseChecks c.tile (c.chk &&& 8#5) ∧ (u.tile c.tile).recvs = r :: l) :=
  ⟨⟨running pad (up 1000), _, c0, by decide +kernel, rfl⟩,
   ⟨running pad (up 1000), _, c0, 3, 0, by decide +kernel, rfl, by decide +kernel⟩,
   ⟨running pad (up 1000), _, c0, .acc 0, 1, _, by decide +kernel, rfl, by decide +kernel, inr_of (by decide +kernel)⟩,
   ⟨running pad (up 1000), _, c0, .pad 0 15, 1, _, by decide +kernel, rfl, by decide +kernel, inr_of (by decide +kernel)⟩,
   ⟨running { flits := [{ owner := (1, 2), words := [{}] }], recvs := [{ left := 1 }] } (up 1000), _, c0, { owner := (1, 2), words := [{}] },
    { left := 1 }, [], by decide +kernel, by decide +kernel, by decide +kernel, rfl, by decide +kernel⟩⟩

theorem witness_VectorLanesComplete :
    (∃ (s u : State) (c : TCtl) (va vb : Nat) (a b : VReg), s.issues c = true ∧ u = s.enter c ∧ a = (u.tile c.tile).vreg va ∧ b = (u.tile c.tile).vreg vb) ∧
    (∃ (s u : State) (c : TCtl) (va : Nat) (a : VReg), s.issues c = true ∧ u = s.enter c ∧ a = (u.tile c.tile).vreg va) ∧
    (∃ (s u : State) (c : TCtl) (va vb vc : Nat) (a b d : VReg) (r : List (List Nat × Nat)), s.issues c = true ∧ u = s.enter c ∧ a = (u.tile c.tile).vreg
    va ∧ b = (u.tile c.tile).vreg vb ∧ d = (u.tile c.tile).vreg vc ∧ r = ((List.range 16).map fun l => ([laneOf a.data l, laneOf b.data l, laneOf d.data
    l], fma32 (laneOf a.data l) (laneOf b.data l) (laneOf d.data l)))) ∧
    (∃ (s u : State) (c : TCtl) (va vb : Nat) (a b : VReg) (r : List (List Nat × Nat)), s.issues c = true ∧ u = s.enter c ∧ a = (u.tile c.tile).vreg va ∧ b
    = (u.tile c.tile).vreg vb ∧ r = ((List.range 16).map fun l => ([laneOf a.data l], scl32 (laneOf a.data l) (toSigned 32 (laneOf b.data l))))) :=
  ⟨⟨running pad (up 1000), _, c0, 0, 0, _, _, by decide +kernel, rfl, rfl, rfl⟩,
   ⟨running pad (up 1000), _, c0, 0, _, by decide +kernel, rfl, rfl⟩,
   ⟨running pad (up 1000), _, c0, 0, 0, 0, _, _, _, _, by decide +kernel, rfl, rfl, rfl, rfl, rfl⟩,
   ⟨running pad (up 1000), _, c0, 0, 0, _, _, _, by decide +kernel, rfl, rfl, rfl, rfl⟩⟩

theorem witness_VectorMovesComplete :
    (∃ (s u : State) (c : TCtl) (rel va vb : Nat) (a b : VReg), s.issues c = true ∧ u = s.enter c ∧ rel ≤ 3 ∧ a = (u.tile c.tile).vreg va ∧ b = (u.tile
    c.tile).vreg vb) ∧
    (∃ (s u : State) (c : TCtl) (va vb : Nat) (a b : VReg), s.issues c = true ∧ u = s.enter c ∧ a = (u.tile c.tile).vreg va ∧ b = (u.tile c.tile).vreg vb) ∧
    (∃ (s u : State) (c : TCtl) (va : Nat) (a : VReg), s.issues c = true ∧ u = s.enter c ∧ a = (u.tile c.tile).vreg va) ∧
    (∃ (s u : State) (c : TCtl) (row : Nat) (a : VReg), s.issues c = true ∧ u = s.enter c ∧ a = (u.tile c.tile).accRow row) ∧
    (∃ (s u : State) (c : TCtl) (va : Nat) (a : VReg), s.issues c = true ∧ u = s.enter c ∧ a = (u.tile c.tile).vreg va) :=
  ⟨⟨running pad (up 1000), _, c0, 3, 0, 0, _, _, by decide +kernel, rfl, by decide +kernel, rfl, rfl⟩,
   ⟨running pad (up 1000), _, c0, 0, 0, _, _, by decide +kernel, rfl, rfl, rfl⟩,
   ⟨running pad (up 1000), _, c0, 0, _, by decide +kernel, rfl, rfl⟩,
   ⟨running pad (up 1000), _, c0, 1023, _, by decide +kernel, rfl, rfl⟩,
   ⟨running pad (up 1000), _, c0, 0, _, by decide +kernel, rfl, rfl⟩⟩

theorem witness_ConversionsComplete :
    (∃ (s u : State) (c : TCtl), s.issues c = true ∧ u = s.enter c) ∧
    (∃ (s u : State) (c : TCtl) (va vb vc fmt part : Nat) (z : Int) (a b d : VReg) (r q : List (Nat × NumFlags)), s.issues c = true ∧ u = s.enter c ∧ a =
    (u.tile c.tile).vreg va ∧ b = (u.tile c.tile).vreg vb ∧ d = (u.tile c.tile).vreg vc ∧ r = ((List.range 16).map fun l => dqAcc (laneOf a.data l)
    (laneOf b.data l) (laneOf d.data l)) ∧ q = ((List.range 16).map fun l => dqElem (widthOf fmt) (bitsOf a.data.toNat (16 * widthOf fmt * part + widthOf
    fmt * l) (widthOf fmt)) z (laneOf b.data l))) ∧
    (∃ (s u : State) (c : TCtl) (d v : Nat), s.issues c = true ∧ u = s.enter c ∧ v = (u.tile c.tile).qdesc d) ∧
    (∃ (s u : State) (c : TCtl) (d k v w : Nat), s.issues c = true ∧ u = s.enter c ∧ v = (u.tile c.tile).qdesc d ∧ (u.tile c.tile).wordAt (qStatH v) k =
    .inr w) ∧
    (∃ (s u : State) (c : TCtl) (d va row col v : Nat) (a : VReg) (rs : List (Nat × NumFlags × Bool × Option Nat)), s.issues c = true ∧ u = s.enter c ∧ v =
    (u.tile c.tile).qdesc d ∧ a = (u.tile c.tile).vreg va ∧ allOk ((qElems v col a.data).map (u.qConvOne c.tile d v row)) = .inr rs) :=
  ⟨⟨running pad (up 1000), _, c0, by decide +kernel, rfl⟩,
   ⟨running pad (up 1000), _, c0, 0, 0, 0, 0, 0, 0, _, _, _, _, _, by decide +kernel, rfl, rfl, rfl, rfl, rfl, rfl⟩,
   ⟨running pad (up 1000), _, c0, 0, _, by decide +kernel, rfl, rfl⟩,
   ⟨running pad (up 1000), _, c0, 0, 0, _, _, by decide +kernel, rfl, rfl, inr_of (by decide +kernel)⟩,
   ⟨running pad (up 1000), _, c0, 0, 0, 0, 0, _, _, _, by decide +kernel, rfl, rfl, rfl, inr_of (by decide +kernel)⟩⟩

theorem witness_MemoryUpkeepCompletes :
    (∃ (s : State) (t : Nat), s.inService (blockOf (t % 2048)) = true) ∧
    (∃ (s : State) (m n : Nat), s.passes m .write (R.CD_CET_CLR n) 4 = true) ∧
    (∃ (s : State) (n : Nat), s.runs n 0x0300 = true ∧ accTable (s.arg n 0) = true ∧ s.arg n 1 ≤ 63 ∧ fixedNumber (s.arg n 0) (s.arg n 1) = false ∧
    accEntryOk (s.arg n 2) = true) ∧
    (∃ (s : State) (n : Nat), s.runs n 0x0301 = true ∧ accTable (s.arg n 0) = true ∧ s.arg n 1 + s.arg n 2 ≤ 64) ∧
    (∃ (s : State) (n : Nat), s.runs n 0x0302 = true) ∧
    (∃ (s u : State) (n : Nat) (x : Retirement) (b : Bool), s.runs n 0x0303 = true ∧ x =
    { die := s.arg n 0, row := s.arg n 1, pcol := s.arg n 2, page := s.arg n 3 } ∧ retirementOk x = true ∧ s.retire x = some (b, u)) ∧
    (∃ (s u : State) (n : Nat) (x : Retirement) (b : Bool), s.runs n 0x0304 = true ∧ x =
    { die := s.arg n 0, row := s.arg n 1, pcol := s.arg n 2, bank := true, layer := s.arg n 3, num := s.arg n 4 } ∧ retirementOk x = true ∧ s.retire x =
    some (b, u)) ∧
    (∃ (s : State) (n : Nat) (x : List Byte × State) (y : State × Nat × Bool × Bool), s.runs n 0x0305 = true ∧ x = s.supRead (s.arg n 1) (8 * s.arg n 0) ∧
    ((chunks 8 x.1 (x.2.arg n 0)).map retirementOf).all retirementOk = true ∧ ((chunks 8 x.1 (x.2.arg n 0)).any fun v => decide (1 < bitsOf v 24 8)) =
    false ∧ y = x.2.retireAllOf ((chunks 8 x.1 (x.2.arg n 0)).map retirementOf) 0 false) :=
  ⟨⟨up 1000, 2047, by decide +kernel⟩,
   ⟨up 1000, 1, 3, by decide +kernel⟩,
   ⟨mb 15 0x0300 [17, 5, 0] (up 1000), 15, by decide +kernel, by decide +kernel, by decide +kernel, by decide +kernel, by decide +kernel⟩,
   ⟨mb 15 0x0301 [17, 60, 4] (up 1000), 15, by decide +kernel, by decide +kernel, by decide +kernel⟩,
   ⟨mb 15 0x0302 [3, 0] (up 1000), 15, by decide +kernel⟩,
   ⟨mb 15 0x0303 [3, 15, 7, 0] (up 1000), _, 15, _, _, by decide +kernel, rfl, by decide +kernel, some_pair_of (by decide +kernel)⟩,
   ⟨mb 15 0x0304 [3, 15, 7, 1, 2] (up 1000), _, 15, _, _, by decide +kernel, rfl, by decide +kernel, some_pair_of (by decide +kernel)⟩,
   ⟨mb 15 0x0305 [1, 68719476736] (up 1000), 15, _, _, by decide +kernel, rfl, by decide +kernel, by decide +kernel, rfl⟩⟩

theorem witness_AccessesComplete :
    ((∃ (s : State) (a len t : Nat), targetOf a = some (.dram t) ∧ s.passes 0x201 .fetch a len = true ∧ s.passes 0x201 .write a len = true) ∧ (∃ (s :
    State) (a len : Nat), targetOf a = some .host ∧ s.passes 0x201 .read a len = true ∧ s.passes 0x201 .write a len = true) ∧ (∃ (s : State) (a len t :
    Nat), targetOf a = some (.spad t) ∧ s.passes 0x201 .read a len = true ∧ s.passes 0x201 .write a len = true) ∧ (∃ (s u : State) (a len t : Nat) (d :
    List Byte), targetOf a = some (.unit t) ∧ s.passes 1 .read a len = true ∧ s.passes 1 .write a len = true ∧ s.writeUnit 1 a (fitData d len).length
    (fitData d len) = accept u)) ∧
    (∃ (s u : State) (p : Nat) (k : BamPacket), s.linkOpen (p % 6) = true ∧ s.domainOn 13 = true ∧ u = s.linkCounts (p % 6) k ∧ k.epoch = u.ownEpoch ∧
    u.bit R.BAM_STATUS 6 = true) ∧
    (∃ (s : State) (k : Nat) (r : Remote), s.remotes.lookup k = some r ∧ r.start + 50000 ≤ s.age) :=
  ⟨⟨⟨shared, 0xFFFFFFFC0, 64, 2047, by decide +kernel, by decide +kernel, by decide +kernel⟩, ⟨shared, host0, 64, by decide +kernel, by decide +kernel,
    by decide +kernel⟩, ⟨shared, 0x00207FFFFFC0, 64, 2047, by decide +kernel, by decide +kernel, by decide +kernel⟩, ⟨up 1000, _, R.TW_OS_DEADLINE 0, 8,
    2, leBytes 7 8, by decide +kernel, by decide +kernel, by decide +kernel, accept_of (by decide +kernel)⟩⟩,
   ⟨((up 1000).setRegN (R.BAM_P_STATUS 5) 0x202).setBit R.BAM_STATUS 6 true, _, 5, {}, by decide +kernel, by decide +kernel, rfl, by decide +kernel,
    by decide +kernel⟩,
   ⟨{ up 50000 with remotes := [(1, {})] }, 1, {}, by decide +kernel, by decide +kernel⟩⟩

theorem witness_RegisterAccessCompletes :
    (∃ (s u : State) (m a t : Nat) (v : Dword) (p : Piece), pieceAt a 8 = some p ∧ targetOf p.base = some (.unit t) ∧ s.passes m .write p.base (min 8
    p.size) = true ∧ s.writeUnit m p.base (fitData (leBytes v.toNat 8) (min 8 p.size)).length (fitData (leBytes v.toNat 8) (min 8 p.size)) = accept u) ∧
    (∃ (s : State) (n : Nat) (x : List Byte × State), s.runs n 0x0004 = true ∧ ((List.range (s.arg n 3)).filterMap fun k => s.regCmdStop (s.arg n 0) (s.arg
    n 2 + s.arg n 1 * k) (s.arg n 1)) = [] ∧ x = s.regReads (s.arg n 0) (s.arg n 2) (s.arg n 1) (s.arg n 3)) ∧
    (∃ (s u : State) (n : Nat), s.runs n 0x0005 = true ∧ s.regCmdStop (s.arg n 0) (s.arg n 2) (s.arg n 1) = none ∧ s.tableAllows (s.arg n 0) (s.mbOwner n)
    .write (unitBase (s.arg n 0) + s.arg n 2) (s.arg n 1) = true ∧ ((List.range (s.arg n 1)).any fun k => protectedReg (s.arg n 0) (s.arg n 2 + k)) =
    false ∧ s.writeUnit 1 (unitBase (s.arg n 0) + s.arg n 2) (s.arg n 1) (leBytes (s.arg n 3) (s.arg n 1)) = accept u) :=
  ⟨⟨up 1000, _, 1, R.TW_OS_DEADLINE 0, 2, 7#64, _, some_of (by decide +kernel), by decide +kernel, by decide +kernel, accept_of (by decide +kernel)⟩,
   ⟨mb 15 0x0004 [2, 4, 0, 2] (up 1000), 15, _, by decide +kernel, by decide +kernel, rfl⟩,
   ⟨mb 15 0x0005 [0x18, 4, R.PIX_CTRL % 65536, 0]
    ({ up 1000 with access := [(0x18 * 64 + 1, { mask := 0x3FF, w := true, valid := true, limit := 0xFFFFFFFFFFFF })] }), _, 15, by decide +kernel,
    by decide +kernel, by decide +kernel, by decide +kernel, accept_of (by decide +kernel)⟩⟩

theorem witness_GeneralCommandsComplete :
    (∃ (s : State) (n : Nat), s.runs n 0x0000 = true) ∧
    (∃ (s : State) (n : Nat), s.runs n 0x0001 = true ∧ s.repairLocked = true) ∧
    (∃ (s : State) (n : Nat), s.runs n 0x0002 = true) ∧
    (∃ (s : State) (n : Nat), s.runs n 0x0003 = true ∧ s.assignRefusal n (s.arg n 0) (s.arg n 3) (s.arg n 4) = none) ∧
    (∃ (s : State) (n : Nat) (x : Nat × List ErrRecord), s.runs n 0x0006 = true ∧ x = s.logRead (s.arg n 0) (s.arg n 1)) ∧
    (∃ (s : State), s.roundNext + 3000 ≤ s.now ∧ s.boot.phase = .done) ∧
    (∃ (s : State) (m n : Nat) (v : Dword), s.passes m .write (R.SUP_MB_REQ_SEQ (n % 16)) 4 = true ∧ s.bit (R.SUP_MB_STATE (n % 16)) 0 = false ∧ v.toNat %
    2 ^ 32 = (s.regN (R.SUP_MB_RSP_SEQ (n % 16)) + 1) % 2 ^ 32) :=
  ⟨⟨mb 15 0x0000 [] (up 1000), 15, by decide +kernel⟩,
   ⟨mb 15 0x0001 [] ((List.range 4).foldl (fun s d => State.setBit s (R.CD_CTRL d) 0 true) (up 1000)), 15, by decide +kernel, by decide +kernel⟩,
   ⟨mb 15 0x0002 [] (up 1000), 15, by decide +kernel⟩,
   ⟨mb 0 0x0003 [1, 0, 0, 0, 0] (up 1000), 0, by decide +kernel, by decide +kernel⟩,
   ⟨mb 15 0x0006 [0, 4] (up 1000), 15, _, by decide +kernel, rfl⟩,
   ⟨up 3000, by decide +kernel, by decide +kernel⟩,
   ⟨up 1000, 1, 15, 1#64, by decide +kernel, by decide +kernel, by decide +kernel⟩⟩

theorem witness_TimeCommandsComplete :
    (∃ (s : State) (n : Nat) (x : List Byte × State), s.runs n 0x0100 = true ∧ x = s.supRead (s.arg n 3) (16 * s.arg n 1) ∧ (x.2.wheel (s.arg n 0)).swapAt
    = none ∧ x.2.bankRefusal (x.2.arg n 2) (chunks 16 x.1 (x.2.arg n 1)) = none) ∧
    (∃ (s u : State) (n b : Nat), s.runs n 0x0101 = true ∧ s.arg n 1 = 0 ∧ s.wheelEnable (s.arg n 0) (s.arg n 2) = (u, ST.OK, b)) ∧
    (∃ (s u : State) (n b : Nat), s.runs n 0x0101 = true ∧ s.arg n 1 = 1 ∧ s.wheelDisable (s.arg n 0) = (u, ST.OK, b)) ∧
    (∃ (s u : State) (n b : Nat), s.runs n 0x0101 = true ∧ s.arg n 1 = 2 ∧ s.wheelSwap (s.arg n 0) = (u, ST.OK, b)) ∧
    (∃ (s : State) (n : Nat), s.runs n 0x0102 = true ∧ s.anyWheel = false) :=
  ⟨⟨mb 15 0x0100 [7, 1, 65536000000, 0x001000000000] ({ up 1000 with mem := [(host0 + 5, 2#8)] }), 15, _, by decide +kernel, rfl, by decide +kernel,
    by decide +kernel⟩,
   ⟨mb 15 0x0101 [7, 0, 11000] ((up 1000).setRegN (R.TW_W_PERIOD_A 7) 65536000000), _, 15, _, by decide +kernel, by decide +kernel, triple_of
    (by decide +kernel)⟩,
   ⟨mb 15 0x0101 [7, 1, 0] ((up 1000).setBit (R.TW_W_CTRL 7) 0 true), _, 15, _, by decide +kernel, by decide +kernel, triple_of (by decide +kernel)⟩,
   ⟨mb 15 0x0101 [7, 2, 0] ((up 1000).setRegN (R.TW_W_PERIOD_B 7) 65536000000), _, 15, _, by decide +kernel, by decide +kernel, triple_of
    (by decide +kernel)⟩,
   ⟨mb 15 0x0102 [5000] (up 1000), 15, by decide +kernel, by decide +kernel⟩⟩

theorem witness_PartitionCommandsComplete :
    (∃ (s u : State) (n : Nat), s.runs n 0x0200 = true ∧ s.createRefusal (s.arg n 0) (s.arg n 4) (s.arg n 5) = none ∧ u = s.openPart (s.arg n 0) (s.arg n
    1) (s.arg n 2) (s.arg n 3) (s.arg n 4) (s.arg n 5) ∧ ((blocksTiles (u.partBlocks (s.arg n 0))).all fun t => decide (u.fld (tMemcfg t) 0 2 = s.arg n
    1)) = true) ∧
    (∃ (s u : State) (n : Nat), s.runs n 0x0201 = true ∧ s.partState (s.arg n 0) = 2 ∧ u = (((s.setFld (R.ACC_P_STATUS (s.arg n 0)) 0 2 3).retireAll (s.arg
    n 0)).modPart (s.arg n 0) fun q => { q with images := [], dramBusy := true }).bumpGen (s.arg n 0)) ∧
    (∃ (s : State) (n : Nat) (g k : Image), s.runs n 0x0202 = true ∧ s.partState (s.arg n 0) = 2 ∧ s.imageInUse (s.arg n 0) (s.arg n 1) = false ∧
    s.imageRefusal (s.arg n 0) g = none ∧ k =
    { g with address := s.arg n 3, bytes := s.arg n 2, digest := Config.sha384 (s.bytes (s.arg n 3) (s.arg n 2)) }) ∧
    (∃ (s u : State) (n : Nat), s.runs n 0x0203 = true ∧ s.partState (s.arg n 0) = 2 ∧ s.imageInUse (s.arg n 0) (s.arg n 1) = false ∧ u = s.unloadImage
    (s.arg n 0) (s.arg n 1) ∧ u.hardwareDone n = true) ∧
    (∃ (s u : State) (n : Nat) (g : Image) (bs : List Nat), s.runs n 0x0204 = true ∧ s.partState (s.arg n 0) = 2 ∧ s.jobState (s.arg n 0) (s.arg n 1) = 0 ∧
    s.imageIn (s.arg n 0) (s.arg n 2) = true ∧ g = mget {} (s.part (s.arg n 0)).images (s.arg n 2) ∧ s.place (s.arg n 0) g (s.arg n 3) = .inr bs ∧
    demandOf ((bs, powerShare g) :: s.powerList (s.arg n 0)) ≤ s.regN (R.PMU_P_ALLOC (s.arg n 0)) ∧ s.addHandles (s.handlesAt (s.arg n 0) (s.arg n 1)
    (s.arg n 2) g bs) = .inr u) ∧
    (∃ (s : State) (n : Nat), s.runs n 0x0205 = true ∧ s.partState (s.arg n 0) = 2 ∧ s.jobState (s.arg n 0) (s.arg n 1) ≠ 0 ∧ (s.job (s.arg n 0) (s.arg n
    1)).phase = .idle) ∧
    (∃ (s : State) (n : Nat), s.runs n 0x0206 = true ∧ s.partState (s.arg n 0) = 2 ∧ s.bit (R.ACC_P_STATUS (s.arg n 0)) 10 = false ∧ s.tableClash (s.arg n
    0) (s.tableArg n) = false) ∧
    (∃ (s : State) (n : Nat) (x : List Byte × State), s.runs n 0x0207 = true ∧ x = s.supRead (s.arg n 1) 576 ∧ x.2.partState (s.arg n 0) = 2 ∧ ((List.range
    64).any fun j => decide (x.2.jobState (s.arg n 0) j ≠ 0)) = false) :=
  ⟨⟨mb 15 0x0200 [31, 3, 1, 1, 1000, 2 ^ 63] (up 1000), _, 15, by decide +kernel, by decide +kernel, rfl, by decide +kernel⟩,
   ⟨mb 15 0x0201 [31] (ready 31 63 (up 1000)), _, 15, by decide +kernel, by decide +kernel, rfl⟩,
   ⟨mb 15 0x0202 [31, 15, 0, 0x001000000000] (ready 31 63 (up 1000)), 15, { tileCount := 2048 }, _, by decide +kernel, by decide +kernel,
    by decide +kernel, by decide +kernel, rfl⟩,
   ⟨mb 15 0x0203 [31, 15] ((ready 31 63 (up 1000)).modPart 31 fun q => { q with images := [(15, {})] }), _, 15, by decide +kernel, by decide +kernel,
    by decide +kernel, rfl, by decide +kernel⟩,
   ⟨mb 15 0x0204 [31, 63, 15, 0, 0] ((ready 31 63 (up 1000)).modPart 31 fun q => { q with images := [(15, { tileCount := 2048 })] }), _, 15, _, _,
    by decide +kernel, by decide +kernel, by decide +kernel, by decide +kernel, rfl, inr_of (by decide +kernel), by decide +kernel, inr_of
    (by decide +kernel)⟩,
   ⟨mb 15 0x0205 [31, 63] (admitted 31 63 63 {} (up 1000)), 15, by decide +kernel, by decide +kernel, by decide +kernel, by decide +kernel⟩,
   ⟨mb 15 0x0206 [31, 128] (ready 31 63 (up 1000)), 15, by decide +kernel, by decide +kernel, by decide +kernel, by decide +kernel⟩,
   ⟨mb 15 0x0207 [31, 0x001000000000] (ready 31 63 (up 1000)), 15, _, by decide +kernel, rfl, by decide +kernel, by decide +kernel⟩⟩

theorem witness_KvCommandsComplete :
    (∃ (s : State) (n : Nat), s.runs n 0x0400 = true ∧ s.bit R.KVD_CTRL 0 = true ∧ ((s.poolArgs n).parts.any fun k => decide (s.partState k ≠ 2)) = false ∧
    s.poolValid (s.arg n 0) = false ∧ s.poolOk (s.poolArgs n) (s.arg n 3) = true) ∧
    (∃ (s u : State) (n : Nat), s.runs n 0x0401 = true ∧ s.bit R.KVD_CTRL 0 = true ∧ s.poolValid (s.arg n 0) = true ∧ (s.pool (s.arg n 0)).step = none ∧ u
    = ((((State.setRegN { s with kvPools := merase s.kvPools (s.arg n 0), kvCtxs := s.kvCtxs.filter fun x => decide (x.2.pool ≠ s.arg n 0) }
    (R.KVD_POOL_CFG (s.arg n 0)) 0).setRegN (R.KVD_POOL_STEP (s.arg n 0)) 0).setRegN (R.KVD_POOL_FRAMES (s.arg n 0)) 0).setRegN (R.KVD_POOL_FREE (s.arg n
    0)) 0)) ∧
    (∃ (s : State) (n : Nat), s.runs n 0x0405 = true ∧ s.bit R.KVD_CTRL 0 = true ∧ s.poolValid (s.arg n 0) = true ∧ (s.pool (s.arg n 0)).twin.isSome = true
    ∧ s.bit (R.KVD_POOL_STEP (s.arg n 0)) 33 = false) ∧
    (∃ (s : State) (n o : Nat) (x : KvCtx), s.runs n 0x0402 = true ∧ s.bit R.KVD_CTRL 0 = true ∧ s.poolValid (s.arg n 1) = true ∧ (s.ctx (s.arg n 0)).state
    = 0 ∧ s.tablePlace (4 * ((s.pool (s.arg n 1)).lmax / (s.pool (s.arg n 1)).pageLen)) = some o ∧ x =
    { state := 1, pool := s.arg n 1, ptBase := o, ptCap := (s.pool (s.arg n 1)).lmax / (s.pool (s.arg n 1)).pageLen }) ∧
    (∃ (s u : State) (n : Nat) (x : List Byte × Bool × State), s.runs n 0x0403 = true ∧ s.bit R.KVD_CTRL 0 = true ∧ s.poolValid (s.arg n 0) = true ∧ s.bit
    (R.KVD_POOL_STEP (s.arg n 0)) 33 = false ∧ (s.pool (s.arg n 0)).step = none ∧ s.hoExists (s.arg n 2) = true ∧ (s.ho (s.arg n 2)).desc.producer = 0x037
    ∧ inHost (s.arg n 3) (16 * s.arg n 1) = true ∧ x = s.dramGet (s.arg n 3) (16 * s.arg n 1) ∧ x.2.1 = false ∧ x.2.2.stepRun n (s.arg n 0) (s.arg n 2)
    ((chunks 16 x.1 (x.2.2.arg n 1)).map kvReqOf) = (u, .later)) ∧
    (∃ (s : State) (n : Nat), s.runs n 0x0404 = true ∧ s.bit R.KVD_CTRL 0 = true ∧ s.poolValid (s.arg n 0) = true ∧ (s.ctx (s.arg n 1)).state ≠ 0 ∧ (s.ctx
    (s.arg n 1)).pool = s.arg n 0 ∧ s.arg n 3 = 0) ∧
    (∃ (s u : State) (p : Nat) (st : KvStep), (s.pool p).step = some st ∧ st.published = none ∧ u = (s.hubSet 0x037 (slotAddr (s.ho st.ho).desc (s.hoW
    st.ho)) st.plan false)) :=
  ⟨⟨mb 15 0x0400 [31, 1, 255, 0, 128, 1, 7, 1, 1, 0, 1, 256] ((ready 1 0 (up 1000)).setBit R.KVD_CTRL 0 true), 15, by decide +kernel, by decide +kernel,
    by decide +kernel, by decide +kernel, by decide +kernel⟩,
   ⟨mb 15 0x0401 [0] (kv (up 1000)), _, 15, by decide +kernel, by decide +kernel, by decide +kernel, by decide +kernel, rfl⟩,
   ⟨mb 15 0x0405 [0] ((kv (up 1000)).modPool 0 fun q => { q with twin := some 17 }), 15, by decide +kernel, by decide +kernel, by decide +kernel,
    by decide +kernel, by decide +kernel⟩,
   ⟨mb 15 0x0402 [4095, 0] ((kv (up 1000)).setRegN R.KVD_REGION_SIZE 4), 15, _, _, by decide +kernel, by decide +kernel, by decide +kernel,
    by decide +kernel, some_of (by decide +kernel), rfl⟩,
   ⟨mb 15 0x0403 [0, 1, 7, 0x001000000000] (withHo 7 { producer := 0x037, slotBytes := 4096 } { kv (up 1000) with mem := [(host0 + 4, 1#8)] }), _, 15, _,
    by decide +kernel, by decide +kernel, by decide +kernel, by decide +kernel, by decide +kernel, by decide +kernel, by decide +kernel,
    by decide +kernel, rfl, by decide +kernel, later_of (by decide +kernel)⟩,
   ⟨mb 15 0x0404 [0, 0, 0, 0] (kv (up 1000)), 15, by decide +kernel, by decide +kernel, by decide +kernel, by decide +kernel, by decide +kernel,
    by decide +kernel⟩,
   ⟨(kv (up 1000)).modPool 0 fun q => { q with step := some {} }, _, 0, {}, by decide +kernel, by decide +kernel, rfl⟩⟩

theorem witness_SolverCompletes :
    (∃ (s u : State) (n : Nat) (x : List Byte × State) (r : List Byte), s.runs n 0x0500 = true ∧ x = s.supRead (s.arg n 2) (s.arg n 1) ∧ 64 ≤ s.arg n 1 ∧
    numAt x.1 0 4 ≤ 4096 ∧ numAt x.1 4 4 ≤ 8192 ∧ numAt x.1 8 4 + numAt x.1 12 4 ≤ 131072 ∧ blockEnd 64 (blockLengths (numAt x.1 0 4) (numAt x.1 4 4)
    (numAt x.1 8 4) (numAt x.1 12 4)) ≤ s.arg n 1 ∧ x.2.solTake (x.2.arg n 0) (numAt x.1 24 8) (slotOf (numAt x.1 0 4) (numAt x.1 4 4) (numAt x.1 16 4)
    (numAt x.1 20 4) (arraysAt x.1 64 (blockLengths (numAt x.1 0 4) (numAt x.1 4 4) (numAt x.1 8 4) (numAt x.1 12 4))).1) = (u, .now ST.OK r)) ∧
    (∃ (s : State) (n : Nat), s.runs n 0x0501 = true ∧ s.solLoaded (s.arg n 0) = true ∧ s.solBusy (s.arg n 0) = false ∧ s.solCfgOk (s.arg n 1) (s.slot
    (s.arg n 0)).n (s.slot (s.arg n 0)).m = true) ∧
    (∃ (s : State) (n : Nat), s.runs n 0x0502 = true ∧ s.solBusy (s.arg n 0) = false) ∧
    (∃ (s : State) (x : SolStart) (l : List SolStart), s.solRun = none ∧ s.solQueue = x :: l) ∧
    (∃ (s : State) (r : SolRun), s.solRun = some r ∧ r.phase = .refactor ∧ s.phaseOver r = true ∧ s.solDue r 40 = false) ∧
    (∃ (s : State) (r : SolRun) (f : Factor), s.solRun = some r ∧ (s.slot r.start.slot).factor = some f ∧ r.phase = .iterate ∧ s.phaseOver r = true ∧
    s.solDue r 40 = false) ∧
    (∃ (s : State) (r : SolRun), s.solRun = some r ∧ r.phase ≠ .finished ∧ s.solDue r 0 = true) ∧
    (∃ (s : State) (r : SolRun), s.solRun = some r ∧ r.phase = .finished ∧ s.phaseOver r = true) :=
  ⟨⟨mb 15 0x0500 [7, 580, 0x001000000000] (withHo 0 { producer := 0x034, slotBytes := 384 } { up 1000 with mem := lpBytes }), _, 15, _, _,
    by decide +kernel, rfl, by decide +kernel, by decide +kernel, by decide +kernel, by decide +kernel, by decide +kernel, load_of (by decide +kernel)⟩,
   ⟨mb 15 0x0501 [7, 1] (withHo 0 { producer := 0x034, slotBytes := 384 } ((up 1000).setBit (R.SOL_SLOT_CFG 7) 63 true)), 15, by decide +kernel,
    by decide +kernel, by decide +kernel, by decide +kernel⟩,
   ⟨mb 15 0x0502 [7] (up 1000), 15, by decide +kernel, by decide +kernel⟩,
   ⟨{ up 1000 with solQueue := [{}] }, {}, [], by decide +kernel, by decide +kernel⟩,
   ⟨{ up 1000 with solRun := some { phase := .refactor, start := { deadline := 2000 } } }, { phase := .refactor, start := { deadline := 2000 } },
    by decide +kernel, by decide +kernel, by decide +kernel, by decide +kernel⟩,
   ⟨{ up 1000 with solRun := some { phase := .iterate, start := { deadline := 2000 } }, solSlots := [(0, { factor := some {} })] },
    { phase := .iterate, start := { deadline := 2000 } }, {}, by decide +kernel, by decide +kernel, by decide +kernel, by decide +kernel,
    by decide +kernel⟩,
   ⟨{ up 1000 with solRun := some { phase := .iterate, start := { deadline := 1000 } } }, { phase := .iterate, start := { deadline := 1000 } },
    by decide +kernel, by decide +kernel, by decide +kernel⟩,
   ⟨{ up 1000 with solRun := some { phase := .finished } }, { phase := .finished }, by decide +kernel, by decide +kernel, by decide +kernel⟩⟩

theorem witness_ControlEngineCompletes :
    (∃ (s : State) (n : Nat), s.runs n 0x0600 = true ∧ (s.chan (s.arg n 0)).swapAt = none ∧ bankOk (BitVec.ofNat 1024 (s.arg n 1)) = true) ∧
    (∃ (s u : State) (n : Nat), s.runs n 0x0601 = true ∧ (s.chan (s.arg n 0)).swapAt = none ∧ u = (s.modChan (s.arg n 0) fun x =>
    { x with swapAt := some s.now }).setBit (R.CTL_CH_STATE (s.arg n 0)) 4 true) ∧
    (∃ (s : State) (n : Nat), s.runs n 0x0602 = true) ∧
    (∃ (s u : State) (c : Nat), ((List.range 8).find? fun x => (s.chan x).pendAt.isSome) = some c ∧ u = (((s.modChan c fun x =>
    { x with pendAt := none }).showCtl).ctlSwap c ((s.chan c).pendAt.getD 0)) ∧ u.chState c ≠ 0 ∧ u.chState c ≠ 4) ∧
    (∃ (s : State), s.bit R.CTL_TG_CFG 9 = true ∧ s.regN R.CTL_TG_LEN ≤ s.testGen.n) ∧
    (∃ (s t : State) (m : Nat) (v : Dword), s.passes m .write R.CTL_TG_CFG 4 = true ∧ bitsOf v.toNat 8 1 = 1 ∧ s.bit R.CTL_TG_CFG 9 = false ∧ s.chState
    (bitsOf v.toNat 0 3) = 3 ∧ t = (s.setRegN R.CTL_TG_CFG (bitsOf v.toNat 0 6 + s.fld R.CTL_TG_CFG 9 1 * 2 ^ 9 + bitsOf v.toNat 16 16 * 2 ^ 16)).setBit
    R.CTL_TG_CFG 9 true) ∧
    (∃ (s : State) (m ch : Nat) (v : Dword), s.passes m .write (R.CTL_CH_CFG (ch % 8)) 8 = true ∧ bitsOf (s.regN (R.CTL_CH_CFG (ch % 8))) 0 1 = 0 ∧ chCfgOk
    (putBits v.toNat 0 1 1) = true ∧ chRangesOk (putBits v.toNat 0 1 1) (s.regN (R.CTL_CH_SP (ch % 8))) = true ∧ bitsOf (putBits v.toNat 0 1 1) 0 1 = 1) ∧
    (∃ (s : State) (m ch : Nat) (v : Dword), s.passes m .write (R.CTL_CH_CFG (ch % 8)) 8 = true ∧ bitsOf (s.regN (R.CTL_CH_CFG (ch % 8))) 0 1 = 1 ∧ s.regN
    (R.CTL_CH_CFG (ch % 8)) / 2 = putBits v.toNat 0 1 0 / 2 ∧ bitsOf (putBits v.toNat 0 1 0) 0 1 = 0) :=
  ⟨⟨mb 15 0x0600 [7, 0x3F800000 * (2 ^ 128 + 2 ^ 768 + 2 ^ 800)] (up 1000), 15, by decide +kernel, by decide +kernel, by decide +kernel⟩,
   ⟨mb 15 0x0601 [7] (up 1000), _, 15, by decide +kernel, by decide +kernel, rfl⟩,
   ⟨mb 15 0x0602 [0, 4, 0x001000000000] (up 1000), 15, by decide +kernel⟩,
   ⟨{ (up 1000).setFld (R.CTL_CH_STATE 7) 1 3 3 with channels := [(7, { pendAt := some 1000 })] }, _, 7, by decide +kernel, rfl, by decide +kernel,
    by decide +kernel⟩,
   ⟨{ (up 1000).setBit R.CTL_TG_CFG 9 true with testGen := { n := 1 } }.setRegN R.CTL_TG_LEN 1, by decide +kernel, by decide +kernel⟩,
   ⟨(up 1000).setFld (R.CTL_CH_STATE 7) 1 3 3, _, 1, 263#64, by decide +kernel, by decide +kernel, by decide +kernel, by decide +kernel, rfl⟩,
   ⟨(up 1000).setRegN (R.CTL_CH_CFG 7) (8 * 2 ^ 20 + 2 ^ 48 + 2 ^ 56), 1, 7, 0#64 + BitVec.ofNat 64 (8 * 2 ^ 20 + 2 ^ 48 + 2 ^ 56), by decide +kernel,
    by decide +kernel, by decide +kernel, by decide +kernel, by decide +kernel⟩,
   ⟨(up 1000).setRegN (R.CTL_CH_CFG 7) 1, 1, 7, 0#64, by decide +kernel, by decide +kernel, by decide +kernel, by decide +kernel⟩⟩

theorem witness_PixelEngineCompletes :
    (∃ (s : State) (n : Nat), s.runs n 0x0700 = true ∧ s.pixRefusal (s.arg n 0) (BitVec.ofNat 512 (s.arg n 1)) = none) ∧
    (∃ (s : State) (prog cam i k : Nat) (r : PixRun) (c : PixCam), s.pixFind prog cam = some (r, c) ∧ pixMode (s.pixProg prog) ≠ 2 ∧ c.stream = some i ∧
    c.slot = some k ∧ c.closed = true) ∧
    (∃ (s : State) (prog cam : Nat) (r : PixRun) (c : PixCam), s.pixFind prog cam = some (r, c) ∧ r.at_ + pf (s.pixProg prog) 192 32 ≤ s.now) :=
  ⟨⟨mb 15 0x0700 [255, 2 ^ 25 + 2 ^ 29 + 2 ^ 33 + 2 ^ 58 + 8 * 2 ^ 85 + 8 * 2 ^ 101 + host0 * 2 ^ 128 + 1000 * 2 ^ 192]
    ({ up 1000 with boot := { phase := .done, part := { camMask := 1 } } }), 15, by decide +kernel, by decide +kernel⟩,
   ⟨{ up 1000 with pixRuns := [{ cams := [{ stream := some 0, slot := some 0, closed := true }] }] }, 0, 0, 0, 0,
    { cams := [{ stream := some 0, slot := some 0, closed := true }] }, { stream := some 0, slot := some 0, closed := true }, by decide +kernel,
    by decide +kernel, by decide +kernel, by decide +kernel, by decide +kernel⟩,
   ⟨{ up 1000 with pixRuns := [{ cams := [{}] }] }, 0, 0, { cams := [{}] }, {}, by decide +kernel, by decide +kernel⟩⟩

theorem witness_RecordAndReplayComplete :
    (∃ (s : State) (n : Nat), s.runs n 0x0800 = true ∧ s.arg n 0 < s.now + 2 ^ 31 ∧ s.now < s.arg n 0 + 2 ^ 31 ∧ s.arg n 0 ≠ 0) ∧
    (∃ (s : State) (n : Nat), s.runs n 0x0801 = true ∧ s.arg n 0 = 0 ∧ s.absentPorts = false ∧ s.bit R.REC_STATUS 0 = false) ∧
    (∃ (s : State) (n : Nat), s.runs n 0x0801 = true ∧ s.arg n 0 = 1) ∧
    (∃ (s : State) (n : Nat), s.runs n 0x0801 = true ∧ s.arg n 0 = 2) ∧
    (∃ (s : State) (n : Nat), s.runs n 0x0801 = true ∧ s.arg n 0 = 3) ∧
    (∃ (s : State) (n : Nat), s.runs n 0x0802 = true ∧ s.arg n 0 = 0 ∧ s.replaying = false ∧ s.arg n 1 ≠ 0 ∧ s.admits 0x03A .read (s.arg n 1) 32 = true) ∧
    (∃ (s u : State) (n : Nat) (r : RecItem), s.runs n 0x0802 = true ∧ s.arg n 0 = 1 ∧ s.replaying = false ∧ s.recorder.loaded.head? = some r ∧
    s.recorder.replayable = true ∧ s.benchMatches r = true ∧ u = (s.stepTime (r.time - 1000000)).setRegN R.REPLAY_STATUS 2) ∧
    (∃ (s : State) (n : Nat), s.runs n 0x0802 = true ∧ s.arg n 0 = 2 ∧ s.replaying = true) ∧
    (∃ (s : State) (n : Nat), s.runs n 0x0802 = true ∧ s.arg n 0 = 3) ∧
    (∃ (s : State) (n : Nat), s.runs n 0x0802 = true ∧ s.arg n 0 = 4) ∧
    (∃ (s u : State) (r : RecItem), u = s.moreStream ∧ u.recorder.loaded[u.recorder.passed]? = some r ∧ u.replaying = true ∧ r.time ≤ u.now ∧ r.typ ≠ 0x0E) :=
  ⟨⟨mb 15 0x0800 [999] (up 1000), 15, by decide +kernel, by decide +kernel, by decide +kernel, by decide +kernel⟩,
   ⟨mb 15 0x0801 [0] (up 1000), 15, by decide +kernel, by decide +kernel, by decide +kernel, by decide +kernel⟩,
   ⟨mb 15 0x0801 [1] (up 1000), 15, by decide +kernel, by decide +kernel⟩,
   ⟨mb 15 0x0801 [2] (up 1000), 15, by decide +kernel, by decide +kernel⟩,
   ⟨mb 15 0x0801 [3] (up 1000), 15, by decide +kernel, by decide +kernel⟩,
   ⟨mb 15 0x0802 [0, 0x001000000000]
    ({ up 1000 with access := [(0x100 * 64 + 63, { mask := 0x3FF, master := 0x03A, r := true, valid := true, limit := 0xFFFFFFFFFFFF })] }), 15,
    by decide +kernel, by decide +kernel, by decide +kernel, by decide +kernel, by decide +kernel⟩,
   ⟨mb 15 0x0802 [1] ({ up 1000 with recorder := { loaded := [originRec], replayable := true } }), _, 15, originRec, by decide +kernel,
    by decide +kernel, by decide +kernel, by decide +kernel, by decide +kernel, by decide +kernel, rfl⟩,
   ⟨mb 15 0x0802 [2] ((up 1000).setRegN R.REPLAY_STATUS 2), 15, by decide +kernel, by decide +kernel, by decide +kernel⟩,
   ⟨mb 15 0x0802 [3] (up 1000), 15, by decide +kernel, by decide +kernel⟩,
   ⟨mb 15 0x0802 [4] (up 1000), 15, by decide +kernel, by decide +kernel⟩,
   ⟨{ (up 1000).setRegN R.REPLAY_STATUS 2 with recorder := { loaded := [{ time := 1000 }] } }, _, { time := 1000 }, rfl, by decide +kernel,
    by decide +kernel, by decide +kernel, by decide +kernel⟩⟩

theorem witness_ResetRequestsComplete :
    (∃ (s : State) (n : Nat) (x : Target), s.runs n 0x0900 = true ∧ s.arg n 0 = 0 ∧ s.contextTarget (s.arg n 1) (s.arg n 2) (s.arg n 3) = some x ∧ x ≠
    .mailbox n) ∧
    (∃ (s : State) (n : Nat) (x : Target), s.runs n 0x0900 = true ∧ s.arg n 0 = 1 ∧ s.engineTarget (s.arg n 1) (s.arg n 2) (s.arg n 3) = some x ∧ x ≠
    .mailbox n) ∧
    (∃ (s : State) (n : Nat) (x : Target), s.runs n 0x0900 = true ∧ s.arg n 0 = 2 ∧ s.domainTarget (s.arg n 1) (s.arg n 2) (s.arg n 3) = some x ∧ x ≠
    .mailbox n) ∧
    (∃ (s : State) (n : Nat), s.runs n 0x0900 = true ∧ s.arg n 0 = 3 ∧ s.chipReset = none) ∧
    (∃ (s : State) (n : Nat), s.runs n 0x0900 = true ∧ s.arg n 0 = 4) :=
  ⟨⟨mb 3 0x0900 [0, 1, 0, 14] ({ up 1000 with mailboxes := [(14, { accepted := some 0 })] }), 3, .mailbox 14, by decide +kernel, by decide +kernel,
    by decide +kernel, by decide +kernel⟩,
   ⟨mb 15 0x0900 [1, 27, 0, 7] (up 1000), 15, .engine 0x1B 7, by decide +kernel, by decide +kernel, by decide +kernel, by decide +kernel⟩,
   ⟨mb 15 0x0900 [2, 19, 31, 0] (ready 31 63 (up 1000)), 15, .partition 31, by decide +kernel, by decide +kernel, by decide +kernel, by decide +kernel⟩,
   ⟨mb 15 0x0900 [3] (up 1000), 15, by decide +kernel, by decide +kernel, by decide +kernel⟩,
   ⟨mb 15 0x0900 [4] (up 1000), 15, by decide +kernel, by decide +kernel⟩⟩

theorem witness_CameraCompletes :
    (∃ (s : State) (m p : Nat) (v : Dword), s.passes m .write (R.CAM_PORT_CFG (p % 12)) 4 = true ∧ v.toNat % 2 = 1 ∧ s.camPort (p % 12) = true ∧ camPortOk
    v.toNat = true ∧ s.camUsed7 (p % 12) + camRate7 v.toNat ≤ 7 * 160000) ∧
    (∃ (s : State) (port vc i : Nat), s.camHears port = true ∧ s.streamOf port (vc % 32) = some i ∧ (s.camStr i).frame = none) ∧
    (∃ (s : State) (port vc i : Nat), s.camHears port = true ∧ s.streamOf port (vc % 32) = some i) ∧
    (∃ (s : State) (port vc i : Nat) (g : CamFrame), s.camHears port = true ∧ s.streamOf port (vc % 32) = some i ∧ (s.camStr i).frame = some g) :=
  ⟨⟨{ up 1000 with boot := { phase := .done, part := { camMask := 0xFFF } } }, 1, 11, BitVec.ofNat 64 (1 + 80 * 2 ^ 16), by decide +kernel,
    by decide +kernel, by decide +kernel, by decide +kernel, by decide +kernel⟩,
   ⟨(((up 1000).setBit R.CAM_CTRL 0 true).setBit (R.CAM_PORT_CFG 11) 0 true).setRegN (R.CAM_STR_CFG 63) (1 + 11 * 2 + 31 * 2 ^ 5), 11, 31, 63,
    by decide +kernel, by decide +kernel, by decide +kernel⟩,
   ⟨(((up 1000).setBit R.CAM_CTRL 0 true).setBit (R.CAM_PORT_CFG 11) 0 true).setRegN (R.CAM_STR_CFG 63) (1 + 11 * 2 + 31 * 2 ^ 5), 11, 31, 63,
    by decide +kernel, by decide +kernel⟩,
   
    ⟨{ (((up 1000).setBit R.CAM_CTRL 0 true).setBit (R.CAM_PORT_CFG 11) 0 true).setRegN (R.CAM_STR_CFG 63) (1 + 11 * 2 + 31 * 2 ^ 5) with camStrs := [(63, { frame := some {} })] },
    11, 31, 63, {}, by decide +kernel, by decide +kernel, by decide +kernel⟩⟩

theorem witness_EthernetCompletes :
    (∃ (s : State) (port : Nat) (f : EthFrame), s.ethUp port = true ∧ ((s.replaying = true → port ∈ s.recPorts)) ∧ 60 ≤ f.bytes.length ∧ f.bytes.length ≤
    9212 ∧ f.fcsOk = true ∧ (¬(port ∈ s.recPorts ∧ f.bytes.take 5 = sinkMark))) ∧
    ((Config.classOpen [] 7 1000 = true → ∃ (s : State) (port k : Nat) (f : EthFrame), port ≠ 4 ∧ s.ethUp port = true ∧ s.ethNext port = some k ∧ (s.eth
    port).queue[k]? = some f)) ∧
    (∃ (s : State) (port : Nat) (x : Express) (r : List Express), s.ethUp port = true ∧ (s.eth port).express = x :: r) ∧
    (∃ (s : State), s.domainOn 11 = true ∧ s.power.sdsRefOk = true) ∧
    ((Config.gateInterval 1#1024 = 1000 → ∃ (s : State) (port req : Nat), s.domainOn 11 = true ∧ 1000 ≤ gateSum (s.gateList (port % 4) (!(s.eth (port %
    4)).activeB)) ∧ gateSum (s.gateList (port % 4) (!(s.eth (port % 4)).activeB)) ≤ 1000000000 ∧ req + 10000 ≤ s.now)) ∧
    (∃ (s : State) (m t p e : Nat) (v : Dword), s.passes m .write R.ETH_TBL_CMD 4 = true ∧ v.toNat % 4 = 1 ∧ bitsOf v.toNat 1 1 = 0 ∧ s.ethSel = some (t,
    p, e)) ∧
    (∃ (s : State) (m t p e new : Nat) (v : Dword) (x : SMap (BitVec 1024)), s.passes m .write R.ETH_TBL_CMD 4 = true ∧ v.toNat % 4 = 2 ∧ bitsOf v.toNat 1
    1 = 1 ∧ s.ethSel = some (t, p, e) ∧ (¬((t = 2 ∨ t = 3) ∧ ((s.eth p).activeB = decide (t = 3)))) ∧ t ≠ 8 ∧ new = leNat (s.regBytes (R.ETH_TBL_DATA 0)
    16) ∧ x = mset 0#1024 s.ethTables (ethKey t p e) (BitVec.ofNat 1024 (storedEntry t (mget 0#1024 s.ethTables (ethKey t p e)).toNat new))) ∧
    (∃ (s : State) (f : MbFrame) (n : Nat), s.domainOn 11 = true ∧ s.bit R.ETH_CTRL 0 = true ∧ n = s.fld (R.ETH_MB_CFG f.binding) 1 4 ∧ s.mbBound f = true
    ∧ f.startId.toNat = s.regN R.SUP_START_ID ∧ s.bit (R.SUP_MB_STATE n) 0 = false ∧ f.seq.toNat = (s.regN (R.SUP_MB_RSP_SEQ n) + 1) % 2 ^ 32 ∧
    f.seq.toNat ≠ s.regN (R.SUP_MB_RSP_SEQ n)) ∧
    (∃ (s : State) (b : Nat), b ∈ s.ethRsp ∧ s.domainOn 11 = true ∧ s.bit R.ETH_CTRL 0 = true) :=
  ⟨⟨((up 1000).setBit R.ETH_CTRL 0 true).setBit (R.ETH_P_STATUS 3) 0 true, 3, { bytes := List.replicate 60 0#8 }, by decide +kernel, by decide +kernel,
    by decide +kernel, by decide +kernel, by decide +kernel, by decide +kernel⟩,
   fun h => ⟨{ ((up 1000).setBit R.ETH_CTRL 0 true).setBit (R.ETH_P_STATUS 3) 0 true with ethPorts := [(3, { queue := [{ ptp := true }] })] }, 3, 0,
    { ptp := true }, by decide, by decide +kernel, nextOf h, by decide +kernel⟩,
   ⟨{ ((up 1000).setBit R.ETH_CTRL 0 true).setBit (R.ETH_P_STATUS 3) 0 true with ethPorts := [(3, { express := [{}] })] }, 3, {}, [], by decide +kernel,
    by decide +kernel⟩,
   ⟨up 1000, by decide +kernel, by decide +kernel⟩,
   fun h => ⟨{ up 10000 with ethTables := [(ethKey 3 3 0, 1#1024)] }, 3, 0, by decide +kernel, by rw [gateOf h] <;> decide, by rw [gateOf h] <;> decide,
    by decide +kernel⟩,
   ⟨(up 1000).setRegN R.ETH_TBL_SEL 0, 1, 0, 0, 0, 1#64, by decide +kernel, by decide +kernel, by decide +kernel, by decide +kernel⟩,
   ⟨(up 1000).setRegN R.ETH_TBL_SEL 0, 1, 0, 0, 0, _, 2#64, _, by decide +kernel, by decide +kernel, by decide +kernel, by decide +kernel,
    by decide +kernel, by decide +kernel, rfl, rfl⟩,
   ⟨((((up 1000).setBit R.ETH_CTRL 0 true).setRegN (R.ETH_MB_CFG 3) (1 + 15 * 2)).setRegN (R.SUP_MB_OWNER 15) (0x032 + 0x3FF * 2 ^ 16)),
    { binding := 3, mailbox := 15, seq := 1#32 }, 15, by decide +kernel, by decide +kernel, by decide +kernel, by decide +kernel, by decide +kernel,
    by decide +kernel, by decide +kernel, by decide +kernel⟩,
   ⟨{ ((up 1000).setBit R.ETH_CTRL 0 true).setBit (R.ETH_P_STATUS 3) 0 true with ethRsp := [3] }, 3, by decide +kernel, by decide +kernel,
    by decide +kernel⟩⟩

theorem witness_CanCompletes :
    (∃ (s : State) (m n : Nat), s.passes m .write (R.CAN_TX_REQ (n % 8)) 4 = true) ∧
    (∃ (s : State) (n k : Nat), n < 8 ∧ (s.can n).sending = some k) ∧
    (∃ (s : State) (n k : Nat), n < 8 ∧ (s.can n).sending = some k) ∧
    (∃ (s : State) (n k : Nat), n < 8 ∧ s.bit (R.CAN_CTRL n) 0 = false ∧ s.fld (R.CAN_STATUS n) 16 2 < 2 ∧ (s.can n).sending = some k ∧ s.fld (R.CAN_STATUS
    n) 0 8 + 8 ≤ 255) ∧
    (∃ (s : State) (n : Nat), n < 8 ∧ s.fld (R.CAN_STATUS n) 16 2 = 2 ∧ s.bit (R.CAN_CTRL n) 3 = true) ∧
    (∃ (s : State) (m n : Nat) (v : Dword), s.passes m .write (R.CAN_CTRL (n % 8)) 4 = true ∧ v.toNat % 2 = 0 ∧ s.regN (R.CAN_CTRL (n % 8)) % 2 = 1 ∧
    s.canOk (n % 8) v.toNat = true ∧ ((s.setRegN (R.CAN_CTRL (n % 8)) (v.toNat % 2 ^ 10)).canBack (n % 8)).fld (R.CAN_STATUS (n % 8)) 16 2 ≠ 3) ∧
    (∃ (s : State) (m n : Nat) (v : Dword), s.passes m .write (R.CAN_CTRL (n % 8)) 4 = true ∧ v.toNat % 2 = 0 ∧ s.regN (R.CAN_CTRL (n % 8)) % 2 = 0 ∧
    bitsOf v.toNat 6 1 = 1) ∧
    ((Config.canFilter (List.replicate 16 0#8) 5 0 = 1 → ∃ (s t : State) (n k a : Nat) (f : CanFrame), n < 8 ∧ s.bit (R.CAN_CTRL n) 0 = false ∧ s.fld
    (R.CAN_STATUS n) 16 2 < 2 ∧ (f.fd = true → s.bit (R.CAN_CTRL n) 1 = true) ∧ (f.xl = true → s.bit (R.CAN_CTRL n) 2 = true) ∧ s.replaying = false ∧ t =
    (s.setFld (R.CAN_STATUS n) 8 8 (if 127 < s.fld (R.CAN_STATUS n) 8 8 then 127 else s.fld (R.CAN_STATUS n) 8 8 - 1)).canShow n ∧ t.canMatch n f = some
    (k, a) ∧ a ≠ 0)) ∧
    (∃ (s : State) (n : Nat), n < 8 ∧ s.bit (R.CAN_CTRL n) 6 = true ∧ (s.fld (R.CAN_CTRL n) 7 2 = 1 ∨ s.fld (R.CAN_CTRL n) 7 2 = 2)) :=
  ⟨⟨up 1000, 1, 7, by decide +kernel⟩,
   ⟨{ up 1000 with cans := [(7, { sending := some 31 })] }, 7, 31, by decide +kernel, by decide +kernel⟩,
   ⟨{ up 1000 with cans := [(7, { sending := some 31 })] }, 7, 31, by decide +kernel, by decide +kernel⟩,
   ⟨{ (up 1000).setBit (R.CAN_CTRL 7) 0 false with cans := [(7, { sending := some 31 })] }, 7, 31, by decide +kernel, by decide +kernel,
    by decide +kernel, by decide +kernel, by decide +kernel⟩,
   ⟨((up 1000).setFld (R.CAN_STATUS 7) 16 2 2).setBit (R.CAN_CTRL 7) 3 true, 7, by decide +kernel, by decide +kernel, by decide +kernel⟩,
   ⟨((up 1000).setRegN (R.CAN_CTRL 7) 1).setRegN (R.CAN_NBT 7) canTiming, 1, 7, 0#64, by decide +kernel, by decide +kernel, by decide +kernel,
    by decide +kernel, by decide +kernel⟩,
   ⟨(up 1000).setRegN (R.CAN_CTRL 7) 0, 1, 7, 64#64, by decide +kernel, by decide +kernel, by decide +kernel, by decide +kernel⟩,
   fun h => ⟨(up 1000).setBit (R.CAN_CTRL 7) 0 false, _, 7, 0, 1, { id := 5 }, by decide, by decide +kernel, by decide +kernel, nofun, nofun,
    by decide +kernel, rfl, canOf h (by decide +kernel), by decide⟩,
   ⟨((up 1000).setRegN (R.CAN_CTRL 7) (64 + 128)), 7, by decide +kernel, by decide +kernel, by decide +kernel⟩⟩

theorem witness_SensorInputsComplete :
    (∃ (s : State) (j : Nat) (l : List Nat), j < 8 ∧ s.bit (R.SENT_CFG j) 0 = true ∧ s.replaying = false ∧ l.length = s.fld (R.SENT_CFG j) 13 3) ∧
    (∃ (s : State) (j : Nat), j < 8 ∧ s.bit (R.SENT_CFG j) 0 = true ∧ s.regN (R.SENT_SILENT j) ≠ 0 ∧ (s.sent j).silent = false ∧ (s.sent j).validAt + 1000
    * s.regN (R.SENT_SILENT j) ≤ s.age) ∧
    (∃ (s : State) (j t : Nat), j < 4 ∧ s.bit (R.SPI_CFG j) 0 = true ∧ s.regN (R.SPI_PERIOD j) ≠ 0 ∧ t = lastInstant s.now (s.regN (R.SPI_PHASE j)) (s.regN
    (R.SPI_PERIOD j)) ∧ (s.spi j).lastDue ≠ some t) ∧
    (∃ (s t : State) (j n w : Nat) (data : List Byte), j < 4 ∧ (s.spi j).busy = some true ∧ s.replaying = false ∧ n = s.fld (R.SPI_CFG j) 8 9 + 1 ∧ w =
    leNat (data.take 32) % 2 ^ n ∧ t = s.modSpi j (fun x => { x with busy := none }) ∧ t.replaying = false) :=
  ⟨⟨(up 1000).setRegN (R.SENT_CFG 7) (1 + 6 * 2 ^ 13), 7, List.replicate 6 15, by decide +kernel, by decide +kernel, by decide +kernel,
    by decide +kernel⟩,
   ⟨((up 100000).setRegN (R.SENT_CFG 7) 1).setRegN (R.SENT_SILENT 7) 100, 7, by decide +kernel, by decide +kernel, by decide +kernel, by decide +kernel,
    by decide +kernel⟩,
   ⟨((up 10000).setRegN (R.SPI_CFG 3) 1).setRegN (R.SPI_PERIOD 3) 10000, 3, _, by decide +kernel, by decide +kernel, by decide +kernel, rfl,
    by decide +kernel⟩,
   ⟨{ up 1000 with spis := [(3, { busy := some true })] }, _, 3, _, _, [255#8], by decide +kernel, by decide +kernel, by decide +kernel, rfl, rfl, rfl,
    by decide +kernel⟩⟩

theorem witness_PinEventsComplete :
    (∃ (s : State) (p : Nat) (near : List Nat), s.isInput p = true ∧ s.replaying = false ∧ near = ((s.pin p).rejects ++ [s.age]).filter (fun t => decide
    (s.age ≤ t + 4 * s.pinGf p)) ∧ near.length < 3) ∧
    (∃ (s : State) (p : Nat) (level on : Bool), s.isInput p = true ∧ s.replaying = false ∧ on = (level != s.bit (R.GPIO_PIN_CFG p) 31) ∧ (s.pin p).raw = on
    ∧ s.pinChatter p = false ∧ s.pinOn p ≠ on) ∧
    (∃ (s : State) (p : Nat), s.isInput p = true ∧ s.replaying = false ∧ s.pinChatter p = true ∧ (s.pin p).raw = false ∧ (s.pin p).since + s.regN
    (R.GPIO_PIN_CC p) ≤ s.age) ∧
    (∃ (s : State) (p : Nat), s.isInput p = true ∧ s.regN (R.GPIO_PIN_STUCK p) ≠ 0 ∧ s.pinOn p = true ∧ s.bit (R.GPIO_PIN_STATE p) 2 = false ∧ (s.pin
    p).heldAt + ms (s.regN (R.GPIO_PIN_STUCK p)) ≤ s.age) ∧
    (∃ (s : State) (p : Nat), s.isInput p = true ∧ s.bit (R.GPIO_PIN_STATE p) 2 = true ∧ s.pinOn p = false ∧ (s.pin p).heldAt + ms (s.regN (R.GPIO_PIN_SCLR
    p)) ≤ s.age) ∧
    (∃ (s : State) (t : Nat), s.safeDiff = (some t, false) ∧ t + s.regN R.GPIO_SAFE_DISC < s.age) :=
  ⟨⟨up 1000, 34, _, by decide +kernel, by decide +kernel, rfl, by decide +kernel⟩,
   ⟨{ up 1000 with pins := [(34, { raw := true })] }, 34, true, _, by decide +kernel, by decide +kernel, rfl, by decide +kernel, by decide +kernel,
    by decide +kernel⟩,
   ⟨(up 1000).setRegN (R.GPIO_PIN_STATE 34) 2 |>.setRegN (R.GPIO_PIN_CC 34) 1000, 34, by decide +kernel, by decide +kernel, by decide +kernel,
    by decide +kernel, by decide +kernel⟩,
   ⟨((up 1000000).setRegN (R.GPIO_PIN_STATE 34) 1).setRegN (R.GPIO_PIN_STUCK 34) 1, 34, by decide +kernel, by decide +kernel, by decide +kernel,
    by decide +kernel, by decide +kernel⟩,
   ⟨((up 1000000).setRegN (R.GPIO_PIN_STATE 34) 4).setRegN (R.GPIO_PIN_SCLR 34) 1, 34, by decide +kernel, by decide +kernel, by decide +kernel,
    by decide +kernel⟩,
   ⟨{ (up 1001).setRegN R.GPIO_SAFE_DISC 1000 with safeDiff := (some 0, false) }, 0, by decide +kernel, by decide +kernel⟩⟩

theorem witness_ErrorHandlingCompletes :
    (∃ (s : State) (pair : Nat), pair < s.boot.manifest.lockstep ∧ s.harts.getLsbD (2 * pair) = true) ∧
    (∃ (s : State) (u : Nat) (r : ErrRecord) (l : List ErrRecord), takeFrom u s.posting = some (r, l)) ∧
    (∃ (s : State) (r : ErrRecord), s.handled < s.roundNext ∧ s.roundNext ≤ s.now + 800 ∧ s.boot.phase = .done ∧ s.safety.expired = false ∧ State.nextRec
    { s with handled := s.roundNext } = some r) ∧
    (∃ (s : State) (t q : Nat) (x : Nat × Nat) (r : List (Nat × Nat)) (rest : List Search), s.searches = { tile := t, suspects := x :: r, quar := some q }
    :: rest ∧ ((s.jobTiles q 0).any fun u => (s.tile u).hung) = true) ∧
    (∃ (s : State) (u sub c : Nat), s.timedOut u sub = some c) ∧
    (∃ (s : State) (h : Nat), h < 16 ∧ 0 < s.fld (R.HST_WDOG_CFG h) 0 24 ∧ mget 0 s.hartKick h + 1000 * s.fld (R.HST_WDOG_CFG h) 0 24 ≤ s.age) ∧
    (∃ (s : State) (m h : Nat), s.passes m .write (R.HST_WDOG_KICK (h % 16)) 4 = true) :=
  ⟨⟨{ up 1000 with harts := 0x4000#16, boot := { phase := .done, manifest := { lockstep := 8 } } }, 7, by decide +kernel, by decide +kernel⟩,
   ⟨{ up 1000 with posting := [{ source := 2, sev := 1 }] }, 2, { source := 2, sev := 1 }, [], by decide +kernel⟩,
   ⟨{ up 3200 with roundNext := 4000, collector := [{}] }, {}, by decide +kernel, by decide +kernel, by decide +kernel, by decide +kernel,
    by decide +kernel⟩,
   ⟨((ready 31 63 { up 1000 with searches := [{ tile := 5, suspects := [(1, 2)], quar := some 31 }], tiles := [(2047, { hung := true })] }).modJob 31 0
    fun x => { x with blocks := [63] }), 5, 31, (1, 2), [], [], by decide +kernel, by decide +kernel⟩,
   ⟨{ up 1000 with cans := [(7, { sending := some 0 })] }, 0x1B, 7, 0, by decide +kernel⟩,
   ⟨(up 1000).setRegN (R.HST_WDOG_CFG 15) 1, 15, by decide +kernel, by decide +kernel, by decide +kernel⟩,
   ⟨up 1000, 1, 15, by decide +kernel⟩⟩

theorem witness_FabricLinksComplete :
    (∃ (s : State) (m p : Nat) (v : Dword), s.passes m .write (R.BAM_P_CFG (p % 6)) 4 = true ∧ s.bit (R.BAM_P_CFG (p % 6)) 0 = false ∧ putBits v.toNat 0 1
    1 % 2 = 1) ∧
    (∃ (s : State) (p lat : Nat), p < 6 ∧ s.linkState p = 1 ∧ s.domainOn 13 = true ∧ s.power.sdsRefOk = true ∧ lat ≤ 1000) ∧
    (∃ (s : State) (p : Nat), s.linkUp (p % 6) = true) ∧
    (∃ (s : State) (p : Nat), p < 6 ∧ s.linkUp p = true ∧ ((∀ t, (s.bam p).sentAt = some t → t + 10000 ≤ s.age))) ∧
    (∃ (s : State) (p : Nat) (h : Hello), p < 6 ∧ s.linkUp p = true ∧ s.discovery.hellos.any (sameNews h) = false) ∧
    (∃ (s : State), s.bit R.BAM_STATUS 8 = true ∧ s.domainOn 13 = true) ∧
    (∃ (s : State) (p : Nat), p < 6 ∧ s.linkOpen p = true ∧ s.fld R.TW_SRC 0 2 = 2 ∧ s.fld R.BAM_TIME_PORT 0 3 = p) ∧
    (∃ (s : State) (m c producer : Nat) (v : Dword), s.passes m .write (R.BAM_MIR_CFG (c % 32)) 4 = true ∧ v.toNat % 2 = 1 ∧ s.hoExists (bitsOf v.toNat 1
    10) = true ∧ (s.ho (bitsOf v.toNat 1 10)).desc.dstKind = 0 ∧ producer = 0x300 + s.fld R.BAM_STATUS 0 6) ∧
    (∃ (s u : State) (c k seq : Nat), c < 32 ∧ s.mirroring c = true ∧ u = (((State.setHoD { s with mirrors := merase s.mirrors c } (s.fld (R.BAM_MIR_CFG c)
    1 10) 3).setBit (R.BAM_MIR_STATE c) 48 false)) ∧ ((s.ho (s.fld (R.BAM_MIR_CFG c) 1 10)).desc.slotBytes = 0 || u.admits 0x038 .read (slotAddr (s.ho
    (s.fld (R.BAM_MIR_CFG c) 1 10)).desc (mget {} s.mirrors c).slot) (s.ho (s.fld (R.BAM_MIR_CFG c) 1 10)).desc.slotBytes) = true ∧ (mget {} s.mirrors
    c).newer = some (k, seq)) ∧
    (∃ (s : State) (m k tiles : Nat) (v hash : Dword), s.passes m .write (R.BAM_TWIN_CFG (k % 16)) 4 = true ∧ v.toNat % 2 = 1 ∧ tiles = s.tileCount ∧ hash
    = (s.job (bitsOf v.toNat 1 5) (s.osJob (bitsOf v.toNat 17 8))).image.hash) :=
  ⟨⟨up 1000, 1, 5, 1#64, by decide +kernel, by decide +kernel, by decide +kernel⟩,
   ⟨(up 1000).setFld (R.BAM_P_STATUS 5) 0 2 1, 5, 1000, by decide +kernel, by decide +kernel, by decide +kernel, by decide +kernel, by decide +kernel⟩,
   ⟨(up 1000).setFld (R.BAM_P_STATUS 5) 0 2 3, 5, by decide +kernel⟩,
   ⟨(up 1000).setFld (R.BAM_P_STATUS 5) 0 2 3, 5, by decide +kernel, by decide +kernel, by decide +kernel⟩,
   ⟨(up 1000).setFld (R.BAM_P_STATUS 5) 0 2 3, 5, { fp := 1 }, by decide +kernel, by decide +kernel, by decide +kernel⟩,
   ⟨(up 1000).setBit R.BAM_STATUS 8 true, by decide +kernel, by decide +kernel⟩,
   ⟨(((up 1000).setRegN (R.BAM_P_STATUS 5) 0x202).setFld R.TW_SRC 0 2 2).setFld R.BAM_TIME_PORT 0 3 5, 5, by decide +kernel, by decide +kernel,
    by decide +kernel, by decide +kernel⟩,
   ⟨withHo 1023 {} (up 1000), 1, 31, 0x300, BitVec.ofNat 64 (1 + 1023 * 2), by decide +kernel, by decide +kernel, by decide +kernel, by decide +kernel,
    by decide +kernel⟩,
   ⟨{ up 1000 with mirrors := [(31, { newer := some (0, 2) })] }, _, 31, 0, 2, by decide +kernel, by decide +kernel, rfl, by decide +kernel,
    by decide +kernel⟩,
   ⟨up 1000, 1, 15, _, 1#64, _, by decide +kernel, by decide +kernel, rfl, rfl⟩⟩

theorem witness_DiscoveryCompletes :
    (∃ (s : State) (m : Nat) (v : Dword), s.passes m .write R.BAM_CTRL 4 = true ∧ v.toNat % 2 = 1 ∧ bitsOf v.toNat 1 1 = 1) ∧
    (∃ (s : State), s.domainOn 13 = true ∧ s.bit R.BAM_CTRL 0 = true ∧ s.bit R.BAM_STATUS 9 = false) ∧
    (∃ (s : State) (h : Hello), s.bit R.BAM_STATUS 9 = true ∧ s.discovery.lastNew + 1000000 ≤ s.age ∧ s.discovery.sentAt = none ∧ dupFp s.devices = false ∧
    s.devices.length ≤ 64 ∧ s.devices.head? = some h ∧ h.fp = s.fingerprint) ∧
    (∃ (s : State), s.bit R.BAM_STATUS 9 = true ∧ s.discovery.sentAt = none) ∧
    (∃ (s : State) (fp : Nat) (a : List Nat), s.discovery.sentAt.isSome = true ∧ s.discovery.sentTo.any (fun x => decide (x.1 = fp)) = true ∧ a = (if
    s.discovery.acks.contains fp then s.discovery.acks else s.discovery.acks ++ [fp])) ∧
    (∃ (s : State) (r : DiscResult), s.discovery.result = some r ∧ ((s.discovery.sentAt.isSome = true → s.discovery.commit = true))) ∧
    (∃ (s : State) (t : Nat) (x : Nat × DiscResult), s.discovery.sentAt = some t ∧ t + 10000000 ≤ s.age ∧ (s.discovery.sentTo.find? fun x =>
    !(s.discovery.acks.contains x.1)) = some x) :=
  ⟨⟨up 1000, 1, 3#64, by decide +kernel, by decide +kernel, by decide +kernel⟩,
   ⟨(up 1000).setBit R.BAM_CTRL 0 true, by decide +kernel, by decide +kernel, by decide +kernel⟩,
   ⟨(up 1000000).setBit R.BAM_STATUS 9 true, _, by decide +kernel, by decide +kernel, by decide +kernel, by decide +kernel, by decide +kernel, some_of
    (by decide +kernel), by decide +kernel⟩,
   ⟨(up 1000000).setBit R.BAM_STATUS 9 true, by decide +kernel, by decide +kernel⟩,
   ⟨{ up 1000 with discovery := { sentAt := some 0, sentTo := [(5, {})] } }, 5, _, by decide +kernel, by decide +kernel, rfl⟩,
   ⟨{ up 1000 with discovery := { result := some {} } }, {}, by decide +kernel, by decide +kernel⟩,
   ⟨{ up 10000000 with discovery := { sentAt := some 0, sentTo := [(5, {})] } }, 0, (5, {}), by decide +kernel, by decide +kernel, by decide +kernel⟩⟩

theorem witness_ResetLadderCompletes :
    (∃ (s : State) (d : Dump), s.dump = some d ∧ s.dumpTime d.sections ≤ dumpLimit d.scope ∧ d.start + s.dumpTime d.sections ≤ s.age) ∧
    (∃ (s : State) (u sub : Nat) (d : Dump) (l : List Section), s.dump = some d ∧ l = d.sections.map (fun x => if x.unit = u ∧ x.subsource = sub ∧ x.state
    = 0 then { x with state := 1 } else x)) ∧
    (∃ (s : State) (d : Dump), s.dump = some d ∧ dumpLimit d.scope < s.dumpTime d.sections ∧ d.start + dumpLimit d.scope ≤ s.age) ∧
    (∃ (s : State) (k : Nat) (g : Rung), s.rungs[k]? = some g ∧ g.rung ≤ 3 ∧ g.start + rungBound g.rung ≤ s.age) ∧
    (∃ (s : State) (k : Nat) (g : Rung), s.rungs[k]? = some g ∧ g.rung ≤ 3 ∧ s.age ≤ g.start + rungBound g.rung ∧ s.rungOver g = true) ∧
    (∃ (s : State), s.safety.expired = true ∧ s.safety.kickAt + 1000000 + s.s4Hold ≤ s.age ∧ s.chipReset = none) ∧
    (∃ (s : State) (cause t : Nat), s.chipReset = some (cause, t) ∧ t + 2000 ≤ s.age) ∧
    (∃ (s : State), s.boot.phase = .held ∧ s.power.phase = .up ∧ s.fld R.ERR_RESET_CAUSE 0 4 ≠ 0) :=
  ⟨⟨{ up 10000 with dump := some {} }, {}, by decide +kernel, by decide +kernel, by decide +kernel⟩,
   ⟨{ up 10000 with dump := some { sections := [{}] } }, 0, 0, { sections := [{}] }, _, by decide +kernel, rfl⟩,
   ⟨{ up 2000000 with dump := some { sections := List.replicate 20 { state := 1 } } }, { sections := List.replicate 20 { state := 1 } },
    by decide +kernel, by decide +kernel, by decide +kernel⟩,
   ⟨{ up 500000 with rungs := [{ rung := 3 }] }, 0, { rung := 3 }, by decide +kernel, by decide +kernel, by decide +kernel⟩,
   ⟨{ up 10000 with rungs := [{ rung := 1 }] }, 0, { rung := 1 }, by decide +kernel, by decide +kernel, by decide +kernel, by decide +kernel⟩,
   ⟨{ (up 2000000).setRegN R.ERR_S4_HOLD 1 with safety := { expired := true } }, by decide +kernel, by decide +kernel, by decide +kernel⟩,
   ⟨{ up 2000 with chipReset := some (5, 0) }, 5, 0, by decide +kernel, by decide +kernel⟩,
   ⟨{ up 1000 with boot := {} }.setFld R.ERR_RESET_CAUSE 0 4 3, by decide +kernel, by decide +kernel, by decide +kernel⟩⟩

theorem witness_PowerSequenceCompletes :
    (∃ (s : State), s.power.phase = .off) ∧
    (∃ (s : State), s.power.phase = .retry) ∧
    (∃ (s : State), s.power.phase = .shutdown) ∧
    (∃ (s : State) (m : Nat) (v : Dword), s.passes m .write R.PMU_SBY_CTRL 4 = true ∧ v.toNat % 2 = 1 ∧ ((List.range 32).any fun p => decide (s.partState p
    ≠ 0)) = false) ∧
    (∃ (s : State) (p : Power), s.power.phase = .goingDown ∧ s.power.wakeWait = false ∧ p =
    { phase := if s.power.downTo then .standby else .shutdown, order := 0, thermN := s.power.thermN, pwrCycN := s.power.pwrCycN, refOk := s.power.refOk, sdsRefOk := s.power.sdsRefOk }) ∧
    (∃ (s : State), s.power.phase = .standby ∧ s.power.wakeWait = true) :=
  ⟨⟨{ up 0 with power := { phase := .off } }, by decide +kernel⟩,
   ⟨{ up 0 with power := { phase := .retry } }, by decide +kernel⟩,
   ⟨{ up 1000 with power := { phase := .shutdown } }, by decide +kernel⟩,
   ⟨up 1000, 1, 1#64, by decide +kernel, by decide +kernel, by decide +kernel⟩,
   ⟨{ up 1000 with power := { phase := .goingDown } }, _, by decide +kernel, by decide +kernel, rfl⟩,
   ⟨{ up 1000 with power := { phase := .standby, wakeWait := true } }, by decide +kernel, by decide +kernel⟩⟩

theorem witness_BootCompletes :
    (∃ (s : State), s.boot.phase = .held ∧ s.power.phase = .up) ∧
    (∃ (s : State), (s.boot.phase = .waiting ∨ s.boot.phase = .backoff)) ∧
    (∃ (s : State), s.boot.phase = .waiting ∧ s.boot.emmc = none ∧ s.boot.since + 1000000000 ≤ s.age) ∧
    (∃ (s : State), s.boot.phase = .waiting ∧ s.trng = true ∧ 100000000 ≤ s.age) ∧
    (∃ (s : State), s.boot.phase = .backoff ∧ s.boot.since + ms (backoffMs s.attempts) ≤ s.age) ∧
    (∃ (s : State) (t : Nat), s.safety.outside = some t ∧ s.boot.phase = .done ∧ s.bit R.CFG_BOOT_STATUS 5 = false ∧ t + ms (s.regN R.CFG_BOOT_CONFIRM) ≤
    s.age) ∧
    (∃ (s : State), s.bit R.SEC_CTRL 0 = true) ∧
    (∃ (s : State), s.trng = true) ∧
    (∃ (s : State) (m : Nat) (v : Dword), s.passes m .write R.CFG_ATT_CTRL 4 = true ∧ v.toNat % 2 = 1 ∧ s.bit R.CFG_ATT_CTRL 1 = false ∧
    s.boot.manifest.attBase ≤ s.regN R.CFG_ATT_ADDR ∧ s.regN R.CFG_ATT_ADDR + 37072 ≤ s.boot.manifest.attBase + s.boot.manifest.attSize) ∧
    (∃ (s u : State), s.attest.isSome = true ∧ u = { s.store (s.regN R.CFG_ATT_ADDR) (attReport s.attRegion) false with attest := none }) :=
  ⟨⟨State.reset, by decide +kernel, by decide +kernel⟩,
   ⟨{ State.reset with boot := { phase := .waiting } }, by decide +kernel⟩,
   ⟨{ up 1000000000 with boot := { phase := .waiting } }, by decide +kernel, by decide +kernel, by decide +kernel⟩,
   ⟨{ up 100000000 with boot := { phase := .waiting }, trng := true }, by decide +kernel, by decide +kernel, by decide +kernel⟩,
   ⟨{ up 1000000000 with boot := { phase := .backoff } }, by decide +kernel, by decide +kernel⟩,
   ⟨{ (up 1000000000).setRegN R.CFG_BOOT_CONFIRM 1000 with safety := { outside := some 0 } }, 0, by decide +kernel, by decide +kernel, by decide +kernel,
    by decide +kernel⟩,
   ⟨(up 1000).setBit R.SEC_CTRL 0 true, by decide +kernel⟩,
   ⟨{ up 1000 with trng := true }, by decide +kernel⟩,
   ⟨{ up 1000 with boot := { phase := .done, manifest := { attBase := host0, attSize := 37072 } } }.setRegN R.CFG_ATT_ADDR host0, 1, 1#64,
    by decide +kernel, by decide +kernel, by decide +kernel, by decide +kernel, by decide +kernel⟩,
   ⟨{ up 1000 with attest := some 0 }, _, by decide +kernel, rfl⟩⟩

theorem witness_PowerUpkeepCompletes :
    (∃ (s u : State) (l : List Int) (k : Nat) (t : Int), s.power.phase = .up ∧ u = (s.each (List.range 40) fun s k => s.setFld (R.PMU_TSENS k) 0 16
    (ofSigned 16 (l.getD k 0))).each (List.range 40) (fun s k => s.judgeSensor l k) ∧ hottest (u.counting l) = some (k, t)) ∧
    (∃ (s : State), s.power.phase = .up) ∧
    (∃ (s t : State) (k mv lo hi cur : Nat), avsRange k = some (lo, hi) ∧ cur = s.fld (R.PMU_RAIL_CFG k) 8 16 ∧ s.bit (R.PMU_RAIL_CFG k) 24 = true ∧
    s.boot.phase = .done ∧ mget 0 s.power.avsAt k ≤ s.age ∧ (¬(hi ≤ cur ∧ hi < mv)) ∧ t = s.modPower (fun p =>
    { p with avsAt := mset 0 p.avsAt k (s.age + 1000000), avsHeld := mset false p.avsHeld k false })) ∧
    (∃ (s : State) (m d : Nat) (v : Dword), s.passes m .write (R.PMU_D_CTRL (d % 24)) 4 = true ∧ v.toNat % 2 = 1 ∧ (¬(d % 24 = 14 ∧ s.boot.part.grade = 1))
    ∧ s.maySwitch (d % 24) = true ∧ s.rungs = [] ∧ s.bit (R.PMU_D_CTRL (d % 24)) 0 = false) ∧
    (∃ (s : State) (d : Nat), s.fld (R.PMU_D_STATUS (d % 24)) 0 2 = 1) ∧
    (∃ (s : State), s.power.refOk = true) ∧
    (∃ (s : State), s.power.sdsRefOk = true) ∧
    (∃ (s : State), s.power.sdsRefOk = false) :=
  ⟨⟨up 1000, _, List.replicate 40 400, _, _, by decide +kernel, rfl, some_pair_of (by decide +kernel)⟩,
   ⟨up 1000, by decide +kernel⟩,
   ⟨(up 1000).setRegN (R.PMU_RAIL_CFG 15) (850 * 2 ^ 8 + 2 ^ 24), _, 15, 845, 700, 850, _, by decide +kernel, rfl, by decide +kernel, by decide +kernel,
    by decide +kernel, by decide +kernel, rfl⟩,
   ⟨(up 1000).setRegN R.CTL_CTRL 0, 1, 15, 1#64, by decide +kernel, by decide +kernel, by decide +kernel, by decide +kernel, by decide +kernel,
    by decide +kernel⟩,
   ⟨(up 1000).setFld (R.PMU_D_STATUS 15) 0 2 1, 15, by decide +kernel⟩,
   ⟨up 1000, by decide +kernel⟩,
   ⟨up 1000, by decide +kernel⟩,
   ⟨{ up 1000 with power := { sdsRefOk := false } }, by decide +kernel⟩⟩

theorem witness_FreezeAndDebugComplete :
    (∃ (s : State), s.bit R.SNAP_FRZ_CFG 0 = true) ∧
    (∃ (s : State) (f : Nat), s.bit R.SNAP_FRZ_CFG 8 = true ∧ s.now ≤ f) ∧
    (∃ (s : State), s.bit R.SNAP_DBG_STATE 0 = true) ∧
    (∃ (s t u : State), s.bit R.SNAP_FRZ_CTRL 2 = true ∧ s.regN R.SNAP_FRZ_PEND + launchOffset ≤ s.now ∧ t = s.modFrz (fun z =>
    { z with snapshot := s.latchAll, disarmedRun := false, outUntil := some (s.age + fsyncDelay (s.fresh + 16) + 1000) }) ∧ u =
    { t with fresh := t.fresh + 17 }) ∧
    (∃ (s : State) (t : Nat), s.frz.outUntil = some t ∧ t ≤ s.age) ∧
    (∃ (s u : State) (t : Nat), s.frz.readout = some t ∧ s.dump = none ∧ t + ((readoutTimes s.readoutList).2 + 31) / 32 ≤ s.age ∧ u = ((s.writeSnapshot
    (s.timeOf t)).modFrz fun z => { z with readout := none }).setBit R.SNAP_FRZ_CTRL 4 false) ∧
    (∃ (s : State) (m : Nat) (v : Dword), s.passes m .write R.SNAP_FRZ_CTRL 4 = true ∧ v.toNat % 2 = 1 ∧ s.bit R.SNAP_FRZ_CTRL 4 = false) ∧
    (∃ (s t : State), s.dbg.blocked = none ∧ s.trng = false ∧ t = s.modDebug (fun d =>
    { d with nonce := some (nonceFrom s.fresh), counter := (d.counter + 1) % 2 ^ 32 })) ∧
    (∃ (s : State), s.dbg.nonce.isSome = true) ∧
    (∃ (s : State) (t : Nat), s.dbg.blocked = some t ∧ t + 1000000000 ≤ s.age) ∧
    (∃ (s : State) (m : Nat), s.passes m .write R.SNAP_DBG_LOCK 4 = true ∧ s.fld R.SNAP_DBG_STATE 0 4 ≠ 0) ∧
    (∃ (s t : State) (seq : Word) (l : List Byte), s.bit R.SNAP_DBG_STATE 2 = true ∧ s.passes 0x3FF .write (R.SUP_MB_REQ 15) 256 = true ∧ s.writeRequest 15
    0 (l.take 256) = accept t ∧ State.passes (t.answer 0x3FF [] false) 0x3FF .write (R.SUP_MB_REQ_SEQ 15) 4 = true ∧ (t.answer 0x3FF [] false).bit
    (R.SUP_MB_STATE 15) 0 = false ∧ seq.toNat = ((t.answer 0x3FF [] false).regN (R.SUP_MB_RSP_SEQ 15) + 1) % 2 ^ 32) :=
  ⟨⟨(up 1000).setBit R.SNAP_FRZ_CFG 0 true, by decide +kernel⟩,
   ⟨(up 1000).setBit R.SNAP_FRZ_CFG 8 true, 1000, by decide +kernel, by decide +kernel⟩,
   ⟨(up 1000).setBit R.SNAP_DBG_STATE 0 true, by decide +kernel⟩,
   ⟨((up 1000).setBit R.SNAP_FRZ_CTRL 2 true).setRegN R.SNAP_FRZ_PEND 976, _, _, by decide +kernel, by decide +kernel, rfl, rfl⟩,
   ⟨{ up 1000 with frz := { outUntil := some 1000 } }, 1000, by decide +kernel, by decide +kernel⟩,
   ⟨{ up 2000 with frz := { readout := some 0 } }, _, 0, by decide +kernel, by decide +kernel, by decide +kernel, rfl⟩,
   ⟨up 1000, 1, 1#64, by decide +kernel, by decide +kernel, by decide +kernel⟩,
   ⟨up 1000, _, by decide +kernel, by decide +kernel, rfl⟩,
   ⟨{ up 1000 with dbg := { nonce := some 1 } }, by decide +kernel⟩,
   ⟨{ up 1000000000 with dbg := { blocked := some 0 } }, 0, by decide +kernel, by decide +kernel⟩,
   ⟨(up 1000).setRegN R.SNAP_DBG_STATE 15, 1, by decide +kernel, by decide +kernel⟩,
   ⟨(((up 1000).setRegN R.SNAP_DBG_STATE 4).setRegN (R.SUP_MB_OWNER 15) (0x3FF + 0x3FF * 2 ^ 16)).setBit (R.SUP_MB_STATE 15) 1 true, _, 1#32, [],
    by decide +kernel, by decide +kernel, accept_of (by decide +kernel), by decide +kernel, by decide +kernel, by decide +kernel⟩⟩

theorem witness_StepRunsFront : ∃ (s : State) (c : Instr) (q : List Instr), s.pending = c :: q :=
  ⟨{ State.reset with pending := [.healthToggle, .healthToggle] }, .healthToggle, [.healthToggle], rfl⟩

theorem witness_StepIdle :
    (∃ s : State, s.pending = [] ∧ s.bit R.TW_CTRL 0 = true ∧ s.power.refOk = true) ∧
    (∃ s : State, s.pending = [] ∧ ¬(s.bit R.TW_CTRL 0 = true ∧ s.power.refOk = true)) :=
  ⟨⟨up 0, rfl, by decide +kernel, rfl⟩, ⟨State.reset, rfl, by decide +kernel⟩⟩

theorem witness_StepKeepsTidy : ∃ s t : State, s.Tidy ∧ step s = .next t :=
  ⟨State.reset, _, by unfold State.Tidy; decide +kernel, rfl⟩

theorem witness_CommandsKeepQueue : ∃ (c : Instr) (s t : State), exec c s = .next t := ⟨.healthToggle, up 1000, _, rfl⟩

theorem witness_FrameInsideTile : ∃ (s t : State) (c : TCtl) (rel : Nat), s.issues c = true ∧ rel ≤ 3 ∧
    (State.tile (s.enter c) c.tile).stack.length < 8 ∧ exec (.vcmp c rel 0 15) s = .next t :=
  ⟨running pad (up 1000), _, c0, 3, by decide +kernel, by decide, by decide +kernel, rfl⟩

theorem witness_FrameStores :
    (∃ (s t u v : State) (c : TCtl) (k r w a : Nat), s.issues c = true ∧ u = s.enter c ∧
      (u.tile c.tile).walkAt ((u.tile c.tile).ctx k) ((u.tile c.tile).ctx k).step = .inr w ∧ u.Claims c.tile [(c.cyc, w)] v ∧
      exec (.sst c k (.word r)) s = .next t ∧
      (a < spadAddr c.tile (64 * w) / 64 * 64 ∨ spadAddr c.tile (64 * w) / 64 * 64 + 64 ≤ a)) ∧
    (∃ (s t : State) (c : TCtl) (d : Dma) (l : List Dma) (a : Nat), (s.tile c.tile).dmaW = d :: l ∧ exec (.dmaWriteCommit c) s = .next t ∧
      (∀ k < d.data.length, a < dramAddr c.tile ((d.dram + 64 * k) % 0x2000000) / 64 * 64 ∨
        dramAddr c.tile ((d.dram + 64 * k) % 0x2000000) / 64 * 64 + 64 ≤ a) ∧
      (d.bad = .good ∨ a / 1024 ≠ dramAddr c.tile (d.dram / 1024 * 1024) / 1024) ∧
      (d.badHi = .good ∨ a / 1024 ≠ dramAddr c.tile ((d.dram + 64 * d.count - 1) / 1024 % 32768 * 1024) / 1024)) ∧
    (∃ (s t : State) (m a len x : Nat) (d : List Byte) (w : Win), targetOf a = some w ∧ (w = .host ∨ ∃ k, w = .dram k) ∧
      exec (.access m .write a len d false 0) s = .next t ∧ (x < a ∨ a + len ≤ x)) :=
  ⟨⟨running pad (up 1000), _, _, _, c0, 7, 0, 0, spadAddr 0 0 + 64, by decide +kernel, rfl, by decide +kernel, claims_of (by decide +kernel), rfl,
      by decide +kernel⟩,
   ⟨running { dmaW := [{ count := 1, data := [{}] }] } (up 1000), _, { cyc := 1000 }, { count := 1, data := [{}] }, [], 64, by decide +kernel, rfl,
      by decide +kernel, by decide +kernel, by decide +kernel⟩,
   ⟨shared, _, 0x201, host0, 64, host0 + 64, [], .host, by decide +kernel, .inl rfl, rfl, by decide +kernel⟩⟩

theorem witness_FrameQueries : ∃ (s t : State) (n : Nat), s.runs n 0 = true ∧ exec (.nop n) s = .next t :=
  ⟨mb 15 0 [] (up 1000), _, 15, by decide +kernel, rfl⟩

theorem witness_FrameRegisterWrites :
    (∃ (s t : State) (m : Nat) (v : Dword), s.passes m .write R.TW_RATE 4 = true ∧ exec (.twRateWrite m v) s = .next t) ∧
    (∃ (s t : State) (m w : Nat) (v : Dword), w = 7 ∧ s.passes m .write (R.TW_W_BASE (w % 8)) 8 = true ∧ exec (.twWnBaseWrite m w v) s = .next t) ∧
    (∃ (s t : State) (m : Nat) (v : Dword), s.passes m .write R.PMU_FABRIC_LIMIT 4 = true ∧ exec (.pmuFabricLimitWrite m v) s = .next t) :=
  ⟨⟨up 1000, _, 1, 0#64, by decide +kernel, rfl⟩, ⟨up 1000, _, 1, 7, 0#64, rfl, by decide +kernel, rfl⟩,
   ⟨up 1000, _, 1, 0#64, by decide +kernel, rfl⟩⟩

theorem witness_TileNames : ∃ d r c : Nat, d < 4 ∧ r < 16 ∧ c < 32 ∧ d = 3 ∧ r = 15 ∧ c = 31 := ⟨3, 15, 31, by decide⟩

theorem witness_RateIsClipped : ∃ (s : State) (m : Nat), s.passes m .write R.TW_RATE 4 = true ∧
    (∃ v : Dword, toSigned 32 (v.toNat % 2 ^ 32) = 429496) ∧ (∃ v : Dword, toSigned 32 (v.toNat % 2 ^ 32) = -429496) ∧
    (∃ v : Dword, 429496 < toSigned 32 (v.toNat % 2 ^ 32)) ∧ (∃ v : Dword, toSigned 32 (v.toNat % 2 ^ 32) < -429496) :=
  ⟨up 1000, 1, by decide +kernel, ⟨429496#64, by decide⟩, ⟨BitVec.ofNat 64 (2 ^ 32 - 429496), by decide⟩, ⟨429497#64, by decide⟩,
   ⟨BitVec.ofNat 64 (2 ^ 32 - 429497), by decide⟩⟩

theorem witness_DeniedAccess : ∃ (s : State) (m a len : Nat) (k : AccessKind) (t : Win),
    s.windowCheck m a len = .inr t ∧ s.unitGate t k = none ∧
    (s.tableAllows (s.tableOf t a len) m k a len && s.ruleAllows t m k a len) = false :=
  ⟨up 1000, 0x201, host0, 64, .read, .host, by decide +kernel, by decide +kernel, by decide +kernel⟩

theorem witness_UnmappedAccess :
    (∀ a ∈ [0x001400000000, 0x001FFFFFFFFF, 0x002080000000, 0x002FFFFFFFFF, 0x003001000000, 0x7FFFFFFFFFFF, 0xC00000000000],
      (0x001400000000 ≤ a ∧ a < 0x002000000000) ∨ (0x002080000000 ≤ a ∧ a < 0x003000000000) ∨ (0x003001000000 ≤ a ∧ a < 0x800000000000) ∨
      0xC00000000000 ≤ a) ∧
    (∃ a, a < 0x001000000000) ∧ (∃ a, 0x001000000000 ≤ a ∧ a < 0x001400000000) ∧ (∃ a, 0x002000000000 ≤ a ∧ a < 0x002080000000) ∧
    (∃ a, 0x003000000000 ≤ a ∧ a < 0x003001000000) ∧ (∃ a, 0x800000000000 ≤ a ∧ a < 0xC00000000000) :=
  ⟨by decide, ⟨0x000FFFFFFFFF, by decide⟩, ⟨0x0013FFFFFFFF, by decide⟩, ⟨0x00207FFFFFFF, by decide⟩, ⟨0x003000FFFFFF, by decide⟩,
   ⟨0xBFFFFFFFFFFF, by decide⟩⟩

theorem witness_TimeLatch : ∃ (s t : State) (m : Nat), s.passes m .read R.TW_TIME_LO 4 = true ∧ exec (.twTimeLoRead m) s = .next t ∧
    t.passes m .read R.TW_TIME_HI 4 = true ∧ t.passes m .read R.TW_FRAC 4 = true :=
  ⟨up 1000, _, 1, by decide +kernel, rfl, by decide +kernel, by decide +kernel⟩

theorem witness_RecordsCoalesce : ∃ (s t v : State) (u : Nat) (r x : ErrRecord) (l : List ErrRecord),
    takeFrom u s.posting = some (r, l) ∧ v = State.severityActs { s with posting := l } r ∧ x ∈ v.collector ∧ x.acting = false ∧ x.phase = 0 ∧
    (x.source = r.source ∧ x.status = r.status ∧ x.subsource = r.subsource ∧ x.partition = r.partition ∧ x.context = r.context ∧
      x.address = r.address) ∧ exec (.errorRecordArrival u) s = .next t :=
  ⟨{ up 1000 with posting := [{ source := 2, sev := 1 }], collector := [{ source := 2, sev := 1 }] }, _, _, 2, { source := 2, sev := 1 },
    { source := 2, sev := 1 }, [], by decide +kernel, rfl, by decide +kernel, rfl, rfl, by decide, rfl⟩

theorem witness_StepRefusedWhileEnabled :
    (∃ (s : State) (m : Nat) (v : Dword), s.passes m .write R.TW_STEP_GO 4 = true ∧ v.toNat % 2 = 1 ∧ s.anyWheel = true) ∧
    (∃ (s : State) (n : Nat), s.runs n 0x0102 = true ∧ s.anyWheel = true) :=
  ⟨⟨(up 1000).setBit (R.TW_W_CTRL 7) 0 true, 1, 1#64, by decide +kernel, by decide, by decide +kernel⟩,
   ⟨mb 15 0x0102 [0] ((up 1000).setBit (R.TW_W_CTRL 7) 0 true), 15, by decide +kernel, by decide +kernel⟩⟩

/-! ### The manual's own examples -/

/-- "Decoding an address" under R22: the DRAM word and the scratchpad byte of logical tile (2, 5, 19). -/
theorem test_address : targetOf 0x000966001240 = some (.dram 1203) ∧ dramAddr 1203 0x1240 = 0x000966001240 ∧ spadAddr 1203 0x400 = 0x00204B300400 ∧
    targetOf 0x00204B300400 = some (.spad 1203) ∧ targetOf 0x850966001240 = some (.remote 5) ∧ meshRow 1203 = 21 ∧ meshCol 1203 = 19 ∧
    blockOf 1203 = 38 := by decide +kernel

/-- The example under R40: short time 0x100 lies after 0xFFFFFF00. -/
theorem test_short_time : shortLe 0x100 0xFFFFFF00 = false ∧ shortLe 0xFFFFFF00 0x100 = true := by decide +kernel

/-- "Worked access" of the scratchpad: the banks of the words of column 5 of panel 3. -/
theorem test_banks : [3077, 3301, 3909, 3941, 4069].map bankOf = [5, 12, 31, 0, 4] := by decide +kernel

/-- The table "Worked conversions" under R163. -/
theorem test_conversions : (toFloat e4m3 false (f32 0x3E99999A)).1 = 0x2A ∧ (toFloat e4m3 false (f32 0x3F880000)).1 = 0x38 ∧
    (toFloat e4m3 false (f32 0x3F980000)).1 = 0x3A ∧ (toFloat e4m3 true (f32 0x43E80000)).1 = 0x7E ∧
    (toFloat e4m3 false (f32 0x43F00000)).1 = 0x7E ∧ (toFloat e4m3 true (f32 0x43F00000)).1 = 0x7F ∧
    (toFloat e5m2 true (f32 0x476A6000)).1 = 0x7B ∧ (toFloat bf16 true (f32 0x3FC08000)).1 = 0x3FC0 ∧
    (toFloat bf16 true (f32 0x3FC18000)).1 = 0x3FC2 ∧ (toFloat bf16 false (f32 0x7F7FFFFF)).1 = 0x7F7F ∧
    (toFloat bf16 true (f32 0x7F7FFFFF)).1 = 0x7F80 := by decide +kernel

/-- "INT8 activations, per-tensor scale": the reciprocal of the scale, and the elements 12.7, -3.05 and 2.55 with one rounding. -/
theorem test_int8 : rcp32 0x3DCCCCCD = 0x41200000 ∧ (scaleF 5 0x414B3333).1 = 0x3DCCCCCD ∧
    (toInt 8 0 (fpMul (f32 0x414B3333) (f32 0x41200000))).1 = 0x7F ∧ (toInt 8 0 (fpMul (f32 0xC0433333) (f32 0x41200000))).1 = 0xE2 ∧
    (toInt 8 0 (fpMul (f32 0x40233333) (f32 0x41200000))).1 = 0x19 ∧ mul32 0x41C80000 0x3DCCCCCD = 0x40200000 := by decide +kernel

/-- "One MXFP4 block": the scale byte of 60.0, and the codes of 7.5, 5.5, 1.25, -0.375 and 0.1125. -/
theorem test_mxfp4 : (scaleE8 0xB 0x42700000).1 = 0x82 ∧
    ([0x40F00000, 0x40B00000, 0x3FA00000, 0xBEC00000, 0x3DE66666].map fun x => (toFloat e2m1 false (f32 x)).1) = [0x7, 0x7, 0x2, 0x9, 0x0] := by
  decide +kernel

/-- The average pool of "Pooling": 100 over 9, and over 4. -/
theorem test_average : mul32 0x42C80000 (rcp32 0x41100000) = 0x4131C71D ∧ mul32 0x42C80000 (rcp32 0x40800000) = 0x41C80000 := by decide +kernel

/-- The sizes of the border cases and of the transposed example (R197, R198, R210). -/
theorem test_conv_sizes : convDim 0 2 0 0 1 3 1 = 0 ∧ convDim 0 2 3 0 1 3 1 = 3 ∧ convDim 0 2 1 1 1 3 1 = 2 ∧ convDim 1 4 1 2 1 3 2 = 8 := by
  decide +kernel

/-- "The maximum rises in the last block": VEXP of 0, of -200 and of minus infinity. -/
theorem test_vexp : exp32 0 = 0x3F800000 ∧ exp32 0xC3480000 = 0 ∧ exp32 0xFF800000 = 0 := by decide +kernel

/-- The sine table of R307 at 0, a quarter, a half and three quarters. -/
theorem test_sine : [0, 1024, 2048, 3072].map sineEntry = [0, 0x3F800000, 0, 0xBF800000] := by decide +kernel

/-- The example under R337: the shares of Saffron and of the adapter, and the demand after each admission. -/
theorem test_power : powerShare { energy := 20500, width := 4, height := 2 } = 4613 ∧ powerShare { energy := 6000, width := 2 } = 5400 ∧
    demandOf [([8, 9, 10, 11, 12, 13, 14, 15], 4613)] = 36904 ∧
    demandOf [([8, 9, 10, 11, 12, 13, 14, 15], 4613), ([8, 9], 5400)] = 38478 ∧
    demandOf [([8, 9, 10, 11, 12, 13, 14, 15], 4613), ([8, 9], 5400), ([10, 11], 5400)] = 40052 := by decide +kernel

/-- The example under R95: tiles 3 and 20 of row 2 of C1 fail; the shift point is 3, B18 is lost and 2,016 tiles remain. With tile 3 alone
nothing is lost. -/
theorem test_repair :
    (let s := State.repairRow { State.reset with boot := { env := { failTiles := [(1, 2, 3), (1, 2, 20)] } } } 1 2
     s.fld (R.CD_ROW_MAP 1 2) 40 6 = 3 ∧ s.inService 18 = false ∧ s.tileCount = 2016) ∧
    (State.repairRow { State.reset with boot := { env := { failTiles := [(1, 2, 3)] } } } 1 2).tileCount = 2048 := by decide +kernel

/-- The pool of "Shared prefix copied and freed" before step 812. -/
def prefixPool : KvPool :=
  { h := 2, g := 1, s := 16, lmax := 4096
    frames := [(3, { gen := 2 }), (7, { count := 3, gen := 5 }), (9, { count := 3, gen := 0x11 })], free := [(1, [3, 13])] }

/-- Step 812 of that example: the copy 9 to 3 of 8 tokens, the counts of frames 7, 9 and 3, context 41's table and the rows. -/
theorem test_kv_step :
    (let x : KvCtx := { state := 1, len := 24, pt := [(7, 5), (9, 0x11)] }
     let c : SMap KvCtx := [(40, x), (41, x), (42, x)]
     match State.resolve (up 0) 0 812 prefixPool c [{ ctx := 40, n := 1 }, { ctx := 41, op := 1, n := 4 }, { ctx := 42, op := 3 }]
       { q := prefixPool, ctxs := c } with
     | (_, .ok w) => decide (w.copies = [{ src := 9, dst := 3, tokens := 8 }] ∧ (mget {} w.q.frames 7).count = 2 ∧
         (mget {} w.q.frames 9).count = 1 ∧ (mget {} w.q.frames 3).count = 1 ∧ (mget {} w.ctxs 41).pt = [(7, 5), (3, 2)] ∧
         (mget {} w.ctxs 41).len = 28 ∧ w.rows = 5 ∧ (mget {} w.ctxs 42).state = 2)
     | _ => false) = true := by decide +kernel

/-- The SAFE_IN1 example of "Hardened inputs": three rejections within 4 × T_GF enter chatter. -/
theorem test_chatter :
    (match exec (.rawExcursion 33) { up 750 with pins := [(33, { rejects := [150, 450] })] } with
     | .next t => t.pinChatter 33
     | _ => false) = true := by decide +kernel

/-! ### Well-formedness -/

/-- One ill-formed term for each kind of check, each refused, and one well-formed term. -/
theorem test_ill_formed :
    [Instr.access 1024 .read 0 1 [] false 0, .access 1 .read (2 ^ 48) 1 [] false 0, .access 1 .read (2 ^ 48 - 1) 2 [] false 0,
      .access 1 .read 0 0 [] false 0, .access 1 .write 0 1 [] false 0, .access 1 .write 0 1 [0#8, 0#8] false 0, .registerWrite 1 (2 ^ 48) 0#64,
      .wheelPeriodBoundary 8, .launch 0 4096 0, .copyBLaunch 32, .quiesceEnd 0 64, .saveCommit 2048, .handoffWindowClose 1024,
      .twHoPublish 1 1024 0, .twHoPublish 1 0 4, .fsyncPulseEnd 16, .testSlotEnd 64, .deadlineExpiry 256, .half { tile := 2048 },
      .loopd c0 0 64 0, .wload c0 0 0 16, .mstream c0 0 8 0, .aclr c0 1024 0, .vadd c0 16 0 0 false, .qscale c0 16 0, .cdnCetClr 1 4 0#64,
      .pixFrameDone 256 0, .kvPlanPublish 32, .channelEnable 1 8 0#64, .nop 16, .camPortEnable 1 12 0#64, .frameStartPacket 0 32 true,
      .linePacket 0 0 64 [] false false, .ethFrameReceive 4 {}, .frameTransmit 0 16, .canWake 8, .sentMessage 0 16 [] false, .spiInputDue 4,
      .stuckClear 51, .lockstepMismatch 8, .laneLoss 6, .mirrorCopyDone 32 false, .twinWaitExpiry 16, .errorRecordArrival 256,
      .hstWdoghKick 1 16, .railFault 16].all (fun i => !i.wf) = true ∧ (Instr.access 1023 .write (2 ^ 48 - 1) 1 [0#8] false 0).wf = true := by
  decide +kernel

end Sys2Proof.Tests
end

section
/-! PROOFS. The name of a logical tile (R12): its ID is a numeral with the digits die, row and column, and each digit comes back from the ID. -/

namespace Sys2Proof.Machine

variable {d r c : Nat}

/-- The die digit of a tile ID. -/
theorem dieOf_tileId (hr : r < 16) (hc : c < 32) : dieOf (512 * d + 32 * r + c) = d := by
  unfold dieOf
  omega

/-- The row digit of a tile ID, as `blockOf` and `meshRow` read it. -/
theorem tileId_row (hr : r < 16) (hc : c < 32) : (512 * d + 32 * r + c) / 32 % 16 = r := by
  omega

/-- The column digit of a tile ID, as `blockOf` and `meshCol` read it. -/
theorem tileId_col (hc : c < 32) : (512 * d + 32 * r + c) % 32 = c := by
  omega

/-- R12: tile IDs have 11 bits. -/
theorem tileId_lt (hd : d < 4) (hr : r < 16) (hc : c < 32) : 512 * d + 32 * r + c < 2048 := by
  omega

/-- R14. -/
theorem blockOf_tileId (hr : r < 16) (hc : c < 32) : blockOf (512 * d + 32 * r + c) = 16 * d + 4 * (r / 4) + c / 8 := by
  rw [blockOf, ← dieOf, dieOf_tileId hr hc, tileId_row hr hc, tileId_col hc]

/-- R13, the row. -/
theorem meshRow_tileId (hr : r < 16) (hc : c < 32) : meshRow (512 * d + 32 * r + c) = 16 * (d / 2) + r := by
  rw [meshRow, ← dieOf, dieOf_tileId hr hc, tileId_row hr hc]

/-- R13, the column. -/
theorem meshCol_tileId (hr : r < 16) (hc : c < 32) : meshCol (512 * d + 32 * r + c) = 32 * (d % 2) + c := by
  rw [meshCol, ← dieOf, dieOf_tileId hr hc, tileId_col hc]

/-- Settles O52: the block and the mesh place are functions of the three digits of the ID (R12 to R14). -/
theorem tileNames : Obligations.TileNames := by
  intro d r c hd hr hc
  exact ⟨tileId_lt hd hr hc, blockOf_tileId hr hc, meshRow_tileId hr hc, meshCol_tileId hr hc⟩

end Sys2Proof.Machine
end

section
/-! PROOFS. Short times (R39): the model's signed reading of a 32-bit number is the library's. -/

namespace Sys2Proof.Machine

/-- The model's two's complement reading is that of the bit vector with the same low bits. -/
theorem toSigned_succ (w x : Nat) : toSigned (w + 1) x = (BitVec.ofNat (w + 1) x).toInt := by
  have half : x % 2 ^ (w + 1) < 2 ^ w ↔ 2 * (x % 2 ^ (w + 1)) < 2 ^ (w + 1) := by
    rw [Nat.pow_succ]
    omega
  simp only [toSigned, BitVec.toInt, BitVec.toNat_ofNat, Nat.add_sub_cancel, half, Int.natCast_pow, Int.cast_ofNat_Int]

/-- The difference that R39 forms from two short times is the 32-bit difference. -/
theorem ofNat_shortDiff (a b : BitVec 32) :
    BitVec.ofNat 32 (2 ^ 32 + a.toNat % 2 ^ 32 - b.toNat % 2 ^ 32) = a - b := by
  bv_omega

theorem shortLe_eq (a b : BitVec 32) : shortLe a.toNat b.toNat = decide ((a - b).toInt ≤ 0) := by
  rw [shortLe, toSigned_succ, ofNat_shortDiff]

/-- Two short times are equal when their signed difference is 0. -/
theorem toInt_sub_eq_zero_iff (a b : BitVec 32) : (a - b).toInt = 0 ↔ a = b := by
  rw [← BitVec.toInt_zero (w := 32), BitVec.toInt_inj]
  bv_omega

/-- Settles O54: `shortLe` asks whether the signed 32-bit difference is at most 0 (R39). -/
theorem shortTimes : Obligations.ShortTimes := by
  intro a b
  rw [shortLe_eq, ← toInt_sub_eq_zero_iff]
  constructor
  · rw [decide_eq_false_iff_not, Int.not_le]
  · rw [decide_eq_true_iff, Int.le_iff_lt_or_eq]

end Sys2Proof.Machine
end

section
/-! PROOFS. A write of `TW_RATE` (R36): clipping, and the record that a clipped value leaves. -/

namespace Sys2Proof.Machine

theorem clipRate_inside {r : Int} (lo : -rateLimit ≤ r) (hi : r ≤ rateLimit) : clipRate r = r := by
  rw [clipRate, Int.min_eq_right hi, Int.max_eq_right lo]

theorem clipRate_above {r : Int} (h : rateLimit < r) : clipRate r = rateLimit := by
  rw [clipRate, Int.min_eq_left (Int.le_of_lt h)]
  decide

theorem clipRate_below {r : Int} (h : r < -rateLimit) : clipRate r = -rateLimit :=
  Int.max_eq_left (Int.le_trans (Int.min_le_right rateLimit r) (Int.le_of_lt h))

/-- `ST_TIME_RATE_CLIPPED` is in the list of codes of severity S1. -/
theorem mkRec_rateClipped : mkRec ST.TIME_RATE_CLIPPED 0x02 0 =
    { status := ST.TIME_RATE_CLIPPED, sev := 1, source := 0x02, subsource := 0 } := by
  rfl

/-- A value within the limits is stored as it is. -/
theorem actRate_unclipped (s : State) {v : Nat} {r : Int} (e : clipRate (toSigned 32 v) = r) (h : r = toSigned 32 v) :
    actRate s v = accept (s.setRate r) := by
  rw [actRate, e, if_pos h]

/-- A value that clipping changes leaves the limit it is clipped to, and the record of R36. -/
theorem actRate_clipped (s : State) {v : Nat} {r : Int} (e : clipRate (toSigned 32 v) = r) (h : r ≠ toSigned 32 v) :
    actRate s v = accept ((s.setRate r).post
      { status := ST.TIME_RATE_CLIPPED, sev := 1, source := 0x02, subsource := 0 }) := by
  rw [actRate, e, if_neg h, State.postC, mkRec_rateClipped]

/-- Settles O53: the value is clipped, and the record is written when clipping changed it. -/
theorem rateIsClipped : Obligations.RateIsClipped := by
  intro s m v hp
  refine ⟨fun r hr lo hi => ?_, fun h => ?_, fun h => ?_⟩
  · exact congrArg _ (State.regBus_accepts hp _ (actRate_unclipped s (hr ▸ clipRate_inside lo hi) hr))
  · exact congrArg _ (State.regBus_accepts hp _ (actRate_clipped s (clipRate_above h) (Int.ne_of_lt h)))
  · exact congrArg _ (State.regBus_accepts hp _ (actRate_clipped s (clipRate_below h) (Int.ne_of_gt h)))

end Sys2Proof.Machine
end

section
/-! PROOFS. The latches of device time (R37): what a read of `TW_TIME_LO` leaves for its master, and what the next read of
`TW_TIME_HI` or `TW_FRAC` makes of it. -/

namespace Sys2Proof.Machine

@[simp] theorem length_leBytes : ∀ v n : Nat, (leBytes v n).length = n
  | _, 0 => rfl
  | v, n + 1 => congrArg (· + 1) (length_leBytes (v / 256) n)

/-! ### The holding registers -/

/-- A read of `TW_TIME_LO` fills both holding registers of its master. -/
theorem State.latchTime_holds (s : State) (m : Nat) :
    mget {} (s.latchTime m).holds m =
      { hi := BitVec.ofNat 32 (s.now / 2 ^ 32), frac := BitVec.ofNat 32 (s.time.toNat % 2 ^ 32), hiHeld := true, fracHeld := true } := by
  have held : ∀ x y, ({ hi := x, frac := y, hiHeld := true, fracHeld := true } : TimeHold) ≠ {} :=
    fun _ _ h => Bool.noConfusion (congrArg TimeHold.hiHeld h)
  simp only [State.latchTime, mset, if_neg (held _ _), mget_minsert_same]

@[simp] theorem State.loseRec_holds (s : State) : s.loseRec.holds = s.holds := by
  unfold State.loseRec
  simp only
  split <;> simp only [State.incReg_fields]

@[simp] theorem State.post_holds (s : State) (r : ErrRecord) : (s.post r).holds = s.holds := by
  unfold State.post
  split
  · rfl
  · exact s.loseRec_holds

/-- The vote over a TMR word corrects registers and writes a record; the holding registers are neither. -/
@[simp] theorem State.vote_holds (s : State) (a : Nat) : (s.vote a).holds = s.holds := by
  unfold State.vote
  simp only
  split
  · rfl
  · simp only [State.post_holds, State.setReg_fields]

theorem State.pieceValue_timeHi {s : State} {m : Nat} (b : Nat) (h : (mget {} s.holds m).hiHeld = true) :
    s.pieceValue m R.TW_TIME_HI b = (mget {} s.holds m).hi.toNat := by
  have ne : R.TW_TIME_HI ≠ R.TW_TIME_LO := by decide
  simp only [State.pieceValue, if_neg ne, h, if_true]

theorem State.pieceValue_frac {s : State} {m : Nat} (b : Nat) (h : (mget {} s.holds m).fracHeld = true) :
    s.pieceValue m R.TW_FRAC b = (mget {} s.holds m).frac.toNat := by
  have lo : R.TW_FRAC ≠ R.TW_TIME_LO := by decide
  have hi : R.TW_FRAC ≠ R.TW_TIME_HI := by decide
  simp only [State.pieceValue, if_neg lo, if_neg hi, h, if_true]

/-! ### A read of one of the two registers -/

/-- The registers that read from a holding register. -/
def IsHeld (a : Nat) : Prop := a = R.TW_TIME_HI ∨ a = R.TW_FRAC

/-- The piece of a read of a whole 4-byte register with row `r` at `a`. -/
def wordPiece (r : RegRow) (a : Nat) : Piece := { row := some r, first := a, base := a, size := 4, off := 0, len := 4 }

/-- The row under which the register maps list an address. -/
def rowAt (a : Nat) : RegRow := ((regAt a).map Prod.fst).getD default

theorem IsHeld.piecesOf_eq {a : Nat} (h : IsHeld a) : piecesOf 4 a 4 = some [wordPiece (rowAt a) a] := by
  obtain rfl | rfl := h <;> decide +kernel

theorem IsHeld.unitOf_eq {a : Nat} (h : IsHeld a) : unitOf a = 2 := by
  obtain rfl | rfl := h <;> decide

theorem IsHeld.targetOf_eq {a : Nat} (h : IsHeld a) : targetOf a = some (.unit 2) := by
  obtain rfl | rfl := h <;> decide

theorem IsHeld.readable {a : Nat} (h : IsHeld a) : (rowAt a).wo = false := by
  obtain rfl | rfl := h <;> decide +kernel

/-- Unit 0x02 has no ports, so no port mask governs its registers (R371). -/
theorem State.portMaskOf_timeUnit (s : State) (off : Nat) : s.portMaskOf 2 off = none := by
  unfold State.portMaskOf
  rw [if_neg (by omega), if_neg (by omega), if_neg (by omega)]

theorem IsHeld.portPresent {a : Nat} (h : IsHeld a) (s : State) (r : RegRow) : s.portAbsent r a = false := by
  rw [State.portAbsent, h.unitOf_eq, State.portMaskOf_timeUnit, Bool.and_false]

/-- The bytes that a read returns, after the vote that a TMR word takes (R148). -/
theorem State.readPiece_data {s : State} {m a : Nat} {r : RegRow} (hp : s.portAbsent r a = false) (hw : r.wo = false) :
    (s.readPiece m (wordPiece r a)).1 = leBytes ((if r.tmr then s.vote a else s).pieceValue m a a) 4 := by
  simp only [State.readPiece, wordPiece, hp, hw, Bool.false_eq_true, or_self, if_false, List.drop_zero]
  exact List.take_of_length_le (Nat.le_of_eq (length_leBytes _ _))

theorem State.readUnit_held {s : State} {m a : Nat} (h : IsHeld a) :
    (s.readUnit m a 4).1 = leBytes ((if (rowAt a).tmr then s.vote a else s).pieceValue m a a) 4 := by
  simp only [State.readUnit, h.piecesOf_eq, State.readPieces, List.append_nil]
  exact State.readPiece_data (h.portPresent s _) h.readable

/-- An allowed access that reads one of the two registers returns the value that a read finds there. -/
theorem exec_access_held {s : State} {m a : Nat} (e : Nat) (h : IsHeld a) (hp : s.passes m .read a 4 = true) :
    ∃ v, exec (.access m .read a 4 [] false e) s = .next v ∧
      v.reply.data = leBytes ((if (rowAt a).tmr then s.vote a else s).pieceValue m a a) 4 := by
  refine ⟨_, rfl, ?_⟩
  rw [← State.readUnit_held h]
  simp only [State.accessBy, State.local, State.viaBus_passes hp, State.serveRead, h.targetOf_eq, State.answer, reduceCtorEq, if_false]

/-- The vote before a read leaves the holding registers as they were. -/
theorem State.voted_holds (s : State) (a : Nat) (b : Bool) : (if b then s.vote a else s).holds = s.holds := by
  split
  · exact s.vote_holds a
  · rfl

/-- Settles O57: the read of `TW_TIME_LO` fills the master's holding registers, and the later read finds them there. -/
theorem timeLatch : Obligations.TimeLatch := by
  intro s m hp
  refine ⟨(s.latchTime m).answer m (leBytes s.timeLo 4) false, congrArg _ (State.viaBus_passes hp _), rfl, fun u e hu => ?_⟩
  have held := hu.trans (State.latchTime_holds s m)
  refine ⟨fun hpu => ?_, fun hpu => ?_⟩
  · obtain ⟨v, hv, hd⟩ := exec_access_held e (.inl rfl) hpu
    refine ⟨v, hv, hd.trans ?_⟩
    rw [State.pieceValue_timeHi _ (by rw [State.voted_holds, held]), State.voted_holds, held, BitVec.toNat_ofNat]
  · obtain ⟨v, hv, hd⟩ := exec_access_held e (.inr rfl) hpu
    refine ⟨v, hv, hd.trans ?_⟩
    rw [State.pieceValue_frac _ (by rw [State.voted_holds, held]), State.voted_holds, held, BitVec.toNat_ofNat, Nat.mod_mod]

end Sys2Proof.Machine
end

section
/-! PROOFS. The invariant of the machine: every command keeps the queue and the canonical forms, and so does every step. -/

namespace Sys2Proof.Machine

/-- Each command is one meaning, and each meaning keeps the queue and the canonical forms. -/
theorem exec_keeps (c : Instr) (s : State) : KeepsO s (exec c s) := by
  cases c with
  | access => exact execAccess_keeps (kh := .refl s) ..
  | registerWrite => exact execRegisterWrite_keeps (kh := .refl s) ..
  | twTimeLoRead => exact execTwTimeLoRead_keeps (kh := .refl s) ..
  | twStepGo => exact execTwStepGo_keeps (kh := .refl s) ..
  | twRateWrite => exact execTwRateWrite_keeps (kh := .refl s) ..
  | syncReceived => exact execSyncReceived_keeps (kh := .refl s) ..
  | holdoverEntry => exact execHoldoverEntry_keeps (kh := .refl s) ..
  | holdoverExit => exact execHoldoverExit_keeps (kh := .refl s) ..
  | wheelPeriodBoundary => exact execWheelPeriodBoundary_keeps (kh := .refl s) ..
  | twWnBaseWrite => exact execTwWnBaseWrite_keeps (kh := .refl s) ..
  | wheelNop => exact execWheelNop_keeps (kh := .refl s) ..
  | launch => exact execLaunch_keeps (kh := .refl s) ..
  | twinLaunch => exact execTwinLaunch_keeps (kh := .refl s) ..
  | copyBLaunch => exact execCopyBLaunch_keeps (kh := .refl s) ..
  | slice => exact execSlice_keeps (kh := .refl s) ..
  | quiesceEnd => exact execQuiesceEnd_keeps (kh := .refl s) ..
  | saveCommit => exact execSaveCommit_keeps (kh := .refl s) ..
  | restoreEnd => exact execRestoreEnd_keeps (kh := .refl s) ..
  | handoff => exact execHandoff_keeps (kh := .refl s) ..
  | handoffWindowClose => exact execHandoffWindowClose_keeps (kh := .refl s) ..
  | twHoPublish => exact execTwHoPublish_keeps (kh := .refl s) ..
  | fsync => exact execFsync_keeps (kh := .refl s) ..
  | fsyncPulseEnd => exact execFsyncPulseEnd_keeps (kh := .refl s) ..
  | ctlSample => exact execCtlSample_keeps (kh := .refl s) ..
  | solStart => exact execSolStart_keeps (kh := .refl s) ..
  | pixStart => exact execPixStart_keeps (kh := .refl s) ..
  | testSlot => exact execTestSlot_keeps (kh := .refl s) ..
  | chunkDone => exact execChunkDone_keeps (kh := .refl s) ..
  | testSlotEnd => exact execTestSlotEnd_keeps (kh := .refl s) ..
  | coverageLimit => exact execCoverageLimit_keeps (kh := .refl s) ..
  | goldenSlot => exact execGoldenSlot_keeps (kh := .refl s) ..
  | goldenSlotEnd => exact execGoldenSlotEnd_keeps (kh := .refl s) ..
  | deadline => exact execDeadline_keeps (kh := .refl s) ..
  | deadlineExpiry => exact execDeadlineExpiry_keeps (kh := .refl s) ..
  | freeze => exact execFreeze_keeps (kh := .refl s) ..
  | notify => exact execNotify_keeps (kh := .refl s) ..
  | loop => exact execLoop_keeps (kh := .refl s) ..
  | loopd => exact execLoopd_keeps (kh := .refl s) ..
  | endloop => exact execEndloop_keeps (kh := .refl s) ..
  | wait => exact execWait_keeps (kh := .refl s) ..
  | release => exact execRelease_keeps (kh := .refl s) ..
  | half => exact execHalf_keeps (kh := .refl s) ..
  | endOp => exact execEndOp_keeps (kh := .refl s) ..
  | wload => exact execWload_keeps (kh := .refl s) ..
  | mstream => exact execMstream_keeps (kh := .refl s) ..
  | aclr => exact execAclr_keeps (kh := .refl s) ..
  | agset => exact execAgset_keeps (kh := .refl s) ..
  | sld => exact execSld_keeps (kh := .refl s) ..
  | sst => exact execSst_keeps (kh := .refl s) ..
  | drd => exact execDrd_keeps (kh := .refl s) ..
  | dmaReadDelivery => exact execDmaReadDelivery_keeps (kh := .refl s) ..
  | dwr => exact execDwr_keeps (kh := .refl s) ..
  | dmaWriteCommit => exact execDmaWriteCommit_keeps (kh := .refl s) ..
  | ifetch => exact execIfetch_keeps (kh := .refl s) ..
  | drdx => exact execDrdx_keeps (kh := .refl s) ..
  | dwrx => exact execDwrx_keeps (kh := .refl s) ..
  | send => exact execSend_keeps (kh := .refl s) ..
  | sendm => exact execSendm_keeps (kh := .refl s) ..
  | recv => exact execRecv_keeps (kh := .refl s) ..
  | addrecv => exact execAddrecv_keeps (kh := .refl s) ..
  | flitArrival => exact execFlitArrival_keeps (kh := .refl s) ..
  | vadd => exact execVadd_keeps (kh := .refl s) ..
  | vsub => exact execVsub_keeps (kh := .refl s) ..
  | vmul => exact execVmul_keeps (kh := .refl s) ..
  | vfma => exact execVfma_keeps (kh := .refl s) ..
  | vmax => exact execVmax_keeps (kh := .refl s) ..
  | vmin => exact execVmin_keeps (kh := .refl s) ..
  | vabs => exact execVabs_keeps (kh := .refl s) ..
  | vneg => exact execVneg_keeps (kh := .refl s) ..
  | vcmp => exact execVcmp_keeps (kh := .refl s) ..
  | vsel => exact execVsel_keeps (kh := .refl s) ..
  | vmov => exact execVmov_keeps (kh := .refl s) ..
  | amov => exact execAmov_keeps (kh := .refl s) ..
  | vscl2 => exact execVscl2_keeps (kh := .refl s) ..
  | vcvtS => exact execVcvtS_keeps (kh := .refl s) ..
  | vcvtN => exact execVcvtN_keeps (kh := .refl s) ..
  | vdq => exact execVdq_keeps (kh := .refl s) ..
  | qstat => exact execQstat_keeps (kh := .refl s) ..
  | qscale => exact execQscale_keeps (kh := .refl s) ..
  | qconv => exact execQconv_keeps (kh := .refl s) ..
  | vrsum => exact execVrsum_keeps (kh := .refl s) ..
  | vrmax => exact execVrmax_keeps (kh := .refl s) ..
  | vrmaxabs => exact execVrmaxabs_keeps (kh := .refl s) ..
  | vexp => exact execVexp_keeps (kh := .refl s) ..
  | vrcp => exact execVrcp_keeps (kh := .refl s) ..
  | vrsqrt => exact execVrsqrt_keeps (kh := .refl s) ..
  | jobHang => exact execJobHang_keeps (kh := .refl s) ..
  | refreshBeat => exact execRefreshBeat_keeps (kh := .refl s) ..
  | zeroingPassDone => exact execZeroingPassDone_keeps (kh := .refl s) ..
  | dramZeroingDone => exact execDramZeroingDone_keeps (kh := .refl s) ..
  | tmrSweep => exact execTmrSweep_keeps (kh := .refl s) ..
  | cdnCetClr => exact execCdnCetClr_keeps (kh := .refl s) ..
  | pixFrameDone => exact execPixFrameDone_keeps (kh := .refl s) ..
  | pixFrameTimeout => exact execPixFrameTimeout_keeps (kh := .refl s) ..
  | kvPlanPublish => exact execKvPlanPublish_keeps (kh := .refl s) ..
  | solveDequeue => exact execSolveDequeue_keeps (kh := .refl s) ..
  | refactorisationDone => exact execRefactorisationDone_keeps (kh := .refl s) ..
  | iterationDone => exact execIterationDone_keeps (kh := .refl s) ..
  | solDeadline => exact execSolDeadline_keeps (kh := .refl s) ..
  | solvePublish => exact execSolvePublish_keeps (kh := .refl s) ..
  | ctlEvaluation => exact execCtlEvaluation_keeps (kh := .refl s) ..
  | testGeneratorEnd => exact execTestGeneratorEnd_keeps (kh := .refl s) ..
  | ctlTgStart => exact execCtlTgStart_keeps (kh := .refl s) ..
  | channelEnable => exact execChannelEnable_keeps (kh := .refl s) ..
  | channelDisable => exact execChannelDisable_keeps (kh := .refl s) ..
  | partitionShed => exact execPartitionShed_keeps (kh := .refl s) ..
  | partitionUnshed => exact execPartitionUnshed_keeps (kh := .refl s) ..
  | pmuFabricLimitWrite => exact execPmuFabricLimitWrite_keeps (kh := .refl s) ..
  | serviceRound => exact execServiceRound_keeps (kh := .refl s) ..
  | supMbnReqSeq => exact execSupMbnReqSeq_keeps (kh := .refl s) ..
  | nop => exact execNop_keeps (kh := .refl s) ..
  | capGet => exact execCapGet_keeps (kh := .refl s) ..
  | verGet => exact execVerGet_keeps (kh := .refl s) ..
  | mbAssign => exact execMbAssign_keeps (kh := .refl s) ..
  | regRead => exact execRegRead_keeps (kh := .refl s) ..
  | regWrite => exact execRegWrite_keeps (kh := .refl s) ..
  | errRead => exact execErrRead_keeps (kh := .refl s) ..
  | wheelLoad => exact execWheelLoad_keeps (kh := .refl s) ..
  | wheelEnable => exact execWheelEnable_keeps (kh := .refl s) ..
  | wheelDisable => exact execWheelDisable_keeps (kh := .refl s) ..
  | wheelSwap => exact execWheelSwap_keeps (kh := .refl s) ..
  | timeStep => exact execTimeStep_keeps (kh := .refl s) ..
  | hoLanding => exact execHoLanding_keeps (kh := .refl s) ..
  | hoCreate => exact execHoCreate_keeps (kh := .refl s) ..
  | hoDestroy => exact execHoDestroy_keeps (kh := .refl s) ..
  | partCreate => exact execPartCreate_keeps (kh := .refl s) ..
  | partDestroy => exact execPartDestroy_keeps (kh := .refl s) ..
  | imgLoad => exact execImgLoad_keeps (kh := .refl s) ..
  | imgUnload => exact execImgUnload_keeps (kh := .refl s) ..
  | jobAdmit => exact execJobAdmit_keeps (kh := .refl s) ..
  | jobRetire => exact execJobRetire_keeps (kh := .refl s) ..
  | sliceTableLoad => exact execSliceTableLoad_keeps (kh := .refl s) ..
  | partCreditConfig n => exact execPartCreditConfig_keeps n s (.refl s)
  | accWrite => exact execAccWrite_keeps (kh := .refl s) ..
  | accRead => exact execAccRead_keeps (kh := .refl s) ..
  | memCetClear => exact execMemCetClear_keeps (kh := .refl s) ..
  | memRetirePage => exact execMemRetirePage_keeps (kh := .refl s) ..
  | memRetireBank => exact execMemRetireBank_keeps (kh := .refl s) ..
  | memRetireList => exact execMemRetireList_keeps (kh := .refl s) ..
  | kvPoolCreate => exact execKvPoolCreate_keeps (kh := .refl s) ..
  | kvPoolDestroy => exact execKvPoolDestroy_keeps (kh := .refl s) ..
  | kvCtxOpen => exact execKvCtxOpen_keeps (kh := .refl s) ..
  | kvStepOpen => exact execKvStepOpen_keeps (kh := .refl s) ..
  | kvQuery => exact execKvQuery_keeps (kh := .refl s) ..
  | kvPoolResync => exact execKvPoolResync_keeps (kh := .refl s) ..
  | solLoad => exact execSolLoad_keeps (kh := .refl s) ..
  | solConfig => exact execSolConfig_keeps (kh := .refl s) ..
  | solUnload => exact execSolUnload_keeps (kh := .refl s) ..
  | ctlWriteBank => exact execCtlWriteBank_keeps (kh := .refl s) ..
  | ctlBankSwap => exact execCtlBankSwap_keeps (kh := .refl s) ..
  | ctlCaptureRead => exact execCtlCaptureRead_keeps (kh := .refl s) ..
  | pixLoadProgram => exact execPixLoadProgram_keeps (kh := .refl s) ..
  | snapTrigger => exact execSnapTrigger_keeps (kh := .refl s) ..
  | recStart => exact execRecStart_keeps (kh := .refl s) ..
  | recStop => exact execRecStop_keeps (kh := .refl s) ..
  | recStatus => exact execRecStatus_keeps (kh := .refl s) ..
  | recMarker => exact execRecMarker_keeps (kh := .refl s) ..
  | replayLoad => exact execReplayLoad_keeps (kh := .refl s) ..
  | replayStart => exact execReplayStart_keeps (kh := .refl s) ..
  | replayStop => exact execReplayStop_keeps (kh := .refl s) ..
  | replayStatus => exact execReplayStatus_keeps (kh := .refl s) ..
  | replayResume => exact execReplayResume_keeps (kh := .refl s) ..
  | resetReqContext => exact execResetReqContext_keeps (kh := .refl s) ..
  | resetReqEngine => exact execResetReqEngine_keeps (kh := .refl s) ..
  | resetReqPartition => exact execResetReqPartition_keeps (kh := .refl s) ..
  | resetReqChip => exact execResetReqChip_keeps (kh := .refl s) ..
  | resetReqPowerCycle => exact execResetReqPowerCycle_keeps (kh := .refl s) ..
  | camPortEnable => exact execCamPortEnable_keeps (kh := .refl s) ..
  | frameStartPacket => exact execFrameStartPacket_keeps (kh := .refl s) ..
  | linePacket => exact execLinePacket_keeps (kh := .refl s) ..
  | frameEndPacket => exact execFrameEndPacket_keeps (kh := .refl s) ..
  | ethFrameReceive => exact execEthFrameReceive_keeps (kh := .refl s) ..
  | frameTransmit => exact execFrameTransmit_keeps (kh := .refl s) ..
  | expressTransmit => exact execExpressTransmit_keeps (kh := .refl s) ..
  | ethLinkDown => exact execEthLinkDown_keeps (kh := .refl s) ..
  | gateBankSwap => exact execGateBankSwap_keeps (kh := .refl s) ..
  | ethTblRead => exact execEthTblRead_keeps (kh := .refl s) ..
  | ethTblWrite => exact execEthTblWrite_keeps (kh := .refl s) ..
  | mailboxFrame => exact execMailboxFrame_keeps (kh := .refl s) ..
  | mailboxResponseFrame => exact execMailboxResponseFrame_keeps (kh := .refl s) ..
  | cannTxReq => exact execCannTxReq_keeps (kh := .refl s) ..
  | canFrameTransmitted => exact execCanFrameTransmitted_keeps (kh := .refl s) ..
  | canArbitrationLost => exact execCanArbitrationLost_keeps (kh := .refl s) ..
  | canBusError => exact execCanBusError_keeps (kh := .refl s) ..
  | canRecovered => exact execCanRecovered_keeps (kh := .refl s) ..
  | canInitClear => exact execCanInitClear_keeps (kh := .refl s) ..
  | canFrameReceive => exact execCanFrameReceive_keeps (kh := .refl s) ..
  | canSleep => exact execCanSleep_keeps (kh := .refl s) ..
  | canWake => exact execCanWake_keeps (kh := .refl s) ..
  | sentMessage => exact execSentMessage_keeps (kh := .refl s) ..
  | sentSilent => exact execSentSilent_keeps (kh := .refl s) ..
  | spiInputDue => exact execSpiInputDue_keeps (kh := .refl s) ..
  | spiTransferDone => exact execSpiTransferDone_keeps (kh := .refl s) ..
  | rawExcursion => exact execRawExcursion_keeps (kh := .refl s) ..
  | filteredChange => exact execFilteredChange_keeps (kh := .refl s) ..
  | chatterClear => exact execChatterClear_keeps (kh := .refl s) ..
  | stuckLatch => exact execStuckLatch_keeps (kh := .refl s) ..
  | stuckClear => exact execStuckClear_keeps (kh := .refl s) ..
  | safeDiscrepancy => exact execSafeDiscrepancy_keeps (kh := .refl s) ..
  | lockstepMismatch => exact execLockstepMismatch_keeps (kh := .refl s) ..
  | bamPortEnable => exact execBamPortEnable_keeps (kh := .refl s) ..
  | trainingDone => exact execTrainingDone_keeps (kh := .refl s) ..
  | laneLoss => exact execLaneLoss_keeps (kh := .refl s) ..
  | hello => exact execHello_keeps (kh := .refl s) ..
  | helloReceive => exact execHelloReceive_keeps (kh := .refl s) ..
  | discover => exact execDiscover_keeps (kh := .refl s) ..
  | discoveryRun => exact execDiscoveryRun_keeps (kh := .refl s) ..
  | discoveryQuiet => exact execDiscoveryQuiet_keeps (kh := .refl s) ..
  | discoveryResultReceive => exact execDiscoveryResultReceive_keeps (kh := .refl s) ..
  | discoveryCommit => exact execDiscoveryCommit_keeps (kh := .refl s) ..
  | ackTimeout => exact execAckTimeout_keeps (kh := .refl s) ..
  | bamPacketReceive => exact execBamPacketReceive_keeps (kh := .refl s) ..
  | remoteAccessTimeout => exact execRemoteAccessTimeout_keeps (kh := .refl s) ..
  | timeMessageSend => exact execTimeMessageSend_keeps (kh := .refl s) ..
  | timeMessageReceive => exact execTimeMessageReceive_keeps (kh := .refl s) ..
  | mirrorEnable => exact execMirrorEnable_keeps (kh := .refl s) ..
  | mirrorCopyDone => exact execMirrorCopyDone_keeps (kh := .refl s) ..
  | twinBindingEnable => exact execTwinBindingEnable_keeps (kh := .refl s) ..
  | partnerRecord => exact execPartnerRecord_keeps (kh := .refl s) ..
  | twinWaitExpiry => exact execTwinWaitExpiry_keeps (kh := .refl s) ..
  | healthToggle => exact execHealthToggle_keeps (kh := .refl s) ..
  | cfgSafeKick => exact execCfgSafeKick_keeps (kh := .refl s) ..
  | supervisorWatchdog => exact execSupervisorWatchdog_keeps (kh := .refl s) ..
  | amberHoldEnd => exact execAmberHoldEnd_keeps (kh := .refl s) ..
  | holdoverAmber => exact execHoldoverAmber_keeps (kh := .refl s) ..
  | safeRequestRelease => exact execSafeRequestRelease_keeps (kh := .refl s) ..
  | thermalCrimsonExit => exact execThermalCrimsonExit_keeps (kh := .refl s) ..
  | streamEnable => exact execStreamEnable_keeps (kh := .refl s) ..
  | pairWaitExpiry => exact execPairWaitExpiry_keeps (kh := .refl s) ..
  | commitDecision => exact execCommitDecision_keeps (kh := .refl s) ..
  | rereadDone => exact execRereadDone_keeps (kh := .refl s) ..
  | errorRecordArrival => exact execErrorRecordArrival_keeps (kh := .refl s) ..
  | errorHandlerStep => exact execErrorHandlerStep_keeps (kh := .refl s) ..
  | suspectReplayEnd => exact execSuspectReplayEnd_keeps (kh := .refl s) ..
  | engineTimeout => exact execEngineTimeout_keeps (kh := .refl s) ..
  | hartWatchdog => exact execHartWatchdog_keeps (kh := .refl s) ..
  | hstWdoghKick => exact execHstWdoghKick_keeps (kh := .refl s) ..
  | dumpDone => exact execDumpDone_keeps (kh := .refl s) ..
  | snapshotAccessTimeout => exact execSnapshotAccessTimeout_keeps (kh := .refl s) ..
  | dumpCap => exact execDumpCap_keeps (kh := .refl s) ..
  | escalation => exact execEscalation_keeps (kh := .refl s) ..
  | resetDone => exact execResetDone_keeps (kh := .refl s) ..
  | s4HoldExpiry => exact execS4HoldExpiry_keeps (kh := .refl s) ..
  | chipResetApply => exact execChipResetApply_keeps (kh := .refl s) ..
  | resetN => exact execResetN_keeps (kh := .refl s) ..
  | bootStatusTimeout => exact execBootStatusTimeout_keeps (kh := .refl s) ..
  | powerUp => exact execPowerUp_keeps (kh := .refl s) ..
  | railOrderEnable => exact execRailOrderEnable_keeps (kh := .refl s) ..
  | sequenceRetry => exact execSequenceRetry_keeps (kh := .refl s) ..
  | bootStart => exact execBootStart_keeps (kh := .refl s) ..
  | emmcReady => exact execEmmcReady_keeps (kh := .refl s) ..
  | bootAttempt => exact execBootAttempt_keeps (kh := .refl s) ..
  | bootConfirmed => exact execBootConfirmed_keeps (kh := .refl s) ..
  | attestationRequest => exact execAttestationRequest_keeps (kh := .refl s) ..
  | attestationReportDone => exact execAttestationReportDone_keeps (kh := .refl s) ..
  | trngHealthFail => exact execTrngHealthFail_keeps (kh := .refl s) ..
  | trngResume => exact execTrngResume_keeps (kh := .refl s) ..
  | sensorSample => exact execSensorSample_keeps (kh := .refl s) ..
  | hardShutdownRestart => exact execHardShutdownRestart_keeps (kh := .refl s) ..
  | railFault => exact execRailFault_keeps (kh := .refl s) ..
  | avsStep => exact execAvsStep_keeps (kh := .refl s) ..
  | standbyEntry => exact execStandbyEntry_keeps (kh := .refl s) ..
  | wakeEvent => exact execWakeEvent_keeps (kh := .refl s) ..
  | domainSwitch => exact execDomainSwitch_keeps (kh := .refl s) ..
  | domainInService => exact execDomainInService_keeps (kh := .refl s) ..
  | refLoss => exact execRefLoss_keeps (kh := .refl s) ..
  | sdsrefLoss => exact execSdsrefLoss_keeps (kh := .refl s) ..
  | freezeIn => exact execFreezeIn_keeps (kh := .refl s) ..
  | fabricFreezeMessage => exact execFabricFreezeMessage_keeps (kh := .refl s) ..
  | freezeEdge => exact execFreezeEdge_keeps (kh := .refl s) ..
  | freezeOutEnd => exact execFreezeOutEnd_keeps (kh := .refl s) ..
  | snapshotReadoutDone => exact execSnapshotReadoutDone_keeps (kh := .refl s) ..
  | snapArm => exact execSnapArm_keeps (kh := .refl s) ..
  | replayInject => exact execReplayInject_keeps (kh := .refl s) ..
  | debugChallenge => exact execDebugChallenge_keeps (kh := .refl s) ..
  | debugAnswer => exact execDebugAnswer_keeps (kh := .refl s) ..
  | unlockRetryEnd => exact execUnlockRetryEnd_keeps (kh := .refl s) ..
  | debugLock m v => exact execDebugLock_keeps m v s (.refl s)
  | alwaysOnSupplyLoss => exact execAlwaysOnSupplyLoss_keeps (kh := .refl s) ..
  | ethLinkUp => exact execEthLinkUp_keeps (kh := .refl s) ..
  | sdsrefRestored => exact execSdsrefRestored_keeps (kh := .refl s) ..
  | discoveryAcknowledgement => exact execDiscoveryAcknowledgement_keeps (kh := .refl s) ..
  | emmcTimeout => exact execEmmcTimeout_keeps (kh := .refl s) ..
  | bootTrngTimeout => exact execBootTrngTimeout_keeps (kh := .refl s) ..
  | powerDownComplete => exact execPowerDownComplete_keeps (kh := .refl s) ..
  | consoleFrame => exact execConsoleFrame_keeps (kh := .refl s) ..
  | tapFreezeRequest => exact execTapFreezeRequest_keeps (kh := .refl s) ..
  | hostCacheError => exact execHostCacheError_keeps (kh := .refl s) ..

theorem exec_next_keeps {c : Instr} {s t : State} (h : exec c s = .next t) : Keeps s t := by
  have k := exec_keeps c s
  rwa [h] at k

/-- Settles O46: the queue is the part of `Keeps` that speaks of no tidy state. -/
theorem commandsKeepQueue : Obligations.CommandsKeepQueue := by
  intro c s t h
  exact (exec_next_keeps h).1

theorem State.Tidy.setPending {s : State} (h : s.Tidy) (q : List Instr) : State.Tidy { s with pending := q } := h

/-- Settles O45: an idle step advances device time alone, any other is a command on the state with the rest of the queue. -/
theorem stepKeepsTidy : Obligations.StepKeepsTidy := by
  intro s t tidy h
  unfold step at h
  split at h
  · obtain rfl := Host.Outcome.next.inj h
    exact (State.advance_keeps s (.refl s)).2 tidy
  · exact (exec_next_keeps h).2 (tidy.setPending _)

end Sys2Proof.Machine
end

section
/-! PROOFS. Accesses that the bus refuses (R22, R343, R611): outside every window, and denied by a table or a unit's rule. -/

namespace Sys2Proof.Machine

/-! ### The windows -/

theorem targetOf_dram {a : Nat} (h : a < 0x001000000000) : targetOf a = some (.dram (a / 0x2000000)) :=
  if_pos h

theorem targetOf_host {a : Nat} (lo : 0x001000000000 ≤ a) (hi : a < 0x001400000000) : targetOf a = some .host := by
  rw [targetOf, if_neg (by omega), if_pos hi]

theorem targetOf_spad {a : Nat} (lo : 0x002000000000 ≤ a) (hi : a < 0x002080000000) :
    targetOf a = some (.spad ((a - 0x002000000000) / 0x100000)) := by
  rw [targetOf, if_neg (by omega), if_neg (by omega), if_neg (by omega), if_pos hi]

theorem targetOf_unit {a : Nat} (lo : 0x003000000000 ≤ a) (hi : a < 0x003001000000) :
    targetOf a = some (.unit ((a - 0x003000000000) / 0x10000)) := by
  rw [targetOf, if_neg (by omega), if_neg (by omega), if_neg (by omega), if_neg (by omega), if_neg (by omega), if_pos hi]

theorem targetOf_remote {a : Nat} (lo : 0x800000000000 ≤ a) (hi : a < 0xC00000000000) :
    targetOf a = some (.remote ((a - 0x800000000000) / 0x10000000000)) := by
  rw [targetOf, if_neg (by omega), if_neg (by omega), if_neg (by omega), if_neg (by omega), if_neg (by omega), if_neg (by omega),
    if_neg (by omega), if_pos hi]

/-- The gaps between the windows, and what lies above the last one. -/
theorem targetOf_gap {a : Nat} (h : (0x001400000000 ≤ a ∧ a < 0x002000000000) ∨ (0x002080000000 ≤ a ∧ a < 0x003000000000) ∨
    (0x003001000000 ≤ a ∧ a < 0x800000000000) ∨ 0xC00000000000 ≤ a) : targetOf a = none := by
  unfold targetOf
  rcases h with h | h | h | h
  · rw [if_neg (by omega), if_neg (by omega), if_pos (by omega)]
  · rw [if_neg (by omega), if_neg (by omega), if_neg (by omega), if_neg (by omega), if_pos (by omega)]
  · rw [if_neg (by omega), if_neg (by omega), if_neg (by omega), if_neg (by omega), if_neg (by omega), if_neg (by omega), if_pos (by omega)]
  · rw [if_neg (by omega), if_neg (by omega), if_neg (by omega), if_neg (by omega), if_neg (by omega), if_neg (by omega), if_neg (by omega),
      if_neg (by omega)]

theorem State.windowCheck_gap (s : State) (m len : Nat) {a : Nat} (h : targetOf a = none) :
    s.windowCheck m a len = .inl (ST.ADDR_UNMAPPED, 1) := by
  simp only [State.windowCheck, h]

/-- An access that passes the window checks lies in the window of its first byte. -/
theorem State.windowCheck_target {s : State} {m a len : Nat} {t : Win} (h : s.windowCheck m a len = .inr t) : targetOf a = some t := by
  unfold State.windowCheck at h
  split at h
  · cases h
  next w e =>
    rw [e]
    split at h
    · cases h
    · split at h <;> (repeat' split at h) <;> cases h <;> rfl

/-! ### What the bus answers -/

theorem State.viaBus_window {s : State} {m a len u : Nat} {k : AccessKind} {c : Status} (h : s.windowCheck m a len = .inl (c, u))
    (f : State → State × Sum Status (List Byte × Bool)) : s.viaBus m k a len f = s.busFail m k a len c u := by
  simp only [State.viaBus, h]

theorem State.viaBus_denied {s : State} {m a len : Nat} {k : AccessKind} {t : Win} (h : s.windowCheck m a len = .inr t)
    (g : s.unitGate t k = none) (d : (s.tableAllows (s.tableOf t a len) m k a len && s.ruleAllows t m k a len) = false)
    (f : State → State × Sum Status (List Byte × Bool)) : s.viaBus m k a len f = s.busDeny (s.tableOf t a len) m k a len := by
  simp only [State.viaBus, h, g, d, Bool.not_false, if_true]

/-- A remote window has one table and no unit rule. -/
theorem State.remoteAccess_denied {s : State} {m a len n : Nat} {k : AccessKind} {w : Nat} (d : List Byte) (p : Bool)
    (h : s.windowCheck m a len = .inr (.remote w)) (no : s.tableAllows 0x140 m k a len = false) :
    s.remoteAccess m k a len d p n = s.busDeny 0x140 m k a len := by
  simp only [State.remoteAccess, h, no, Bool.not_false, if_true]

theorem State.accessBy_local {s : State} {m a len e : Nat} {k : AccessKind} {d : List Byte} {p : Bool}
    (h : ∀ n, targetOf a ≠ some (.remote n)) : s.accessBy m k a len d p e = s.local m k a len d p e := by
  unfold State.accessBy
  split
  next n e => exact absurd e (h n)
  · rfl

theorem State.accessBy_denied {s : State} {m a len : Nat} {k : AccessKind} {t : Win} (d : List Byte) (p : Bool) (e : Nat)
    (h : s.windowCheck m a len = .inr t) (g : s.unitGate t k = none)
    (no : (s.tableAllows (s.tableOf t a len) m k a len && s.ruleAllows t m k a len) = false) :
    s.accessBy m k a len d p e = s.busDeny (s.tableOf t a len) m k a len := by
  have at_ := State.windowCheck_target h
  cases t with
  | remote n =>
    rw [State.ruleAllows, Bool.and_true] at no
    · simp only [State.accessBy, at_]
      exact State.remoteAccess_denied d p h no
    · exact fun _ c _ => Win.noConfusion c
  | dram _ | host | spad _ | unit _ =>
    rw [State.accessBy_local (by simp [at_])]
    exact State.viaBus_denied h g no _

/-- Settles O55: the denial of R343 is the answer of `busDeny`, whose record has severity 2. -/
theorem deniedAccess : Obligations.DeniedAccess := by
  intro s m a len e k d p t h g no
  exact congrArg Host.Outcome.next (State.accessBy_denied d p e h g no)

/-- Settles O56: outside the windows the first check fails, before any table is asked. -/
theorem unmappedAccess : Obligations.UnmappedAccess := by
  refine ⟨fun s m a len e k d p gap => ?_, fun _ => targetOf_dram, fun _ h => targetOf_host h.1 h.2, fun _ h => targetOf_spad h.1 h.2,
    fun _ h => targetOf_unit h.1 h.2, fun _ h => targetOf_remote h.1 h.2⟩
  have none_ := targetOf_gap gap
  have answer : s.accessBy m k a len d p e = s.busFail m k a len ST.ADDR_UNMAPPED 1 := by
    rw [State.accessBy_local (by simp [none_])]
    exact State.viaBus_window (s.windowCheck_gap m len none_) _
  exact congrArg Host.Outcome.next answer

end Sys2Proof.Machine
end

section
/-! PROOFS. Steps of device time that are refused (R35), and what reports leave alone: records, taps of the recorder and mailbox
responses never touch device time. -/

namespace Sys2Proof.Machine

/-! ### Records -/

/-- A record posted, kept or lost, changes the posting buffer, the overflow mark and the count of lost records. -/
theorem State.post_eq (s : State) (r : ErrRecord) : ∃ q o g m, s.post r = { s with posting := q, overflowed := o, regs := g, tmr := m } := by
  unfold State.post State.loseRec
  split
  · exact ⟨_, _, _, _, rfl⟩
  · simp only
    split <;> exact ⟨_, _, _, _, rfl⟩

@[simp] theorem State.post_time (s : State) (r : ErrRecord) : (s.post r).time = s.time := by
  obtain ⟨q, o, g, m, e⟩ := s.post_eq r
  rw [e]

@[simp] theorem State.postC_time (s : State) (c : Status) (src sub : Nat) : (s.postC c src sub).time = s.time := s.post_time _

@[simp] theorem State.busFail_time (s : State) (m : Nat) (k : AccessKind) (a len : Nat) (c : Status) (u : Nat) :
    (s.busFail m k a len c u).time = s.time := State.post_time _ _

/-! ### The recorder -/

@[simp] theorem ringWrite_time (base size : Nat) : ∀ (l : List Byte) (s : State) (pos : Nat), (ringWrite s base size pos l).time = s.time
  | [], _, _ => rfl
  | b :: r, s, pos => ringWrite_time base size r (s.setByte (base + pos % size) b) (pos + 1)

@[simp] theorem sinkStore_time : ∀ (k : Nat) (s : State) (off : Nat) (l : List Byte), (sinkStore s off k l).time = s.time
  | 0, _, _, _ => rfl
  | k + 1, s, off, l => by
    unfold sinkStore
    split
    · rfl
    · simp only
      split
      · rfl
      · exact sinkStore_time k _ _ _

@[simp] theorem State.recPut_time (s : State) (r : RecItem) : (s.recPut r).time = s.time := by
  unfold State.recPut
  simp only
  split
  · simp only [sinkStore_time, State.setRegN_fields]
  · split <;> simp only [ringWrite_time, State.setBit_fields, State.setRegN_fields]

@[simp] theorem State.recNew_time (s : State) (typ src sub time : Nat) (data : List Byte) :
    (s.recNew typ src sub time data).1.time = s.time := by
  simp only [State.recNew, State.setRegN_fields, State.draw]

@[simp] theorem State.recGap_time (s : State) : s.recGap.time = s.time := by
  unfold State.recGap
  split
  · rfl
  · split <;> simp only [State.postC_time, State.recPut_time, State.recNew_time]

@[simp] theorem State.recLose_time (s : State) (seq : Nat) : (s.recLose seq).time = s.time := by
  simp only [State.recLose, State.setBit_fields, State.incReg_fields]

@[simp] theorem State.recStore_time (s : State) (typ src sub time : Nat) (data : List Byte) :
    (s.recStore typ src sub time data).time = s.time := by
  unfold State.recStore
  simp only
  split
  · split <;> simp only [State.postC_time, State.setBit_fields, State.recPut_time, State.recNew_time, State.recGap_time]
  · simp only [State.recLose_time, State.recNew_time, State.recGap_time]

@[simp] theorem State.tap_time (s : State) (typ : Nat) (cls : Option Nat) (src sub time : Nat) (data : List Byte) :
    (s.tap typ cls src sub time data).time = s.time := by
  unfold State.tap
  repeat' split
  all_goals simp only [State.recStore_time]

/-! ### Responses -/

@[simp] theorem State.setPieces_time : ∀ (l : List Nat) (s : State) (a : Nat), (s.setPieces a l).time = s.time
  | [], _, _ => rfl
  | v :: r, s, a => State.setPieces_time r (s.setRegN a v) (a + 8)

@[simp] theorem State.respond_time (s : State) (n : Nat) (c : Status) (ret : List Byte) : (s.respond n c ret).time = s.time := by
  simp only [State.respond, State.modMbox_fields, State.unlock, State.tap_time]
  split <;> split <;> simp only [State.cmdRecord, State.post_time, State.incReg_fields, State.setFld_fields, State.setRegN_fields,
    State.setRegBytes, State.setPieces_time]

/-! ### The refusals of R35 -/

theorem actStepGo_refused {s : State} {v : Nat} (one : v % 2 = 1) (on : s.anyWheel = true) :
    actStepGo s v = (s, some ST.TIME_STEP_REFUSED) := by
  rw [actStepGo, if_pos one, if_pos on, refuse]

/-- Settles O59: with a wheel enabled the register refuses the write and the command is denied; neither answer touches device time. -/
theorem stepRefusedWhileEnabled : Obligations.StepRefusedWhileEnabled := by
  refine ⟨fun s m v hp one on => ⟨?_, s.busFail_time ..⟩, fun s n runs on => ⟨?_, s.respond_time ..⟩⟩
  · exact congrArg _ (State.regBus_refuses hp _ (actStepGo_refused one on))
  · exact congrArg _ (State.runCmd_now runs rfl _ (by simp only [on, if_true, denied]))

end Sys2Proof.Machine
end

section
/-! PROOFS. Coalescing of error records (R496). -/

namespace Sys2Proof.Machine

/-- What a pending record that absorbs an arrival becomes. -/
def absorbed (now : Nat) (y : ErrRecord) : ErrRecord :=
  { y with rep := min (y.rep + 1) (2 ^ 32 - 1), lastShort := now % 2 ^ 32 }

theorem isPending_iff (r : ErrRecord) : isPending r = true ↔ r.acting = false ∧ r.phase = 0 := by
  simp only [isPending, Bool.and_eq_true, Bool.not_eq_true', decide_eq_true_eq]

theorem sameRecord_iff (a b : ErrRecord) : sameRecord a b = true ↔ a.source = b.source ∧ a.status = b.status ∧
    a.subsource = b.subsource ∧ a.partition = b.partition ∧ a.context = b.context ∧ a.address = b.address :=
  decide_eq_true_iff

@[simp] theorem State.countSev_collector (s : State) (sev : Nat) : (s.countSev sev).collector = s.collector := by
  unfold State.countSev State.errIrq
  split <;> simp only [State.incReg_fields]

/-- A pending record identical to the arrival absorbs it. -/
theorem State.recArrive_coalesces {s v : State} {r x : ErrRecord} (hv : v = s.severityActs r) (hx : x ∈ v.collector)
    (pending : isPending x = true) (same : sameRecord x r = true) : s.recArrive r = v.coalesce r := by
  have found : (v.collector.any fun x => isPending x && sameRecord x r) = true :=
    List.any_eq_true.2 ⟨x, hx, by rw [pending, same, Bool.and_self]⟩
  simp only [State.recArrive, ← hv, found, if_true]

theorem State.coalesce_collector (s : State) (r : ErrRecord) : (s.coalesce r).collector =
    s.collector.map fun y => if isPending y ∧ sameRecord y r then absorbed s.now y else y := by
  simp only [State.coalesce, State.countSev_collector, State.modRecs, shortOf, absorbed]

/-- Settles O58: the arrival is coalesced, and coalescing changes the records that match in the six fields. -/
theorem recordsCoalesce : Obligations.RecordsCoalesce := by
  intro s t v u r x l taken hv hx idle phase same h
  have arrives : exec (.errorRecordArrival u) s = .next (v.coalesce r) := by
    rw [← State.recArrive_coalesces hv hx ((isPending_iff x).2 ⟨idle, phase⟩) ((sameRecord_iff x r).2 same)]
    simp only [exec, execErrorRecordArrival, taken]
  obtain rfl := Host.Outcome.next.inj (arrives.symm.trans h)
  simp only [State.coalesce_collector, isPending_iff, sameRecord_iff, and_assoc, absorbed]

end Sys2Proof.Machine
end

section
/-! PROOFS. The frame of the commands that work inside one tile (R71, R75, R77). -/

namespace Sys2Proof.Machine

variable {k : Nat} {s t u : State}

/-- The registers that a command inside tile `k` may write. -/
def insideRegs (k : Nat) : List Nat := [tStatus k, tCycle k, tChk k, tNum k, R.ERR_OVERFLOW_CNT]

namespace State.InsideTile

theorem refl (k : Nat) (s : State) : InsideTile k s s := ⟨rfl, rfl, fun _ _ => rfl, fun _ _ => rfl, rfl, rfl⟩

theorem trans (h : InsideTile k s t) (g : InsideTile k t u) : InsideTile k s u := by
  obtain ⟨mem, poison, tile, reg, time, kv⟩ := h
  obtain ⟨mem', poison', tile', reg', time', kv'⟩ := g
  exact ⟨mem'.trans mem, poison'.trans poison, fun j hj => (tile' j hj).trans (tile j hj), fun a ha => (reg' a ha).trans (reg a ha),
    time'.trans time, kv'.trans kv⟩

theorem modTile (s : State) (f : Tile → Tile) : InsideTile k s (s.modTile k f) :=
  ⟨rfl, rfl, fun _ hj => mget_mset_ne _ _ _ _ _ _ hj.symm, fun _ _ => rfl, rfl, rfl⟩

theorem setReg {a : Nat} (s : State) (v : Dword) (ha : a ∈ insideRegs k) : InsideTile k s (s.setReg a v) :=
  ⟨rfl, rfl, fun _ _ => rfl, fun _ hb => reg_setReg_ne _ _ _ _ fun e => hb (e ▸ ha), rfl, rfl⟩

theorem setRegN {a : Nat} (s : State) (v : Nat) (ha : a ∈ insideRegs k) : InsideTile k s (s.setRegN a v) := setReg s _ ha

theorem modJob (s : State) (p j : Nat) (f : Job → Job) : InsideTile k s (s.modJob p j f) :=
  ⟨rfl, rfl, fun _ _ => rfl, fun _ _ => rfl, rfl, rfl⟩

/-- A record posted changes the posting buffer, or the count of lost records. -/
theorem post (s : State) (r : ErrRecord) : InsideTile k s (s.post r) := by
  have lost : InsideTile k s (s.incReg R.ERR_OVERFLOW_CNT) := setRegN s _ (by simp [insideRegs])
  unfold State.post State.loseRec
  split
  · exact refl k s
  · simp only
    split
    · exact lost
    · exact lost

theorem postTile (s : State) (c : Status) (t syn : Nat) : InsideTile k s (s.postTile c t syn) := by
  unfold State.postTile
  split
  · exact post _ _
  · exact post _ _

theorem raiseChecks (s : State) (f : BitVec 5) : InsideTile k s (s.raiseChecks k f) := by
  have flags : ∀ v, InsideTile k s (s.setRegN (tChk k) v) := fun v => setRegN s v (by simp [insideRegs])
  unfold State.raiseChecks
  split
  · exact refl k s
  · simp only
    split
    · split
      · exact flags _
      · exact (flags _).trans ((modJob _ _ _ _).trans (postTile _ _ _ _))
    · exact flags _

theorem enter (s : State) (c : TCtl) : InsideTile c.tile s (s.enter c) :=
  (modTile s _).trans ((setRegN _ _ (by simp [insideRegs])).trans ((setRegN _ _ (by simp [insideRegs])).trans (raiseChecks _ _)))

theorem raiseNum (s : State) (f : NumFlags) : InsideTile k s (s.raiseNum k f) := setRegN s _ (by simp [insideRegs])

theorem vecOut (s : State) (vd : Nat) (pred pois : Bool) (out : List Nat) (f : NumFlags) : InsideTile k s (s.vecOut k vd pred pois out f) :=
  (modTile s _).trans (raiseNum _ _)

/-- A word that issues works inside its tile when its effect does. -/
theorem issue {s : State} {c : TCtl} {f : State → State} (h : s.issues c = true) (hf : ∀ u, InsideTile c.tile u (f u)) :
    InsideTile c.tile s (s.issue c f) := by
  rw [State.issue_issues h]
  exact (enter s c).trans (hf _)

variable {c : TCtl}

theorem vec1 (h : s.issues c = true) (vd va : Nat) (pred : Bool) (f : Nat → Nat) : InsideTile c.tile s (s.vec1 c vd va pred f) :=
  issue h fun u => vecOut u ..

theorem vec2 (h : s.issues c = true) (vd va vb : Nat) (pred : Bool) (f : Nat → Nat → Nat) :
    InsideTile c.tile s (s.vec2 c vd va vb pred f) :=
  issue h fun u => vecOut u ..

theorem vecReduce (h : s.issues c = true) (vd va : Nat) (pred : Bool) (f : List Nat → Sum32) :
    InsideTile c.tile s (s.vecReduce c vd va pred f) :=
  issue h fun u => vecOut u ..

/-- A comparison whose code is in range stores the predicate. -/
theorem compare {rel : Nat} (h : s.issues c = true) (hr : rel ≤ 3) (va vb : Nat) (e : exec (.vcmp c rel va vb) s = .next t) :
    InsideTile c.tile s t := by
  obtain rfl := Host.Outcome.next.inj e
  exact issue h fun u => by
    simp only [if_neg (Nat.not_lt.2 hr)]
    exact (modTile u _).trans (raiseNum _ _)

/-- A loop that finds room on the stack opens a level. -/
theorem loop (h : s.issues c = true) (room : ((s.enter c).tile c.tile).stack.length < 8) (n : Nat) (e : exec (.loop c n) s = .next t) :
    InsideTile c.tile s t := by
  obtain rfl := Host.Outcome.next.inj e
  rw [State.loopIssue_issues h, State.openLoop, State.pushLoop, if_neg (Nat.not_le.2 room)]
  exact (enter s c).trans ((modTile _ _).trans (setRegN _ _ (by simp [insideRegs])))

end State.InsideTile

open State (InsideTile)

/-- Settles O48: each of the commands writes its tile, and of the registers only the four of that tile. -/
theorem frameInsideTile : Obligations.FrameInsideTile := by
  intro s t c vd va vb vc n row k rel pred g i h hr room hi e
  simp only [List.mem_cons, List.not_mem_nil, or_false] at hi
  have next : ∀ u, exec i s = .next u → InsideTile c.tile s u → InsideTile c.tile s t := fun u hu hs =>
    Host.Outcome.next.inj (hu.symm.trans e) ▸ hs
  rcases hi with rfl | rfl | rfl | rfl | rfl | rfl | rfl | rfl | rfl | rfl | rfl | rfl | rfl | rfl | rfl | rfl | rfl | rfl | rfl | rfl |
    rfl | rfl
  · exact next _ rfl (.vec2 h ..)
  · exact next _ rfl (.vec2 h ..)
  · exact next _ rfl (.vec2 h ..)
  · exact next _ rfl (.vec2 h ..)
  · exact next _ rfl (.vec2 h ..)
  · exact next _ rfl (.vec1 h ..)
  · exact next _ rfl (.vec1 h ..)
  · exact next _ rfl (.vec1 h ..)
  · exact next _ rfl (.vec1 h ..)
  · exact next _ rfl (.vec1 h ..)
  · exact next _ rfl (.issue h fun u => .vecOut u ..)
  · exact next _ rfl (.issue h fun u => .vecOut u ..)
  · exact .compare h hr va vb e
  · exact next _ rfl (.issue h fun u => .modTile u _)
  · exact next _ rfl (.issue h fun u => .vecOut u ..)
  · exact next _ rfl (.issue h fun u => .vecOut u ..)
  · exact next _ rfl (.vecReduce h ..)
  · exact next _ rfl (.vecReduce h ..)
  · exact next _ rfl (.vecReduce h ..)
  · exact next _ rfl (.issue h fun u => .modTile u _)
  · exact next _ rfl (.issue h fun u => .modTile u _)
  · exact .loop h room n e

end Sys2Proof.Machine
end

section
/-! PROOFS. What storing commands leave unchanged in memory (R76, R84, R107, R131, R135). -/

namespace Sys2Proof.Machine

variable {s t u : State} {x : Nat}

/-- Equal memories have equal bytes. -/
theorem State.byte_congr (h : t.mem = s.mem) (x : Nat) : t.byte x = s.byte x := congrArg (fun m => mget 0#8 m x) h

/-! ### Operations that store nothing -/

@[simp] theorem State.post_mem (s : State) (r : ErrRecord) : (s.post r).mem = s.mem := by
  obtain ⟨q, o, g, m, e⟩ := s.post_eq r
  rw [e]

@[simp] theorem State.mixPoison_mem (a n : Nat) (p : Bool) : ∀ (k : Nat) (s : State) (w : Nat), (s.mixPoison a n p w k).mem = s.mem
  | 0, _, _ => rfl
  | k + 1, s, w => State.mixPoison_mem a n p k (s.setPoison _ _) (w + 1)

@[simp] theorem State.setPieces_mem : ∀ (l : List Nat) (s : State) (a : Nat), (s.setPieces a l).mem = s.mem
  | [], _, _ => rfl
  | v :: r, s, a => State.setPieces_mem r (s.setRegN a v) (a + 8)

@[simp] theorem State.draw_mem (s : State) : s.draw.2.mem = s.mem := rfl

@[simp] theorem State.postMem_mem (s : State) (c : Status) (x : MemEvent) : (s.postMem c x).mem = s.mem := s.post_mem _

@[simp] theorem State.cetRepeat_mem (s : State) (x : MemEvent) (v : Nat) : (s.cetRepeat x v).mem = s.mem := by
  unfold State.cetRepeat
  split <;> simp only [State.postMem_mem]

@[simp] theorem State.setCet_mem (s : State) (d e v : Nat) : (s.setCet d e v).mem = s.mem := s.setPieces_mem ..

@[simp] theorem State.cetAgain_mem (s : State) (x : MemEvent) (e : Nat) : (s.cetAgain x e).mem = s.mem := by
  rw [State.cetAgain, State.cetRepeat_mem]
  split
  · rw [State.postMem_mem, State.setCet_mem]
  · rw [State.setCet_mem]

@[simp] theorem State.cetFirst_mem (s : State) (x : MemEvent) (o : Option Nat) : (s.cetFirst x o).mem = s.mem := by
  cases o with
  | some e => rw [State.cetFirst, State.cetRepeat_mem, State.postMem_mem, State.setCet_mem]
  | none => simp only [State.cetFirst, State.incReg_fields]

@[simp] theorem State.cetNote_mem (s : State) (x : MemEvent) (o : Option Nat) : (s.cetNote x o).mem = s.mem := by
  unfold State.cetNote
  split <;> simp only [State.cetAgain_mem, State.cetFirst_mem]

@[simp] theorem State.memEvent_mem (s : State) (x : MemEvent) : (s.memEvent x).mem = s.mem := by
  simp only [State.memEvent, State.cetNote_mem, State.incReg_fields]

@[simp] theorem State.decodePage_mem (s : State) (t page n : Nat) (scrub : Bool) : (s.decodePage t page n scrub).2.mem = s.mem := by
  unfold State.decodePage
  simp only
  repeat' split
  all_goals simp only [State.memEvent_mem, State.draw_mem]

@[simp] theorem State.decodeAt_mem (s : State) (a e : Nat) : (s.decodeAt a e).2.mem = s.mem := by
  unfold State.decodeAt
  simp only
  repeat' split
  all_goals simp only [State.decodePage_mem, State.memEvent_mem, State.draw_mem]

@[simp] theorem State.touchPage_mem (s : State) (a : Nat) : (s.touchPage a).mem = s.mem := by
  unfold State.touchPage
  split <;> simp only [State.post_mem]

@[simp] theorem State.touchRetired_mem (s : State) (t page : Nat) : (s.touchRetired t page).mem = s.mem := by
  unfold State.touchRetired
  simp only
  split <;> simp only [State.post_mem]

@[simp] theorem State.dramWord_mem (s : State) (t off : Nat) (d : Decoded) : (s.dramWord t off d).2.mem = s.mem := by
  unfold State.dramWord
  split
  · simp only [State.touchRetired_mem]
  · split <;> rfl

@[simp] theorem State.raiseChecks_mem (s : State) (t : Nat) (f : BitVec 5) : (s.raiseChecks t f).mem = s.mem := by
  unfold State.raiseChecks State.postTile
  simp only
  repeat' split
  all_goals simp only [State.post_mem, State.modJob_fields, State.setRegN_fields]

@[simp] theorem State.enter_mem (s : State) (c : TCtl) : (s.enter c).mem = s.mem := by
  simp only [State.enter, State.raiseChecks_mem, State.setFld_fields, State.setRegN_fields, State.modTile_fields]

/-! ### Operations that store bytes -/

theorem State.setBytes_byte : ∀ (l : List Byte) (s : State) (b : Nat), x < b ∨ b + l.length ≤ x → (s.setBytes b l).byte x = s.byte x
  | [], _, _, _ => rfl
  | v :: r, s, b, h => by
    rw [List.length_cons] at h
    rw [State.setBytes, State.setBytes_byte r (s.setByte b v) (b + 1) (by omega), State.byte_setByte_ne _ _ _ _ (by omega)]

theorem State.setLine_byte (s : State) (v : VReg) {a : Nat} (h : x < a / 64 * 64 ∨ a / 64 * 64 + 64 ≤ x) :
    (s.setLine a v).byte x = s.byte x := by
  have stored : (s.setLine a v).mem = (s.setBytes (a / 64 * 64) (leBytes v.data.toNat 64)).mem := rfl
  rw [State.byte_congr stored, State.setBytes_byte _ _ _ (by rwa [length_leBytes])]

theorem State.store_byte (s : State) (p : Bool) {a : Nat} {d : List Byte} (h : x < a ∨ a + d.length ≤ x) :
    (s.store a d p).byte x = s.byte x := by
  unfold State.store
  split
  · rfl
  · rw [State.byte_congr (State.mixPoison_mem ..), State.setBytes_byte _ _ _ h]

theorem State.padWrite_byte (s : State) (v : VReg) {t w : Nat}
    (h : x < spadAddr t (64 * w) / 64 * 64 ∨ spadAddr t (64 * w) / 64 * 64 + 64 ≤ x) : (s.padWrite t w v).byte x = s.byte x := by
  have stored : (s.padWrite t w v).mem = (s.setLine (spadAddr t (64 * w)) v).mem := by simp only [State.padWrite, State.modTile_fields]
  rw [State.byte_congr stored, State.setLine_byte s v h]

theorem State.dramPut_byte (s : State) (v : VReg) {t off : Nat}
    (h : x < dramAddr t off / 64 * 64 ∨ dramAddr t off / 64 * 64 + 64 ≤ x) : (s.dramPut t off v).byte x = s.byte x := by
  unfold State.dramPut
  split
  · exact State.byte_congr (s.touchRetired_mem ..) x
  · exact State.setLine_byte s v h

/-- A fold of operations each of which leaves a byte leaves it. -/
theorem State.each_byte {α : Type} {f : State → α → State} : ∀ (l : List α) (s : State),
    (∀ y ∈ l, ∀ u : State, (f u y).byte x = u.byte x) → (s.each l f).byte x = s.byte x
  | [], _, _ => rfl
  | y :: r, s, h => (State.each_byte r (f s y) fun z hz => h z (List.mem_cons_of_mem _ hz)).trans (h y List.mem_cons_self s)

/-! ### `SST` -/

theorem exec_sst_word {v : State} {c : TCtl} {k r w : Nat} (h : s.issues c = true) (hu : u = s.enter c)
    (walk : (u.tile c.tile).walkAt ((u.tile c.tile).ctx k) ((u.tile c.tile).ctx k).step = .inr w) (claims : u.Claims c.tile [(c.cyc, w)] v) :
    exec (.sst c k (.word r)) s = .next ((v.walkOn c.tile k 1).padWrite c.tile w ((v.tile c.tile).vreg r)) := by
  subst hu
  have issued : exec (.sst c k (.word r)) s = .next (s.issue c fun u => u.storeWord c k r) := rfl
  rw [issued, State.issue_issues h]
  simp only [State.storeWord, walk, State.try', State.claim_claims claims]

/-! ### The commit of a DMA write -/

theorem mem_enumFrom {α : Type} {y : Nat × α} : ∀ {l : List α} {i : Nat}, y ∈ enumFrom i l → i ≤ y.1 ∧ y.1 < i + l.length
  | a :: r, i, h => by
    rcases List.mem_cons.1 h with rfl | h
    · simp
    · have := mem_enumFrom h
      rw [List.length_cons]
      omega

/-- A spoiled page changes inside the page. -/
theorem State.spoilPage_byte (s : State) {t page a n : Nat} {d : Decoded} (h : d = .good ∨ x / 1024 ≠ dramAddr t (page * 1024) / 1024) :
    (s.spoilPage t page a n d).byte x = s.byte x := by
  unfold State.spoilPage
  split
  · rfl
  next bad =>
    have outside := h.resolve_left bad
    refine State.each_byte _ _ fun i hi u => ?_
    have hi := List.mem_range.1 hi
    simp only
    split
    · rfl
    · rw [State.dramPut_byte, State.byte_congr (State.dramWord_mem ..)]
      unfold dramAddr at outside ⊢
      omega

theorem State.storeWrite_byte (s : State) {t : Nat} {d : Dma} (words : ∀ k < d.data.length, x < dramAddr t ((d.dram + 64 * k) % 0x2000000) / 64 * 64 ∨
        dramAddr t ((d.dram + 64 * k) % 0x2000000) / 64 * 64 + 64 ≤ x)
    (first : d.bad = .good ∨ x / 1024 ≠ dramAddr t (d.dram / 1024 * 1024) / 1024)
    (last : d.badHi = .good ∨ x / 1024 ≠ dramAddr t ((d.dram + 64 * d.count - 1) / 1024 % 32768 * 1024) / 1024) :
    (s.storeWrite t d).byte x = s.byte x := by
  rw [State.storeWrite, State.each_byte, State.spoilPage_byte _ last, State.spoilPage_byte _ first]
  intro y hy u
  exact State.dramPut_byte u _ (words y.1 (by have := mem_enumFrom hy; omega))

@[simp] theorem State.genDropped_mem (s : State) (p : Nat) : (s.genDropped p).mem = s.mem := by
  unfold State.genDropped
  simp only
  split <;> simp only [State.post_mem, State.modPart_fields, State.incReg_fields]

theorem State.commitWrite_byte (s : State) {c : TCtl} {d : Dma} (r : List Dma)
    (store : ∀ u : State, (u.storeWrite c.tile d).byte x = u.byte x) : (s.commitWrite c d r).byte x = s.byte x := by
  unfold State.commitWrite
  simp only
  split
  · split
    · exact store _
    · exact State.byte_congr (State.genDropped_mem ..) x
  · rfl

/-! ### A write access -/

/-- The pieces of a range lie in it. -/
theorem mem_pagesIn {y : Nat × Nat} : ∀ {k a n : Nat}, y ∈ pagesIn a k n → a ≤ y.1 ∧ y.1 + y.2 ≤ a + n
  | k + 1, a, n, h => by
    simp only [pagesIn] at h
    split at h
    · cases h
    · rcases List.mem_cons.1 h with rfl | h
      · omega
      · have := mem_pagesIn h
        omega

/-- Storing the pieces of a range in turn, each with the bytes that are left. -/
theorem dramPieces_byte {a n : Nat} {p : Bool} (h : x < a ∨ a + n ≤ x) : ∀ (l : List (Nat × Nat)) (d : List Byte) (s : State),
    (∀ y ∈ l, a ≤ y.1 ∧ y.1 + y.2 ≤ a + n) →
    (l.foldl (fun (z : List Byte × State) y =>
      let (d, s) := z
      (d.drop y.2, if s.pageGone y.1 then s.touchPage y.1 else s.store y.1 (d.take y.2) p)) (d, s)).2.byte x = s.byte x
  | [], _, _, _ => rfl
  | y :: r, d, s, hl => by
    have hy := hl y List.mem_cons_self
    rw [List.foldl_cons, dramPieces_byte h r _ _ fun z hz => hl z (List.mem_cons_of_mem _ hz)]
    split
    · exact State.byte_congr (s.touchPage_mem _) x
    · have := List.length_take_le y.2 d
      exact State.store_byte s p (by omega)

theorem State.dramSet_byte (s : State) (p : Bool) {a : Nat} {d : List Byte} (h : x < a ∨ a + d.length ≤ x) :
    (s.dramSet a d p).byte x = s.byte x :=
  dramPieces_byte h _ d s fun _ hy => mem_pagesIn hy

theorem State.spoilAt_byte (s : State) {a : Nat} {k : Decoded} (h : k = .good ∨ x / 1024 ≠ a / 1024) : (s.spoilAt a k).byte x = s.byte x := by
  unfold State.spoilAt
  split
  · rfl
  next bad =>
    have outside := h.resolve_left bad
    refine State.each_byte _ _ fun i hi u => ?_
    have hi := List.mem_range.1 hi
    exact State.setLine_byte u.draw.2 _ (by omega)

theorem State.decodeAt_noErrors (s : State) (a : Nat) : s.decodeAt a 0 = (.good, s) := by
  rw [State.decodeAt, if_pos (.inl rfl)]

theorem State.dramWrite_byte (s : State) (p : Bool) {a e : Nat} {d : List Byte} (h : x < a ∨ a + d.length ≤ x)
    (page : e = 0 ∨ x / 1024 ≠ a / 1024) : (s.dramWrite a d p e).byte x = s.byte x := by
  unfold State.dramWrite
  simp only
  rw [State.dramSet_byte _ p h]
  split
  · have spoils : (s.decodeAt a e).1 = .good ∨ x / 1024 ≠ a / 1024 := page.imp_left fun e0 => by rw [e0, State.decodeAt_noErrors]
    rw [State.spoilAt_byte _ spoils, State.byte_congr (s.decodeAt_mem a e)]
  · exact State.spoilAt_byte s (.inl rfl)

/-- A refusal stores nothing, so an access leaves every byte that its effect leaves. -/
theorem State.viaBus_byte {m a len : Nat} {k : AccessKind} {f : State → State × Sum Status (List Byte × Bool)}
    (h : (f s).1.byte x = s.byte x) : (s.viaBus m k a len f).byte x = s.byte x := by
  have fails : ∀ (u : State) (c : Status) (n : Nat), (u.busFail m k a len c n).byte x = u.byte x := fun u c n =>
    State.byte_congr (State.post_mem _ _) x
  unfold State.viaBus
  split
  · exact fails ..
  · split
    · split
      · rfl
      · exact fails ..
    · split
      · exact State.byte_congr (by simp only [State.busDeny, State.incReg_fields, State.post_mem, State.errorReply]) x
      · split
        next e => rw [fails, ← h, e]
        next e => rw [← h, e]; rfl

theorem length_fitData (d : List Byte) (len : Nat) : (fitData d len).length = len := by
  simp only [fitData, List.length_take, List.length_append, List.length_replicate]
  omega

theorem State.serveWrite_memory {a : Nat} {w : Win} (m e : Nat) (d : List Byte) (p : Bool) (at_ : targetOf a = some w)
    (hw : w = .host ∨ ∃ k, w = .dram k) : s.serveWrite m a d p e = (s.dramWrite a d p e, .inr ([], false)) := by
  obtain rfl | ⟨k, rfl⟩ := hw <;> simp only [State.serveWrite, at_]

theorem State.local_write_byte {m a len e : Nat} {d : List Byte} {p : Bool} {w : Win} (at_ : targetOf a = some w) (hw : w = .host ∨ ∃ k, w = .dram k)
    (h : x < a ∨ a + len ≤ x) (page : e = 0 ∨ x / 1024 ≠ a / 1024) : (s.local m .write a len d p e).byte x = s.byte x := by
  refine State.viaBus_byte ?_
  rw [if_pos rfl, State.serveWrite_memory m e _ p at_ hw]
  exact State.dramWrite_byte s p (by rwa [length_fitData]) page

/-- Settles O49: each store writes the lines or bytes of its own address computation, and a failed page read spoils its page. -/
theorem frameStores : Obligations.FrameStores := by
  refine ⟨fun s t u v c k r w issues hu walk claims h a out => ?_, fun s t c d l queue h a words first last => ?_,
    fun s t m a len e d p w at_ hw h x out page => ?_⟩
  · obtain rfl := Host.Outcome.next.inj ((exec_sst_word issues hu walk claims).symm.trans h)
    obtain ⟨held, -, rfl⟩ := claims
    rw [State.padWrite_byte _ _ out]
    subst hu
    exact State.byte_congr (State.enter_mem s c) a
  · obtain rfl := Host.Outcome.next.inj h
    simp only [queue]
    split
    · exact State.commitWrite_byte s l fun u => State.storeWrite_byte u words first last
    · rfl
  · obtain rfl := Host.Outcome.next.inj h
    have here : s.accessBy m .write a len d p e = s.local m .write a len d p e := by
      obtain rfl | ⟨k, rfl⟩ := hw <;> simp only [State.accessBy, at_]
    rw [here]
    exact State.local_write_byte at_ hw out page

end Sys2Proof.Machine
end

section
/-! PROOFS. The step of the machine and the state after reset (R38, R443). -/

namespace Sys2Proof.Machine

/-- Settles O41: the step is defined by the front of the queue. -/
theorem stepRunsFront : Obligations.StepRunsFront := by
  intro s c q h
  unfold step
  rw [h]

/-- Settles O42: an idle step is `advance`, which tests `TW_CTRL.RUN` and the reference. -/
theorem stepIdle : Obligations.StepIdle := by
  intro s h
  have e : step s = .next (State.advance s) := by
    unfold step
    rw [h]
    rfl
  rw [e]
  refine ⟨fun hr hp => ?_, fun hn => ?_⟩ <;> unfold State.advance
  · rw [if_pos ⟨hr, hp⟩, State.rate]
  · rw [if_neg hn]

/-- Settles O43: nothing is listed at reset. -/
theorem resetTidy : Obligations.ResetTidy := by
  unfold Obligations.ResetTidy State.Tidy
  decide +kernel

/-- Settles O44: memory lists no byte at reset; the rest is a finite table of registers. -/
theorem resetState : Obligations.ResetState := by
  have hmem : ∀ a, State.reset.byte a = 0#8 := fun _ => rfl
  refine ⟨rfl, by decide +kernel, by decide +kernel, by decide +kernel, hmem, by decide +kernel, by decide +kernel, by decide +kernel,
    rfl, rfl, rfl⟩

end Sys2Proof.Machine
end

section
/-! PROOFS. The shells around a command's own effect, read as answers of `exec`: a wheel entry, a bus access, a register write, a
mailbox command and a tile instruction. -/

namespace Sys2Proof.Machine

/-- An entry that is taken answers its action's own effect. -/
theorem State.onEntry_next {s t v : State} {w e edge action lead : Nat} {d : Due} (h : s.Takes w e edge action lead d t)
    (f : State → Due → State) (hf : f t d = v) : ok (s.onEntry w e edge action lead f) = .next v := by
  rw [State.onEntry_takes h, hf]

/-- A read that the bus lets through and the unit serves. -/
theorem State.viaBus_next {s t : State} {m a len : Nat} {k : AccessKind} {data : List Byte} {p : Bool}
    (h : s.passes m k a len = true) (f : State → State × Sum Status (List Byte × Bool)) (hf : f s = (t, .inr (data, p))) :
    ok (s.viaBus m k a len f) = .next (t.answer m data p) := by
  rw [State.viaBus_passes h, hf]

/-- A register write that the bus lets through and the register accepts. -/
theorem State.regBus_next {s t : State} {m a len : Nat} (h : s.passes m .write a len = true)
    (f : State → State × Option Status) (hf : f s = accept t) : ok (s.regBus m a len f) = .next (t.answer m [] false) := by
  rw [State.regBus_accepts h f hf]

/-- A mailbox command that answers at once. -/
theorem State.runCmd_next {s t : State} {n code : Nat} {pick : Bool} {c : Status} {ret : List Byte} (h : s.runs n code = true)
    (p : pick = true) (f : State → State × Done) (hf : f s = (t, .now c ret)) :
    ok (s.runCmd n code pick f) = .next (t.respond n c ret) := by
  rw [State.runCmd_now h p f hf]

/-- A mailbox command that leaves its mailbox waiting. -/
theorem State.runCmd_waits {s t : State} {n code : Nat} {pick : Bool} (h : s.runs n code = true)
    (p : pick = true) (f : State → State × Done) (hf : f s = (t, .later)) :
    ok (s.runCmd n code pick f) = .next (t.modMbox n fun m => { m with waiting := true }) := by
  rw [State.runCmd_later h p f hf]

/-- A tile instruction that issues answers its own effect behind the issue. -/
theorem State.issue_next {s v : State} {c : TCtl} (h : s.issues c = true) (f : State → State) (hf : f (s.enter c) = v) :
    ok (s.issue c f) = .next v := by
  rw [State.issue_issues h, hf]

/-- A loop instruction that issues answers its own effect behind the issue. -/
theorem State.loopIssue_next {s v : State} {c : TCtl} (h : s.issues c = true) (f : State → State) (hf : f (s.enter c) = v) :
    ok (s.loopIssue c f) = .next v := by
  rw [State.loopIssue_issues h, hf]

end Sys2Proof.Machine
end

section
/-! PROOFS. Wheel entries that act at once: launches, slices, handoffs, freezes, deadlines, pulses and notifications (R48, R54,
R58 to R68, R311, R317, R323 to R329). -/

namespace Sys2Proof.Machine

theorem State.freezeReq_enabled {s : State} {i : Nat} (h : s.bit R.SNAP_FRZ_CFG i = true) (src t : Nat) :
    s.freezeReq src (some i) t = s.freezeAt src (s.fld R.BAM_STATUS 0 6) (s.freezeLead t) := by
  simp only [State.freezeReq, h, if_true]

theorem State.armDeadline_arms {s : State} {d : Due}
    (h : ¬(s.bit (R.TW_OS_STATUS (d.entry.index % 256)) 0 = true ∧ d.due < s.regN (R.TW_OS_DEADLINE (d.entry.index % 256)))) :
    s.armDeadline d = (s.setRegN (R.TW_OS_DEADLINE (d.entry.index % 256)) (d.due + d.entry.arg)).setBit
      (R.TW_OS_STATUS (d.entry.index % 256)) 0 true := by
  unfold State.armDeadline
  rw [if_neg h]

theorem State.fireHandoff_opens {s : State} {d : Due} (he : s.hoExists (d.entry.index % 1024) = true)
    (hk : (s.ho (d.entry.index % 1024)).desc.dstKind = 1) (hl : s.hoLists (s.ho (d.entry.index % 1024)).desc = true)
    (hw : s.windowOpen (d.entry.index % 1024) = false)
    (hb : (s.hoParts (s.ho (d.entry.index % 1024)).desc).any s.partBusy = false)
    (hr : s.replayHandoff (d.entry.index % 1024) d.due = none) :
    s.fireHandoff d =
      s.openWindow (d.entry.index % 1024) d.due (s.freshPick (d.entry.index % 1024) d.due d.entry.arg) := by
  simp [State.fireHandoff, he, hk, hl, hw, hb, hr]

/-- A launch that nothing holds back starts the job. -/
theorem State.tryLaunch_starts {s : State} {d : Due} {p j slice : Nat} {golden : Bool} (hl : s.launchable p j = true)
    (hw : s.windowInto p = false) (hc : s.commitInto p = false) (hh : s.isHeld p = false) (hk : s.launchCheck p j slice = none)
    (hs : s.isShed p = false) : s.tryLaunch d p j slice golden = (true, s.startJob p j golden) := by
  simp [State.tryLaunch, hl, hw, hc, hh, hk, hs]

/-- Both copies of a twin launch that nothing withholds: copy A starts, copy B waits for its own edge. -/
theorem State.fireTwin_launches {s u : State} {d : Due} (hd : s.pairedDies (d.entry.index % 32) (d.entry.arg2 % 32) = true)
    (ha : s.withheld (d.entry.index % 32) (d.entry.arg % 64) = none)
    (hu : s.tryLaunch d (d.entry.index % 32) (d.entry.arg % 64) (s.jobSlice (d.entry.index % 32) (d.entry.arg % 64)) false = (true, u))
    (hb : u.withheld (d.entry.arg2 % 32) (d.entry.arg % 64) = none) :
    s.fireTwin d = { u with copyB := u.copyB ++ [(d, d.entry.arg2 % 32, d.entry.arg % 64)] } := by
  simp [State.fireTwin, hd, ha, hu, hb]

theorem State.fireSlice_switches {s : State} {d : Due} (hp : s.partState (d.entry.index % 32) = 2)
    (hw : s.windowInto (d.entry.index % 32) = false) (hc : s.commitInto (d.entry.index % 32) = false)
    (hh : s.isHeld (d.entry.index % 32) = false) (hs : s.inSwitch (d.entry.index % 32) = false)
    (he : ((s.sliceSwap (d.entry.index % 32)).sliceEntry (d.entry.index % 32) (d.entry.arg % 8)).1 = true) :
    ∃ u, u = (s.sliceSwap (d.entry.index % 32)).setFld (R.ACC_P_STATUS (d.entry.index % 32)) 6 3 (d.entry.arg % 8) ∧
      s.fireSlice d = ((u.each (u.partBlocks (d.entry.index % 32)) fun v b => v.chunkAbort b true).creditCheck
        (d.entry.index % 32)).switchJobs (d.entry.index % 32) (d.entry.arg % 8) := by
  refine ⟨_, rfl, ?_⟩
  simp [State.fireSlice, hp, hw, hc, hh, hs, he]

/-- Settles O1: each entry is taken (`onEntry_next`) and its action finds its own case. -/
theorem wheelEntriesComplete : Obligations.WheelEntriesComplete := by
  refine ⟨?nop, ?notify, ?freeze, ?deadline, ?fsync, ?handoff, ?launch, ?twin, ?slice⟩
  case nop => exact fun s t d w e edge h => State.onEntry_next h _ rfl
  case notify => exact fun s t d w e edge h => State.onEntry_next h _ rfl
  case freeze => exact fun s t d w e edge h hb => State.onEntry_next h _ (State.freezeReq_enabled hb _ _)
  case deadline => exact fun s t d w e edge h hn => State.onEntry_next h _ (State.armDeadline_arms hn)
  case fsync => exact fun s t d w e edge h hu => State.onEntry_next h _ (State.ifPowered_served hu _)
  case handoff =>
    intro s t d w e edge h he hk hl hw hb hr
    refine State.onEntry_next h _ ?_
    simpa [hk] using State.fireHandoff_opens he hk hl hw hb hr
  case launch =>
    intro s t d w e edge h hl hw hc hh hk hs
    refine State.onEntry_next h _ ?_
    rw [State.tryLaunch_starts hl hw hc hh hk hs]
  case twin =>
    intro s t u d w e edge h hd ha hu hb
    exact State.onEntry_next h _ (State.fireTwin_launches hd ha hu hb)
  case slice =>
    intro s t d w e edge h hp hw hc hh hs he
    obtain ⟨u, hu, hf⟩ := State.fireSlice_switches hp hw hc hh hs he
    exact ⟨u, hu, State.onEntry_next h _ hf⟩

end Sys2Proof.Machine
end

section
/-! PROOFS. Wheel entries that start samples, solves, pixel programs and tests, and the course of the test slots (R48, R218, R281,
R295, R299, R473 to R483). -/

namespace Sys2Proof.Machine

theorem State.fireSol_queues {u : State} {d : Due} (hl : u.solLoaded (d.entry.index % 8) = true) (hc : u.bit R.SOL_CTRL 0 = true)
    (hb : u.solBusy (d.entry.index % 8) = false) (hq : u.solQueue.length < 8) :
    u.fireSol d = State.showSol { u with
      solQueue := u.solQueue ++ [{ slot := d.entry.index % 8, due := d.due, deadline := d.due + d.entry.arg }] } := by
  simp [State.fireSol, hl, hc, hb, Nat.not_le.mpr hq]

theorem State.firePix_starts {u : State} {d : Due} (hp : u.hasPix (d.entry.index % 256) = true) (hc : u.bit R.PIX_CTRL 0 = true)
    (hl : (pixLanes (u.pixProg (d.entry.index % 256))).any u.laneBusy = false)
    (hr : pixRaw (u.pixProg (d.entry.index % 256)) + u.pixRecent ≤ 400000000) :
    u.firePix d = (((u.modPixRuns fun l =>
        l ++ [{ prog := d.entry.index % 256, at_ := d.due, cams := u.pixCams (u.pixProg (d.entry.index % 256)) }]).pixTake
          (pixRaw (u.pixProg (d.entry.index % 256)))).setFld R.PIX_STATUS 4 8 (d.entry.index % 256)).showPix := by
  simp only [State.firePix, hp, hc, hl, Nat.not_lt.mpr hr, Bool.not_true, Bool.false_eq_true, if_false]

theorem State.fireTest_starts {s : State} {d : Due} (hc : s.bit R.SNAP_ST_CTRL 0 = true)
    (hs : s.inService (d.entry.index % 64) = true) (hb : s.blockActive (d.entry.index % 64) = false) :
    s.fireTest d = (s.modTest (d.entry.index % 64) fun x =>
      { x with skipRun := false, slotEnd := some (d.due + d.entry.arg), chunk := false }).startChunk (d.entry.index % 64) := by
  simp only [State.fireTest, hc, hs, hb, Bool.not_true, Bool.false_eq_true, or_self, if_false]

/-- A golden slot whose stream is quiet and without an open trigger starts the stream's golden job. -/
theorem State.fireGolden_starts {s u : State} {d : Due} {k : Nat} {b : Bool}
    (hg : s.goldenStream (d.entry.index % 32) = some (k, b)) (hb : s.streamBusy k = false) (ht : (s.stream k).trigger = false)
    (hu : s.tryLaunch d (d.entry.index % 32) (s.fld (R.TW_OS_GOLD k) 0 6)
      (s.jobSlice (d.entry.index % 32) (s.fld (R.TW_OS_GOLD k) 0 6)) true = (true, u)) :
    s.fireGolden d = { u with
      goldens := minsert u.goldens (d.entry.index % 32) { stream := k, isB := b, ends := d.due + d.entry.arg } } := by
  simp only [State.fireGolden, hg, hb, ht, hu, Bool.false_and, Bool.false_eq_true, false_and, or_self, if_false]

theorem execGoldenSlotEnd_overruns {s : State} {p : Nat} {g : Golden} (hg : s.goldens.lookup (p % 32) = some g)
    (he : g.ends ≤ s.now) (hr : g.ran = false) :
    execGoldenSlotEnd p s =
      .next ((({ s with goldens := merase s.goldens (p % 32) }).post ((mkRec ST.SAFE_GOLDEN_OVERRUN 0x02 g.stream).withPart s (p % 32))).abortJob
        (p % 32) (s.fld (R.TW_OS_GOLD g.stream) 0 6)) := by
  simp only [execGoldenSlotEnd, hg, hr, Nat.not_lt.mpr he, Bool.false_eq_true, if_false]
  rfl

theorem execTestSlotEnd_ends {s : State} {b e : Nat} (hs : (s.test b).slotEnd = some e) (he : e ≤ s.now) :
    execTestSlotEnd b s = .next ((s.chunkAbort b false).modTest b fun x => { x with slotEnd := none }) := by
  simp only [execTestSlotEnd, hs, he, if_true]

theorem execCoverageLimit_reports {s : State} {b t0 : Nat} (hp : (s.test b).passStart = some t0)
    (ha : t0 + ms (s.regN R.SNAP_ST_LIMIT) < s.age) (hb : s.bit (R.SNAP_ST_STATE b) 9 = false) :
    execCoverageLimit b s = .next (((s.setBit (R.SNAP_ST_STATE b) 9 true).postC ST.SAFE_COVERAGE 0x06 b).coverageCheck) := by
  simp only [execCoverageLimit, hp, ha, hb, Bool.not_false, and_self, if_true]

/-- Settles O2: the entries are taken by a powered unit, and each event finds its own case. -/
theorem engineEntriesComplete : Obligations.EngineEntriesComplete := by
  refine ⟨?sample, ?solve, ?pixel, ?test, ?golden, ?goldenEnd, ?chunk, ?testEnd, ?coverage⟩
  case sample => exact fun s t d w e edge h hu => State.onEntry_next h _ (State.ifPowered_served hu _)
  case solve =>
    intro s t u d w e edge h hu hs hl hc hb hq
    subst hs
    exact State.onEntry_next h _ ((State.ifPowered_served hu _).trans (State.fireSol_queues hl hc hb hq))
  case pixel =>
    intro s t u d w e edge h hu hs hp hc hl hr
    subst hs
    exact State.onEntry_next h _ ((State.ifPowered_served hu _).trans (State.firePix_starts hp hc hl hr))
  case test => exact fun s t d w e edge h hc hs hb => State.onEntry_next h _ (State.fireTest_starts hc hs hb)
  case golden =>
    exact fun s t u d w e edge k b h hg hb ht hu => State.onEntry_next h _ (State.fireGolden_starts hg hb ht hu)
  case goldenEnd => exact fun s p g hg he hr => execGoldenSlotEnd_overruns hg he hr
  case chunk => exact fun s b f hc => congrArg Host.Outcome.next (if_pos hc)
  case testEnd => exact fun s b e hs he => execTestSlotEnd_ends hs he
  case coverage => exact fun s b t0 hp ha hb => execCoverageLimit_reports hp ha hb

end Sys2Proof.Machine
end

section
/-! PROOFS. Device time read, stepped, slewed and held, and the boundaries of wheel periods (R34 to R38, R41, R46 to R51, R383). -/

namespace Sys2Proof.Machine

theorem actStepGo_steps {s : State} {v : Nat} (hv : v % 2 = 1) (hw : s.anyWheel = false) :
    actStepGo s v = accept (s.stepTime (s.regN R.TW_STEP_LO % 2 ^ 32 + s.regN R.TW_STEP_HI * 2 ^ 32)) := by
  unfold actStepGo
  rw [if_pos hv, hw, if_neg Bool.false_ne_true]

theorem actRate_sets {s : State} {v : Nat} (h : clipRate (toSigned 32 v) = toSigned 32 v) :
    actRate s v = accept (s.setRate (toSigned 32 v)) := by
  simp only [actRate, h, if_true]

/-- A master within 1 ms of device time steers the rate by the servo's own value. -/
theorem State.servoTo_close {s u : State} {o : Int} (ho : o.natAbs ≤ 1000000)
    (hu : u = ({ s with servo := { s.servo with offset := o, close := if o.natAbs < 100 then s.servo.close + 1 else 0 } }).setBit
      R.TW_STATUS 1 (decide (16 ≤ if o.natAbs < 100 then s.servo.close + 1 else 0))) :
    s.servoTo o = u.draw.2.setRate (clipRate (toSigned 32 (Config.freeNat u.fresh))) := by
  subst hu
  simp only [State.servoTo, Nat.not_lt.mpr ho, decide_false, Bool.false_eq_true, false_and, if_false]

theorem State.enterHoldover_enters {s : State} (h : s.bit R.TW_STATUS 0 = false) :
    s.enterHoldover = ((({ s with servo := { s.servo with since := some s.age, close := 0 } }).setBit R.TW_STATUS 0 true).setBit
      R.TW_STATUS 1 false).postC ST.TIME_SRC_LOST 0x02 0 := by
  unfold State.enterHoldover
  rw [h, if_neg Bool.false_ne_true]

theorem State.leaveHoldover_leaves {s : State} (h : s.bit R.TW_STATUS 0 = true) :
    s.leaveHoldover = ((({ s with servo := { s.servo with since := none } }).setBit R.TW_STATUS 0 false).postC
      ST.TIME_SRC_RESTORED 0x02 0).setAmber 4 false := by
  unfold State.leaveHoldover
  rw [if_pos h]

/-- A boundary at which the wheel neither stops nor swaps banks starts the next period. -/
theorem State.passBoundary_runs {s u : State} {w b : Nat} (hd : (s.wheel w).disableAt = none) (hs : (s.wheel w).swapAt = none)
    (hu : u = (s.modWheel w fun y => { y with carry := y.carry ++ leftover (s.wheel w) w (s.activeBank w) }).wrapReg (R.TW_W_PERIODS w)) :
    s.passBoundary w b = (u.modWheel w fun y =>
      { y with start := b, inPeriod := true, taken := [], sum := (s.wheel w).sum + u.bankPeriod w (u.activeBank w) }).setRegN
        (R.TW_W_NEXT w) ((s.wheel w).origin + ((s.wheel w).sum + u.bankPeriod w (u.activeBank w)) / 65536) := by
  subst hu
  simp only [State.passBoundary, hd, hs, Bool.false_eq_true, if_false]

theorem actWheelBase_sets {s : State} {w v : Nat} (h : s.bit (R.TW_W_CTRL w) 0 = false) :
    actWheelBase w s v = accept (s.setRegN (R.TW_W_BASE w) v) := by
  unfold actWheelBase
  rw [h, if_neg Bool.false_ne_true]

/-- Settles O3: register accesses pass the bus, and each event finds its own case. -/
theorem timeKeepingCompletes : Obligations.TimeKeepingCompletes := by
  refine ⟨?pulse, ?latch, ?step, ?rate, ?sync, ?enter, ?leave, ?boundary, ?base⟩
  case pulse =>
    intro s f e hf he
    show execFsyncPulseEnd f s = _
    simp only [execFsyncPulseEnd, hf, he, if_true]
  case latch => exact fun s m h => State.viaBus_next h _ rfl
  case step => exact fun s m v h hv hw => State.regBus_next h _ (actStepGo_steps hv hw)
  case rate => exact fun s m v h hc => State.regBus_next h _ (actRate_sets hc)
  case sync =>
    intro s u o hs ho hu
    exact (if_neg hs).trans (congrArg Host.Outcome.next (State.servoTo_close ho hu))
  case enter =>
    intro s hs h
    exact (if_neg hs).trans (congrArg Host.Outcome.next (State.enterHoldover_enters h))
  case leave => exact fun s h => congrArg Host.Outcome.next (State.leaveHoldover_leaves h)
  case boundary =>
    intro s u w hw hc hn hd hs hu
    exact (if_pos ⟨hw, hc, hn⟩).trans (congrArg Host.Outcome.next (State.passBoundary_runs hd hs hu))
  case base => exact fun s m w v h hb => State.regBus_next h _ (actWheelBase_sets hb)

end Sys2Proof.Machine
end

section
/-! PROOFS. The safety state: the kick and its watchdog, health, holds and exits (R443 to R449, R468 to R470, R486). -/

namespace Sys2Proof.Machine

theorem actKick_inTime {s : State} (h : s.kickOverdue = false) :
    actKick s = (s.modSafety fun y => { y with kickAt := s.age, kickTime := s.now, watchdog := true }).leaveGrey := by
  unfold actKick
  rw [h, if_neg Bool.false_ne_true]

/-- The supervisor's watchdog is overdue 1 ms after the last kick. -/
theorem State.kickOverdue_iff (s : State) :
    s.kickOverdue = true ↔ s.safety.watchdog = true ∧ s.safety.expired = false ∧ s.safety.kickAt + 1000000 ≤ s.age := by
  simp [State.kickOverdue, and_assoc]

theorem execAmberHoldEnd_releases {s : State} {k t : Nat} (hk : s.safety.amberEnd.lookup k = some t) (ht : t ≤ s.age) :
    execAmberHoldEnd k s = .next ((s.modSafety fun y => { y with amberEnd := merase y.amberEnd k }).setAmber k false) := by
  simp only [execAmberHoldEnd, hk, ht, if_true]

theorem execHoldoverAmber_reports {s : State} {t : Nat} (hs : s.servo.since = some t)
    (ht : t + ms (s.regN R.CFG_HOLDOVER_AMBER) < s.age) (ha : s.safety.amberOn.getLsbD 4 = false) :
    execHoldoverAmber s = .next ((s.postC ST.SAFE_HOLDOVER_LONG 0x00 0).setAmber 4 true) := by
  simp only [execHoldoverAmber, hs, ht, ha, Bool.not_false, and_self, if_true]

theorem execSafeRequestRelease_releases {s : State} {t : Nat} (hl : s.safety.safeLow = some t)
    (hc : s.safety.latched.getLsbD 3 = true) (ht : t + ms (s.regN R.CFG_SAFE_REL) ≤ s.age) :
    execSafeRequestRelease s =
      .next ((s.modSafety fun y => { y with latched := y.latched &&& ~~~(1#8 <<< 3) }).settle false) := by
  simp only [execSafeRequestRelease, hl, hc, ht, and_self, if_true]
  rfl

theorem execThermalCrimsonExit_releases {s : State} {t : Nat} (hc : s.power.coolSince = some t)
    (hl : s.safety.latched.getLsbD 6 = true) (ht : t + 100000000 ≤ s.age) :
    execThermalCrimsonExit s =
      .next ((s.modSafety fun y => { y with latched := y.latched &&& ~~~(1#8 <<< 6) }).settle false) := by
  simp only [execThermalCrimsonExit, hc, hl, ht, and_self, if_true]
  rfl

/-- A deadline that passed with no commit: the stream is late, and a safety stream turns the device Crimson. -/
theorem execDeadlineExpiry_expires {s u : State} {st : Nat} (ha : s.bit (R.TW_OS_STATUS (st % 256)) 0 = true)
    (ht : s.regN (R.TW_OS_DEADLINE (st % 256)) ≤ s.now) (hc : (s.stream (st % 256)).commit = none)
    (hu : u = ((s.setBit (R.TW_OS_STATUS (st % 256)) 0 false).postC ST.SAFE_DEADLINE_MISSED 0x02 (st % 256)).modStream (st % 256)
      (fun x => { x with late := true })) :
    execDeadlineExpiry st s = .next (if u.osSafety (st % 256) then u.crimson 2 (some (st % 256)) 0 else u) := by
  subst hu
  simp only [execDeadlineExpiry, ha, ht, hc, Option.isNone_none, and_self, if_true]

/-- Settles O4: the kick passes the bus in time, and each event finds its own case. -/
theorem safetyStateCompletes : Obligations.SafetyStateCompletes := by
  refine ⟨?kick, ?watchdog, ?health, ?hold, ?holdover, ?release, ?thermal, ?deadline⟩
  case kick => exact fun s m h hk => State.regBus_next h _ (congrArg accept (actKick_inTime hk))
  case watchdog => exact fun s hw he ht => congrArg Host.Outcome.next (if_pos (s.kickOverdue_iff.mpr ⟨hw, he, ht⟩))
  case health => exact fun s hs hh => congrArg Host.Outcome.next (if_pos ⟨hs, hh⟩)
  case hold => exact fun s k t hk ht => execAmberHoldEnd_releases hk ht
  case holdover => exact fun s t hs ht ha => execHoldoverAmber_reports hs ht ha
  case release => exact fun s t hl hc ht => execSafeRequestRelease_releases hl hc ht
  case thermal => exact fun s t hc hl ht => execThermalCrimsonExit_releases hc hl ht
  case deadline => exact fun s st ha ht hc => ⟨_, rfl, execDeadlineExpiry_expires ha ht hc rfl⟩

end Sys2Proof.Machine
end

section
/-! PROOFS. Streams enabled, commits decided and the waits around a commit (R439, R458 to R470). -/

namespace Sys2Proof.Machine

/-- Enabling a stream that no rule refuses and that is no safety stream writes its configuration. -/
theorem actStream_enables {s : State} {i v : Nat} (he : s.osEn i = false) (hv : v % 2 = 1) (hr : s.streamRefusal i v = none)
    (hb : bitsOf v 2 1 = 0) : actStream i s v = accept (s.setRegN (R.TW_OS_CFG i) (v % 2 ^ 62)) := by
  simp only [actStream, he, hv, hr, hb, Bool.false_eq_true, if_false, Nat.zero_ne_one, Nat.one_ne_zero]

theorem execCommitDecision_single {s : State} {st : Nat} {c : Commit} (hc : (s.stream (st % 256)).commit = some c)
    (hk : c.k ≤ s.now) (hx : s.osXdev (st % 256) = false) :
    execCommitDecision st s = .next ((s.decideCommit (st % 256) c none false).nextFrame (st % 256)) := by
  simp only [execCommitDecision, hc, hx, Nat.not_lt.mpr hk, Bool.false_eq_true, if_false]

/-- A good partner record with no commit waiting for it is kept for the commit to come. -/
theorem execPartnerRecord_keeps_record {s : State} {k : Nat} {r : PartnerRec} (ht : s.bit (R.BAM_TWIN_STATE (k % 16)) 0 = true)
    (hs : r.stream = s.fld (R.BAM_TWIN_CFG (k % 16)) 17 8)
    (hh : r.hash = (s.job (s.osPart r.stream false) (s.osJob r.stream)).image.hash.setWidth 32)
    (hw : (mget {} s.twins (k % 16)).waiting = none) :
    execPartnerRecord k r s = .next (s.modStream r.stream fun x => { x with partner := some r }) := by
  rw [hs] at hh
  simp only [execPartnerRecord, ht, hs, hh, hw, Bool.not_true, Bool.false_eq_true, ne_eq, not_true_eq_false, or_self, if_false,
    decide_true, if_true]

theorem execTwinWaitExpiry_expires {s : State} {k a st : Nat} {c : Commit} (hw : (mget {} s.twins (k % 16)).waiting = some a)
    (hs : (mget {} s.twins (k % 16)).stream = st) (hc : (s.stream st).commit = some c)
    (ha : a + s.regN (R.BAM_TWIN_WAIT (k % 16)) ≤ s.now) :
    execTwinWaitExpiry k s = .next ((((({ s with twins := mmod {} s.twins (k % 16) fun t => { t with waiting := none } }).incFld
        (R.BAM_TWIN_STATE (k % 16)) 16 16).postC ST.BAM_TWIN_LATE 0x1C (k % 16)).decideCommit st c none true).nextFrame st) := by
  subst hs
  simp only [execTwinWaitExpiry, hw, hc, Nat.not_lt.mpr ha, if_false]

theorem execRereadDone_publishes {s u : State} {st : Nat} {r : Reread} (hr : (s.stream (st % 256)).reread = some r)
    (he : r.ends ≤ s.now)
    (hu : u = (s.setBit (R.TW_OS_STATUS (st % 256)) 4 false).modStream (st % 256) (fun x => { x with reread := none })) :
    execRereadDone st s = .next ((u.publishCommit (st % 256) r.k r.flags r.cycA r.cycB true ((u.copyWords (st % 256) true).map headerOf)
      (u.copyWords (st % 256) true)).nextFrame (st % 256)) := by
  subst hu
  simp only [execRereadDone, hr, Nat.not_lt.mpr he, if_false]

theorem execPairWaitExpiry_starts {s : State} {st t : Nat} (ht : (s.stream (st % 256)).start = some t)
    (hn : t + s.regN (R.TW_OS_PAIRWAIT (st % 256)) ≤ s.now) (hc : (s.stream (st % 256)).commit = none)
    (hr : (s.stream (st % 256)).reread = none) : execPairWaitExpiry st s = .next (s.startCommit (st % 256)) := by
  simp only [execPairWaitExpiry, ht, hc, hr, Nat.not_lt.mpr hn, Option.isSome_none, Bool.false_eq_true, or_self, if_false]

/-- Settles O5: the enable is accepted by the register, and each event finds its own case. -/
theorem commitCompletes : Obligations.CommitCompletes := by
  refine ⟨?enable, ?decision, ?partner, ?twin, ?reread, ?pair⟩
  case enable => exact fun s m st v h he hv hr hb => State.regBus_next h _ (actStream_enables he hv hr hb)
  case decision => exact fun s st c hc hk hx => execCommitDecision_single hc hk hx
  case partner => exact fun s k r ht hs hh hw => execPartnerRecord_keeps_record ht hs hh hw
  case twin => exact fun s k a st c hw hs hc ha => execTwinWaitExpiry_expires hw hs hc ha
  case reread => exact fun s u st r hr he hu => execRereadDone_publishes hr he hu
  case pair => exact fun s st t ht hn hc hr => execPairWaitExpiry_starts ht hn hc hr

end Sys2Proof.Machine
end

section
/-! PROOFS. Handoffs: landings, descriptors, publishes and window closes (R57 to R68, R615 to R617). -/

namespace Sys2Proof.Machine

theorem execHandoffWindowClose_closes {s : State} {k : Nat} {w : Window} (hw : s.windows.lookup k = some w) (hc : w.close ≤ s.now) :
    execHandoffWindowClose k s = .next (s.closeWindow k w) := by
  simp only [execHandoffWindowClose, hw, hc, if_true]

theorem State.publish_takes {s : State} {m i k : Nat} (he : s.hoExists i = true) (hm : m = (s.ho i).desc.producer) (hk : k = s.hoW i) :
    s.publish m i k = (s.hoTake i k).mirrorNotice i k := by
  unfold State.publish
  rw [if_pos ⟨he, hm, hk⟩]

/-- Settles O6: mailbox commands run, and each passes the checks its clause rules out. -/
theorem handoffsComplete : Obligations.HandoffsComplete := by
  refine ⟨?close, ?publish, ?landing, ?create, ?destroy⟩
  case close => exact fun s k w hw hc => execHandoffWindowClose_closes hw hc
  case publish =>
    exact fun s m d k h he hm hk => State.regBus_next h _ (congrArg accept (State.publish_takes he hm hk))
  case landing =>
    intro s n x l h hx hl hn hr
    refine State.runCmd_next h rfl _ ?_
    subst hx hl
    simp only [hn, hr, Bool.false_eq_true, if_false, okay]
  case create =>
    intro s n h hr
    refine State.runCmd_next h rfl _ ?_
    simp only [hr, okay]
  case destroy =>
    intro s n h hw
    refine State.runCmd_next h rfl _ ?_
    simp only [hw, okay]

end Sys2Proof.Machine
end

section
/-! PROOFS. Copy launches, slice switches, hangs and zeroing (R323, R326 to R330, R503, R516), and the sharing of power between
partitions (R336 to R340). -/

namespace Sys2Proof.Machine

/-! ### Switching jobs -/

theorem execCopyBLaunch_starts {s u : State} {p : Nat} {x : Due × Nat × Nat}
    (hx : (s.copyB.find? fun y => decide (y.2.1 = p % 32)) = some x) (hu : u = { s with copyB := s.copyB.erase x })
    (hl : u.launchable x.2.1 x.2.2 = true) (hw : u.windowInto x.2.1 = false) (hc : u.commitInto x.2.1 = false)
    (hh : u.isHeld x.2.1 = false) (hk : u.launchCheck x.2.1 x.2.2 (u.jobSlice x.2.1 x.2.2) = none) (hs : u.isShed x.2.1 = false) :
    execCopyBLaunch p s = .next (u.startJob x.2.1 x.2.2 false) := by
  have e : execCopyBLaunch p s = ok (u.tryLaunch x.1 x.2.1 x.2.2 (u.jobSlice x.2.1 x.2.2) false).2 := by
    subst hu
    simp only [execCopyBLaunch, hx]
  rw [e, State.tryLaunch_starts hl hw hc hh hk hs]

theorem execSaveCommit_saves {s : State} {t p j : Nat} (hj : (s.tile t).job = some (p, j)) (hb : (s.tile t).busySave = true)
    (hs : (s.job p j).phase = .saving) : execSaveCommit t s = .next (s.saveCommit t p j) := by
  simp only [execSaveCommit, hj, hb, hs, and_self, if_true]

theorem execJobHang_hangs {s : State} {t p j : Nat} (hj : (s.tile t).job = some (p, j)) (ht : s.tileState t = 2)
    (hr : (s.job p j).phase = .running) (he : (s.tile t).ended = false) (hh : (s.tile t).hung = false)
    (hf : s.bit R.SNAP_FRZ_CTRL 3 = false) : execJobHang t s = .next (s.hang t p j) := by
  simp only [execJobHang, hj, ht, hr, he, hh, hf, Bool.not_false, and_self, if_true]

/-! ### Zeroing -/

/-- A tile that belongs to no job is free once it is zeroed. -/
theorem execZeroingPassDone_frees {s : State} {t : Nat} (hs : s.tileState t = 5 ∨ s.tileState t = 4) (hj : (s.tile t).job = none) :
    execZeroingPassDone t s =
      .next (((((s.zeroSpad t).modTile t clearTile).freeTile t).each (List.range 32) State.endCheck).finishWaiting) := by
  simp only [execZeroingPassDone, hs, hj, if_true]

/-- A partition that was being created becomes ready once its DRAM is zeroed. -/
theorem execDramZeroingDone_readies {s u : State} {p : Nat} (hb : (s.part p).dramBusy = true)
    (hu : u = (s.each (blocksTiles (s.partBlocks p)) fun v t => v.zero (dramAddr t 0) (dramAddr t 0x2000000)).modPart p
      (fun q => { q with dramBusy := false })) (hp : u.partState p = 1) :
    execDramZeroingDone p s = .next ((u.setFld (R.ACC_P_STATUS p) 0 2 2).finishWaiting) := by
  subst hu
  simp only [execDramZeroingDone, hb, hp, if_true]

/-- Settles O7: each step of a switch finds its own case. -/
theorem jobSwitchingCompletes : Obligations.JobSwitchingCompletes := by
  refine ⟨?copyB, ?quiesce, ?save, ?restore, ?hang, ?zeroed, ?dram⟩
  case copyB => exact fun s u p x hx hu hl hw hc hh hk hs => execCopyBLaunch_starts hx hu hl hw hc hh hk hs
  case quiesce =>
    intro s u p j hq hu
    subst hu
    exact if_pos hq
  case save => exact fun s t p j hj hb hs => execSaveCommit_saves hj hb hs
  case restore =>
    intro s u p j hr ha hu
    subst hu
    exact if_pos ⟨hr, ha⟩
  case hang => exact fun s t p j hj ht hr he hh hf => execJobHang_hangs hj ht hr he hh hf
  case zeroed => exact fun s t hs hj => execZeroingPassDone_frees hs hj
  case dram => exact fun s u p hb hu hp => execDramZeroingDone_readies hb hu hp

/-! ### Sharing power -/

/-- The first shed of a hot spell comes 1 ms into it. -/
theorem execPartitionShed_first {s : State} {p h : Nat} (hh : s.power.hotSince = some h) (ht : h + ms 1 ≤ s.age)
    (hl : s.power.lastShed = none) (hn : s.shedNext = some p) :
    execPartitionShed s = .next ((s.noteShed.modPart p fun q => { q with shedWait := true }).shedCheck p) := by
  simp only [execPartitionShed, hh, ht, hl, hn, decide_true, Bool.and_self, Bool.not_true, Bool.false_eq_true, if_false]

theorem execPartitionUnshed_unsheds {s v u : State} {p c : Nat} (hc : s.power.coolSince = some c) (hn : s.unshedNext = some p)
    (ht : max c (s.power.lastUnshed.getD 0) + ms 100 ≤ s.age) (hv : v = s.noteUnshed) (hs : v.isShed p = true)
    (hu : u = (v.modPart p fun q => { q with shedWait := false }).setBit (R.ACC_P_STATUS p) 12 false) :
    execPartitionUnshed s = .next ((u.post ((mkRec ST.PART_UNSHED 0x03 0).withPart u p)).setAmber 3
      ((List.range 32).any (u.post ((mkRec ST.PART_UNSHED 0x03 0).withPart u p)).isShed)) := by
  subst hv hu
  simp only [execPartitionUnshed, hc, hn, Nat.not_lt.mpr ht, hs, if_false, if_true]

theorem actFabricLimit_sets {s : State} {v : Nat} (hm : v ≤ 395000) (hs : s.regN R.PMU_ALLOC_SUM ≤ v) :
    actFabricLimit s v = accept (s.setRegN R.PMU_FABRIC_LIMIT v) := by
  unfold actFabricLimit
  rw [if_neg (by omega)]

/-- Settles O8: each event finds its own case, and the register accepts a limit within the budget. -/
theorem powerSharingCompletes : Obligations.PowerSharingCompletes := by
  refine ⟨?shed, ?unshed, ?limit⟩
  case shed => exact fun s p h hh ht hl hn => execPartitionShed_first hh ht hl hn
  case unshed => exact fun s v u p c hc hn ht hv hs hu => execPartitionUnshed_unsheds hc hn ht hv hs hu
  case limit => exact fun s m v h hm hs => State.regBus_next h _ (actFabricLimit_sets hm hs)

end Sys2Proof.Machine
end

section
/-! PROOFS. What a tile's own commands do: loops, waits and END, the weight array, the scratchpad and DRAM, and flits (R71 to R90,
R106 to R117, R131, R135, R153 to R166, R331, R504). -/

namespace Sys2Proof.Machine

theorem State.try'_inr {α : Type} (s : State) (t : Nat) {r : Try α} {a : α} (h : r = .inr a) (f : α → State) : s.try' t r f = f a := by
  rw [h]
  rfl

/-! ### Loops, waits and END -/

theorem State.openLoop_opens {s : State} {c : TCtl} (h : (s.tile c.tile).stack.length < 8) (n : Nat) :
    s.openLoop c n = (s.modTile c.tile fun x => { x with stack :=
      { left := n, skip := decide (n = 0), start := (c.word + 1) % 4096 } :: x.stack }).showDepth c.tile := by
  unfold State.openLoop State.pushLoop
  rw [if_neg (Nat.not_le.mpr h)]

/-- A loop count read from the scratchpad opens the loop when its bound and the tile's cycle range allow it. -/
theorem State.loopData_opens {s : State} {c : TCtl} {k n : Nat} {v : VReg} (hp : v.poison = false) (hn : n = bitsOf v.data.toNat 0 32)
    (hm : n ≤ (mget {} (s.tile c.tile).loops (k % 256)).max) (hl : n < 2 ^ 24)
    (hx : s.regN (tExpend c.tile) + n * (mget {} (s.tile c.tile).loops (k % 256)).body ≤ 2 ^ 48 - 1025) :
    s.loopData c k v = State.openLoop (s.extendEnd c.tile
      (s.regN (tExpend c.tile) + n * (mget {} (s.tile c.tile).loops (k % 256)).body)) c n := by
  simp only [State.loopData, hp, ← hn, Nat.not_lt.mpr hm, Nat.mod_eq_of_lt hl, Nat.not_lt.mpr hx, Bool.false_eq_true, if_false]

/-- The end of a loop's body with rounds left goes back to the loop's start. -/
theorem State.closeLoop_repeats {s : State} {t : Nat} {f : LoopFrame} {l : List LoopFrame} (hs : (s.tile t).stack = f :: l)
    (hl : 1 < f.left) (hk : f.skip = false) :
    s.closeLoop t = (s.modTile t fun x => { x with stack := { f with left := f.left - 1 } :: l }).setFld (tStatus t) 4 12 f.start := by
  simp only [State.closeLoop, hs, hl, hk, Bool.not_false, and_self, if_true]

/-- An instruction of a tile that issues may issue, is not skipped and was fetched without poison. -/
theorem State.issues_iff (s : State) (c : TCtl) :
    s.issues c = true ↔ s.canIssue c = true ∧ skipping (s.tile c.tile) = false ∧ s.fetchPoison c = false := by
  simp [State.issues, and_assoc]

theorem State.fetched_enters {s : State} {c : TCtl} (h : s.fetchPoison c = false) (f : State → State) : s.fetched c f = f (s.enter c) := by
  simp only [State.fetched, h, Bool.false_eq_true, if_false]

theorem execEndloop_issues {s : State} {c : TCtl} (h : s.issues c = true) : execEndloop c s = .next ((s.enter c).closeLoop c.tile) := by
  obtain ⟨hi, hs, hf⟩ := (s.issues_iff c).mp h
  simp only [execEndloop, hi, hs, State.fetched_enters hf, if_true, Bool.false_eq_true, if_false]

theorem State.waitEvent_takesSem {s : State} {t p j k : Nat}
    (hc : (mget {} (s.part p).sems (k % 256)).colour = s.colourOf p (s.jobSlice p j))
    (hn : (mget {} (s.part p).sems (k % 256)).count ≠ 0) :
    s.waitEvent t p j (.semaphore k) = s.takeSem p j (k % 256) := by
  simp only [State.waitEvent, hc, hn, ne_eq, not_true_eq_false, if_false]

/-- Settles O9: each instruction issues and finds its own case behind the issue. -/
theorem tileControlCompletes : Obligations.TileControlCompletes := by
  refine ⟨?loop, ?loopd, ?endloop, ⟨?waitInternal, ?waitSem⟩, ?release, ?half, ?end_⟩
  case loop =>
    intro s u c n h hu hd
    subst hu
    exact State.loopIssue_next h _ (State.openLoop_opens hd _)
  case loopd =>
    intro s u v c k o w' w n x h hu hw hv hx hp hn hm hl hr
    subst hu hx
    refine State.loopIssue_next h _ ?_
    rw [State.try'_inr _ _ hw, State.claim_claims hv]
    exact State.loopData_opens hp hn hm hl hr
  case endloop =>
    intro s u c f l h hu hs hl hk
    subst hu
    exact (execEndloop_issues h).trans (congrArg Host.Outcome.next (State.closeLoop_repeats hs hl hk))
  case waitInternal =>
    intro s u c e n p j h hu hj
    subst hu
    refine State.issue_next h _ ?_
    rw [hj]
    rfl
  case waitSem =>
    intro s u c k p j h hu hj hc hn
    subst hu
    refine State.issue_next h _ ?_
    rw [hj]
    exact State.waitEvent_takesSem hc hn
  case release =>
    intro s u c e p j h hu hj
    subst hu
    refine State.issue_next h _ ?_
    rw [hj]
  case half =>
    intro s u c h hu hb
    subst hu
    refine State.issue_next h _ ?_
    simp only [hb, Bool.false_eq_true, if_false]
  case end_ =>
    intro s u c p j h hw hc hu hj
    subst hu
    have e : execEndOp c s = ok (s.issue c fun s =>
        match ((s.retireEnd c).tile c.tile).job with
        | some (p, j) =>
          if ((s.retireEnd c).jobTiles p j).all fun t => ((s.retireEnd c).tile t).ended then (s.retireEnd c).jobDone p j else s.retireEnd c
        | none => s.retireEnd c) :=
      congrArg ok (if_pos ⟨by rw [hw]; rfl, hc⟩)
    refine e.trans (State.issue_next h _ ?_)
    rw [hj]

/-! ### The weight array -/

/-- One streamed row that the scratchpad serves without a conflict is accumulated. -/
theorem State.streamRows_one {s : State} {t : Nat} {a : AgCtx} {cyc row : Nat} {bias : Option (List Nat × Bool)} {ws : List (Nat × Bool)}
    {r : ActRow × List Nat} {o : Option (List (Sum32 × Bool))} {held : List (Nat × Nat)} (hr : s.actRow t a 0 = .inr r)
    (ho : s.outlierRow t a.extra 0 = .inr o)
    (hb : claimBanks (s.tile t).banks (r.2.map fun w => (cyc + 0 * rowCycles (s.tile t) a, w)) = some held) :
    s.streamRows t a cyc row bias ws 0 1 = (s.modTile t fun y => { y with banks := held }).accumulate t ((s.tile t).pairOf a).1
      ((s.tile t).pairOf a).2 row r.1 ws bias o := by
  obtain ⟨r, l⟩ := r
  simp only [State.streamRows, hr, ho, hb]
  rfl

/-- Settles O10: each instruction issues, and its words are claimed without a bank conflict. -/
theorem tileArrayCompletes : Obligations.TileArrayCompletes := by
  refine ⟨?wload, ?mstream, ?aclr, ?agset⟩
  case wload =>
    intro s u v c h o f ws hi hu hw hv
    subst hu
    refine State.issue_next hi _ ?_
    rw [State.try'_inr _ _ hw]
    have e : (enumFrom c.cyc ws).map (fun y => (y.1, y.2)) = enumFrom c.cyc ws := List.map_id _
    rw [e, State.claim_claims hv]
  case mstream =>
    intro s u v c n k row a bias ws hi hu hv ha hb hw
    subst hu hv ha
    have hm : ∀ n, exec (.mstream c n k row) s = _ := fun n => State.issue_next hi _ rfl
    simp only [hb, hw] at hm
    refine ⟨hm n, fun r o held hr ho hc => (hm 1).trans ?_⟩
    exact congrArg (fun x => Host.Outcome.next (State.walkOn x c.tile k 1)) (State.streamRows_one hr ho hc)
  case aclr =>
    intro s u c row n h hu
    subst hu
    exact State.issue_next h _ rfl
  case agset =>
    intro s u c k v h hu
    subst hu
    exact State.issue_next h _ rfl

/-! ### The scratchpad and DRAM -/

/-- A load with no convolution window reads the word its walk names. -/
theorem State.loadWord_plain {s x : State} {c : TCtl} {k v w : Nat} (hc : ((s.tile c.tile).ctx k).extra.conv = none)
    (hw : (s.tile c.tile).walkAt ((s.tile c.tile).ctx k) ((s.tile c.tile).ctx k).step = .inr w) (hx : s.Claims c.tile [(c.cyc, w)] x) :
    s.loadWord c k v = ((x.padRead c.tile w c.errs).2.walkOn c.tile k 1).setVreg c.tile v (x.padRead c.tile w c.errs).1 := by
  simp only [State.loadWord, hc, State.try'_inr _ _ hw, State.claim_claims hx]

theorem State.queueRead_queues {s : State} {t : Nat} {d : Dma} (h : d.count ≠ 0) :
    s.queueRead t d = s.modTile t fun x => { x with dmaR := x.dmaR ++ [d] } := by
  unfold State.queueRead
  rw [if_neg h]

/-- A write of `n` words reads its source and the words it changes in part, and waits in the tile's write queue. -/
theorem State.queueWrite_queues {s v : State} {c : TCtl} {src : Place} {a n e0 e1 : Nat} {ws : List (Sum Nat Nat)} (hn : n ≠ 0)
    (hw : (s.tile c.tile).placeWords src n = .inr ws) (hv : s.Claims c.tile (writeWords c.cyc (s.writeLead c.tile a n) ws) v)
    {x : List VReg × State} (hx : x = v.placeReads c.tile ws c.errs) {y : Decoded × Decoded × State}
    (hy : y = x.2.readPartial c.tile a n e0 e1) :
    s.queueWrite c src a n e0 e1 = y.2.2.modTile c.tile fun z => { z with dmaW := z.dmaW ++
      [{ cyc := c.cyc, dram := a, count := n, place := src, data := x.1, gen := y.2.2.tileGen c.tile, bad := y.1, badHi := y.2.1 }] } := by
  subst hx hy
  simp only [State.queueWrite, hn, if_false, State.try'_inr _ _ hw, State.claim_claims hv]

/-- An index word without poison whose range lies in the tile's DRAM gives the transfer its address. -/
theorem State.gather_reads {s v : State} {c : TCtl} {g k n w : Nat} (hw : (s.tile c.tile).wordAt g k = .inr w)
    (hv : s.Claims c.tile [(c.cyc, w)] v) (hp : (v.padRead c.tile w c.errs).1.poison = false)
    (ha : bitsOf (v.padRead c.tile w c.errs).1.data.toNat 0 32 + 64 * n ≤ 2 ^ 25) (hn : n ≠ 0) (f : State → Nat → State) :
    s.gather c g k n f = f (v.padRead c.tile w c.errs).2 (bitsOf (v.padRead c.tile w c.errs).1.data.toNat 0 32) := by
  have hr : ¬(2 ^ 25 ≤ bitsOf (v.padRead c.tile w c.errs).1.data.toNat 0 32 ∨
      2 ^ 25 < bitsOf (v.padRead c.tile w c.errs).1.data.toNat 0 32 + 64 * n) := by omega
  simp only [State.gather, State.try'_inr _ _ hw, State.claim_claims hv, hp, Bool.false_eq_true, if_false]
  rw [if_neg hr]

theorem execDmaReadDelivery_delivers {s : State} {c : TCtl} {d : Dma} {l : List Dma} (hd : (s.tile c.tile).dmaR = d :: l)
    (hm : s.moves c.tile = true) (ht : dmaCycle d.cyc (s.latencyR c.tile) d.done ≤ c.cyc) (k : Nat) :
    execDmaReadDelivery c k s = .next (s.dmaDeliver c d k) := by
  simp only [execDmaReadDelivery, hd, hm, ht, and_self, if_true]

/-- A write that is due, of the partition's present generation, is stored. -/
theorem execDmaWriteCommit_stores {s u : State} {c : TCtl} {d : Dma} {l : List Dma} {p j : Nat} (hd : (s.tile c.tile).dmaW = d :: l)
    (hm : s.moves c.tile = true) (ht : dmaCycle d.cyc (s.writeLead c.tile d.dram d.count) (d.count - 1) + 36 ≤ c.cyc)
    (hu : u = s.modTile c.tile (fun x => { x with dmaW := l, lastCommit := c.cyc, events := (x.events.1 + 1, x.events.2) }))
    (hj : (u.tile c.tile).job = some (p, j)) (hg : d.gen = u.partGen p) :
    execDmaWriteCommit c s = .next (u.storeWrite c.tile d) := by
  have e : s.commitWrite c d l = u.storeWrite c.tile d := by
    subst hu
    simp only [State.commitWrite, hj, hg, if_true]
  rw [← e]
  simp only [execDmaWriteCommit, hd, hm, ht, and_self, if_true]

/-- Settles O11: instructions issue and queue their transfers, and queued transfers come due. -/
theorem tileTransfersComplete : Obligations.TileTransfersComplete := by
  refine ⟨?sld, ?sst, ?drd, ?ifetch, ?delivery, ?dwr, ?commit, ?drdx, ?dwrx⟩
  case sld =>
    intro s u x c k v w h hu hc hw hx
    subst hu
    exact State.issue_next h _ (State.loadWord_plain hc hw hx)
  case sst => exact fun s u x c k v w h hu hw hx => exec_sst_word h hu hw hx
  case drd =>
    intro s u c h o dram n ws hi hu hn hw
    subst hu
    refine State.issue_next hi _ ?_
    rw [State.try'_inr _ _ hw]
    exact State.queueRead_queues hn
  case ifetch =>
    intro s u c dram n h hu h0 hn
    subst hu
    refine State.issue_next h _ ?_
    simp only [Nat.min_eq_left hn, h0, decide_true]
    exact State.queueRead_queues (Nat.pos_iff_ne_zero.mp h0)
  case delivery => exact fun s c d l k hd hm ht => execDmaReadDelivery_delivers hd hm ht k
  case dwr =>
    intro s u v c src dram n e0 e1 ws x y h hu hn hw hv hx hy
    subst hu
    exact State.issue_next h _ (State.queueWrite_queues hn hw hv hx hy)
  case commit => exact fun s u c d l p j hd hm ht hu hj hg => execDmaWriteCommit_stores hd hm ht hu hj hg
  case drdx =>
    intro s u v c h o g k n w a x ws hi hu hw hv hx hp ha hr hn hs
    subst hu hx ha
    refine State.issue_next hi _ ?_
    rw [State.gather_reads hw hv hp hr hn, State.try'_inr _ _ hs]
    exact State.queueRead_queues hn
  case dwrx =>
    intro s u v c src g k n e0 e1 w a x hi hu hw hv hx hp ha hr hn
    subst hu hx ha
    exact State.issue_next hi _ (State.gather_reads hw hv hp hr hn _)

/-! ### Flits -/

theorem State.postRecv_queues {s : State} {t : Nat} {r : Recv} {ws : List (Sum Nat Nat)} (hn : r.left ≠ 0)
    (hw : (s.tile t).placeWords r.dest r.left = .inr ws) :
    s.postRecv t r = s.modTile t fun x => { x with recvs := x.recvs ++ [r] } := by
  unfold State.postRecv
  rw [State.try'_inr _ _ hw, if_neg hn]

/-- An arriving flit goes to the receive at the front of the tile's list. -/
theorem execFlitArrival_takes {s u : State} {c : TCtl} {f : Flits} {r : Recv} {l : List Recv}
    (hf : firstFlits (s.tile c.tile).flits = some f) (hm : s.moves c.tile = true) (ha : f.arrive ≤ c.cyc)
    (hu : u = ((s.noteFlit c.tile f).modTile c.tile fun x => flitGone x f).raiseChecks c.tile (c.chk &&& 8#5))
    (hr : (u.tile c.tile).recvs = r :: l) : execFlitArrival c s = .next (u.takeFlit c r (f.words.headD {})) := by
  subst hu
  simp only [execFlitArrival, hf, hm, ha, and_self, if_true, State.arrive, hr]

/-- Settles O12: sends take their routes, receives wait in their list, and a flit meets the first of them. -/
theorem tileFlitsComplete : Obligations.TileFlitsComplete := by
  refine ⟨?send, ?sendm, ?recv, ?addrecv, ?arrival⟩
  case send =>
    intro s u c dx dy y src n h hu
    subst hu
    exact State.issue_next h _ rfl
  case sendm =>
    intro s u c dx dy src n h hu hd
    subst hu
    exact State.issue_next h _ (if_neg (by omega))
  case recv =>
    intro s u c dst n ws h hu hn hw
    subst hu
    exact State.issue_next h _ (State.postRecv_queues (r := { dest := dst, left := n }) hn hw)
  case addrecv =>
    intro s u c dst n b ws h hu hn hw
    subst hu
    exact State.issue_next h _ (State.postRecv_queues (r := { add := true, int := b, dest := dst, left := n }) hn hw)
  case arrival => exact fun s u c f r l hf hm ha hu hr => execFlitArrival_takes hf hm ha hu hr

end Sys2Proof.Machine
end

section
/-! PROOFS. Vector instructions: lane-wise arithmetic, compares, selects, moves, reductions, conversions and quantisation (R75, R77,
R167 to R185). -/

namespace Sys2Proof.Machine

/-! ### Lane-wise arithmetic -/

section Lanes
variable {s u : State} {c : TCtl} {vd va vb : Nat} {pred : Bool} {a b : VReg}

/-- An operation on two registers writes its lane function's results and its flags. -/
theorem State.vec2_issues (h : s.issues c = true) (hu : u = s.enter c) (ha : a = (u.tile c.tile).vreg va)
    (hb : b = (u.tile c.tile).vreg vb) (f : Nat → Nat → Nat) :
    s.vec2 c vd va vb pred f = u.vecOut c.tile vd pred (a.poison || b.poison) (((lanes a.data).zip (lanes b.data)).map fun x => f x.1 x.2)
      (laneFlags (((lanes a.data).zip (lanes b.data)).map fun x => ([x.1, x.2], f x.1 x.2))) := by
  subst hu ha hb
  simp only [State.vec2, State.issue_issues h, List.map_map, Function.comp_def]

/-- An operation on one register writes its lane function's results and its flags. -/
theorem State.vec1_issues (h : s.issues c = true) (hu : u = s.enter c) (ha : a = (u.tile c.tile).vreg va) (f : Nat → Nat) :
    s.vec1 c vd va pred f =
      u.vecOut c.tile vd pred a.poison ((lanes a.data).map f) (laneFlags ((lanes a.data).map fun x => ([x], f x))) := by
  subst hu ha
  simp only [State.vec1, State.issue_issues h, List.map_map, Function.comp_def]

/-- A reduction writes its result to the first lane and zeros to the others. -/
theorem State.vecReduce_issues (h : s.issues c = true) (hu : u = s.enter c) (ha : a = (u.tile c.tile).vreg va)
    (f : List Nat → Sum32) : s.vecReduce c vd va pred f =
      u.vecOut c.tile vd pred a.poison ((f (lanes a.data)).1 :: List.replicate 15 0) (f (lanes a.data)).2 := by
  subst hu ha
  simp only [State.vecReduce, State.issue_issues h]

end Lanes

/-- Settles O13: each instruction issues with its own lane function. -/
theorem vectorLanesComplete : Obligations.VectorLanesComplete := by
  refine ⟨?two, ?one, ?fma, ?scale⟩
  case two =>
    intro s u c vd va vb pred a b h hu ha hb f k hk
    have e := State.vec2_issues (vd := vd) (pred := pred) h hu ha hb
    simp only [List.mem_cons, List.not_mem_nil, or_false, Prod.mk.injEq] at hk
    obtain ⟨rfl, rfl⟩ | ⟨rfl, rfl⟩ | ⟨rfl, rfl⟩ | ⟨rfl, rfl⟩ | ⟨rfl, rfl⟩ := hk <;> exact congrArg Host.Outcome.next (e _)
  case one =>
    intro s u c vd va pred a h hu ha f k hk
    have e := State.vec1_issues (vd := vd) (pred := pred) h hu ha
    simp only [List.mem_cons, List.not_mem_nil, or_false, Prod.mk.injEq] at hk
    obtain ⟨rfl, rfl⟩ | ⟨rfl, rfl⟩ | ⟨rfl, rfl⟩ | ⟨rfl, rfl⟩ | ⟨rfl, rfl⟩ := hk <;> exact congrArg Host.Outcome.next (e _)
  case fma =>
    intro s u c vd va vb vc pred a b d r h hu ha hb hd hr
    subst hu ha hb hd hr
    exact State.issue_next h _ rfl
  case scale =>
    intro s u c vd va vb pred a b r h hu ha hb hr
    subst hu ha hb hr
    exact State.issue_next h _ rfl

/-! ### Compares, selects, moves and reductions -/

/-- Settles O14: each instruction issues with its own result. -/
theorem vectorMovesComplete : Obligations.VectorMovesComplete := by
  refine ⟨?compare, ?select, ?move, ?accMove, ?reduce⟩
  case compare =>
    intro s u c rel va vb a b h hu hr ha hb
    subst hu ha hb
    exact State.issue_next h _ (if_neg (Nat.not_lt.mpr hr))
  case select =>
    intro s u c vd va vb a b h hu ha hb
    subst hu ha hb
    exact State.issue_next h _ rfl
  case move =>
    intro s u c vd va pred a h hu ha
    subst hu ha
    exact State.issue_next h _ rfl
  case accMove =>
    intro s u c vd row pred a h hu ha
    subst hu ha
    exact State.issue_next h _ rfl
  case reduce =>
    intro s u c vd va pred a h hu ha r k hk
    have e := State.vecReduce_issues (vd := vd) (pred := pred) h hu ha
    simp only [List.mem_cons, List.not_mem_nil, or_false, Prod.mk.injEq] at hk
    obtain ⟨rfl, rfl⟩ | ⟨rfl, rfl⟩ | ⟨rfl, rfl⟩ := hk <;> exact congrArg Host.Outcome.next (e _)

end Sys2Proof.Machine
end

section
/-! PROOFS. Conversions and quantisation (R171 to R184). -/

namespace Sys2Proof.Machine

/-- A conversion the formats define widens or narrows. -/
theorem State.vcvt_issues {s : State} {c : TCtl} {fmt part : Nat} {special widen : Bool} (h : s.issues c = true)
    (hd : cvtDefined fmt part special widen = true) (vd va : Nat) (pred : Bool) :
    s.vcvt c vd va fmt part widen special pred =
      if widen then (s.enter c).cvtWiden c.tile vd va fmt part pred else (s.enter c).cvtNarrow c.tile vd va fmt part special pred := by
  simp only [State.vcvt, State.issue_issues h, hd, Bool.not_true, Bool.false_eq_true, if_false]

/-- Settles O15: each instruction issues in a format its case defines. -/
theorem conversionsComplete : Obligations.ConversionsComplete := by
  refine ⟨?convert, ?dequant, ?stat, ?scale, ?quant⟩
  case convert =>
    intro s u c vd va fmt part pred h hu
    subst hu
    exact ⟨fun hd => congrArg Host.Outcome.next (State.vcvt_issues h hd vd va pred),
      fun hd => congrArg Host.Outcome.next (State.vcvt_issues h hd vd va pred),
      fun hd => congrArg Host.Outcome.next (State.vcvt_issues h hd vd va pred),
      fun hd => congrArg Host.Outcome.next (State.vcvt_issues h hd vd va pred)⟩
  case dequant =>
    intro s u c vd va vb vc fmt part z pred a b d r q h hu ha hb hd hr hq
    subst hu ha hb hd hr hq
    refine ⟨State.issue_next h _ (if_pos rfl), fun hn hi hp => State.issue_next h _ ?_⟩
    exact (if_neg hn).trans (if_pos ⟨hi, hp⟩)
  case stat =>
    intro s u c d va k row col v h hu hv
    subst hu hv
    exact State.issue_next h _ rfl
  case scale =>
    intro s u c d k v w h hu hv hw
    subst hu hv
    exact State.issue_next h _ (State.try'_inr _ _ hw _)
  case quant =>
    intro s u c d va row col v a rs h hu hv ha hr
    subst hu hv ha
    exact State.issue_next h _ (State.try'_inr _ _ hr _)

end Sys2Proof.Machine
end

section
/-! PROOFS. Upkeep of memory and the access tables (R124, R139 to R149, R341 to R346), accesses over the bus and between devices (R22 to
R30, R430 to R432, R609 to R611), and registers by bus and by mailbox (R345, R346, R364, R367). -/

namespace Sys2Proof.Machine

/-! ### Memory upkeep -/

/-- A retirement with room in the list is pending or done. -/
theorem State.retireOne_retires {s u : State} {x : Retirement} {b : Bool} (hx : retirementOk x = true) (hr : s.retire x = some (b, u)) :
    s.retireOne x = (u, .now (if b then ST.MEM_RETIRE_PENDING else ST.OK) [BitVec.ofNat 8 (b2n b)]) := by
  simp only [State.retireOne, hx, hr, Bool.not_true, Bool.false_eq_true, if_false]

/-- Settles O16: mailbox commands run and pass the checks of their arguments. -/
theorem memoryUpkeepCompletes : Obligations.MemoryUpkeepCompletes := by
  refine ⟨?beat, ?sweep, ?cet, ?accWrite, ?accRead, ?cetClear, ?page, ?bank, ?list⟩
  case beat => exact fun s t n h => if_pos h
  case sweep => exact fun s l => rfl
  case cet => exact fun s m n v h => State.regBus_next h _ rfl
  case accWrite =>
    intro s n h ht he hf ho
    refine State.runCmd_next h rfl _ ?_
    simp only [ht, hf, ho, Nat.not_lt.mpr he, Bool.not_true, Bool.false_eq_true, or_self, if_false, okay]
  case accRead =>
    intro s n h ht he
    refine State.runCmd_next h rfl _ ?_
    simp only [ht, Nat.not_lt.mpr he, Bool.not_true, Bool.false_eq_true, or_self, if_false, giving]
  case cetClear => exact fun s n h => State.runCmd_next h rfl _ rfl
  case page =>
    intro s u n x b h hx ho hr
    subst hx
    exact State.runCmd_next h rfl _ (State.retireOne_retires ho hr)
  case bank =>
    intro s u n x b h hx ho hr
    subst hx
    exact State.runCmd_next h rfl _ (State.retireOne_retires ho hr)
  case list =>
    intro s n x y h hx ho hs hy
    subst hx hy
    refine State.runCmd_next h rfl _ ?_
    simp only [ho, hs, Bool.not_true, Bool.false_eq_true, or_self, if_false]

/-! ### Accesses -/

section Access
variable {s u : State} {m a len e : Nat} {k : AccessKind} {d : List Byte} {p : Bool} {w : Win}

/-- An access that reads and passes the bus answers what its target serves. -/
theorem exec_access_reads (hw : targetOf a = some w) (hr : ∀ n, w ≠ .remote n) (h : s.passes m k a len = true) (hk : k ≠ .write)
    {b : List Byte} {q : Bool} (hs : s.serveRead m a len e = (u, .inr (b, q))) :
    exec (.access m k a len d p e) s = .next (u.answer m b q) := by
  have el : exec (.access m k a len d p e) s = ok (s.accessBy m k a len d p e) := rfl
  rw [el, State.accessBy_local fun n => by rw [hw]; exact fun h => hr n (Option.some.inj h)]
  exact State.viaBus_next h _ (by rw [if_neg hk, hs])

/-- A write that passes the bus and that its target serves answers no data. -/
theorem exec_access_writes (hw : targetOf a = some w) (hr : ∀ n, w ≠ .remote n) (h : s.passes m .write a len = true)
    (hs : s.serveWrite m a (fitData d len) p e = (u, .inr ([], false))) :
    exec (.access m .write a len d p e) s = .next (u.answer m [] false) := by
  have el : exec (.access m .write a len d p e) s = ok (s.accessBy m .write a len d p e) := rfl
  rw [el, State.accessBy_local fun n => by rw [hw]; exact fun h => hr n (Option.some.inj h)]
  exact State.viaBus_next h _ (by rw [if_pos rfl, hs])

end Access

/-- A remote access whose completion has not come in 50 us fails with a timeout. -/
theorem execRemoteAccessTimeout_fails {s : State} {k : Nat} {r : Remote} (hr : s.remotes.lookup k = some r) (ht : r.start + 50000 ≤ s.age) :
    execRemoteAccessTimeout k s = .next ((State.busFail { s with remotes := merase s.remotes k } r.master
      (if r.write then .write else .read) r.addr r.len ST.BAM_TIMEOUT 0x1C).incReg R.BAM_TIMEOUT_CNT) := by
  simp only [execRemoteAccessTimeout, hr, Nat.not_lt.mpr ht, if_false]

section Packet
variable {s u : State} {p : Nat} {k : BamPacket}

/-- A packet of the node's own epoch that came over an open link is for another node, a request or a completion. -/
theorem execBamPacketReceive_passes (hl : s.linkOpen (p % 6) = true) (hd : s.domainOn 13 = true) (hu : u = s.linkCounts (p % 6) k)
    (he : k.epoch = u.ownEpoch) (hb : u.bit R.BAM_STATUS 6 = true) :
    (k.dest ≠ u.ownNode → execBamPacketReceive p k s = .next (u.sendPacket (p % 6) k)) ∧
    (k.dest = u.ownNode → k.comp = none → execBamPacketReceive p k s = .next (u.serveRemote k)) ∧
    (∀ c, k.dest = u.ownNode → k.comp = some c → execBamPacketReceive p k s = .next (u.remoteDone k c)) := by
  subst hu
  unfold execBamPacketReceive
  simp only [hl, hd, he, hb, Bool.not_true, Bool.false_eq_true, ne_eq, not_true_eq_false, false_or, or_self, if_false]
  refine ⟨fun hn => if_pos hn, fun hn hc => ?_, fun c hn hc => ?_⟩ <;> rw [if_neg (not_not_intro hn), hc]

end Packet

/-- Settles O17: an access that passes the bus is served by its window's target; packets and timeouts find their own case. -/
theorem accessesComplete : Obligations.AccessesComplete := by
  refine ⟨⟨?dramR, ?dramW, ?hostR, ?hostW, ?spadR, ?spadW, ?unitR, ?unitW⟩, ?packet, ?timeout⟩
  case dramR =>
    intro s m a len e k d p t hw h hk
    exact exec_access_reads hw (by simp) h hk (by simp only [State.serveRead, hw])
  case dramW =>
    intro s m a len e d p t hw h
    exact exec_access_writes hw (by simp) h (by simp only [State.serveWrite, hw])
  case hostR =>
    intro s m a len e k d p hw h hk
    exact exec_access_reads hw (by simp) h hk (by simp only [State.serveRead, hw])
  case hostW =>
    intro s m a len e d p hw h
    exact exec_access_writes hw (by simp) h (by simp only [State.serveWrite, hw])
  case spadR =>
    intro s m a len e k d p t hw h hk
    exact exec_access_reads hw (by simp) h hk (by simp only [State.serveRead, hw])
  case spadW =>
    intro s m a len e d p t hw h
    exact exec_access_writes hw (by simp) h (by simp only [State.serveWrite, hw])
  case unitR =>
    intro s m a len e k d p t hw h hk
    exact exec_access_reads hw (by simp) h hk (by simp only [State.serveRead, hw])
  case unitW =>
    intro s u m a len e d p t hw h hu
    exact exec_access_writes hw (by simp) h (by simp only [State.serveWrite, hw, hu, accept])
  case packet => exact fun s u p k hl hd hu he hb => execBamPacketReceive_passes hl hd hu he hb
  case timeout => exact fun s k r hr ht => execRemoteAccessTimeout_fails hr ht

/-! ### Registers -/

/-- A register write by command writes the register's piece over the bus. -/
theorem exec_registerWrite_writes {s u : State} {m a t : Nat} {v : Dword} {p : Piece} (hp : pieceAt a 8 = some p)
    (ht : targetOf p.base = some (.unit t)) (h : s.passes m .write p.base (min 8 p.size) = true)
    (hu : s.writeUnit m p.base (fitData (leBytes v.toNat 8) (min 8 p.size)).length (fitData (leBytes v.toNat 8) (min 8 p.size)) = accept u) :
    exec (.registerWrite m a v) s = .next (u.answer m [] false) := by
  have e : exec (.registerWrite m a v) s = ok (s.local m .write p.base (min 8 p.size) (leBytes v.toNat 8) false 0) := by
    show execRegisterWrite m a v s = _
    simp only [execRegisterWrite, hp]
  rw [e]
  exact State.viaBus_next h _ (by rw [if_pos rfl, State.serveWrite, ht]; simp only [hu, accept])

/-- Settles O18: the register's write passes the bus; the mailbox commands pass their checks. -/
theorem registerAccessCompletes : Obligations.RegisterAccessCompletes := by
  refine ⟨?write, ?read, ?write'⟩
  case write => exact fun s u m a t v p hp ht h hu => exec_registerWrite_writes hp ht h hu
  case read =>
    intro s n x h hs hx
    subst hx
    refine State.runCmd_next h rfl _ ?_
    simp only [hs, List.head?_nil, giving]
  case write' =>
    intro s u n h hs ht hp hu
    refine State.runCmd_next h rfl _ ?_
    simp only [hp, hs, ht, hu, accept, Bool.not_true, Bool.false_eq_true, if_false, okay]

end Sys2Proof.Machine
end

section
/-! PROOFS. Mailboxes: the general commands, the service of requests (R353 to R363, R366, R370, R372, R501), and the commands of wheels
and time (R35, R46 to R53). -/

namespace Sys2Proof.Machine

theorem execServiceRound_serves {s : State} (ht : s.roundNext + 3000 ≤ s.now) (hb : s.boot.phase = .done) :
    execServiceRound s = .next { (s.wrapReg R.SUP_ROUND_CNT).each (List.range 16)
      (fun u n => u.slotOf s.roundNext (s.roundNext / 4000 % 2 ^ 32) n) with roundNext := s.roundNext + 4000 } := by
  unfold execServiceRound
  rw [if_neg (by simp [Nat.not_lt.mpr ht, hb])]

/-- A request in sequence to a mailbox that is not busy lands. -/
theorem State.submit_lands {s : State} {n seq : Nat} (hb : s.bit (R.SUP_MB_STATE n) 0 = false)
    (hs : seq = (s.regN (R.SUP_MB_RSP_SEQ n) + 1) % 2 ^ 32) :
    s.submit n seq = accept (((s.setRegN (R.SUP_MB_REQ_SEQ n) seq).setFld (R.SUP_MB_STATE n) 0 1 1).modMbox n fun _ => { landed := s.age }) := by
  unfold State.submit
  rw [hb, if_neg Bool.false_ne_true, if_neg (not_not_intro hs)]
  rfl

/-- Settles O19: each command runs and passes its checks; a round is served and a request lands. -/
theorem generalCommandsComplete : Obligations.GeneralCommandsComplete := by
  refine ⟨?nop, ?cap, ?ver, ?assign, ?errors, ?round, ?request⟩
  case nop => exact fun s n h => State.runCmd_next h rfl _ rfl
  case cap => exact fun s n h hr => State.runCmd_next h rfl _ (if_pos hr)
  case ver => exact fun s n h => State.runCmd_next h rfl _ rfl
  case assign =>
    intro s n h hr
    refine State.runCmd_next h rfl _ ?_
    simp only [hr, okay]
  case errors =>
    intro s n x h hx
    subst hx
    exact State.runCmd_next h rfl _ rfl
  case round => exact fun s ht hb => execServiceRound_serves ht hb
  case request => exact fun s m n v h hb hs => State.regBus_next h _ (State.submit_lands hb hs)

theorem wheelDone_ok (s : State) (b : Nat) : wheelDone (s, ST.OK, b) = (s, .now ST.OK (leBytes b 8)) := rfl

/-- Settles O20: each command runs; the wheel's own operation gives the rest. -/
theorem timeCommandsComplete : Obligations.TimeCommandsComplete := by
  refine ⟨?load, ?enable, ?disable, ?swap, ?step⟩
  case load =>
    intro s n x h hx hs hr
    subst hx
    refine State.runCmd_next h rfl _ ?_
    simp only [hs, hr, Option.isSome_none, Bool.false_eq_true, if_false, okay]
  case enable => exact fun s u n b h ha hw => State.runCmd_next h (decide_eq_true ha) _ (by rw [hw, wheelDone_ok])
  case disable => exact fun s u n b h ha hw => State.runCmd_next h (decide_eq_true ha) _ (by rw [hw, wheelDone_ok])
  case swap => exact fun s u n b h ha hw => State.runCmd_next h (decide_eq_true ha) _ (by rw [hw, wheelDone_ok])
  case step =>
    intro s n h hw
    refine State.runCmd_next h rfl _ ?_
    rw [hw, if_neg Bool.false_ne_true]
    rfl

end Sys2Proof.Machine
end

section
/-! PROOFS. Partitions, images, jobs and slice tables by mailbox (R4, R310 to R322, R334), and the KV device (R241 to R267). -/

namespace Sys2Proof.Machine

/-- Settles O21: each command runs and passes the checks of its arguments. -/
theorem partitionCommandsComplete : Obligations.PartitionCommandsComplete := by
  refine ⟨?create, ?destroy, ?load, ?unload, ?admission, ?retire, ?table, ?credit⟩
  case create =>
    intro s u n h hr hu hs
    subst hu
    refine State.runCmd_next h rfl _ ?_
    simp only [hr, hs, if_true, okay]
  case destroy =>
    intro s u n h hp hu
    subst hu
    refine State.runCmd_waits h rfl _ ?_
    simp only [hp, ne_eq, not_true_eq_false, if_false]
  case load =>
    intro s n g k h hp hi hr hk
    subst hk
    refine State.runCmd_next h rfl _ ?_
    simp only [hp, hi, hr, ne_eq, not_true_eq_false, Bool.false_eq_true, if_false, giving]
  case unload =>
    intro s u n h hp hi hu hd
    subst hu
    refine State.runCmd_next h rfl _ ?_
    simp only [hp, hi, hd, doneOrLater, ne_eq, not_true_eq_false, Bool.false_eq_true, if_false, if_true, okay]
  case admission =>
    intro s u n g bs h hp hj hi hg hb hd hh
    subst hg
    refine State.runCmd_next h rfl _ ?_
    simp only [hp, hj, hi, hb, hh, Nat.not_lt.mpr hd, ne_eq, not_true_eq_false, Bool.not_true, Bool.false_eq_true, or_self, if_false, giving]
  case retire =>
    intro s n h hp hj hi
    refine State.runCmd_next h rfl _ ?_
    simp only [hp, hj, hi, ne_eq, not_true_eq_false, if_false, if_true, okay]
  case table =>
    intro s n h hp hb hc
    refine State.runCmd_next h rfl _ ?_
    simp only [hp, hb, hc, ne_eq, not_true_eq_false, Bool.false_eq_true, if_false, okay]
  case credit =>
    intro s n x h hx hp hj
    refine State.runCmd_next h rfl _ ?_
    rw [← hx]
    exact if_neg (not_or.mpr ⟨not_not_intro hp, by rw [hj]; exact Bool.false_ne_true⟩)

/-! ### The KV device -/

section Kv
variable {s t : State} {n code : Nat}

/-- A KV command of the enabled device that answers at once. -/
theorem State.kvCmd_next {c : Status} {ret : List Byte} (h : s.runs n code = true) (hk : s.bit R.KVD_CTRL 0 = true)
    (f : State → State × Done) (hf : f s = (t, .now c ret)) : ok (s.kvCmd n code f) = .next (t.respond n c ret) :=
  State.runCmd_next h rfl _ ((if_pos hk).trans hf)

/-- A KV command of the enabled device that leaves its mailbox waiting. -/
theorem State.kvCmd_waits (h : s.runs n code = true) (hk : s.bit R.KVD_CTRL 0 = true)
    (f : State → State × Done) (hf : f s = (t, .later)) :
    ok (s.kvCmd n code f) = .next (t.modMbox n fun m => { m with waiting := true }) :=
  State.runCmd_waits h rfl _ ((if_pos hk).trans hf)

end Kv

/-- A resolved plan that is not yet published goes out through its handoff. -/
theorem execKvPlanPublish_publishes {s u v : State} {p : Nat} {st : KvStep} (hs : (s.pool p).step = some st) (hp : st.published = none)
    (hu : u = s.hubSet 0x037 (slotAddr (s.ho st.ho).desc (s.hoW st.ho)) st.plan false) (hv : v = u.publish 0x037 st.ho (u.hoW st.ho)) :
    execKvPlanPublish p s =
      .next (((v.modPool p fun q => { q with step := some { st with published := some (v.hoSeq st.ho) } }).showResolving).finish st.mailbox
        ST.OK (leBytes st.number 4)) := by
  subst hu hv
  simp only [execKvPlanPublish, hs, hp, Option.isSome_none, Bool.false_eq_true, if_false]

/-- Settles O22: each command of the enabled device runs and passes its checks. -/
theorem kvCommandsComplete : Obligations.KvCommandsComplete := by
  refine ⟨?create, ?destroy, ?resync, ?open_, ?step, ?query, ?plan⟩
  case create =>
    intro s n h hk hp hv ho
    refine State.kvCmd_next h hk _ ?_
    simp only [hp, hv, ho, Bool.not_true, Bool.false_eq_true, or_self, if_false, okay]
  case destroy =>
    intro s u n h hk hv hs hu
    subst hu
    refine State.kvCmd_next h hk _ ?_
    simp only [hv, hs, Option.isSome_none, Bool.not_true, Bool.false_eq_true, if_false, okay]
  case resync =>
    intro s n h hk hv ht hd
    refine State.kvCmd_next h hk _ ?_
    have hn : (s.pool (s.arg n 0)).twin.isNone = false := by rw [← Option.not_isSome, ht, Bool.not_true]
    simp only [hv, hn, hd, Bool.not_true, Bool.not_false, Bool.false_eq_true, or_self, if_false, if_true, giving]
  case open_ =>
    intro s n o x h hk hv hc ht hx
    subst hx
    refine State.kvCmd_next h hk _ ?_
    simp only [hv, hc, ht, Bool.not_true, Bool.false_eq_true, ne_eq, not_true_eq_false, if_false, okay]
  case step =>
    intro s u n x h hk hv hd hs he hp ha hx hb hr
    subst hx
    refine State.kvCmd_waits h hk _ ?_
    simp only [hv, hd, hs, he, hp, ha, hb, hr, Option.isSome_none, Bool.not_true, Bool.false_eq_true, ne_eq, not_true_eq_false, or_self,
      if_false]
  case query =>
    intro s n h hk hv hc hp hr
    refine State.kvCmd_next h hk _ ?_
    simp only [hv, hc, hp, hr, Bool.not_true, Bool.false_eq_true, ne_eq, not_true_eq_false, or_self, false_and, if_false, giving]
  case plan => exact fun s u p st hs hp hu => ⟨_, rfl, execKvPlanPublish_publishes hs hp hu rfl⟩

end Sys2Proof.Machine
end

section
/-! PROOFS. The solver: loads, configurations and the course of a solve (R268 to R290). -/

namespace Sys2Proof.Machine

/-- A configuration the slot's sizes allow is written to a loaded slot that is not solving. -/
theorem State.solConfig_sets {s : State} {k cfg : Nat} (hl : s.solLoaded k = true) (hb : s.solBusy k = false)
    (hc : s.solCfgOk cfg (s.slot k).n (s.slot k).m = true) :
    s.solConfig k cfg = accept (s.setRegN (R.SOL_SLOT_CFG k) (putBits (putBits cfg 28 35 0) 63 1 1)) := by
  simp only [State.solConfig, hb, hl, hc, Bool.not_true, Bool.false_eq_true, and_false, if_false]
  rfl

theorem execSolveDequeue_begins {s : State} {x : SolStart} {l : List SolStart} (hr : s.solRun = none) (hq : s.solQueue = x :: l) :
    execSolveDequeue s = .next ((State.solBegin { s with solQueue := l } x).showSol) := by
  simp only [execSolveDequeue, hr, hq]

section Run
variable {s : State} {r : SolRun}

theorem execRefactorisationDone_factors (hr : s.solRun = some r) (hp : r.phase = .refactor) (ho : s.phaseOver r = true)
    (hd : s.solDue r 40 = false) : execRefactorisationDone s = .next ((s.solFactor r).showSol) := by
  simp only [execRefactorisationDone, hr, hp, ho, hd, Bool.not_false, and_self, if_true]

theorem execIterationDone_iterates {f : Factor} (hr : s.solRun = some r) (hf : (s.slot r.start.slot).factor = some f)
    (hp : r.phase = .iterate) (ho : s.phaseOver r = true) (hd : s.solDue r 40 = false) :
    execIterationDone s = .next ((s.solIterate r f).showSol) := by
  simp only [execIterationDone, hr, hf, hp, ho, hd, Bool.not_false, and_self, if_true]

theorem execSolDeadline_cuts (hr : s.solRun = some r) (hp : r.phase ≠ .finished) (hd : s.solDue r 0 = true) :
    execSolDeadline s = .next (s.solCut r) := by
  simp only [execSolDeadline, hr]
  exact if_pos ⟨hp, hd⟩

theorem execSolvePublish_publishes (hr : s.solRun = some r) (hp : r.phase = .finished) (ho : s.phaseOver r = true) :
    execSolvePublish s = .next (s.solPublish r) := by
  simp only [execSolvePublish, hr]
  exact if_pos ⟨hp, ho⟩

end Run

/-- Settles O23: the commands run and pass the checks of their sizes; each phase of a solve ends in its own case. -/
theorem solverCompletes : Obligations.SolverCompletes := by
  refine ⟨?load, ?config, ?unload, ?dequeue, ?refactor, ?iterate, ?deadline, ?publish⟩
  case load =>
    intro s u n ⟨d, v⟩ r h hx hl hn hm hz hb ht
    refine State.runCmd_next h rfl _ ?_
    simp only [← hx]
    dsimp only at hn hm hz hb
    exact (if_neg (by omega)).trans ((if_neg (by omega)).trans ht)
  case config =>
    intro s n h hl hb hc
    refine State.runCmd_next h rfl _ ?_
    simp only [hl, State.solConfig_sets hl hb hc, accept, Bool.not_true, Bool.false_eq_true, if_false, okay]
  case unload =>
    intro s n h hb
    exact State.runCmd_next h rfl _ (if_neg (ne_true_of_eq_false hb))
  case dequeue => exact fun s x l hr hq => execSolveDequeue_begins hr hq
  case refactor => exact fun s r hr hp ho hd => execRefactorisationDone_factors hr hp ho hd
  case iterate => exact fun s r f hr hf hp ho hd => execIterationDone_iterates hr hf hp ho hd
  case deadline => exact fun s r hr hp hd => execSolDeadline_cuts hr hp hd
  case publish => exact fun s r hr hp ho => execSolvePublish_publishes hr hp ho

end Sys2Proof.Machine
end

section
/-! PROOFS. The control engine (R293 to R309) and the pixel engine (R215 to R223). -/

namespace Sys2Proof.Machine

/-! ### The control engine -/

theorem execCtlEvaluation_lives {s u : State} {c : Nat} (hc : ((List.range 8).find? fun x => (s.chan x).pendAt.isSome) = some c)
    (hu : u = (((s.modChan c fun x => { x with pendAt := none }).showCtl).ctlSwap c ((s.chan c).pendAt.getD 0)))
    (h0 : u.chState c ≠ 0) (h4 : u.chState c ≠ 4) :
    execCtlEvaluation s = .next (u.ctlLive c ((s.chan c).pendAt.getD 0)) := by
  subst hu
  simp only [execCtlEvaluation, hc, h0, h4, if_false]

/-- A start of the test generator on a channel in test. -/
theorem State.tgWrite_starts {s t : State} {v : Nat} (hv : bitsOf v 8 1 = 1) (hb : s.bit R.CTL_TG_CFG 9 = false)
    (hc : s.chState (bitsOf v 0 3) = 3)
    (ht : t = (s.setRegN R.CTL_TG_CFG (bitsOf v 0 6 + s.fld R.CTL_TG_CFG 9 1 * 2 ^ 9 + bitsOf v 16 16 * 2 ^ 16)).setBit R.CTL_TG_CFG 9 true) :
    s.tgWrite v = accept { t with
      testGen := { s.testGen with n := 0, reg := s.regN R.CTL_TG_SEED % 2 ^ 31, phase := 0, delta := s.regN R.CTL_TG_DPHI } } := by
  subst ht
  unfold State.tgWrite
  rw [if_neg (by rw [hv]; exact Nat.one_ne_zero), if_neg (by rw [hb, hc]; simp)]

/-- A good configuration that enables an idle channel arms it. -/
theorem State.chCfgWrite_arms {s : State} {c v : Nat} (hi : bitsOf (s.regN (R.CTL_CH_CFG c)) 0 1 = 0) (hg : chCfgOk v = true)
    (hr : chRangesOk v (s.regN (R.CTL_CH_SP c)) = true) (hv : bitsOf v 0 1 = 1) :
    s.chCfgWrite c v = accept ((s.setRegN (R.CTL_CH_CFG c) v).chArm c) := by
  simp only [State.chCfgWrite, hi, hg, hr, hv, Nat.zero_ne_one, Bool.not_true, Bool.false_eq_true, and_false, or_self, if_false, if_true]

/-- A configuration that differs from an enabled channel's only in the enable disables it. -/
theorem State.chCfgWrite_disables {s : State} {c v : Nat} (he : bitsOf (s.regN (R.CTL_CH_CFG c)) 0 1 = 1)
    (hs : s.regN (R.CTL_CH_CFG c) / 2 = v / 2) (hv : bitsOf v 0 1 = 0) : s.chCfgWrite c v = accept (s.chDisable c) := by
  simp only [State.chCfgWrite, he, hs, hv, ne_eq, not_true_eq_false, if_false, if_true]

/-- Settles O24: commands run, registers accept, and an evaluation finds its own case. -/
theorem controlEngineCompletes : Obligations.ControlEngineCompletes := by
  refine ⟨?bank, ?swap, ?capture, ?evaluate, ?end_, ?start, ?enable, ?disable⟩
  case bank =>
    intro s n h hs hb
    refine State.runCmd_next h rfl _ ?_
    simp only [hs, hb, Option.isSome_none, Bool.not_true, Bool.false_eq_true, if_false, okay]
  case swap =>
    intro s u n h hs hu
    subst hu
    refine State.runCmd_next h rfl _ ?_
    simp only [hs, Option.isSome_none, Bool.false_eq_true, if_false, giving]
  case capture => exact fun s n h => State.runCmd_next h rfl _ rfl
  case evaluate => exact fun s u c hc hu h0 h4 => execCtlEvaluation_lives hc hu h0 h4
  case end_ => exact fun s hb hn => if_pos ⟨hb, hn⟩
  case start => exact fun s t m v h hv hb hc ht => State.regBus_next h _ (State.tgWrite_starts hv hb hc ht)
  case enable => exact fun s m ch v h hi hg hr hv => State.regBus_next h _ (State.chCfgWrite_arms hi hg hr hv)
  case disable => exact fun s m ch v h he hs hv => State.regBus_next h _ (State.chCfgWrite_disables he hs hv)

/-! ### The pixel engine -/

theorem execPixFrameDone_delivers {s : State} {prog cam i k : Nat} {r : PixRun} {c : PixCam} (hf : s.pixFind prog cam = some (r, c))
    (hm : pixMode (s.pixProg prog) ≠ 2) (hi : c.stream = some i) (hk : c.slot = some k) (hc : c.closed = true) :
    execPixFrameDone prog cam s = .next ((s.pixFrame (s.pixProg prog) c i k).pixLeave prog cam) := by
  simp only [execPixFrameDone, hf, hm, hi, hk, hc, if_false, if_true]

theorem execPixFrameTimeout_leaves {s : State} {prog cam : Nat} {r : PixRun} {c : PixCam} (hf : s.pixFind prog cam = some (r, c))
    (ht : r.at_ + pf (s.pixProg prog) 192 32 ≤ s.now) : execPixFrameTimeout prog cam s =
      .next (((s.incReg R.PIX_TIMEOUT_CNT).postC ST.PIX_FRAME_TIMEOUT 0x18 (c.rank % 4)).pixLeave prog cam) := by
  simp only [execPixFrameTimeout, hf, Nat.not_lt.mpr ht, if_false]

/-- Settles O25: a program with no fault loads, and each frame's end finds its own case. -/
theorem pixelEngineCompletes : Obligations.PixelEngineCompletes := by
  refine ⟨?load, ?done, ?timeout⟩
  case load =>
    intro s n h hr
    refine State.runCmd_next h rfl _ ?_
    simp only [hr, okay]
  case done => exact fun s prog cam i k r c hf hm hi hk hc => execPixFrameDone_delivers hf hm hi hk hc
  case timeout => exact fun s prog cam r c hf ht => execPixFrameTimeout_leaves hf ht

end Sys2Proof.Machine
end

section
/-! PROOFS. Snapshot triggers, recording and replay (R583, R589 to R599, R604), and requests for resets (R512 to R520). -/

namespace Sys2Proof.Machine

/-! ### Recording and replay -/

/-- A record that is due goes in, in time. -/
theorem execReplayInject_injects {s u : State} {r : RecItem} (hu : u = s.moreStream)
    (hr : u.recorder.loaded[u.recorder.passed]? = some r) (hp : u.replaying = true) (ht : r.time ≤ u.now) (hg : r.typ ≠ 0x0E) :
    execReplayInject true s = .next (u.atTime r.time fun v => v.injectRec r).passRec := by
  subst hu
  simp only [execReplayInject, hr, hp, Nat.not_lt.mpr ht, hg, Bool.not_true, Bool.false_eq_true, false_and, or_self, if_false]

/-- Settles O26: commands run and pass their checks, and a record that is due goes in. -/
theorem recordAndReplayComplete : Obligations.RecordAndReplayComplete := by
  refine ⟨?trigger, ?start, ?stop, ?status, ?marker, ?load, ?replay, ?halt, ?position, ?resume, ?inject⟩
  case trigger =>
    intro s n h hl hu hn
    refine State.runCmd_next h rfl _ ?_
    exact (if_neg (by omega)).trans (by rw [if_neg hn]; rfl)
  case start =>
    intro s n h ha hp hr
    refine State.runCmd_next h (decide_eq_true ha) _ ?_
    simp only [hp, hr, Bool.false_eq_true, or_self, if_false, giving]
  case stop => exact fun s n h ha => State.runCmd_next h (decide_eq_true ha) _ rfl
  case status => exact fun s n h ha => State.runCmd_next h (decide_eq_true ha) _ rfl
  case marker => exact fun s n h ha => State.runCmd_next h (decide_eq_true ha) _ rfl
  case load =>
    intro s n begun h ha hr ha1 hp
    refine State.runCmd_next h (decide_eq_true ha) _ ?_
    simp only [hr, ha1, hp, Bool.not_true, Bool.false_eq_true, and_false, decide_false, if_false, giving]
  case replay =>
    intro s u n r h ha hp hl hr hb hu
    subst hu
    obtain ⟨l, hl⟩ := List.head?_eq_some_iff.mp hl
    refine State.runCmd_next h (decide_eq_true ha) _ ?_
    simp only [hp, hl, hr, hb, Bool.not_true, Bool.false_eq_true, if_false, giving]
  case halt =>
    intro s n h ha hr
    refine State.runCmd_next h (decide_eq_true ha) _ ?_
    simp only [hr, if_true, giving]
  case position => exact fun s n h ha => State.runCmd_next h (decide_eq_true ha) _ rfl
  case resume => exact fun s n h ha => State.runCmd_next h (decide_eq_true ha) _ rfl
  case inject => exact fun s u r hu hr hp ht hg => execReplayInject_injects hu hr hp ht hg

/-! ### Requests for resets -/

/-- A request for a target that is not its own mailbox starts the rung. -/
theorem State.resetReq_starts {s : State} {n rung : Nat} {t : Option Target} {x : Target} (ht : t = some x) (hx : x ≠ .mailbox n) :
    s.resetReq n rung t =
      (s.startRung { rung := rung, target := x, unit := s.arg n 1, start := s.age, mailbox := some n }, .later) := by
  simp only [State.resetReq, ht, hx, if_false]

/-- Settles O27: each request runs, finds its target and waits. -/
theorem resetRequestsComplete : Obligations.ResetRequestsComplete := by
  refine ⟨?context, ?engine, ?partition, ?chip, ?power⟩
  case context =>
    exact fun s n x h ha ht hx => State.runCmd_waits h (decide_eq_true ha) _ (State.resetReq_starts ht hx)
  case engine =>
    exact fun s n x h ha ht hx => State.runCmd_waits h (decide_eq_true ha) _ (State.resetReq_starts ht hx)
  case partition =>
    intro s n x h ha ht hx
    refine State.runCmd_waits h (decide_eq_true ha) _ ?_
    simp only [ht]
    exact State.resetReq_starts rfl hx
  case chip =>
    intro s n h ha hc
    refine State.runCmd_waits h (decide_eq_true ha) _ ?_
    simp only [State.startChipReset, hc, Option.isSome_none, Bool.false_eq_true, if_false]
  case power => exact fun s n h ha => State.runCmd_waits h (decide_eq_true ha) _ rfl

end Sys2Proof.Machine
end

section
/-! PROOFS. Vehicle links: cameras (R377 to R386, R418), Ethernet (R387 to R401) and CAN (R402 to R409). -/

namespace Sys2Proof.Machine

/-! ### Cameras -/

/-- A good configuration that the port and the stack's bandwidth allow. -/
theorem actCamPort_enables {s : State} {p v : Nat} (hv : v % 2 = 1) (hp : s.camPort p = true) (ho : camPortOk v = true)
    (hb : s.camUsed7 p + camRate7 v ≤ 7 * 160000) :
    actCamPort p s v = accept ((s.setRegN (R.CAM_PORT_CFG p) (putBits (v % 2 ^ 32) 4 12 0)).showCamBw) := by
  unfold actCamPort
  rw [if_neg (by simp [hp, ho]), if_neg (by omega), if_neg (by omega)]

section Packets
variable {s : State} {port vc i : Nat}

theorem execFrameStartPacket_opens (hp : s.camHears port = true) (hi : s.streamOf port (vc % 32) = some i)
    (hf : (s.camStr i).frame = none) : execFrameStartPacket port vc true s = .next (s.camOpen i) := by
  simp only [execFrameStartPacket, hp, hi, hf, Bool.not_true, Bool.false_eq_true, if_false]

theorem execLinePacket_takes (hp : s.camHears port = true) (hi : s.streamOf port (vc % 32) = some i) (dt : Nat) (data : List Byte) :
    execLinePacket port vc dt data true true s = .next (s.camData i dt data) := by
  simp only [execLinePacket, hp, hi, Bool.not_true, Bool.false_eq_true, if_false, if_true]

theorem execFrameEndPacket_closes {g : CamFrame} (hp : s.camHears port = true) (hi : s.streamOf port (vc % 32) = some i)
    (hf : (s.camStr i).frame = some g) : execFrameEndPacket port vc true s = .next (s.camClose i g) := by
  simp only [execFrameEndPacket, hp, hi, hf, Bool.not_true, Bool.false_eq_true, if_false]

end Packets

/-- Settles O28: the port's register accepts, and a good packet finds its stream. -/
theorem cameraCompletes : Obligations.CameraCompletes := by
  refine ⟨?port, ?start, ?line, ?end_⟩
  case port => exact fun s m p v h hv hp ho hb => State.regBus_next h _ (actCamPort_enables hv hp ho hb)
  case start => exact fun s port vc i hp hi hf => execFrameStartPacket_opens hp hi hf
  case line => exact fun s port vc dt i data hp hi => execLinePacket_takes hp hi dt data
  case end_ => exact fun s port vc i g hp hi hf => execFrameEndPacket_closes hp hi hf

/-! ### Ethernet -/

/-- A whole frame with a good check sequence on a port that is up, and that no stream of records takes. -/
theorem execEthFrameReceive_accepts {s : State} {port : Nat} {f : EthFrame} (hp : s.ethUp port = true)
    (hr : s.replaying = true → port ∈ s.recPorts) (hs : 60 ≤ f.bytes.length) (hl : f.bytes.length ≤ 9212) (hf : f.fcsOk = true)
    (hm : ¬(port ∈ s.recPorts ∧ f.bytes.take 5 = sinkMark)) :
    execEthFrameReceive port f s = .next (s.ethAccept port f (s.rxStamp port)) := by
  have heard : ¬((!s.ethUp port) = true ∨ s.replaying = true ∧ port ∉ s.recPorts) := by
    rintro (h | ⟨h, hn⟩)
    · rw [hp] at h
      exact Bool.false_ne_true h
    · exact hn (hr h)
  have whole : ¬(f.bytes.length + 4 < 64 ∨ 9216 < f.bytes.length + 4 ∨ (!f.fcsOk) = true) := by
    rw [hf]
    simp only [Bool.not_true, Bool.false_eq_true, or_false]
    omega
  unfold execEthFrameReceive
  rw [if_neg heard, if_neg whole, if_neg hm]

theorem execFrameTransmit_sends {s : State} {port k : Nat} {f : EthFrame} (h4 : port ≠ 4) (hp : s.ethUp port = true)
    (hk : s.ethNext port = some k) (hf : (s.eth port).queue[k]? = some f) (ring : Nat) :
    execFrameTransmit port ring s = .next ((s.modEth port fun e => { e with queue := e.queue.eraseIdx k }).ethLeave port f) := by
  simp only [execFrameTransmit, h4, hp, hk, hf, Bool.not_true, Bool.false_eq_true, if_false]

theorem execExpressTransmit_sends {s : State} {port : Nat} {x : Express} {r : List Express} (hp : s.ethUp port = true)
    (hx : (s.eth port).express = x :: r) : execExpressTransmit port s =
      .next (s.modEth port fun e => { e with express := r, sent := x.payload, sentAt := s.txStamp port }) := by
  simp only [execExpressTransmit, hp, hx, Bool.not_true, Bool.false_eq_true, if_false]

theorem execEthLinkUp_rises {s : State} (hd : s.domainOn 11 = true) (hr : s.power.sdsRefOk = true) (port : Nat) :
    execEthLinkUp port s = .next ((s.ethShowUp (port % 4)).modEth (port % 4) fun e => { e with dropRun := false, wasUp := true }) := by
  simp only [execEthLinkUp, hd, hr, Bool.not_true, Bool.false_eq_true, or_self, if_false]

theorem execGateBankSwap_swaps {s : State} {port req : Nat} (hd : s.domainOn 11 = true)
    (hl : 1000 ≤ gateSum (s.gateList (port % 4) (!(s.eth (port % 4)).activeB)))
    (hu : gateSum (s.gateList (port % 4) (!(s.eth (port % 4)).activeB)) ≤ 1000000000) (ht : req + 10000 ≤ s.now) :
    execGateBankSwap port req s = .next (s.modEth (port % 4) fun e => { e with activeB := !e.activeB }) := by
  simp only [execGateBankSwap, hd, Nat.not_lt.mpr hl, Nat.not_lt.mpr hu, Nat.not_lt.mpr ht, Bool.not_true, Bool.false_eq_true,
    or_self, if_false]

section Table
variable {s : State} {t p e v : Nat}

theorem actEthTbl_reads (hv : v % 4 = 1) (hr : bitsOf v 1 1 = 0) (hs : s.ethSel = some (t, p, e)) :
    actEthTbl s v = accept (s.setRegBytes (R.ETH_TBL_DATA 0) (leBytes (mget 0#1024 s.ethTables (ethKey t p e)).toNat 128)) := by
  simp only [actEthTbl, hv, hr, hs, Nat.one_ne_zero, Nat.zero_ne_one, if_false]

/-- A write to a table other than the templates and the active gate list. -/
theorem actEthTbl_writes {new : Nat} {x : SMap (BitVec 1024)} (hv : v % 4 = 2) (hw : bitsOf v 1 1 = 1) (hs : s.ethSel = some (t, p, e))
    (hg : ¬((t = 2 ∨ t = 3) ∧ ((s.eth p).activeB = decide (t = 3)))) (ht : t ≠ 8)
    (hn : new = leNat (s.regBytes (R.ETH_TBL_DATA 0) 16))
    (hx : x = mset 0#1024 s.ethTables (ethKey t p e) (BitVec.ofNat 1024 (storedEntry t (mget 0#1024 s.ethTables (ethKey t p e)).toNat new))) :
    actEthTbl s v = accept { s with ethTables := x } := by
  rw [hx, hn]
  unfold actEthTbl
  rw [if_neg (by rw [hv]; exact Nat.succ_ne_zero 1), hs]
  exact (if_pos hw).trans ((if_neg hg).trans (if_neg fun h => ht h.1))

end Table

/-- A mailbox frame in sequence, of a binding that allows it, to a mailbox that is not busy. -/
theorem State.mbFrame_submits {s : State} {f : MbFrame} {n : Nat} (hn : n = s.fld (R.ETH_MB_CFG f.binding) 1 4)
    (hb : s.mbBound f = true) (hi : f.startId.toNat = s.regN R.SUP_START_ID) (hf : s.bit (R.SUP_MB_STATE n) 0 = false)
    (hs : f.seq.toNat = (s.regN (R.SUP_MB_RSP_SEQ n) + 1) % 2 ^ 32) (hr : f.seq.toNat ≠ s.regN (R.SUP_MB_RSP_SEQ n)) :
    s.mbFrame f =
      ((s.setRegBytes (R.SUP_MB_REQ n) ((f.buffer ++ List.replicate 256 0#8).take 256)).submit n f.seq.toNat).1 := by
  subst hn
  unfold State.mbFrame
  exact (if_neg (by simp [hb])).trans ((if_neg (not_not_intro hi)).trans ((if_neg hr).trans
    ((if_neg (by simp [hf])).trans (if_pos ⟨by simp [hf], hs⟩))))

/-- Settles O29: frames, links, gates and tables find their own case. -/
theorem ethernetCompletes : Obligations.EthernetCompletes := by
  refine ⟨?receive, ?transmit, ?express, ?down, ?up, ?gate, ?read, ?write, ?frame, ?response⟩
  case receive => exact fun s port f hp hr hs hl hf hm => execEthFrameReceive_accepts hp hr hs hl hf hm
  case transmit => exact fun s port ring k f h4 hp hk hf => execFrameTransmit_sends h4 hp hk hf ring
  case express => exact fun s port x r hp hx => execExpressTransmit_sends hp hx
  case down => exact fun s port => rfl
  case up => exact fun s port hd hr => execEthLinkUp_rises hd hr port
  case gate => exact fun s port req hd hl hu ht => execGateBankSwap_swaps hd hl hu ht
  case read => exact fun s m t p e v h hv hr hs => State.regBus_next h _ (actEthTbl_reads hv hr hs)
  case write =>
    exact fun s m t p e new v x h hv hw hs hg ht hn hx => State.regBus_next h _ (actEthTbl_writes hv hw hs hg ht hn hx)
  case frame =>
    intro s f n hd hc hn hb hi hf hs hr
    exact congrArg Host.Outcome.next ((if_pos ⟨hd, hc⟩).trans (State.mbFrame_submits hn hb hi hf hs hr))
  case response => exact fun s b hb hd hc => if_pos ⟨hb, hd, hc⟩

end Sys2Proof.Machine
end

section
/-! PROOFS. CAN: transmission, reception, errors and sleep (R402 to R409). -/

namespace Sys2Proof.Machine

/-- A register's bit is its field of width 1. -/
theorem State.bit_iff (s : State) (a i : Nat) : s.bit a i = true ↔ bitsOf (s.regN a) i 1 = 1 :=
  decide_eq_true_iff

theorem State.bit_eq_false_iff (s : State) (a i : Nat) : s.bit a i = false ↔ bitsOf (s.regN a) i 1 ≠ 1 := by
  rw [← Bool.not_eq_true, State.bit_iff]

section Controller
variable {s : State} {n k : Nat}

theorem execCanFrameTransmitted_leaves (hn : n < 8) (hk : (s.can n).sending = some k) : execCanFrameTransmitted n s =
    .next (((s.setFld (R.CAN_STATUS n) 0 8 (s.fld (R.CAN_STATUS n) 0 8 - 1)).canShow n).canLeave n k) := by
  simp only [execCanFrameTransmitted, Nat.mod_eq_of_lt hn, hk]

theorem execCanArbitrationLost_attempts (hn : n < 8) (hk : (s.can n).sending = some k) :
    execCanArbitrationLost n s = .next (s.canAttempt n k) := by
  simp only [execCanArbitrationLost, Nat.mod_eq_of_lt hn, hk]

/-- A transmit error short of bus-off costs 8 counts and another attempt. -/
theorem execCanBusError_attempts (hn : n < 8) (hi : s.bit (R.CAN_CTRL n) 0 = false) (hs : s.fld (R.CAN_STATUS n) 16 2 < 2)
    (hk : (s.can n).sending = some k) (hc : s.fld (R.CAN_STATUS n) 0 8 + 8 ≤ 255) : execCanBusError n true s =
    .next (((s.setFld (R.CAN_STATUS n) 0 8 (s.fld (R.CAN_STATUS n) 0 8 + 8)).canShow n).canAttempt n k) := by
  simp only [execCanBusError, Nat.mod_eq_of_lt hn, hi, Nat.not_le.mpr hs, hk, Nat.not_lt.mpr hc, Bool.false_eq_true, or_self, if_false, if_true]

theorem execCanRecovered_returns (hn : n < 8) (hs : s.fld (R.CAN_STATUS n) 16 2 = 2) (hr : s.bit (R.CAN_CTRL n) 3 = true) :
    execCanRecovered n s = .next (((s.canBack n).postC ST.CAN_RECOVERED 0x1B n).canPick n) := by
  simp only [execCanRecovered, Nat.mod_eq_of_lt hn, hs, hr, and_self, if_true]

theorem execCanWake_wakes (hn : n < 8) (hs : s.bit (R.CAN_CTRL n) 6 = true)
    (hm : s.fld (R.CAN_CTRL n) 7 2 = 1 ∨ s.fld (R.CAN_CTRL n) 7 2 = 2) :
    execCanWake n s = .next ((s.postC ST.CAN_WAKE 0x1B n).wakeOn 2 n) := by
  simp only [execCanWake, Nat.mod_eq_of_lt hn, hs, hm, and_self, if_true]

/-- Initialisation ends with a configuration that holds. -/
theorem actCanCtrl_starts {v : Nat} (hv : v % 2 = 0) (ho : s.regN (R.CAN_CTRL n) % 2 = 1) (hc : s.canOk n v = true)
    (hs : ((s.setRegN (R.CAN_CTRL n) (v % 2 ^ 10)).canBack n).fld (R.CAN_STATUS n) 16 2 ≠ 3) :
    actCanCtrl n s v = accept ((((s.setRegN (R.CAN_CTRL n) (v % 2 ^ 10)).canBack n).canRest n).canPick n) := by
  simp only [actCanCtrl, hv, ho, hc, hs, Bool.not_true, Bool.false_eq_true, and_false, and_self, Nat.zero_ne_one, if_false, if_true]

/-- Sleep is a write that leaves initialisation alone. -/
theorem actCanCtrl_sleeps {v : Nat} (hv : v % 2 = 0) (ho : s.regN (R.CAN_CTRL n) % 2 = 0) (hs : bitsOf v 6 1 = 1) :
    actCanCtrl n s v = accept (((s.setRegN (R.CAN_CTRL n) (v % 2 ^ 10)).canRest n).canPick n) := by
  simp only [actCanCtrl, hv, ho, hs, Nat.zero_ne_one, Nat.one_ne_zero, false_and, and_false, if_false]

/-- A frame the controller understands and a filter takes is delivered. -/
theorem execCanFrameReceive_delivers {t : State} {a : Nat} {f : CanFrame} (hn : n < 8) (hi : s.bit (R.CAN_CTRL n) 0 = false)
    (hs : s.fld (R.CAN_STATUS n) 16 2 < 2) (hf : f.fd = true → s.bit (R.CAN_CTRL n) 1 = true)
    (hx : f.xl = true → s.bit (R.CAN_CTRL n) 2 = true) (hr : s.replaying = false)
    (ht : t = (s.setFld (R.CAN_STATUS n) 8 8 (if 127 < s.fld (R.CAN_STATUS n) 8 8 then 127 else s.fld (R.CAN_STATUS n) 8 8 - 1)).canShow n)
    (hm : t.canMatch n f = some (k, a)) (ha : a ≠ 0) : execCanFrameReceive n f s =
      .next ((t.tap 0x04 (some 2) 0x1B n t.now (leBytes n 1 ++ t.canElement f)).canDeliver n k a f) := by
  subst ht
  have heard : ¬(bitsOf (s.regN (R.CAN_CTRL n)) 0 1 = 1 ∨ 2 ≤ s.fld (R.CAN_STATUS n) 16 2 ∨
      (f.fd = true ∧ bitsOf (s.regN (R.CAN_CTRL n)) 1 1 = 0) ∨ (f.xl = true ∧ bitsOf (s.regN (R.CAN_CTRL n)) 2 1 = 0) ∨
      s.replaying = true) := by
    rw [State.bit_eq_false_iff] at hi
    simp only [State.bit_iff] at hf hx
    rintro (h | h | ⟨h, h0⟩ | ⟨h, h0⟩ | h)
    · exact hi h
    · omega
    · exact absurd (hf h) (by omega)
    · exact absurd (hx h) (by omega)
    · exact ne_true_of_eq_false hr h
  simp only [execCanFrameReceive, Nat.mod_eq_of_lt hn, hm, ha, if_neg heard, if_false]

end Controller

/-- Settles O30: registers accept, and each event of the bus finds its own case. -/
theorem canCompletes : Obligations.CanCompletes := by
  refine ⟨?request, ?transmitted, ?lost, ?error, ?recovered, ?start, ?sleep, ?receive, ?wake⟩
  case request => exact fun s m n v h => State.regBus_next h _ rfl
  case transmitted => exact fun s n k hn hk => execCanFrameTransmitted_leaves hn hk
  case lost => exact fun s n k hn hk => execCanArbitrationLost_attempts hn hk
  case error => exact fun s n k hn hi hs hk hc => execCanBusError_attempts hn hi hs hk hc
  case recovered => exact fun s n hn hs hr => execCanRecovered_returns hn hs hr
  case start => exact fun s m n v h hv ho hc hs => State.regBus_next h _ (actCanCtrl_starts hv ho hc hs)
  case sleep => exact fun s m n v h hv ho hs => State.regBus_next h _ (actCanCtrl_sleeps hv ho hs)
  case receive => exact fun s t n k a f hn hi hs hf hx hr ht hm ha => execCanFrameReceive_delivers hn hi hs hf hx hr ht hm ha
  case wake => exact fun s n hn hs hm => execCanWake_wakes hn hs hm

end Sys2Proof.Machine
end

section
/-! PROOFS. Sensor inputs (R410 to R413) and the hardened pins (R414 to R417). -/

namespace Sys2Proof.Machine

/-! ### SENT and SPI -/

theorem execSentMessage_takes {s : State} {j status : Nat} {l : List Nat} (hj : j < 8) (he : s.bit (R.SENT_CFG j) 0 = true)
    (hr : s.replaying = false) (hl : l.length = s.fld (R.SENT_CFG j) 13 3) : execSentMessage j status l true s =
      .next ((s.sentWordIn j (sentWord status l)).tap 0x05 (some 3) 0x20 j s.now (leBytes (sentWord status l) 4)) := by
  have heard : ¬(bitsOf (s.regN (R.SENT_CFG j)) 0 1 = 0 ∨ s.replaying = true) := by
    have e := of_decide_eq_true he
    unfold State.fld at e
    rw [e, hr]
    simp
  unfold execSentMessage
  rw [Nat.mod_eq_of_lt hj]
  exact (if_neg heard).trans (if_pos ⟨rfl, hl⟩)

theorem execSentSilent_reports {s : State} {j : Nat} (hj : j < 8) (he : s.bit (R.SENT_CFG j) 0 = true) (ht : s.regN (R.SENT_SILENT j) ≠ 0)
    (hs : (s.sent j).silent = false) (hv : (s.sent j).validAt + 1000 * s.regN (R.SENT_SILENT j) ≤ s.age) :
    execSentSilent j s = .next ((s.modSent j fun x => { x with silent := true }).postC ST.SENT_SILENT 0x20 j) := by
  unfold execSentSilent
  rw [Nat.mod_eq_of_lt hj]
  exact if_pos ⟨he, ht, by rw [hs]; rfl, hv⟩

theorem execSpiInputDue_queues {s : State} {j t : Nat} (hj : j < 4) (he : s.bit (R.SPI_CFG j) 0 = true) (hp : s.regN (R.SPI_PERIOD j) ≠ 0)
    (ht : t = lastInstant s.now (s.regN (R.SPI_PHASE j)) (s.regN (R.SPI_PERIOD j))) (hd : (s.spi j).lastDue ≠ some t) :
    execSpiInputDue j s = .next (((s.spiNext j).modSpi j fun x => { x with lastDue := some t, waiting := some t }).spiNext j) := by
  subst ht
  simp only [execSpiInputDue, Nat.mod_eq_of_lt hj, he, hp, hd, Bool.not_true, Bool.false_eq_true, or_self, if_false]

theorem execSpiTransferDone_delivers {s t : State} {j n w : Nat} {data : List Byte} (hj : j < 4) (hb : (s.spi j).busy = some true)
    (hn : n = s.fld (R.SPI_CFG j) 8 9 + 1) (hw : w = leNat (data.take 32) % 2 ^ n) (ht : t = s.modSpi j (fun x => { x with busy := none }))
    (hr : t.replaying = false) : execSpiTransferDone j data s = .next (((t.spiFrameIn j (s.spi j).cs w).tap 0x05 (some 3) 0x20
      (8 + j + 4 * (s.spi j).cs) t.now (leBytes w ((n + 7) / 8))).spiNext j) := by
  subst hn hw ht
  simp only [execSpiTransferDone, Nat.mod_eq_of_lt hj, hb, hr, Bool.false_eq_true, if_false]

/-- Settles O31: each message and transfer finds its own case. -/
theorem sensorInputsComplete : Obligations.SensorInputsComplete := by
  refine ⟨?message, ?silent, ?due, ?done⟩
  case message => exact fun s j status l hj he hr hl => execSentMessage_takes hj he hr hl
  case silent => exact fun s j hj he ht hs hv => execSentSilent_reports hj he ht hs hv
  case due => exact fun s j t hj he hp ht hd => execSpiInputDue_queues hj he hp ht hd
  case done => exact fun s t j n w data hj hb _ hn hw ht hr => execSpiTransferDone_delivers hj hb hn hw ht hr

/-! ### Hardened pins -/

section Pin
variable {s : State} {p : Nat}

/-- A raw excursion with fewer than three rejects near it is a reject more. -/
theorem execRawExcursion_rejects {near : List Nat} (hi : s.isInput p = true) (hr : s.replaying = false)
    (hn : near = ((s.pin p).rejects ++ [s.age]).filter (fun t => decide (s.age ≤ t + 4 * s.pinGf p))) (hl : near.length < 3) :
    execRawExcursion p s = .next (s.modPin p fun x => { x with since := s.age, rejects := near }) := by
  subst hn
  unfold execRawExcursion
  rw [hi, hr, if_neg (by simp)]
  exact if_neg fun h => absurd h.1 (Nat.not_le.mpr hl)

/-- A filtered change to the level the pin has settled on. -/
theorem execFilteredChange_changes {level on : Bool} (hi : s.isInput p = true) (hr : s.replaying = false)
    (ho : on = (level != s.bit (R.GPIO_PIN_CFG p) 31)) (hw : (s.pin p).raw = on) (hc : s.pinChatter p = false) (hp : s.pinOn p ≠ on) :
    execFilteredChange p level s = .next (s.pinChange p on) := by
  subst ho
  simp only [execFilteredChange, hi, hr, hw, hc, hp, Bool.not_true, Bool.false_eq_true, or_self, if_false, if_true]

theorem execChatterClear_clears (hi : s.isInput p = true) (hr : s.replaying = false) (hc : s.pinChatter p = true)
    (hw : (s.pin p).raw = false) (ht : (s.pin p).since + s.regN (R.GPIO_PIN_CC p) ≤ s.age) :
    execChatterClear p s = .next ((s.setBit (R.GPIO_PIN_STATE p) 1 false).pinChange p false) := by
  simp only [execChatterClear, hi, hr, hc, hw, ht, Bool.not_false, and_self, if_true]

theorem execStuckLatch_latches (hi : s.isInput p = true) (ht : s.regN (R.GPIO_PIN_STUCK p) ≠ 0) (ho : s.pinOn p = true)
    (hs : s.bit (R.GPIO_PIN_STATE p) 2 = false) (hh : (s.pin p).heldAt + ms (s.regN (R.GPIO_PIN_STUCK p)) ≤ s.age) :
    execStuckLatch p s = .next ((s.setBit (R.GPIO_PIN_STATE p) 2 true).postC ST.GPIO_STUCK 0x20 p) :=
  if_pos ⟨hi, ht, ho, by rw [hs]; rfl, hh⟩

theorem execStuckClear_clears (hi : s.isInput p = true) (hs : s.bit (R.GPIO_PIN_STATE p) 2 = true) (ho : s.pinOn p = false)
    (hh : (s.pin p).heldAt + ms (s.regN (R.GPIO_PIN_SCLR p)) ≤ s.age) :
    execStuckClear p s = .next ((s.setBit (R.GPIO_PIN_STATE p) 2 false).postC ST.GPIO_STUCK_CLEAR 0x20 p) :=
  if_pos ⟨hi, hs, by rw [ho]; rfl, hh⟩

end Pin

theorem execSafeDiscrepancy_reports {s : State} {t : Nat} (hd : s.safeDiff = (some t, false)) (ht : t + s.regN R.GPIO_SAFE_DISC < s.age) :
    execSafeDiscrepancy s = .next (State.postC { s with safeDiff := (some t, true) } ST.GPIO_SAFE_DISCREPANCY 0x20 0) := by
  simp only [execSafeDiscrepancy, hd, ht, if_true]

/-- Settles O32: each event finds its own case. -/
theorem pinEventsComplete : Obligations.PinEventsComplete := by
  refine ⟨?excursion, ?change, ?chatter, ?latch, ?clear, ?discrepancy⟩
  case excursion => exact fun s p near hi hr hn hl => execRawExcursion_rejects hi hr hn hl
  case change => exact fun s p level on hi hr ho hw hc hp => execFilteredChange_changes hi hr ho hw hc hp
  case chatter => exact fun s p hi hr hc hw ht => execChatterClear_clears hi hr hc hw ht
  case latch => exact fun s p hi ht ho hs hh => execStuckLatch_latches hi ht ho hs hh
  case clear => exact fun s p hi hs ho hh => execStuckClear_clears hi hs ho hh
  case discrepancy => exact fun s t hd ht => execSafeDiscrepancy_reports hd ht

end Sys2Proof.Machine
end

section
/-! PROOFS. Records arriving, the handler, the watchdogs and the search for a suspect (R488 to R506, R524 to R529). -/

namespace Sys2Proof.Machine

theorem execErrorRecordArrival_arrives {s : State} {u : Nat} {r : ErrRecord} {l : List ErrRecord} (h : takeFrom u s.posting = some (r, l)) :
    execErrorRecordArrival u s = .next (State.recArrive { s with posting := l } r) := by
  simp only [execErrorRecordArrival, h]

/-- The handler's slot of a round takes the next record, while the supervisor is alive. -/
theorem execErrorHandlerStep_handles {s : State} {r : ErrRecord} (hh : s.handled < s.roundNext) (hn : s.roundNext ≤ s.now + 800)
    (hb : s.boot.phase = .done) (he : s.safety.expired = false) (hr : State.nextRec { s with handled := s.roundNext } = some r) :
    execErrorHandlerStep s = .next (State.handle { s with handled := s.roundNext } r) := by
  unfold execErrorHandlerStep
  rw [if_pos ⟨hh, hn, hb, by rw [he]; rfl⟩]
  simp only [hr]

/-- A suspect whose replay hangs is the guilty one. -/
theorem execSuspectReplayEnd_finds {s : State} {t q : Nat} {x : Nat × Nat} {r : List (Nat × Nat)} {rest : List Search}
    (hs : s.searches = { tile := t, suspects := x :: r, quar := some q } :: rest)
    (hh : ((s.jobTiles q 0).any fun u => (s.tile u).hung) = true) :
    execSuspectReplayEnd true s = .next (State.driveSearch { (s.endReplay q).guilty x with searches := rest } 5) := by
  simp only [execSuspectReplayEnd, hs, hh, if_true]

theorem execEngineTimeout_reports {s : State} {u sub c : Nat} (h : s.timedOut u sub = some c) :
    execEngineTimeout u sub s = .next (s.post { mkRec ST.ERR_ENGINE_TIMEOUT u sub with context := c % 2 ^ 32 }) := by
  simp only [execEngineTimeout, h]

theorem execHartWatchdog_expires {s : State} {h : Nat} (hh : h < 16) (ht : 0 < s.fld (R.HST_WDOG_CFG h) 0 24)
    (hk : mget 0 s.hartKick h + 1000 * s.fld (R.HST_WDOG_CFG h) 0 24 ≤ s.age) (guest : Nat) : execHartWatchdog h guest s =
      .next ((s.hartKicked h).post { mkRec ST.HST_HART_WDOG 0x1F h with context := guest % 16 }) := by
  unfold execHartWatchdog
  rw [Nat.mod_eq_of_lt hh]
  exact if_pos ⟨ht, hk⟩

/-- A corrected error is counted, and each 256th is reported. -/
theorem execHostCacheError_corrected {s : State} {core kind : Nat} (h1 : kind ≠ 1) (h2 : kind ≠ 2) {t : State}
    (ht : t = { s with hostCe := mset 0 s.hostCe (core % 16) (mget 0 s.hostCe (core % 16) + 1) }) : execHostCacheError core kind s =
      .next (if mget 0 s.hostCe (core % 16) % 256 = 0 then t.postC ST.HST_CORRECTED 0x1F (core % 16) else t) := by
  subst ht
  unfold execHostCacheError
  exact (if_neg h1).trans (if_neg h2)

/-- Settles O33: each event finds its own case. -/
theorem errorHandlingCompletes : Obligations.ErrorHandlingCompletes := by
  refine ⟨?lockstep, ?arrival, ?handler, ?search, ?engine, ?hart, ?kick, ?cache⟩
  case lockstep => exact fun s pair hp hh => if_pos ⟨hp, hh⟩
  case arrival => exact fun s u r l h => execErrorRecordArrival_arrives h
  case handler => exact fun s r hh hn hb he hr => execErrorHandlerStep_handles hh hn hb he hr
  case search => exact fun s t q x r rest hs hh => execSuspectReplayEnd_finds hs hh
  case engine => exact fun s u sub c h => execEngineTimeout_reports h
  case hart => exact fun s h guest hh ht hk => execHartWatchdog_expires hh ht hk guest
  case kick => exact fun s m h hp => State.regBus_next hp _ rfl
  case cache =>
    intro s t core kind
    exact ⟨fun h => if_pos h, fun h => (if_neg (by rw [h]; decide)).trans (if_pos h),
      fun h1 h2 ht => execHostCacheError_corrected h1 h2 ht⟩

end Sys2Proof.Machine
end

section
/-! PROOFS. The Bamset fabric: links, hellos, time messages, mirrors and twins (R419 to R442), and discovery (R423 to R429). -/

namespace Sys2Proof.Machine

/-! ### Links, hellos and time -/

theorem State.bamCfgWrite_trains {s : State} {p v : Nat} (hb : s.bit (R.BAM_P_CFG p) 0 = false) (hv : v % 2 = 1) :
    s.bamCfgWrite p v = accept ((s.setRegN (R.BAM_P_CFG p) (v % 4)).linkTrain p 4) := by
  simp only [State.bamCfgWrite, hb, hv, Nat.one_ne_zero, Bool.false_eq_true, if_false]

section Link
variable {s : State} {p : Nat}

theorem execTrainingDone_comes_up {lat : Nat} (hp : p < 6) (hl : s.linkState p = 1) (hd : s.domainOn 13 = true)
    (hr : s.power.sdsRefOk = true) (ht : lat ≤ 1000) : execTrainingDone p lat true s =
      .next ((s.setRegN (R.BAM_P_LAT p) ((lat + 7) / 8 * 8)).setRegN (R.BAM_P_STATUS p)
        (if ((s.setRegN (R.BAM_P_LAT p) ((lat + 7) / 8 * 8)).bam p).lanes = 4 then 2 else 3)) := by
  simp only [execTrainingDone, Nat.mod_eq_of_lt hp, hl, hd, hr, Nat.not_lt.mpr ht, ne_eq, not_true_eq_false, Bool.not_true,
    Bool.false_eq_true, or_self, if_false]

/-- A link that is up says hello 10 us after its last hello. -/
theorem execHello_says (hp : p < 6) (hu : s.linkUp p = true) (ht : ∀ t, (s.bam p).sentAt = some t → t + 10000 ≤ s.age) :
    execHello p s = .next (s.modBam p fun b => { b with sent := s.ownHello p :: b.out, out := [], sentAt := some s.age }) := by
  unfold execHello
  rw [Nat.mod_eq_of_lt hp]
  cases h : (s.bam p).sentAt with
  | none => simp only [hu, h, Bool.and_self, if_true]
  | some t => simp only [hu, h, ht t h, decide_true, Bool.and_self, if_true]

/-- A hello with news, heard through a neighbour, is learned and passed on. -/
theorem execHelloReceive_learns {h : Hello} (hp : p < 6) (hu : s.linkUp p = true) (hn : s.discovery.hellos.any (sameNews h) = false) :
    execHelloReceive p false h s = .next (State.each { s with discovery := { s.discovery with
        hellos := learn s.discovery.hellos h, lastNew := s.age } } ((List.range 6).filter fun q => decide (q ≠ p) && State.linkUp
          { s with discovery := { s.discovery with hellos := learn s.discovery.hellos h, lastNew := s.age } } q) fun u q =>
        u.modBam q fun b => { b with out := b.out ++ [h] }) := by
  simp only [execHelloReceive, Nat.mod_eq_of_lt hp, hu, hn, Bool.not_true, Bool.false_eq_true, if_false]

theorem execTimeMessageSend_sends (hb : s.bit R.BAM_STATUS 8 = true) (hd : s.domainOn 13 = true) :
    execTimeMessageSend s = .next (s.each ((List.range 6).filter s.timeDue) fun u p =>
      u.modBam p fun b => { b with timeSent := some u.now, timeAt := some u.age }) := by
  simp only [execTimeMessageSend, hb, hd, Bool.not_true, Bool.false_eq_true, or_self, if_false]

/-- A time message from the port of the time root goes on to the other ports and steers the servo. -/
theorem execTimeMessageReceive_steers {t residence : Nat} (hp : p < 6) (hl : s.linkOpen p = true) (hs : s.fld R.TW_SRC 0 2 = 2)
    (ht : s.fld R.BAM_TIME_PORT 0 3 = p) {u : State}
    (hu : u = s.each ((List.range 6).filter fun q => decide (q ≠ p) && s.linkOpen q) fun u q =>
      u.modBam q fun b => { b with timeSent := some (t + residence + s.regN (R.BAM_P_LAT p)), timeAt := some u.age }) :
    execTimeMessageReceive p t residence false s =
      .next (State.servoTo u ((u.now : Int) - (t + s.regN (R.BAM_P_LAT p) : Nat))) := by
  subst hu
  simp only [execTimeMessageReceive, Nat.mod_eq_of_lt hp, hl, hs, ht, ne_eq, not_true_eq_false, Bool.not_true, Bool.false_eq_true, or_self,
    if_false]

end Link

/-! ### Mirrors and twins -/

theorem State.mirrorWrite_enables {s : State} {c v producer : Nat} (hv : v % 2 = 1) (hh : s.hoExists (bitsOf v 1 10) = true)
    (hk : (s.ho (bitsOf v 1 10)).desc.dstKind = 0) (hp : producer = 0x300 + s.fld R.BAM_STATUS 0 6) :
    s.mirrorWrite c v producer = accept (s.setRegN (R.BAM_MIR_CFG c) (v % 2 ^ 27)) := by
  simp only [State.mirrorWrite, hv, hh, hk, hp, ne_eq, not_true_eq_false, Nat.one_ne_zero, Bool.not_true, Bool.false_eq_true, or_self, and_false,
    false_and, if_false]

/-- A good copy with a newer publish waiting starts the next copy. -/
theorem execMirrorCopyDone_goes_on {s u : State} {c k seq : Nat} (hc : c < 32) (hm : s.mirroring c = true)
    (hu : u = (State.setHoD { s with mirrors := merase s.mirrors c } (s.fld (R.BAM_MIR_CFG c) 1 10) 3).setBit (R.BAM_MIR_STATE c) 48 false)
    (ha : ((s.ho (s.fld (R.BAM_MIR_CFG c) 1 10)).desc.slotBytes = 0 || u.admits 0x038 .read
      (slotAddr (s.ho (s.fld (R.BAM_MIR_CFG c) 1 10)).desc (mget {} s.mirrors c).slot)
      (s.ho (s.fld (R.BAM_MIR_CFG c) 1 10)).desc.slotBytes) = true)
    (hn : (mget {} s.mirrors c).newer = some (k, seq)) : execMirrorCopyDone c true s =
      .next ((u.setFld (R.BAM_MIR_STATE c) 0 32 (mget {} s.mirrors c).seq).mirrorStart c (s.fld (R.BAM_MIR_CFG c) 1 10) k seq) := by
  subst hu
  simp only [execMirrorCopyDone, Nat.mod_eq_of_lt hc, hm, ha, hn, Bool.and_self, Bool.not_true, Bool.false_eq_true, if_false]

theorem State.twinWrite_enables {s : State} {k v tiles : Nat} {hash : Dword} (hv : v % 2 = 1) (ht : tiles = s.tileCount)
    (hh : hash = (s.job (bitsOf v 1 5) (s.osJob (bitsOf v 17 8))).image.hash) : s.twinWrite k v tiles hash =
      accept ((s.setRegN (R.BAM_TWIN_CFG k) (v % 2 ^ 25)).setBit (R.BAM_TWIN_STATE k) 0 true) := by
  simp only [State.twinWrite, hv, ht, hh, ne_eq, not_true_eq_false, Nat.one_ne_zero, or_self, and_false, decide_true, if_false]

/-- Settles O34: registers accept, and each event of a link finds its own case. -/
theorem fabricLinksComplete : Obligations.FabricLinksComplete := by
  refine ⟨?port, ?training, ?loss, ?hello, ?news, ?send, ?time, ?mirror, ?copy, ?twin⟩
  case port => exact fun s m p v h hb hv => State.regBus_next h _ (State.bamCfgWrite_trains hb hv)
  case training => exact fun s p lat hp hl hd hr ht => execTrainingDone_comes_up hp hl hd hr ht
  case loss => exact fun s p hu => congrArg Host.Outcome.next (if_pos hu)
  case hello => exact fun s p hp hu ht => execHello_says hp hu ht
  case news => exact fun s p h hp hu hn => execHelloReceive_learns hp hu hn
  case send => exact fun s hb hd => execTimeMessageSend_sends hb hd
  case time => exact fun s p t residence hp hl hs ht => execTimeMessageReceive_steers hp hl hs ht rfl
  case mirror => exact fun s m c producer v h hv hh hk hp => State.regBus_next h _ (State.mirrorWrite_enables hv hh hk hp)
  case copy => exact fun s u c k seq hc hm hu ha hn => execMirrorCopyDone_goes_on hc hm hu ha hn
  case twin => exact fun s m k tiles v hash h hv ht hh => State.regBus_next h _ (State.twinWrite_enables hv ht hh)

/-! ### Discovery -/

/-- The root computes the result when 1 ms brings no news. -/
theorem execDiscoveryQuiet_computes {s : State} {h : Hello} (hb : s.bit R.BAM_STATUS 9 = true)
    (hq : s.discovery.lastNew + 1000000 ≤ s.age) (hs : s.discovery.sentAt = none) (hd : dupFp s.devices = false)
    (hl : s.devices.length ≤ 64) (hh : s.devices.head? = some h) (hf : h.fp = s.fingerprint) :
    execDiscoveryQuiet s = .next (s.computeResult s.devices) := by
  obtain ⟨l, e⟩ := List.head?_eq_some_iff.mp hh
  unfold execDiscoveryQuiet
  rw [if_neg (by simp [hb, Nat.not_lt.mpr hq, hs])]
  refine (if_neg (ne_true_of_eq_false hd)).trans ((if_neg (Nat.not_lt.mpr hl)).trans ?_)
  rw [e]
  exact if_pos hf

theorem execDiscoveryCommit_commits {s : State} {r : DiscResult} (hr : s.discovery.result = some r)
    (hc : s.discovery.sentAt.isSome = true → s.discovery.commit = true) : execDiscoveryCommit s = .next (s.commitResult r) := by
  simp only [execDiscoveryCommit, hr]
  exact if_neg fun h => by simp [hc h.1] at h

theorem execAckTimeout_reports {s : State} {t : Nat} {x : Nat × DiscResult} (hs : s.discovery.sentAt = some t)
    (ht : t + 10000000 ≤ s.age) (hx : (s.discovery.sentTo.find? fun x => !(s.discovery.acks.contains x.1)) = some x) :
    execAckTimeout s = .next ((s.post { mkRec ST.BAM_TOO_MANY 0x1C 0 with syndrome := x.1 }).endDiscovery) := by
  simp only [execAckTimeout, hs, hx, Nat.not_lt.mpr ht, if_false]

theorem State.bamCtrlWrite_discovers {s : State} {v : Nat} (h0 : v % 2 = 1) (h1 : bitsOf v 1 1 = 1) :
    s.bamCtrlWrite v = accept (s.setBit R.BAM_CTRL 0 true).startDiscovery := by
  simp only [State.bamCtrlWrite, h0, h1, decide_true, and_self, if_true]

/-- Settles O35: each step of a discovery finds its own case. -/
theorem discoveryCompletes : Obligations.DiscoveryCompletes := by
  refine ⟨?discover, ?run, ?quiet, ?result, ?ack, ?commit, ?timeout⟩
  case discover => exact fun s m v h h0 h1 => State.regBus_next h _ (State.bamCtrlWrite_discovers h0 h1)
  case run => exact fun s hd hc hs => if_pos ⟨hd, hc, by rw [hs]; rfl⟩
  case quiet => exact fun s h hb hq hs hd hl hh hf => execDiscoveryQuiet_computes hb hq hs hd hl hh hf
  case result => exact fun s r hb hs => if_pos ⟨hb, by rw [hs]; rfl⟩
  case ack =>
    intro s fp a hs ht ha
    subst ha
    exact if_pos ⟨hs, ht⟩
  case commit => exact fun s r hr hc => execDiscoveryCommit_commits hr hc
  case timeout => exact fun s t x hs ht hx => execAckTimeout_reports hs ht hx

end Sys2Proof.Machine
end

section
/-! PROOFS. The reset ladder: dumps, rungs, the S4 hold and chip resets (R492, R507 to R521). -/

namespace Sys2Proof.Machine

section Dumps
variable {s : State} {d : Dump}

theorem execDumpDone_ends (hd : s.dump = some d) (hl : s.dumpTime d.sections ≤ dumpLimit d.scope)
    (ht : d.start + s.dumpTime d.sections ≤ s.age) : execDumpDone s = .next (s.endDump d (s.dumpTime d.sections) false) := by
  simp only [execDumpDone, hd]
  exact congrArg Host.Outcome.next (if_pos ⟨hl, ht⟩)

theorem execSnapshotAccessTimeout_marks (hd : s.dump = some d) (u sub : Nat) : execSnapshotAccessTimeout u sub s =
    .next { s with dump := some { d with
      sections := d.sections.map (fun x => if x.unit = u ∧ x.subsource = sub ∧ x.state = 0 then { x with state := 1 } else x) } } := by
  simp only [execSnapshotAccessTimeout, hd]

theorem execDumpCap_cuts (hd : s.dump = some d) (hl : dumpLimit d.scope < s.dumpTime d.sections)
    (ht : d.start + dumpLimit d.scope ≤ s.age) : execDumpCap s = .next (s.endDump d (dumpLimit d.scope) true) := by
  simp only [execDumpCap, hd]
  exact congrArg Host.Outcome.next (if_pos ⟨hl, ht⟩)

end Dumps

section Rungs
variable {s : State} {k : Nat} {g : Rung}

/-- A rung that has passed its bound moves to the next one. -/
theorem execEscalation_escalates (hg : s.rungs[k]? = some g) (hr : g.rung ≤ 3) (ht : g.start + rungBound g.rung ≤ s.age) :
    execEscalation k s = .next (((s.dropRung k).post (rungRec s (mkRec (escCode (nextRung g)) 0x05 0) g.target)).startRung
      { g with rung := nextRung g, start := ((s.dropRung k).post (rungRec s (mkRec (escCode (nextRung g)) 0x05 0) g.target)).age }) := by
  simp only [execEscalation, hg]
  exact congrArg Host.Outcome.next (if_pos ⟨hr, ht⟩)

theorem execResetDone_ends (hg : s.rungs[k]? = some g) (hr : g.rung ≤ 3) (ht : s.age ≤ g.start + rungBound g.rung)
    (ho : s.rungOver g = true) : execResetDone k s = .next (s.rungDone k g) := by
  simp only [execResetDone, hg]
  exact congrArg Host.Outcome.next (if_pos ⟨hr, ht, ho⟩)

end Rungs

theorem State.startChipReset_starts {s : State} (h : s.chipReset = none) (cause : Nat) :
    s.startChipReset cause = State.moveTo { s with chipReset := some (cause, s.age) } 0 s.now false := by
  unfold State.startChipReset
  rw [h]
  rfl

theorem execChipResetApply_applies {s : State} {cause t : Nat} (hc : s.chipReset = some (cause, t)) (ht : t + 2000 ≤ s.age) :
    execChipResetApply s = .next (s.applyReset cause) := by
  simp only [execChipResetApply, hc, ht, if_true]

/-- Settles O36: each event of the ladder finds its own case. -/
theorem resetLadderCompletes : Obligations.ResetLadderCompletes := by
  refine ⟨?dump, ?access, ?cap, ?escalation, ?done, ?hold, ?apply, ?pin, ?boot⟩
  case dump => exact fun s d hd hl ht => execDumpDone_ends hd hl ht
  case access =>
    intro s u sub d l hd hl
    rw [hl]
    exact execSnapshotAccessTimeout_marks hd u sub
  case cap => exact fun s d hd hl ht => execDumpCap_cuts hd hl ht
  case escalation => exact fun s k g hg hr ht => execEscalation_escalates hg hr ht
  case done => exact fun s k g hg hr ht ho => execResetDone_ends hg hr ht ho
  case hold =>
    exact fun s he ht hc => (if_pos ⟨he, ht⟩).trans (congrArg Host.Outcome.next (State.startChipReset_starts hc 3))
  case apply => exact fun s cause t hc ht => execChipResetApply_applies hc ht
  case pin =>
    refine fun s => ⟨fun hs => congrArg Host.Outcome.next (if_pos hs), fun hs hp hc => congrArg Host.Outcome.next ?_⟩
    exact (if_neg (ne_true_of_eq_false hs)).trans ((if_pos hp).trans (State.startChipReset_starts hc 5))
  case boot => exact fun s hb hp hc => congrArg Host.Outcome.next (if_pos ⟨hb, hp, hc⟩)

end Sys2Proof.Machine
end

section
/-! PROOFS. Power: its sequence (R563 to R568), its upkeep (R557 to R562, R569 to R574), and the boot steps (R531 to R555). -/

namespace Sys2Proof.Machine

/-! ### The power sequence -/

/-- Standby is entered with no partition in use. -/
theorem actStandby_goes_down {s : State} {v : Nat} (hv : v % 2 = 1)
    (hp : ((List.range 32).any fun p => decide (s.partState p ≠ 0)) = false) : actStandby s v =
      accept (((s.setRegN R.PMU_SBY_CTRL (v % 8 / 2 * 2)).moveTo 0 (s.setRegN R.PMU_SBY_CTRL (v % 8 / 2 * 2)).now false).modPower
        fun p => { p with phase := .goingDown, downTo := true }) := by
  unfold actStandby
  exact (if_neg fun h => ne_true_of_eq_false hp h.2).trans (if_neg (by omega))

theorem execRailOrderEnable_good {s : State} :
    (s.power.phase = .polling → execRailOrderEnable true s = .next (s.modPower fun p => { p with phase := .ordering, order := 1 })) ∧
    (s.power.phase = .ordering → s.power.order < 10 →
      execRailOrderEnable true s = .next (s.modPower fun p => { p with order := s.power.order + 1 })) ∧
    (s.power.phase = .ordering → 10 ≤ s.power.order → execRailOrderEnable true s = .next s.railsUp) := by
  unfold execRailOrderEnable
  refine ⟨fun h => if_pos h, fun h ho => ?_, fun h ho => ?_⟩
  · simp only [h, ho, reduceCtorEq, Bool.not_true, Bool.false_eq_true, if_false, if_true]
  · simp only [h, Nat.not_lt.mpr ho, reduceCtorEq, Bool.not_true, Bool.false_eq_true, if_false, if_true]

theorem execPowerDownComplete_rests {s : State} {p : Power} (hg : s.power.phase = .goingDown) (hw : s.power.wakeWait = false)
    (hp : p = { phase := if s.power.downTo then .standby else .shutdown, order := 0, thermN := s.power.thermN,
                pwrCycN := s.power.pwrCycN, refOk := s.power.refOk, sdsRefOk := s.power.sdsRefOk }) :
    execPowerDownComplete s = .next { s.onlyAlwaysOn with power := p } := by
  subst hp
  simp only [execPowerDownComplete, hg, hw, ne_eq, not_true_eq_false, Bool.false_eq_true, if_false]

/-- Settles O37: each phase of the sequence ends in its own case. -/
theorem powerSequenceCompletes : Obligations.PowerSequenceCompletes := by
  refine ⟨?up, ?rails, ?retry, ?restart, ?standby, ?down, ?wake, ?loss⟩
  case up => exact fun s h => congrArg Host.Outcome.next (if_pos h)
  case rails => exact fun s => execRailOrderEnable_good
  case retry => exact fun s h => congrArg Host.Outcome.next (if_pos h)
  case restart => exact fun s h => congrArg Host.Outcome.next (if_pos h)
  case standby => exact fun s m v h hv hp => State.regBus_next h _ (actStandby_goes_down hv hp)
  case down => exact fun s p hg hw hp => execPowerDownComplete_rests hg hw hp
  case wake => exact fun s hp hw => congrArg Host.Outcome.next (if_pos ⟨hp, hw⟩)
  case loss => exact fun s => rfl

/-! ### Boot, the TRNG and attestation -/

theorem execBootConfirmed_confirms {s : State} {t : Nat} (ho : s.safety.outside = some t) (hb : s.boot.phase = .done)
    (hc : s.bit R.CFG_BOOT_STATUS 5 = false) (ht : t + ms (s.regN R.CFG_BOOT_CONFIRM) ≤ s.age) : execBootConfirmed s = .next s.confirm := by
  simp only [execBootConfirmed, ho]
  exact congrArg Host.Outcome.next (if_pos ⟨hb, by rw [hc]; rfl, ht⟩)

/-- A request with room for the report in the region of attestation. -/
theorem actAttest_starts {s : State} {v : Nat} (hv : v % 2 = 1) (hb : s.bit R.CFG_ATT_CTRL 1 = false)
    (hl : s.boot.manifest.attBase ≤ s.regN R.CFG_ATT_ADDR)
    (hu : s.regN R.CFG_ATT_ADDR + 37072 ≤ s.boot.manifest.attBase + s.boot.manifest.attSize) :
    actAttest s v = accept (State.setBit { s with attest := some s.now } R.CFG_ATT_CTRL 1 true) := by
  unfold actAttest
  refine (if_neg (by omega)).trans (if_neg ?_)
  rw [hb]
  simp only [Bool.false_eq_true, false_or]
  omega

theorem execAttestationReportDone_stores {s u : State} (ha : s.attest.isSome = true)
    (hu : u = { s.store (s.regN R.CFG_ATT_ADDR) (attReport s.attRegion) false with attest := none }) : execAttestationReportDone s =
      .next ((u.setRegN R.CFG_ATT_SEQ ((u.regN R.CFG_ATT_SEQ + 1) % 2 ^ 32)).setRegN R.CFG_ATT_CTRL (ST.OK.toNat * 2 ^ 16)) := by
  rw [hu]
  exact if_neg (by rw [← Option.not_isSome, ha]; simp)

/-- Settles O38: each step of the boot finds its own case. -/
theorem bootCompletes : Obligations.BootCompletes := by
  refine ⟨?start, ?ready, ?timeout, ?trngTimeout, ?attempt, ?confirmed, ?fail, ?resume, ?request, ?report⟩
  case start => exact fun s env hb hp => congrArg Host.Outcome.next (if_pos ⟨hb, hp⟩)
  case ready => exact fun s blk hb => congrArg Host.Outcome.next (if_pos hb)
  case timeout => exact fun s hb he ht => congrArg Host.Outcome.next (if_pos ⟨hb, by rw [he]; rfl, ht⟩)
  case trngTimeout => exact fun s hb hr ht => congrArg Host.Outcome.next (if_pos ⟨hb, hr, ht⟩)
  case attempt => exact fun s hb ht => congrArg Host.Outcome.next (if_pos ⟨hb, ht⟩)
  case confirmed => exact fun s t ho hb hc ht => execBootConfirmed_confirms ho hb hc ht
  case fail => exact fun s h => congrArg Host.Outcome.next (if_pos h)
  case resume => exact fun s h => congrArg Host.Outcome.next (if_pos h)
  case request => exact fun s m v h hv hb hl hu => State.regBus_next h _ (actAttest_starts hv hb hl hu)
  case report => exact fun s u ha hu => execAttestationReportDone_stores ha hu

/-! ### Upkeep -/

/-- A sample of the sensors of a device that is up, with at least one that counts. -/
theorem execSensorSample_judges {s u : State} {l : List Int} {k : Nat} {t : Int} (hp : s.power.phase = .up)
    (hu : u = (s.each (List.range 40) fun s k => s.setFld (R.PMU_TSENS k) 0 16 (ofSigned 16 (l.getD k 0))).each (List.range 40)
      (fun s k => s.judgeSensor l k)) (hh : hottest (u.counting l) = some (k, t)) :
    execSensorSample l s = .next (((u.showHottest k t).thermalCrimson t).thermalTrip l) := by
  subst hu
  unfold execSensorSample
  rw [if_neg (not_not_intro hp)]
  simp only [hh]

/-- A voltage step that is due moves the rail by at most 5 mV within its range. -/
theorem execAvsStep_moves {s t : State} {k mv lo hi cur : Nat} (hr : avsRange k = some (lo, hi))
    (hc : cur = s.fld (R.PMU_RAIL_CFG k) 8 16) (he : s.bit (R.PMU_RAIL_CFG k) 24 = true) (hb : s.boot.phase = .done)
    (ht : mget 0 s.power.avsAt k ≤ s.age) (hn : ¬(hi ≤ cur ∧ hi < mv))
    (hu : t = s.modPower (fun p =>
      { p with avsAt := mset 0 p.avsAt k (s.age + 1000000), avsHeld := mset false p.avsHeld k false })) :
    execAvsStep k mv s = .next (t.setFld (R.PMU_RAIL_CFG k) 8 16 (max lo (min hi (max (cur - 5) (min (cur + 5) mv))))) := by
  rw [hu, hc]
  rw [hc] at hn
  unfold execAvsStep
  rw [hr]
  exact (if_neg (by simp [he, hb, Nat.not_lt.mpr ht])).trans (if_neg hn)

/-- A domain that may switch and is off, with no reset at work, is switched on. -/
theorem actDomain_switches_on {s : State} {d v : Nat} (hv : v % 2 = 1) (hg : ¬(d = 14 ∧ s.boot.part.grade = 1)) (hm : s.maySwitch d = true)
    (hr : s.rungs = []) (hb : s.bit (R.PMU_D_CTRL d) 0 = false) :
    actDomain d s v = accept ((s.setBit (R.PMU_D_CTRL d) 0 true).switchDomain d 1) := by
  unfold actDomain
  rw [hv, hr, hb]
  exact (if_neg fun h => hg ⟨h.1, h.2.2⟩).trans ((if_neg (by simp [hm])).trans ((if_neg (by simp)).trans (if_pos (by simp))))

/-- Settles O39: each event finds its own case, and the domain's register accepts. -/
theorem powerUpkeepCompletes : Obligations.PowerUpkeepCompletes := by
  refine ⟨?sample, ?rail, ?avs, ?switch, ?service, ?ref, ?sdsref, ?restored⟩
  case sample => exact fun s u l k t hp hu hh => execSensorSample_judges hp hu hh
  case rail => exact fun s k hp => congrArg Host.Outcome.next (if_pos hp)
  case avs => exact fun s t k mv lo hi cur hr hc he hb ht hn hu => execAvsStep_moves hr hc he hb ht hn hu
  case switch => exact fun s m d v h hv hg hm hr hb => State.regBus_next h _ (actDomain_switches_on hv hg hm hr hb)
  case service => exact fun s d hd => congrArg Host.Outcome.next (if_pos hd)
  case ref => exact fun s hr => congrArg Host.Outcome.next (if_pos hr)
  case sdsref => exact fun s hr => congrArg Host.Outcome.next (if_pos hr)
  case restored => exact fun s hr => congrArg Host.Outcome.next (if_neg (ne_true_of_eq_false hr))

end Sys2Proof.Machine
end

section
/-! PROOFS. Freezes, the readout of snapshots and debug access (R582 to R588, R600 to R605). -/

namespace Sys2Proof.Machine

/-! ### Freezes and snapshots -/

/-- A fabric freeze message that names a time not yet past. -/
theorem execFabricFreezeMessage_freezes {s : State} {node f : Nat} (hb : s.bit R.SNAP_FRZ_CFG 8 = true) (hf : s.now ≤ f) :
    execFabricFreezeMessage node f s = .next (s.freezeAt 4 (node % 64) f) := by
  simp only [execFabricFreezeMessage, hb, Nat.not_lt.mpr hf, Bool.not_true, Bool.false_eq_true, if_false]

theorem execFreezeOutEnd_ends {s : State} {t : Nat} (ho : s.frz.outUntil = some t) (ht : t ≤ s.age) :
    execFreezeOutEnd s = .next (s.modFrz fun z => { z with outUntil := none }) := by
  simp only [execFreezeOutEnd, ho, ht, if_true]

/-- A readout that has run its time, with no dump at work, writes the snapshot. -/
theorem execSnapshotReadoutDone_writes {s u : State} {t : Nat} (hr : s.frz.readout = some t) (hd : s.dump = none)
    (ht : t + ((readoutTimes s.readoutList).2 + 31) / 32 ≤ s.age)
    (hu : u = ((s.writeSnapshot (s.timeOf t)).modFrz fun z => { z with readout := none }).setBit R.SNAP_FRZ_CTRL 4 false) :
    execSnapshotReadoutDone s = .next (if u.bit R.SNAP_FRZ_CFG 10 then u.arm else u) := by
  subst hu
  simp only [execSnapshotReadoutDone, hr, hd]
  exact congrArg Host.Outcome.next (if_pos ⟨rfl, ht⟩)

/-! ### Debug access -/

theorem execDebugChallenge_challenges {s t : State} (hb : s.dbg.blocked = none) (hr : s.trng = false)
    (ht : t = s.modDebug (fun d => { d with nonce := some (nonceFrom s.fresh), counter := (d.counter + 1) % 2 ^ 32 })) :
    execDebugChallenge s = .next (State.setBit { t with fresh := t.fresh + 8 } R.SNAP_DBG_STATE 4 true) := by
  rw [ht]
  exact congrArg Host.Outcome.next (if_neg (by simp [hb, hr]))

theorem execDebugAnswer_grants {s : State} (hn : s.dbg.nonce.isSome = true) (rights : BitVec 4) : execDebugAnswer rights true s =
    .next (((s.modDebug fun d => { d with nonce := none }).setBit R.SNAP_DBG_STATE 4 false).grant rights) :=
  congrArg Host.Outcome.next (if_pos (by simp [hn]))

theorem execUnlockRetryEnd_ends {s : State} {t : Nat} (hb : s.dbg.blocked = some t) (ht : t + 1000000000 ≤ s.age) :
    execUnlockRetryEnd s = .next (s.modDebug fun d => { d with blocked := none }) := by
  simp only [execUnlockRetryEnd, hb, ht, if_true]

/-- An access that the bus answers is no error. -/
theorem State.answer_no_error (s : State) (m : Nat) (d : List Byte) (p : Bool) : (s.answer m d p).reply.error = false := rfl

/-- A console frame writes mailbox 15's request and submits it, both as the console's master. -/
theorem execConsoleFrame_submits {s t : State} {seq : Word} {l : List Byte} (hb : s.bit R.SNAP_DBG_STATE 2 = true)
    (hp : s.passes 0x3FF .write (R.SUP_MB_REQ 15) 256 = true) (hw : s.writeRequest 15 0 (l.take 256) = accept t)
    (hq : State.passes (t.answer 0x3FF [] false) 0x3FF .write (R.SUP_MB_REQ_SEQ 15) 4 = true)
    (hf : (t.answer 0x3FF [] false).bit (R.SUP_MB_STATE 15) 0 = false)
    (hs : seq.toNat = ((t.answer 0x3FF [] false).regN (R.SUP_MB_RSP_SEQ 15) + 1) % 2 ^ 32) :
    execConsoleFrame seq l s = .next (((((t.answer 0x3FF [] false).setRegN (R.SUP_MB_REQ_SEQ 15) seq.toNat).setFld
      (R.SUP_MB_STATE 15) 0 1 1).modMbox 15 fun _ => { landed := (t.answer 0x3FF [] false).age }).answer 0x3FF [] false) := by
  have two_writes : execConsoleFrame seq l s = ok (if !(s.bit R.SNAP_DBG_STATE 2) then s
      else if (s.regBus 0x3FF (R.SUP_MB_REQ 15) 256 fun s => s.writeRequest 15 0 (l.take 256)).reply.error
        then s.regBus 0x3FF (R.SUP_MB_REQ 15) 256 fun s => s.writeRequest 15 0 (l.take 256)
        else (s.regBus 0x3FF (R.SUP_MB_REQ 15) 256 fun s => s.writeRequest 15 0 (l.take 256)).regBus 0x3FF (R.SUP_MB_REQ_SEQ 15) 4
          fun s => s.submit 15 seq.toNat) := rfl
  rw [two_writes, hb, State.regBus_accepts hp _ hw, State.answer_no_error, if_neg (by simp), if_neg Bool.false_ne_true]
  exact State.regBus_next hq _ (State.submit_lands hf hs)

/-- Settles O40: each freeze and each step of the debug access finds its own case. -/
theorem freezeAndDebugComplete : Obligations.FreezeAndDebugComplete := by
  refine ⟨?pin, ?fabric, ?tap, ?edge, ?outEnd, ?readout, ?arm, ?challenge, ?answer, ?retry, ?lock, ?console⟩
  case pin => exact fun s hb => congrArg Host.Outcome.next (State.freezeReq_enabled hb 0 _)
  case fabric => exact fun s node f hb hf => execFabricFreezeMessage_freezes hb hf
  case tap => exact fun s f hb => congrArg Host.Outcome.next (if_pos hb)
  case edge =>
    intro s t u hb ht hs hu
    subst hs hu
    exact congrArg Host.Outcome.next (if_pos ⟨hb, ht⟩)
  case outEnd => exact fun s t ho ht => execFreezeOutEnd_ends ho ht
  case readout => exact fun s u t hr hd ht hu => execSnapshotReadoutDone_writes hr hd ht hu
  case arm => exact fun s m v h hv hb => State.regBus_next h _ (congrArg accept (if_pos ⟨hv, by rw [hb]; rfl⟩))
  case challenge => exact fun s t hb hr ht => execDebugChallenge_challenges hb hr ht
  case answer => exact fun s rights hn => execDebugAnswer_grants hn rights
  case retry => exact fun s t hb ht => execUnlockRetryEnd_ends hb ht
  case lock => exact fun s m v h hn => State.regBus_next h _ (congrArg accept (if_neg hn))
  case console => exact fun s t seq l hb hp hw hq hf hs => execConsoleFrame_submits hb hp hw hq hf hs

end Sys2Proof.Machine
end
